-- ==== Sys2Proof/Word.lean ====
section
/-! DEFINITION. Word.lean: the word types and the one sparse map that every table of the state uses. -/

namespace Sys2Proof

abbrev Byte := BitVec 8
abbrev Word := BitVec 32
abbrev DWord := BitVec 64
/-- One bit per lane of a crew (R138). -/
abbrev Lanes := BitVec 64

/-- A sparse table: key and value pairs, keys rising; a key that is not listed holds the table's default. -/
abbrev SMap (α : Type) := List (Nat × α)

namespace SMap

/-- The value at key `k`, `dflt` where none is listed. -/
def get {α : Type} (dflt : α) : SMap α → Nat → α
  | [], _ => dflt
  | (j, v) :: rest, k => if j = k then v else get dflt rest k

/-- The table without key `k`. -/
def erase {α : Type} : SMap α → Nat → SMap α
  | [], _ => []
  | (j, v) :: rest, k => if j = k then erase rest k else (j, v) :: erase rest k

/-- Puts a pair before the first greater key. -/
def insert {α : Type} : SMap α → Nat → α → SMap α
  | [], k, v => [(k, v)]
  | (j, w) :: rest, k, v => if k < j then (k, v) :: (j, w) :: rest else (j, w) :: insert rest k v

/-- The table with `v` at key `k`; the default itself is never listed, so equal tables are equal lists. -/
def set {α : Type} [DecidableEq α] (dflt : α) (m : SMap α) (k : Nat) (v : α) : SMap α :=
  if v = dflt then erase m k else insert (erase m k) k v

/-- The listed value, if any. -/
def find? {α : Type} : SMap α → Nat → Option α
  | [], _ => none
  | (j, v) :: rest, k => if j = k then some v else find? rest k

/-- The table with `v` listed at key `k`, whatever `v` is. -/
def put {α : Type} (m : SMap α) (k : Nat) (v : α) : SMap α := insert (erase m k) k v

/-- Every key of the table lies above `lo`, keys rise, and no entry equals the default. -/
def wfFrom {α : Type} [DecidableEq α] (dflt : α) : Nat → SMap α → Bool
  | _, [] => true
  | lo, (k, v) :: rest => decide (lo ≤ k) && decide (v ≠ dflt) && wfFrom dflt (k + 1) rest

/-- The canonical form: keys strictly rising and no entry equal to the default. -/
def wf {α : Type} [DecidableEq α] (dflt : α) (m : SMap α) : Bool := wfFrom dflt 0 m

end SMap

end Sys2Proof
end

