-- ==== Sys2Proof/Config.lean ====
section
/-! DEFINITION. Config.lean: what the spec leaves open. Every constant here is opaque: nothing in Lean can evaluate it,
so a statement that mentions one holds whatever its value is. -/

namespace Sys2Proof.Config

/-- The nanoseconds by which step number `n` advances module time, less one, when PTP time was so many ns ahead of it at the last time input (R5:
monotonic, and disciplined by slewing only; its rate between steps is otherwise free). Log entry 2. -/
opaque freeTick : Nat → Int → Nat

/-- A value the spec leaves open, fresh for each number: meter readings, signatures, identifiers. Log entry 3. -/
opaque freeValue : Nat → BitVec 64

/-- The value special function `f` (FN bits 9:4: 1 FRSQ, 3 FEXP2, 4 FLOG2, 5 FSIN, 6 FCOS, 7 FTANH) returns for an FP32
input: a fixed function of its input bits (R250). Log entry 4. -/
opaque freeSfu : Nat → BitVec 32 → BitVec 32

/-- The 64-bit digest of a code image (R340); the spec does not give the function. Log entry 5. -/
opaque digest : List (BitVec 32) → BitVec 64

/-- Whether granule `g` of the copy numbered `n`, where source and destination overlap, takes a value the copy already
wrote (R101 does not promise which). Log entry 6. -/
opaque freeOverlap : Nat → Nat → Bool

/-- What the assay takes for the copy, gather or chain commanded at `pc`, whose image or records it cannot read (R310, R435):
the bytes moved by the copy or by each record, the rows or further records, and the source and destination sides, 0 local HBM, 1 host or peer,
2 scratchpad, 3 `.x`. Log entry 13. -/
opaque freeBytes : Nat → Nat × Nat × Nat × Nat

/-- Which of the free quadrants the front end prices (R343 leaves the choice open): the position of choice number `i` in the list of those
left. Log entry 14. -/
opaque freePick : Nat → Nat → Nat

/-- Reading number `i` of the meters and sensors at step `n` (R392, R396). Log entry 16. -/
opaque freeMeter : Nat → Nat → Nat

/-- The 512-bit digest of a configuration, whose encoding the spec does not give (R424). Log entry 17. -/
opaque freeHash : List Nat → BitVec 512

/-- The route relocations of load number `n` (R136): the byte offset of each instruction in the image, the core on the loading die that sends, and the
module, the die and the core on it that the route leads to. Log entry 15. -/
opaque freeRelocs : Nat → List (Nat × Nat × Nat × Nat × Nat)

end Sys2Proof.Config
end

