-- ==== Sys2Proof/Machine/Bits.lean ====
section
/-! DEFINITION. Bits.lean: bit fields, extensions, lane sets and byte order, the helpers every meaning uses. -/

namespace Sys2Proof.Machine

/-- Bits `hi:lo` of a number. -/
def bits (x hi lo : Nat) : Nat := (x / 2 ^ lo) % 2 ^ (hi + 1 - lo)

/-- Bit `i` of a number. -/
def bitOf (x i : Nat) : Bool := (x / 2 ^ i) % 2 = 1

/-- A number with its bits `hi:lo` replaced. -/
def setBits (x hi lo v : Nat) : Nat := x - bits x hi lo * 2 ^ lo + v % 2 ^ (hi + 1 - lo) * 2 ^ lo

/-- The number of a truth value. -/
def b2n (b : Bool) : Nat := if b then 1 else 0

/-- The signed value of the low `n` bits of `x`. -/
def sval (n x : Nat) : Int :=
  let y := x % 2 ^ n
  if 2 * y < 2 ^ n then (y : Int) else (y : Int) - (2 : Int) ^ n

/-- An integer modulo 2^n. -/
def wrapInt (n : Nat) (x : Int) : Nat := (x % (2 : Int) ^ n).toNat

/-- A displacement (signed 32-bit word 2) added to a base of `n` bits, modulo 2^n. -/
def addDisp (n base : Nat) (w2 : Word) : Nat := wrapInt n ((base : Int) + w2.toInt)

/-- Number of bits of `x`: 0 for 0. -/
def bitLen (x : Nat) : Nat := if x = 0 then 0 else Nat.log2 x + 1

/-- Ceiling of a quotient. -/
def cdiv (a b : Nat) : Nat := (a + b - 1) / b

/-- Little-endian value of bytes (R173). -/
def leNat : List Byte → Nat
  | [] => 0
  | b :: rest => b.toNat + 256 * leNat rest

/-- The `n` bytes of a number, lowest first (R173). -/
def leBytes : Nat → Nat → List Byte
  | 0, _ => []
  | n + 1, x => BitVec.ofNat 8 x :: leBytes n (x / 256)

/-- The 64 lane numbers, rising. -/
def allLanes : List Nat := List.range 64

/-- Lane `l` is in the set. -/
def hasLane (m : Lanes) (l : Nat) : Bool := m.getLsbD l

/-- The lanes of a set, rising. -/
def lanesOf (m : Lanes) : List Nat := allLanes.filter (hasLane m)

/-- The lowest lane of a set. -/
def lowLane (m : Lanes) : Option Nat := (lanesOf m).head?

/-- The set of one lane. -/
def oneLane (l : Nat) : Lanes := 1#64 <<< l

/-- The set of the lanes that meet `f`. -/
def laneSet (f : Nat → Bool) : Lanes := allLanes.foldl (fun m l => if f l then m ||| oneLane l else m) 0#64

/-- How many lanes a set holds. -/
def laneCount (m : Lanes) : Nat := (lanesOf m).length

/-- The 32-bit words of a number, lowest first. -/
def wordsOf (n x : Nat) : List Word := (List.range n).map fun i => BitVec.ofNat 32 (x / 2 ^ (32 * i))

end Sys2Proof.Machine
end

