-- ==== Sys2Proof/Syntax.lean ====
section
/-! DEFINITION. Syntax.lean: the rows of spec/opcode_table.json, one constructor each: 176 instructions (10 R191-R207 give
their words) and 124 events of the module (spec/95_what_each_step_holds.md: an event is a step, whole and indivisible). -/

namespace Sys2Proof

/-- The fields of an X-form other than LEN and OPC: word 0 (R192), word 1 (R193) and word 2 (R194). `var` is FN bits 3:0;
FN bits 9:4 choose the constructor (R204). -/
structure XF where
  d    : BitVec 8
  a    : BitVec 8
  b    : BitVec 8
  var  : BitVec 4
  pix  : BitVec 3
  pneg : Bool
  fea  : Bool
  feb  : Bool
  fec  : Bool
  c    : BitVec 8
  sd   : Bool
  sa   : Bool
  sb   : Bool
  sc   : Bool
  qp   : Bool
  own  : BitVec 2
  w2   : BitVec 32
  deriving DecidableEq, Repr

/-- One row of the opcode table: an instruction of a crew, or an event: what happens in the module besides an issue; its arguments
name the place and carry what comes from outside. The rows that only an outside party starts stand last. -/
inductive Instr where
  /-- R215. B-form no-operation that changes only the PC. -/
  | nop
  /-- R215. X-form NOP, which may carry a predicate and has no further effect. -/
  | nopX (x : XF)
  /-- R212. B-form integer add, D := A + B. -/
  | iadd (d a b : BitVec 8)
  /-- R212. X-form integer add with predicate, width, saturation or a word-2 immediate. -/
  | iaddX (x : XF)
  /-- R212. B-form integer subtract, D := A - B. -/
  | isub (d a b : BitVec 8)
  /-- R212. X-form integer subtract with optional width, saturation and immediate. -/
  | isubX (x : XF)
  /-- R212. B-form integer multiply, keeping the low n bits. -/
  | imul (d a b : BitVec 8)
  /-- R212. X-form integer multiply with optional width, saturation and immediate. -/
  | imulX (x : XF)
  /-- R212. B-form bitwise AND. -/
  | and (d a b : BitVec 8)
  /-- R212. X-form bitwise AND with optional width and immediate. -/
  | andX (x : XF)
  /-- R212. B-form bitwise OR. -/
  | or (d a b : BitVec 8)
  /-- R212. X-form bitwise OR with optional width and immediate. -/
  | orX (x : XF)
  /-- R212. B-form bitwise exclusive OR. -/
  | xor (d a b : BitVec 8)
  /-- R212. X-form bitwise exclusive OR with optional width and immediate. -/
  | xorX (x : XF)
  /-- R212. B-form shift left by a register count, zeros entering. -/
  | shl (d a b : BitVec 8)
  /-- R212. X-form shift left, including immediate counts. -/
  | shlX (x : XF)
  /-- R212. B-form logical shift right by a register count. -/
  | shr (d a b : BitVec 8)
  /-- R212. X-form logical shift right, including immediate counts. -/
  | shrX (x : XF)
  /-- R212. B-form arithmetic shift right by a register count. -/
  | sra (d a b : BitVec 8)
  /-- R212. X-form arithmetic shift right, including immediate counts. -/
  | sraX (x : XF)
  /-- R212. B-form add of a signed 8-bit immediate. -/
  | iaddImm (d a b : BitVec 8)
  /-- R212. X-form add of a signed 32-bit word-2 immediate, optionally saturating or 64-bit. -/
  | iaddImmX (x : XF)
  /-- R213. B-form register move D := A. -/
  | mov (d a : BitVec 8)
  /-- R213. X-form move between v and s registers or of pairs. -/
  | movX (x : XF)
  /-- R214. B-form move of a sign-extended 16-bit immediate into a v register. -/
  | movi (d : BitVec 8) (imm : BitVec 16)
  /-- R214. X-form move of a 32-bit word-2 constant into a v or s register. -/
  | moviX (x : XF)
  /-- R214. B-form with literal that moves a 64-bit constant into a w register. -/
  | moviB64 (d : BitVec 8) (lit : BitVec 64)
  /-- R214. X-form with literal that moves a 64-bit constant into a w register or s pair under a predicate. -/
  | moviB64X (x : XF) (lit : BitVec 64)
  /-- R240. B-form floating-point add. -/
  | fadd (d a b : BitVec 8)
  /-- R240. X-form floating-point add with type, predicate or immediate. -/
  | faddX (x : XF)
  /-- R240. B-form floating-point multiply. -/
  | fmul (d a b : BitVec 8)
  /-- R240. X-form floating-point multiply with type, predicate or immediate. -/
  | fmulX (x : XF)
  /-- R240. B-form fused multiply-add accumulating into its destination. -/
  | ffma (d a b : BitVec 8)
  /-- R240. X-form fused multiply-add with the addend in C. -/
  | ffmaX (x : XF)
  /-- R240. B-form floating-point subtract. -/
  | fsub (d a b : BitVec 8)
  /-- R240. X-form floating-point subtract with type, predicate or immediate. -/
  | fsubX (x : XF)
  /-- R258. Short-form 32-bit scratchpad load with an unsigned 8-bit displacement. -/
  | ldCB32 (d a b : BitVec 8)
  /-- R258. X-form of the short scratchpad load with a word-2 displacement. -/
  | ldCB32X (x : XF)
  /-- R258. Short-form 32-bit scratchpad store with an unsigned 8-bit displacement. -/
  | stCB32 (d a b : BitVec 8)
  /-- R258. X-form of the short scratchpad store with a word-2 displacement. -/
  | stCB32X (x : XF)
  /-- R258. Short-form 32-bit global load from a w base with an unsigned 8-bit displacement. -/
  | ldGB32 (d a b : BitVec 8)
  /-- R258. X-form of the short global load with a word-2 displacement. -/
  | ldGB32X (x : XF)
  /-- R258. Short-form 32-bit global store from a w base with an unsigned 8-bit displacement. -/
  | stGB32 (d a b : BitVec 8)
  /-- R258. X-form of the short global store with a word-2 displacement. -/
  | stGB32X (x : XF)
  /-- R223. B-form jump by a signed 24-bit word offset. -/
  | bra (off : BitVec 24)
  /-- R223. X-form predicated jump by a signed byte offset in word 2. -/
  | braX (x : XF)
  /-- R224. B-form conditional branch of the lanes whose predicate, possibly negated, is true. -/
  | brc (k : BitVec 3) (neg : Bool) (off : BitVec 16)
  /-- R224. X-form conditional branch with a word-2 byte offset and an X-form predicate. -/
  | brcX (x : XF)
  /-- R227. B-form loop head pushing a loop-stack entry with maximum trip count m. -/
  | loop (m off : BitVec 12)
  /-- R227. X-form loop head with a 32-bit trip count and optional predicate. -/
  | loopX (x : XF)
  /-- R228. Loop end that takes the back edge or pops the entry, raising BOUND past the maximum trip. -/
  | endl (k : BitVec 3) (neg cnt : Bool)
  /-- R230. Waiting point that fuses the threads split at its named fork. -/
  | join (off : BitVec 24)
  /-- R231. Opens an idempotent region, updating TREC and waiting for the crew's threads. -/
  | region
  /-- R286. B-form signature of a convergence register by every active thread. -/
  | sign (cv : BitVec 4)
  /-- R286. X-form signature by the lanes its predicate activates. -/
  | signX (x : XF)
  /-- R232. Block-wide wait that advances a persistent block's schedule cursor to its next tile. -/
  | next (d : BitVec 8)
  /-- R233. B-form end of every active lane. -/
  | exit
  /-- R233. X-form predicated end of the active lanes. -/
  | exitX (x : XF)
  /-- R236. Repeat prefix issuing its target up to 64 times with stepped register fields. -/
  | rep (count : BitVec 6) (sd sa sb sc : BitVec 2)
  /-- R201. X-form of REP with p7 and all other fields of words 1 and 2 zero. -/
  | repX (count : BitVec 6) (sd sa sb sc : BitVec 2)
  /-- R72. B-form fence stalling the thread until the conditions of its scope hold. -/
  | fence (scope : BitVec 2)
  /-- R263. X-form fence with word 2 zero. -/
  | fenceX (x : XF)
  /-- R216. High half of the exact integer product. -/
  | imulh (x : XF)
  /-- R216. Integer multiply-add, wrapping or saturating. -/
  | imad (x : XF)
  /-- R217. Long-latency integer quotient with fixed results for division by zero and overflow. -/
  | idiv (x : XF)
  /-- R217. Long-latency integer remainder with the dividend's sign. -/
  | irem (x : XF)
  /-- R216. Smaller of two integers, signed or unsigned. -/
  | imin (x : XF)
  /-- R216. Larger of two integers, signed or unsigned. -/
  | imax (x : XF)
  /-- R216. Integer absolute value, wrapping or saturating. -/
  | iabs (x : XF)
  /-- R216. Integer negation, wrapping or saturating. -/
  | ineg (x : XF)
  /-- R216. A AND NOT B. -/
  | andn (x : XF)
  /-- R216. Bitwise NOT. -/
  | not (x : XF)
  /-- R216. Rotate left by the count modulo n. -/
  | rotl (x : XF)
  /-- R216. Count of leading zeros. -/
  | clz (x : XF)
  /-- R216. Count of set bits. -/
  | popc (x : XF)
  /-- R216. Bit reversal. -/
  | brev (x : XF)
  /-- R218. Bit-field extract, zero- or sign-extended. -/
  | bfx (x : XF)
  /-- R218. Bit-field insert. -/
  | bfi (x : XF)
  /-- R216. Selects A or B per lane by a predicate. -/
  | sel (x : XF)
  /-- R219. Integer compare writing a predicate. -/
  | icmp (x : XF)
  /-- R220. 64-bit address computation A + (ext(B) << sh). -/
  | lea (x : XF)
  /-- R220. Four-way 8-bit dot product accumulated into C. -/
  | idot4 (x : XF)
  /-- R221. Predicate AND with optional source negation. -/
  | pand (x : XF)
  /-- R221. Predicate OR with optional source negation. -/
  | por (x : XF)
  /-- R221. Predicate exclusive OR with optional source negation. -/
  | pxor (x : XF)
  /-- R221. Predicate NOT. -/
  | pnot (x : XF)
  /-- R221. Predicate move, from a register's nonzero test or into a v register. -/
  | pmov (x : XF)
  /-- R242. Floating-point minimum per element. -/
  | fmin (x : XF)
  /-- R242. Floating-point maximum per element. -/
  | fmax (x : XF)
  /-- R243. Clears each element's sign bit. -/
  | fabs (x : XF)
  /-- R243. Inverts each element's sign bit. -/
  | fneg (x : XF)
  /-- R244. Floating-point compare writing a predicate. -/
  | fcmp (x : XF)
  /-- R245. Writes a one-hot class mask of the operand. -/
  | fclass (x : XF)
  /-- R246. Rounds each element to an integral value. -/
  | frnd (x : XF)
  /-- R247. Converts between floating-point and integer formats in scalar or packed shapes. -/
  | fcvt (x : XF)
  /-- R250. Long-latency correctly rounded reciprocal. -/
  | frcp (x : XF)
  /-- R250. Long-latency reciprocal square root. -/
  | frsq (x : XF)
  /-- R250. Long-latency correctly rounded square root. -/
  | fsqrt (x : XF)
  /-- R250. Long-latency base-2 exponential. -/
  | fexp2 (x : XF)
  /-- R250. Long-latency base-2 logarithm. -/
  | flog2 (x : XF)
  /-- R250. Long-latency sine. -/
  | fsin (x : XF)
  /-- R250. Long-latency cosine. -/
  | fcos (x : XF)
  /-- R250. Long-latency hyperbolic tangent. -/
  | ftanh (x : XF)
  /-- R251. Quantises a value into one byte of D, scaled INT8 or companded C8. -/
  | qnt (x : XF)
  /-- R252. Expands one narrow element into D. -/
  | dqnt (x : XF)
  /-- R254. Loads a 32-byte table into a codebook slot. -/
  | cbld (x : XF)
  /-- R254. Loads and validates 17 breakpoints into a curve slot. -/
  | ctld (x : XF)
  /-- R255. Packs 16-, 8- or 4-bit fields without interpreting them. -/
  | pack (x : XF)
  /-- R255. Extracts one packed element, zero- or sign-extended. -/
  | unpk (x : XF)
  /-- R225. Indirect jump through a table of following B-form BRA entries. -/
  | jtab (x : XF)
  /-- R226. Pushes a return entry and jumps, or raises BOUND at the declared depth. -/
  | call (x : XF)
  /-- R226. Pops the return stack, trimming the loop stack. -/
  | ret (x : XF)
  /-- R234. Ends the crew's threads named by a 64-bit mask. -/
  | tkill (x : XF)
  /-- R235. Makes the issuing group not ready for n issue opportunities. -/
  | yield (x : XF)
  /-- R276. Opens or nests a speculative region, checkpointing registers. -/
  | tryRegion (x : XF)
  /-- R278. Closes a speculative region, sending lock requests for the outermost commit. -/
  | commit (x : XF)
  /-- R279. Aborts the region with EXPLICIT and a user byte. -/
  | abort (x : XF)
  /-- R327. Raises a precise SYSCALL trap with a code. -/
  | trap (x : XF)
  /-- R327. Returns from a handler to TPC and clears TMASK.M. -/
  | tret (x : XF)
  /-- R327. Raises a precise BREAK trap with a code. -/
  | bkpt (x : XF)
  /-- R259. Load of any space and size, with acquire and lease-hint qualifiers. -/
  | ld (x : XF)
  /-- R260. Store of any space and size, including release and nibble-masked stores. -/
  | st (x : XF)
  /-- R264. Reads a granule with its full/empty bit, optionally waiting and clearing. -/
  | ldfe (x : XF)
  /-- R264. Writes a granule and sets it FULL as one access. -/
  | stfe (x : XF)
  /-- R265. Sets FULL on n consecutive granules. -/
  | feset (x : XF)
  /-- R265. Sets EMPTY on n consecutive granules. -/
  | feclr (x : XF)
  /-- R266. Warms a global line into the L1 or the home L2. -/
  | pref (x : XF)
  /-- R268. Integer atomic read-modify-write performed at home. -/
  | atom (x : XF)
  /-- R268. Compare-and-swap performed at home. -/
  | cas (x : XF)
  /-- R268. Floating-point atomic add, minimum or maximum. -/
  | fatom (x : XF)
  /-- R262. Stalls until every earlier global store is accepted or found faulty. -/
  | sdrain (x : XF)
  /-- R269. Waits until a word meets a condition or a timeout expires. -/
  | waitad (x : XF)
  /-- R270. Waits until at most n operations of a counter class remain. -/
  | waitc (x : XF)
  /-- R271. Block barrier arrival and wait. -/
  | bar (x : XF)
  /-- R271. Arms a block barrier with a crew count. -/
  | barinit (x : XF)
  /-- R271. Kills a block barrier, releasing its waiters with KILLED. -/
  | barkill (x : XF)
  /-- R118. Kills an arrival barrier or slot barrier, waking waiters with error. -/
  | barkillAb (x : XF)
  /-- R115. Arms an arrival barrier, raising its generation. -/
  | abinit (x : XF)
  /-- R117. Waits for a set of chunks of an arrival barrier. -/
  | abwait (x : XF)
  /-- R272. Tests an arrival barrier condition once. -/
  | abtest (x : XF)
  /-- R273. Reads a register of another lane of the crew. -/
  | shf (x : XF)
  /-- R274. Any, all or uniform vote over the active lanes. -/
  | vote (x : XF)
  /-- R274. Gathers a predicate of the active lanes into a 64-bit mask. -/
  | ballot (x : XF)
  /-- R274. Reduces a value over the active lanes. -/
  | redux (x : XF)
  /-- R310. Queues one transfer on a copy-engine channel. -/
  | copy (x : XF)
  /-- R311. Starts a channel's chain cursor on a record chain, or answers BUSY. -/
  | chain (x : XF)
  /-- R312. Sends an indexed row gather to a gather engine. -/
  | gather (x : XF)
  /-- R313. Binds a queue port to a load or store stream. -/
  | qbind (x : XF)
  /-- R314. Unbinds a queue port after discarding or sending its stream. -/
  | qunb (x : XF)
  /-- R314. Refetches a load stream or drains a store stream, keeping the binding. -/
  | qflush (x : XF)
  /-- R316. Sends a reservation of a remote pan slot. -/
  | panrsv (x : XF) (lit : BitVec 64)
  /-- R317. Sends whole chunks into a reserved remote slot. -/
  | panput (x : XF) (lit : BitVec 64)
  /-- R318. Releases a slot of the core's own pan. -/
  | panrel (x : XF)
  /-- R318. Returns the slot record of the core's own pan. -/
  | panqry (x : XF)
  /-- R291. Loads the matrix unit's stationary B buffer, dense or sparse. -/
  | mldb (x : XF)
  /-- R294. Accumulates A times B into an accumulator tile, plain, unfolded or triangular. -/
  | mma (x : XF)
  /-- R300. Submits an 8- or 16-row contribution to the windrow. -/
  | mmaw (x : XF)
  /-- R297. Clears an accumulator tile. -/
  | mzero (x : XF)
  /-- R297. Writes an accumulator tile to memory. -/
  | msta (x : XF)
  /-- R297. Fills an accumulator tile from memory. -/
  | mlda (x : XF)
  /-- R298. Applies row and column scales from one tile into another. -/
  | scac (x : XF)
  /-- R284. Arms a convergence register with a signature count. -/
  | cvset (x : XF)
  /-- R299. Reads a convergence register's or the unit's state. -/
  | mstat (x : XF)
  /-- R322. Reads a CSR. -/
  | csrr (x : XF)
  /-- R322. Writes a CSR. -/
  | csrw (x : XF)
  /-- R322. Sets bits of a CSR. -/
  | csrs (x : XF)
  /-- R322. Clears bits of a CSR. -/
  | csrc (x : XF)
  /-- R323. Writes FMODE under a mask. -/
  | mode (x : XF)
  /-- R324. Reads the local module time counter. -/
  | time (x : XF)
  /-- R324. Reads the launch's energy meter or its energy quota. -/
  | enrg (x : XF)
  /-- R328. Queue-profile submission of a quote request to the front end. -/
  | quote (x : XF)
  /-- R328. Queue-profile acceptance of a quotation. -/
  | accept (x : XF)
  /-- R328. Queue-profile release of a quotation. -/
  | decline (x : XF)
  /-- R325. Makes the group not ready for a duration or until a module time. -/
  | sleep (x : XF)
  /-- R326. Starts or stops ballast current on the quadrant's matrix unit. -/
  | blst (x : XF)
  /-- R329. Queue-profile end of the packet that halts its queue with a code. -/
  | halt (x : XF)
  /-- R25. A leader's table read returns, completing, splitting or failing its followers. -/
  | walkEntryRead (die walk : Nat)
  /-- R28. A deferred invalidation completes when the page's pin count reaches zero. -/
  | invalidationComplete (port fn : Nat)
  /-- R64. A load miss reaches its home L2, which returns data with a lease. -/
  | fillRequest (crew op k : Nat)
  /-- R66. A global store is accepted at its home L2 and assigned its WCT. -/
  | storeAtHome (crew op k : Nat)
  /-- R66. A pending store becomes performed when module time reaches its WCT. -/
  | pendingStorePerformed (sector : Nat)
  /-- R79. An atomic is performed as one access at its home and returns its prior value and WCT. -/
  | atomicAtHome (crew op k : Nat)
  /-- R70. A store or atomic acknowledgement returns its WCT and updates WCTLAST. -/
  | storeAck (crew op k : Nat)
  /-- R69. A host port reports a store to uncached or peer memory performed. -/
  | portStoreReport (crew op k : Nat)
  /-- R78. A global store retires from ST once module time passes its WCT. -/
  | stRetire (crew op : Nat)
  /-- R145. A long load's value returns and fills its destination register. -/
  | loadReturn (crew op : Nat)
  /-- R145. An SFU, division or other long-latency result is written and marked FULL. -/
  | longLatencyResult (crew op : Nat)
  /-- R72. A stalled fence's conditions come to hold, including module time passing WCTLAST. -/
  | fenceRelease (crew lane : Nat)
  /-- R42. A waiting LDFE lane's access is presented to the bank again every 8 clk. -/
  | ldfeRepresentation (crew op k : Nat)
  /-- R93. A WAITAD read returns and the word is read again until the condition holds. -/
  | waitadReread (crew lane : Nat)
  /-- R267. A blocking instruction's timeout expires and it completes with TIMEOUT. -/
  | timeoutExpiry (crew lane : Nat)
  /-- R58. The last line of the removed ways is invalidated, freeing the ways and setting DONE. -/
  | l2WayReductionDone (die part : Nat)
  /-- R89. A home locks a write-set sector and answers a candidate WCT or BUSY. -/
  | commitLockRequest (crew lane k : Nat)
  /-- R89. The committing core takes T from the answers and decides success or LEASE abort. -/
  | commitDecide (crew lane : Nat)
  /-- R89. A home receives the commit decision, appending the buffered stores at T or releasing the lock. -/
  | commitDecisionAtHome (crew lane k : Nat)
  /-- R279. A speculative region aborts once its issued loads have returned, restoring the checkpoint. -/
  | regionAbort (crew lane : Nat)
  /-- R85. At launch end each core reports its per-region WCTs to its die's front end. -/
  | regionWctReport (launch core : Nat)
  /-- R85. A die's front end forwards its per-region maxima to the front end of die 0. -/
  | regionWctForward (launch die : Nat)
  /-- R86. A dependence edge's completion signal is raised once its regions are performed. -/
  | completionSignal (producer consumer : Nat)
  /-- R358. A launch's completion entry is written and CQTAIL advanced once every W region is performed. -/
  | hostCompletionPost (launch : Nat)
  /-- R100. A channel starts a transfer of up to 512 bytes when room exists among the 128 in flight. -/
  | transferStart (core ch : Nat)
  /-- R100. A transfer's granule writes are acknowledged. -/
  | transferComplete (core transfer : Nat)
  /-- R82. A chunk is marked complete once its writes are acknowledged and module time passes their latest WCT. -/
  | chunkComplete (core cmd chunk : Nat)
  /-- R120. A contribution for a HOMED barrier entry is performed on the home image at its L2. -/
  | homedContribution (core entry : Nat)
  /-- R104. A channel reads a chain record's OWN bit and fields, starting or failing or parking on it. -/
  | chainRecordRead (core ch : Nat)
  /-- R109. A gather engine starts a queued command and reads its index list. -/
  | gatherStart (die engine : Nat)
  /-- R109. A fetched gather row has been written to its destination. -/
  | gatherRowComplete (die engine row : Nat)
  /-- R111. A load stream's prefetch read returns an element. -/
  | streamPrefetchRead (crew port lane : Nat)
  /-- R111. A store stream sends a push's engine write. -/
  | streamPushWrite (crew port lane : Nat)
  /-- R261. A global store's footprint check fails, retiring with error and entering a store-fault record. -/
  | storeCheckFail (crew op : Nat)
  /-- R125. A reserved slot's chunks finish zeroing and the reservation reply leaves. -/
  | slotZeroingDone (core slot : Nat)
  /-- R125. A reserved or filling slot reaches EXPIRY and fails. -/
  | slotExpiry (core slot : Nat)
  /-- R133. A reservation or put gets no reply within the response limit and retires with PAN_TIMEOUT. -/
  | panResponseTimeout (core idx : Nat)
  /-- R147. A block starts once its crews have slots and its tile is admitted. -/
  | blockStart (core slot : Nat)
  /-- R286. A SIGN's signatures count once the signer's earlier on-chip stores are performed. -/
  | signatureCount (crew idx : Nat)
  /-- R304. A free matrix unit starts the highest-priority ready queued operation or windrow fire. -/
  | matrixOpStart (core quad : Nat)
  /-- R288. A matrix operation's latency ends, writing its results and retiring from MX. -/
  | matrixOpComplete (core quad : Nat)
  /-- R303. An OPEN windrow entry fires when the clk reaches its deadline. -/
  | windrowDeadlineFire (core entry : Nat)
  /-- R305. A fired entry's B arrives in the windrow buffer and the fire becomes ready. -/
  | windrowBArrived (core entry : Nat)
  /-- R305. A fire's rows are written to each contributor's tile or its contributors retire with error. -/
  | windrowFireComplete (core entry : Nat)
  /-- R398. Every 4 clk the limiter grants matrix start requests and sets ramp ballast. -/
  | slewLimiterStep (cluster : Nat)
  /-- R395. A rising logic rail reaches its point and the clock rises. -/
  | railReachedPoint (cluster : Nat)
  /-- R411. A unit's counting window ends and its counters restart. -/
  | eventWindowEnd (unit : Nat)
  /-- R333. The front end checks a quote request, runs the assay and writes the quotation record. -/
  | quoteRequest (crew lane : Nat)
  /-- R342. An ACCEPT reaches the front end and is tested against VALID and status. -/
  | acceptRequest (crew lane : Nat)
  /-- R342. A DECLINE reaches the front end and releases a QUOTED quotation. -/
  | declineRequest (crew lane : Nat)
  /-- R345. A launch starts when its booked rise is served, setting DEADLINE. -/
  | launchStart (launch : Nat)
  /-- R405. A launch is stopped, its snapshots written back and replayed under the same quotation. -/
  | launchReplay (launch cause : Nat)
  /-- R347. HBUDGET runs out after a CALLER breach and every crew is ended. -/
  | breachAllowanceExpiry (launch : Nat)
  /-- R348. A handler still running HALLOW us after entry raises BOUND HANDLER and its threads end. -/
  | handlerTimeout (crew : Nat)
  /-- R355. Writing STATE 1 loads and assays the queue program. -/
  | queueProgramLoad (queue : Nat)
  /-- R360. A queue core with a free slot chooses and starts a packet. -/
  | packetStart (die core : Nat)
  /-- R357. A packet's 4,097th issue is refused and the packet ends with BUDGET. -/
  | packetBudgetExhausted (crew : Nat)
  /-- R382. Rung 2: each still-running block is drained, flushed or saved. -/
  | graceTimerExpiry (tenant part : Nat)
  /-- R382. A draining block still running DRAIN us after rung 2 is saved. -/
  | drainTimerExpiry (core slot : Nat)
  /-- R386. Rung 3: every unstopped context of the tenant is killed. -/
  | killTimerExpiry (tenant part : Nat)
  /-- R380. A stopping block's pending writes, stores, matrix and engine work have settled. -/
  | blockStopComplete (core slot : Nat)
  /-- R383. A saved block's image is exchanged into the core's shadow slot. -/
  | shadowExchangeDone (core : Nat)
  /-- R326. A BLST duration ends and its ballast steps down through the ramp table. -/
  | ballastEnd (core quad : Nat)
  /-- R325. A sleeping group's wake time is reached and it becomes ready. -/
  | sleepWake (crew lane : Nat)
  /-- R422. A queue reset's writes are performed and flushed, and DONE is set. -/
  | queueResetDone (port fn : Nat)
  /-- R261. A .g store's footprint, rights, translation and code-page checks complete without fault within 40 clk of issue, releasing the sixteenth-instruction hold and its place in the quadrant's count of 32. -/
  | storeChecksPass (crew op : Nat)
  /-- R385. Saved blocks are restored on cores of the partition and issue again. -/
  | tenantResume (tenant part : Nat)
  /-- R25. A translation request joins a walk in progress or leads a new one, stalling while the walk queue is full. -/
  | walkRequest (die asid va kind who : Nat)
  /-- R372. A pending or held trap is entered at an issue, filling the lane detail bank and vectoring to its slot. -/
  | trapEntry (crew lane : Nat)
  /-- R23. A pinned L2 TLB entry read with bad parity is refilled from the die's pin record. -/
  | tlbParityRefill (cluster asid va : Nat)
  /-- R27. INVCMD KIND 0 invalidates one page under the tenant's ASID. -/
  | invalidatePage (port fn vpn : Nat)
  /-- R27. INVCMD KIND 1 invalidates every entry of the tenant's ASID. -/
  | invalidateAsid (port fn : Nat)
  /-- R27. INVCMD KIND 2 from the physical function invalidates every ASID. -/
  | invalidateAllAsids (port fn : Nat)
  /-- R28. An INVCMD with FORCE removes pinned entries at once and voids pinning quotations. -/
  | forcedInvalidation (port fn kind vpn : Nat)
  /-- R83. A host snoop for ownership of a coherent line is answered after leases and pending stores. -/
  | hostSnoopOwnership (port line : Nat)
  /-- R83. A host snoop for data is answered after pending stores are performed. -/
  | hostSnoopData (port line : Nat)
  /-- R84. An inbound host write to module memory is accepted at home in posted-write order. -/
  | hostInboundWrite (port fn addr : Nat) (data : List (BitVec 8)) (relaxed : Bool)
  /-- R84. An inbound host read of module memory reads at home with no lease. -/
  | hostInboundRead (port fn addr len : Nat)
  /-- R57. A write to a partition's L2 way-share MASK adds ways, starts a reduction, or is refused. -/
  | l2WayMaskWrite (die part : Nat) (value : BitVec 32)
  /-- R125. A reservation reaches the receiving pan and reserves, joins or is refused. -/
  | panrsvArrival (seg2 port slot mode ncont nchunk : Nat) (key : BitVec 32) (durUs smod score : Nat) (join : Bool)
  /-- R129. A reservation reply returns, filling the status registers and making the sender table entry. -/
  | panrsvReply (core idx st gen expiry : Nat)
  /-- R127. A put reaches the receiving pan and is accepted, writing and contributing its chunks, or refused. -/
  | panputArrival (seg2 port slot gen mode off n : Nat) (data : List (BitVec 8))
  /-- R129. A put's acknowledgement returns and the put retires. -/
  | panputAck (core idx cause : Nat)
  /-- R137. A Celore port goes DOWN, failing its slots, freeing sender entries and recording LINK breaches. -/
  | portDown (port : Nat)
  /-- R132. A port starts a retrain after repeated replays or loss of lock. -/
  | portRetrain (port : Nat)
  /-- R132. A retrain ends, resuming traffic or sending the port DOWN. -/
  | portRetrainComplete (port : Nat) (ok : Bool)
  /-- R132. A received flit fails its CRC and is replayed with every later flit. -/
  | flitCrcFail (port : Nat)
  /-- R132. A STOP for a virtual channel is received and the sender stops that channel. -/
  | celoreStop (port vc : Nat)
  /-- R132. A GO for a virtual channel is received and the sender resumes it. -/
  | celoreGo (port vc : Nat)
  /-- R133. A Celore port trains and Jasper measures FLIGHT and writes the peer table entry. -/
  | portTraining (port pmod pport roundTrip : Nat)
  /-- R133. The management plane rewrites a port's peer table entry, refused below measured FLIGHT. -/
  | peerTableWrite (port : Nat) (value : BitVec 64)
  /-- R136. The loader fills every route relocation of a loaded kernel from the topology. -/
  | kernelLoad (die asid record : Nat)
  /-- R150. The hypervisor writes a domain control block, refused if inheritance rules break. -/
  | dcbWrite (idx : Nat) (value : BitVec 128)
  /-- R395. A rail reads out of range for 1 us and the affected contexts are killed. -/
  | railFault (sram : Bool) (unit : Nat)
  /-- R354. The owner writes a queue descriptor, refused for a zero ring size. -/
  | queueDescriptorWrite (queue : Nat) (value : BitVec 512)
  /-- R418. A NOTIFY write sets a queue's TAIL or is dropped and counted. -/
  | notify (port fn fq : Nat) (value : BitVec 32)
  /-- R419. A CQACK write advances a queue's CQHEAD or is dropped and counted. -/
  | cqack (port fn fq : Nat) (value : BitVec 32)
  /-- R377. A soft pre-emption request stops a tenant's blocks at tile boundaries and sends SOFT notices. -/
  | preemptRequest (tenant part : Nat)
  /-- R378. The hypervisor withdraws a pre-emption request. -/
  | preemptWithdraw (tenant part : Nat)
  /-- R387. The hypervisor assigns a quadrant, channel, engine, port or function to a partition. -/
  | ownerByteWrite (array unit idx : Nat) (value : BitVec 8)
  /-- R390. A FROZEN context is killed and its launch completes FAILED. -/
  | frozenContextKill (launch : Nat)
  /-- R391. Jasper's module power control register is written, refused out of range. -/
  | modulePowerControlWrite (value : BitVec 64)
  /-- R397. A cluster's ramp table is written while no unit draws current. -/
  | rampTableWrite (cluster : Nat) (value : BitVec 96)
  /-- R394. A write through the management interface to a register with no row of its own. -/
  | managementWrite (reg a b : Nat) (value : BitVec 64)
  /-- R413. A host port trains as PCIe 7.0 or CXL 3.1. -/
  | hostPortTraining (port : Nat) (cxlOffered : Bool) (lanes : Nat)
  /-- R421. A function-level reset refuses later requests, resets its queues and kills their launches. -/
  | functionLevelReset (port fn : Nat)
  /-- R422. A QRST write with GO halts a queue and kills its work. -/
  | queueReset (port fn : Nat) (value : BitVec 32)
  /-- R420. Unmasking an MSI-X vector with its pending bit set sends one message. -/
  | msixVectorUnmask (port fn vec : Nat)
  /-- R424. SPDM GET_VERSION request answered by the physical function. -/
  | getVersion (port : Nat)
  /-- R424. SPDM GET_CAPABILITIES request answered. -/
  | getCapabilities (port : Nat)
  /-- R424. SPDM NEGOTIATE_ALGORITHMS request answered with P-521 and SHA-512. -/
  | negotiateAlgorithms (port asym hash : Nat)
  /-- R424. SPDM GET_DIGESTS request answered. -/
  | getDigests (port : Nat)
  /-- R424. SPDM GET_CERTIFICATE request returns the device certificate chain. -/
  | getCertificate (port : Nat)
  /-- R424. SPDM CHALLENGE request answered with a signed response. -/
  | challenge (port : Nat) (nonce : BitVec 256)
  /-- R424. SPDM GET_MEASUREMENTS returns measurement blocks 1 to 5. -/
  | getMeasurements (port index : Nat)
  /-- R416. A write to INVCMD with KIND 3, or with KIND 2 from a virtual function, sets STATUS 3, refused. -/
  | invcmdRefused (port fn kind : Nat)
  /-- R5. Jasper's PTP time input disciplines the module time counter by slewing, and its loss or return moves SYNC between locked, holdover and free-running. -/
  | ptpTimeSync (sec ns sync : Nat)
  /-- R368. At each 10 us boundary waiting tiles are admitted and caps, meters and floors are evaluated. -/
  | controlIntervalBoundary
  /-- R359. At each 1 ms window the tenant launch and quoted-time counters are renewed. -/
  | budgetWindowBoundary
  /-- R402. Jasper takes and sends a telemetry sample every 100 us. -/
  | telemetrySample
  /-- R344. A held ACCEPT takes effect in acceptance order, pinning, reserving and writing schedule tables. -/
  | acceptTakesEffect
  /-- R425. Auxiliary power arrives and the module runs its bring-up steps in order. -/
  | coldReset
  /-- R425. PERST# or the physical function repeats firmware load and port training. -/
  | warmReset
  /-- R425. Logic rails fall to 0 V before the SRAM rails. -/
  | powerDown
  deriving DecidableEq, Repr

end Sys2Proof
end

