-- ==== Sys2Proof/Machine/Shape.lean ====
section
/-! DEFINITION. Shape.lean: for each instruction, which register class each field names and which fields must be zero, as
the instruction chapters give them (R195 to R202), and the ILLEGAL detail that a breach of them raises (R205). -/

namespace Sys2Proof

/-- A field record with every field zero and the predicate p7. -/
def XF.zero : XF :=
  { d := 0, a := 0, b := 0, var := 0, pix := 7, pneg := false, fea := false, feb := false, fec := false, c := 0, sd := false,
    sa := false, sb := false, sc := false, qp := false, own := 0, w2 := 0 }

/-- The fields of a B-form: no predicate, v registers, blocking sources (R192). -/
def XF.ofB (d a b : BitVec 8) : XF := { XF.zero with d := d, a := a, b := b }

def XF.o0 (x : XF) : Bool := x.own.getLsbD 0
def XF.o1 (x : XF) : Bool := x.own.getLsbD 1
def XF.imm (x : XF) : Bool := x.c.getLsbD 0
def XF.cN (x : XF) : Nat := x.c.toNat
def XF.vN (x : XF) : Nat := x.var.toNat
def XF.wN (x : XF) : Nat := x.w2.toNat
def XF.ownN (x : XF) : Nat := x.own.toNat

/-- The space code in the modifier byte (R258). -/
def XF.space (x : XF) : Nat := Machine.bits x.b.toNat 2 0

end Sys2Proof

namespace Sys2Proof.Machine

/-- What a field names (R195). `v4` and `v6` are the runs of v registers of a 128-bit access (R258) and of PANQRY (R318);
`simg n al` is an s image of n registers whose number is a multiple of al (R309); `raw` is a field whose bits the
description assigns. -/
inductive Cls where
  | none | v | w | v4 | v6 | p | cv | m | raw
  | simg (n al : Nat)
  deriving DecidableEq, Repr

/-- Whether a field is read, written or both; `own`: it is read from lanes that the instruction's own entry names (R292). -/
inductive Role where
  | src | dst | both | own
  deriving DecidableEq, Repr

structure Fld where
  cls  : Cls
  role : Role := .src
  deriving DecidableEq, Repr

/-- The fields of one instruction. `pred`: it may carry a predicate other than p7. `uni`: it may be uniform (R196). `mix`:
its description defines SD = 1 with a v source. `preds`: predicates that it names outside the fields. `w2z`: word 2 must be 0. `viol`: further breaches with their detail. `use`: no state
allows it, so that it raises USE when it issues (R7, R43, R319). -/
structure Shape where
  d    : Fld := ⟨.none, .src⟩
  a    : Fld := ⟨.none, .src⟩
  b    : Fld := ⟨.none, .src⟩
  c    : Fld := ⟨.none, .src⟩
  pred : Bool := true
  uni  : Bool := true
  mix  : Bool := false
  w2z  : Bool := true
  preds : List Nat := []
  viol : List (Bool × Nat) := []
  use  : Bool := false
  deriving DecidableEq, Repr

/-! ## The ILLEGAL details (R205) -/
def illOpcode : Nat := 0x01
def illFunction : Nat := 0x02
def illModifier : Nat := 0x03
def illPredicate : Nat := 0x04
def illPolicy : Nat := 0x05
def illRegister : Nat := 0x06
def illForm : Nat := 0x07
def illField : Nat := 0x08
def illRepeat : Nat := 0x09
def illFetch : Nat := 0x0A
def illTarget : Nat := 0x0B
def illUse : Nat := 0x10

def Fld.vsrc : Fld := ⟨.v, .src⟩
def Fld.vdst : Fld := ⟨.v, .dst⟩
def Fld.raw : Fld := ⟨.raw, .src⟩
def Fld.no : Fld := ⟨.none, .src⟩
/-- A v field, or a w field when `w`. -/
def Fld.vw (w : Bool) (r : Role) : Fld := if w then ⟨.w, r⟩ else ⟨.v, r⟩

/-! ## The shapes, family by family -/

/-- Integer instructions with an A and a B operand (R210, R212, R216). -/
def shapeInt (x : XF) (sat shiftB : Bool) : Shape :=
  { d := .vw x.o0 .dst, a := .vw x.o0 .src, c := .raw, w2z := !x.imm,
    b := if x.imm then .no else if shiftB then .vsrc else .vw x.o0 .src,
    viol := [(x.o1 && !sat, illModifier), (x.c.getLsbD 1 && !(sat && x.o1), illModifier), (decide (4 ≤ x.cN), illField)] }

/-- OPC 0x0A: the immediate is word 2 (R212). -/
def shapeIntImm (x : XF) : Shape :=
  { d := .vw x.o0 .dst, a := .vw x.o0 .src, c := .raw, w2z := false,
    viol := [(x.c.getLsbD 1 && !x.o1, illModifier), (decide (4 ≤ x.cN), illField)] }

/-- The breaches of a C field that holds no register, of an instruction without SAT (R210, R216): U, and bits 7:2. IMM is no breach; where the
instruction has no B operand, it names nothing and word 2 stays as the instruction uses it (log entry 231). -/
def modC (x : XF) : List (Bool × Nat) := [(x.c.getLsbD 1, illModifier), (decide (4 ≤ x.cN), illField)]

/-- INT group, one source; `wd`: D follows W too (CLZ and POPC count into a v register). -/
def shapeInt1 (x : XF) (wd : Bool) (nv : Nat) : Shape :=
  { d := .vw (x.o0 && wd) .dst, a := .vw x.o0 .src, c := .raw,
    viol := [(decide (nv ≤ x.vN), illFunction), (x.o1, illModifier)] ++ modC x }

/-- INT group, two sources and variants below `nv` (R216). -/
def shapeInt2 (x : XF) (nv : Nat) (shiftB : Bool) : Shape :=
  let s := shapeInt x false shiftB
  { s with viol := (decide (nv ≤ x.vN), illFunction) :: s.viol }

def shapeImad (x : XF) : Shape :=
  { d := .vw x.o0 .dst, a := .vw x.o0 .src, b := .vw x.o0 .src, c := .vw x.o0 .src,
    viol := [(decide (3 ≤ x.vN), illFunction), (x.o1, illModifier)] }

/-- BFX: position and length in register C or in word 2 (R218). -/
def shapeBfx (x : XF) : Shape :=
  { d := .vw x.o0 .dst, a := .vw x.o0 .src, c := if x.vN < 2 then .vsrc else .raw, w2z := decide (x.vN < 2),
    viol := [(decide (4 ≤ x.vN), illFunction), (x.o1, illModifier), (decide (65536 ≤ x.wN), illField)] ++ (if x.vN < 2 then [] else modC x) }

/-- BFI; with position and length in word 2 the IMM of C gives B too from word 2 (R210, R218). -/
def shapeBfi (x : XF) : Shape :=
  { d := .vw x.o0 .dst, a := .vw x.o0 .src, b := if x.vN ≠ 0 ∧ x.imm then .no else .vw x.o0 .src, c := if x.vN = 0 then .vsrc else .raw,
    w2z := decide (x.vN = 0),
    viol := [(decide (2 ≤ x.vN), illFunction), (x.o1, illModifier), (decide (65536 ≤ x.wN), illField)] ++ (if x.vN = 0 then [] else modC x) }

def shapeSel (x : XF) : Shape :=
  { d := .vw x.o0 .dst, a := .vw x.o0 .src, b := .vw x.o0 .src, c := ⟨.p, .src⟩, uni := false,
    viol := [(decide (1 ≤ x.vN), illFunction), (x.o1, illModifier)] }

def shapeIcmp (x : XF) : Shape :=
  let s := shapeInt x false false
  { s with d := ⟨.p, .dst⟩, uni := false, viol := (decide (10 ≤ x.vN), illFunction) :: s.viol }

/-- LEA; the IMM of C gives B too from word 2 (R210, R220). -/
def shapeLea (x : XF) : Shape :=
  { d := ⟨.w, .dst⟩, a := ⟨.w, .src⟩, b := if x.imm then .no else .vsrc, c := .raw, w2z := false,
    viol := [(decide (2 ≤ x.vN), illFunction), (x.o0 || x.o1, illModifier), (decide (16 ≤ x.wN), illField)] ++ modC x }

def shapeIdot4 (x : XF) : Shape :=
  { d := .vdst, a := .vsrc, b := .vsrc, c := .vsrc,
    viol := [(decide (3 ≤ x.vN), illFunction), (x.o0 || x.o1, illModifier)] }

def shapeMov (x : XF) : Shape :=
  { d := .vw x.o0 .dst, a := .vw x.o0 .src, mix := true, viol := [(x.o1, illModifier)] }

def shapeMovi (x : XF) : Shape := { d := .vdst, w2z := false, viol := [(decide (x.own ≠ 0), illModifier)] }
def shapeMovi64 (x : XF) : Shape := { d := ⟨.w, .dst⟩, viol := [(decide (x.own ≠ 0), illModifier)] }

/-- An instruction that uses no field (NOP, EXIT, SDRAIN, RET, COMMIT, TRET). -/
def shapeNone (x : XF) : Shape := { viol := [(decide (x.own ≠ 0), illModifier), (decide (1 ≤ x.vN), illFunction)] }

/-- PRED group (R221): `nb` sources. -/
def shapePred (x : XF) (two : Bool) : Shape :=
  { d := ⟨.p, .dst⟩, a := ⟨.p, .src⟩, b := if two then ⟨.p, .src⟩ else .no, uni := false,
    viol := [(decide (1 ≤ x.vN), illFunction), (x.o1 && !two, illModifier)] }

def shapePmov (x : XF) : Shape :=
  { d := if x.vN = 2 then .vdst else ⟨.p, .dst⟩, a := if x.vN = 1 then .vsrc else ⟨.p, .src⟩, uni := false,
    viol := [(decide (3 ≤ x.vN), illFunction), (x.o1, illModifier), (x.sd, illModifier)] }

/-- FADD, FSUB, FMUL, FMIN, FMAX (R239, R240, R242). -/
def shapeFp2 (x : XF) (nv : Nat) : Shape :=
  { d := .vdst, a := .vsrc, b := if x.imm then .no else .vsrc, c := .raw, w2z := !x.imm,
    viol := [(decide (nv ≤ x.vN), illFunction), (decide (x.ownN = 3), illModifier), (decide (2 ≤ x.cN), illField)] }

def shapeFfma (x : XF) : Shape :=
  { d := .vdst, a := .vsrc, b := .vsrc, c := .vsrc, viol := [(decide (x.ownN = 3), illModifier)] }

/-- FABS, FNEG, FCLASS and the SFU group. -/
def shapeFp1 (x : XF) : Shape :=
  { d := .vdst, a := .vsrc, viol := [(decide (1 ≤ x.vN), illFunction), (decide (x.ownN = 3), illModifier)] }

def shapeFcmp (x : XF) : Shape :=
  let s := shapeFp2 x 8
  { s with d := ⟨.p, .dst⟩, uni := false }

/-- RMODE 1 to 3 is reserved (R246). -/
def badRmode (r : Nat) : Bool := decide (1 ≤ r) && decide (r ≤ 3)

def shapeFrnd (x : XF) : Shape :=
  { d := .vdst, a := .vsrc, w2z := false,
    viol := [(decide (1 ≤ x.vN), illFunction), (decide (x.ownN = 3), illModifier), (badRmode (bits x.wN 10 8), illField),
      (decide (2048 ≤ x.wN) || decide (bits x.wN 7 0 ≠ 0), illField)] }

/-- Width in bits of an FCVT format code (R247). -/
def fcvtWidth (code : Nat) : Nat :=
  match code with
  | 0 => 32 | 1 => 16 | 2 => 16 | 3 => 8 | 4 => 8 | 5 => 8 | 6 => 16 | 7 => 32 | 8 => 64 | 9 => 8 | 10 => 16 | 11 => 32 | 12 => 64
  | _ => 0

/-- FCVT (R247): only the shape of one element has 64-bit formats, and so w fields. -/
def shapeFcvt (x : XF) : Shape :=
  let src := bits x.wN 3 0
  let dst := bits x.wN 7 4
  let upper := bitOf x.wN 11
  let packed := decide (1 ≤ x.vN)
  let bUsed := packed && decide (fcvtWidth src = 32)
  { d := if x.vN = 2 then ⟨.v, .both⟩ else .vw (!packed && decide (fcvtWidth dst = 64)) .dst,
    a := .vw (!packed && decide (fcvtWidth src = 64)) .src, b := if bUsed then .vsrc else .no, w2z := false,
    viol := [(decide (3 ≤ x.vN), illFunction), (decide (x.own ≠ 0), illModifier), (decide (4096 ≤ x.wN), illField),
      (badRmode (bits x.wN 10 8), illField), (decide (13 ≤ src) || decide (13 ≤ dst), illField),
      (decide (5 ≤ src) && decide (5 ≤ dst), illField),
      (packed && (decide (fcvtWidth src = 64) || decide (32 ≤ fcvtWidth dst)), illField),
      (decide (x.vN = 2) && decide (fcvtWidth dst ≠ 8), illField),
      (upper && (!packed || decide (fcvtWidth src ≠ 8)), illField)] }

def shapeQnt (x : XF) : Shape :=
  { d := ⟨.v, .both⟩, a := .vsrc, b := if x.vN = 0 then .vsrc else .no, w2z := false,
    viol := [(decide (2 ≤ x.vN), illFunction), (decide (x.own ≠ 0), illModifier), (decide (16 ≤ x.wN), illField),
      (decide (x.vN = 0) && decide (4 ≤ x.wN), illField)] }

def shapeDqnt (x : XF) : Shape :=
  { d := .vdst, a := .vsrc, b := if x.vN = 1 then .vsrc else .no, w2z := false,
    viol := [(decide (3 ≤ x.vN), illFunction), (decide (x.own ≠ 0), illModifier),
      (decide (x.vN = 0) && decide (16 ≤ x.wN), illField), (decide (x.vN = 1) && decide (4 ≤ x.wN), illField),
      (decide (x.vN = 2) && (decide (256 ≤ x.wN) || bitOf x.wN 3), illField)] }

/-- CBLD and CTLD (R254): `n` slots. -/
def shapeTableLoad (x : XF) (n : Nat) : Shape :=
  { d := .raw, a := .vw (decide (x.ownN = 2)) .src, w2z := false, pred := false, uni := false,
    viol := [(decide (1 ≤ x.vN), illFunction), (decide (x.ownN = 3), illModifier), (!x.sa, illModifier),
      (decide (n ≤ x.d.toNat), illField)] }

def shapePack (x : XF) : Shape :=
  { d := if x.vN = 2 then ⟨.v, .both⟩ else .vdst, a := .vsrc, b := .vsrc,
    viol := [(decide (4 ≤ x.vN), illFunction), (decide (x.own ≠ 0), illModifier)] }

def shapeUnpk (x : XF) : Shape :=
  { d := .vdst, a := .vsrc, w2z := false,
    viol := [(decide (3 ≤ x.vN), illFunction), (x.o1, illModifier), (decide (2 ^ (x.vN + 1) ≤ x.wN), illField)] }

def shapeBraX (x : XF) : Shape :=
  { w2z := false, viol := [(decide (x.own ≠ 0), illModifier), (decide (x.wN % 4 ≠ 0), illField)] }

def shapeBrcX (x : XF) : Shape :=
  { d := .raw, w2z := false, preds := [bits x.d.toNat 7 5],
    viol := [(decide (x.own ≠ 0), illModifier), (decide (x.wN % 4 ≠ 0), illField), (decide (bits x.d.toNat 3 0 ≠ 0), illField)] }

def shapeLoopX (x : XF) : Shape :=
  { d := .raw, a := .raw, b := .raw, w2z := false,
    viol := [(decide (x.own ≠ 0), illModifier), (decide (x.d = 0 ∧ x.a = 0 ∧ x.b = 0), illField)] }

def shapeSignX (x : XF) : Shape :=
  { d := .raw, viol := [(decide (x.own ≠ 0), illModifier), (decide (16 ≤ x.d.toNat), illField)] }

def shapeFenceX (x : XF) : Shape :=
  { d := .raw, viol := [(decide (x.own ≠ 0), illModifier), (decide (4 ≤ x.d.toNat), illField)] }

/-- JTAB (R225). A count above 4,096 raises FIELD, as R225 says of 0 (log entry 232). -/
def shapeJtab (x : XF) : Shape :=
  { a := .vsrc, w2z := false, uni := false,
    viol := [(decide (1 ≤ x.vN), illFunction), (decide (x.own ≠ 0), illModifier),
      (decide (x.wN = 0) || decide (4096 < x.wN), illField)] }

def shapeCall (x : XF) : Shape :=
  { c := .raw, w2z := false,
    viol := [(decide (1 ≤ x.vN), illFunction), (decide (x.own ≠ 0), illModifier), (decide (x.cN = 0) || decide (32 < x.cN), illField)] }

def shapeTkill (x : XF) : Shape :=
  { a := ⟨.w, .src⟩, pred := false, uni := false,
    viol := [(decide (1 ≤ x.vN), illFunction), (decide (x.own ≠ 0), illModifier)] }

/-- An instruction that uses only word 2, from `lo` to `hi`. -/
def shapeW2 (x : XF) (pred : Bool) (lo hi : Nat) : Shape :=
  { w2z := false, pred := pred,
    viol := [(decide (1 ≤ x.vN), illFunction), (decide (x.own ≠ 0), illModifier),
      (decide (x.wN < lo) || decide (hi < x.wN), illField)] }

def shapeTry (x : XF) : Shape :=
  { c := .raw, w2z := false, pred := false,
    viol := [(decide (2 ≤ x.vN), illFunction), (decide (x.own ≠ 0), illModifier), (decide (8 < x.cN), illField)] }

/-- The register field of a data size variant (R258). -/
def sizeFld (v : Nat) (r : Role) : Fld := if v = 5 then ⟨.w, r⟩ else if v = 6 then ⟨.v4, r⟩ else ⟨.v, r⟩

/-- LD (R258, R259). -/
def shapeLd (x : XF) : Shape :=
  { d := sizeFld x.vN .dst, a := .vw (decide (x.space = 0)) .src, b := .raw, w2z := false,
    viol := [(decide (7 ≤ x.vN), illFunction), (decide (x.own ≠ 0), illModifier), (x.sd && decide (x.vN = 6), illModifier),
      (decide (5 ≤ x.space), illField), (decide (bits x.b.toNat 7 6 ≠ 0), illField),
      (bitOf x.b.toNat 5 && decide (x.space = 4), illField),
      (decide (bits x.b.toNat 4 3 ≠ 0) && decide (x.space ≠ 0), illField)] }

/-- ST (R258, R260). -/
def shapeSt (x : XF) : Shape :=
  { d := sizeFld x.vN .src, a := .vw (decide (x.space = 0)) .src, b := .raw, w2z := false,
    viol := [(decide (x.vN = 1) || decide (x.vN = 3) || decide (8 ≤ x.vN), illFunction), (decide (x.own ≠ 0), illModifier),
      (x.sd && decide (x.vN = 6), illModifier), (decide (5 ≤ x.space), illField), (decide (bits x.b.toNat 4 3 ≠ 0), illField),
      (bitOf x.b.toNat 5 && decide (x.space = 4), illField),
      (decide (bits x.b.toNat 7 6 ≠ 0) && !bitOf x.b.toNat 5, illField)] }

/-- The X-forms of OPC 0x11 to 0x14 (R258). -/
def shapeMemShort (x : XF) (g store : Bool) : Shape :=
  { d := if store then .vsrc else .vdst, a := .vw g .src, w2z := false, viol := [(decide (x.own ≠ 0), illModifier)] }

def badSize (v : Nat) : Bool := decide (v < 4) || decide (6 < v)

def shapeLdfe (x : XF) : Shape :=
  { d := sizeFld x.vN .dst, a := .vsrc, b := .raw, c := ⟨.p, .dst⟩, w2z := false,
    viol := [(badSize x.vN, illFunction), (x.sd && decide (x.vN = 6), illModifier), (decide (5 ≤ x.space), illField),
      (!x.o0 && decide (bits x.b.toNat 7 3 ≠ 0), illField)],
    use := decide (x.space ≠ 1) && decide (x.space ≠ 2) }

def shapeStfe (x : XF) : Shape :=
  { d := sizeFld x.vN .src, a := .vsrc, b := .raw, w2z := false,
    viol := [(badSize x.vN, illFunction), (decide (x.own ≠ 0), illModifier), (x.sd && decide (x.vN = 6), illModifier),
      (decide (8 ≤ x.b.toNat), illField), (decide (5 ≤ x.space), illField)],
    use := decide (x.space ≠ 1) && decide (x.space ≠ 2) }

def shapeFeRange (x : XF) : Shape :=
  { a := .vsrc, b := .raw, w2z := false, uni := false,
    viol := [(decide (1 ≤ x.vN), illFunction), (decide (2 ≤ x.ownN), illModifier)] }

def shapePref (x : XF) : Shape :=
  { a := ⟨.w, .src⟩, b := .raw, w2z := false, uni := false,
    viol := [(decide (2 ≤ x.vN), illFunction), (decide (x.own ≠ 0), illModifier), (decide (x.space ≠ 0), illField),
      (decide (bits x.b.toNat 7 5 ≠ 0), illField), (decide (x.vN = 1) && decide (bits x.b.toNat 4 3 ≠ 0), illField)] }

/-- Word 2 of an atomic (R268). -/
def atomViol (x : XF) : List (Bool × Nat) :=
  [(decide (128 ≤ x.wN), illField), (decide (4 ≤ bits x.wN 2 0), illField)]

def shapeAtom (x : XF) (nv : Nat) (fp : Bool) : Shape :=
  { d := if x.o1 then .no else .vw (x.o0 && !fp) .dst, a := .vw (decide (bits x.wN 2 0 = 0)) .src,
    b := .vw (x.o0 && !fp) .src, w2z := false,
    viol := [(decide (nv ≤ x.vN), illFunction), (fp && x.o0, illModifier)] ++ atomViol x }

def shapeCas (x : XF) : Shape :=
  { d := .vw x.o0 .dst, a := .vw (decide (bits x.wN 2 0 = 0)) .src, b := .vw x.o0 .src, c := .vw x.o0 .src, w2z := false,
    viol := [(decide (1 ≤ x.vN), illFunction), (x.o1, illModifier)] ++ atomViol x }

def shapeWaitad (x : XF) : Shape :=
  { d := .vdst, a := .vw (decide (x.ownN = 0)) .src, b := .vsrc, c := .raw, w2z := false, uni := false,
    viol := [(decide (10 ≤ x.vN), illFunction)] }

/-- The greatest count of a class (R112): LD, ST, CP, MX, GA, PN. -/
def clsMax (c : Nat) : Nat :=
  match c with
  | 0 => 63 | 1 => 127 | 2 => 31 | 3 => 15 | 4 => 15 | _ => 63

def shapeWaitc (x : XF) : Shape :=
  { d := .vdst, c := .raw, w2z := false,
    viol := [(decide (6 ≤ x.vN), illFunction), (decide (x.own ≠ 0), illModifier), (decide (32 ≤ x.cN), illField),
      (decide (clsMax x.vN < x.wN), illField)] }

def shapeBar (x : XF) : Shape :=
  { d := .vdst, c := .raw, w2z := false,
    viol := [(decide (1 ≤ x.vN), illFunction), (decide (x.own ≠ 0), illModifier), (decide (32 ≤ x.cN), illField),
      (decide (32 ≤ x.wN), illField)] }

def shapeBarinit (x : XF) : Shape :=
  { d := .vdst, w2z := false,
    viol := [(decide (1 ≤ x.vN), illFunction), (decide (x.own ≠ 0), illModifier),
      (decide (8192 ≤ x.wN) || decide (bits x.wN 7 5 ≠ 0), illField)] }

def shapeBarkill (x : XF) : Shape :=
  { d := .vdst, w2z := false, viol := [(decide (x.own ≠ 0), illModifier), (decide (32 ≤ x.wN), illField)] }

/-- The object address field of the arrival-barrier instructions (R272). -/
def abAddrFld (x : XF) : Fld := .vw (decide (x.ownN = 0)) .src

def shapeAbinit (x : XF) : Shape :=
  { d := .vdst, a := abAddrFld x, b := if x.ownN = 1 then ⟨.w, .src⟩ else .no, w2z := false, mix := true,
    viol := [(decide (1 ≤ x.vN), illFunction), (decide (x.ownN = 3), illField), (decide (131072 ≤ x.wN), illField)] }

def shapeAbwait (x : XF) (test : Bool) : Shape :=
  { d := .vdst, a := abAddrFld x, b := if x.vN = 0 then ⟨.w, .src⟩ else .no, c := if test then .no else .raw, w2z := false,
    mix := true,
    viol := [(decide (2 ≤ x.vN), illFunction), (decide (32 ≤ x.cN), illField),
      (decide (4096 ≤ x.wN) || (decide (x.vN = 1) && decide (x.wN ≠ 0)), illField)] }

def shapeBarkillAb (x : XF) : Shape := { d := .vdst, a := abAddrFld x, mix := true }

def shapeShf (x : XF) : Shape :=
  { d := .vw x.o0 .dst, a := .vw x.o0 .src, b := if x.imm then .no else .vsrc, c := .raw, w2z := !x.imm,
    viol := [(x.o1, illModifier), (decide (6 ≤ bits x.cN 3 1), illField), (decide (16 ≤ x.cN), illField)] }

def shapeVote (x : XF) : Shape :=
  { d := if x.sd then .vdst else ⟨.p, .dst⟩, a := ⟨.p, .src⟩, uni := false, mix := true,
    viol := [(decide (3 ≤ x.vN), illFunction), (decide (x.own ≠ 0), illModifier)] }

def shapeBallot (x : XF) : Shape :=
  { d := ⟨.w, .dst⟩, a := ⟨.p, .src⟩, uni := false, mix := true,
    viol := [(decide (1 ≤ x.vN), illFunction), (decide (x.own ≠ 0), illModifier)] }

/-- REDUX (R274): with SD = 1 a v source is allowed, and with an s source it is uniform (R196). -/
def shapeRedux (x : XF) : Shape :=
  { d := .vw x.o0 .dst, a := .vw x.o0 .src, mix := true,
    viol := [(decide (8 ≤ x.vN), illFunction), (x.o1, illModifier)] }

/-- Engine commands with an s image in A and a word-2 field up to `hi` (R310, R312). -/
def shapeImage (x : XF) (n al hi : Nat) : Shape :=
  { a := ⟨.simg n al, .src⟩, w2z := false, pred := false, uni := false,
    viol := [(decide (1 ≤ x.vN), illFunction), (decide (x.own ≠ 0), illModifier), (decide (hi < x.wN), illField)] }

def shapeChain (x : XF) : Shape :=
  { d := .vdst, a := .vw (decide (x.ownN = 0)) .src, w2z := false, pred := false, uni := false, mix := true,
    viol := [(decide (1 ≤ x.vN), illFunction), (!x.sa, illModifier), (decide (2 ≤ x.ownN), illField),
      (decide (8 ≤ x.wN), illField)] }

def shapeQbind (x : XF) : Shape :=
  { d := .raw, a := ⟨.simg 5 8, .src⟩, w2z := false, pred := false, uni := false,
    viol := [(decide (1 ≤ x.vN), illFunction), (decide (x.own ≠ 0), illModifier), (x.qp, illModifier),
      (decide (8 ≤ x.d.toNat), illField), (decide (4 ≤ x.wN), illField)] }

def shapeQport (x : XF) : Shape :=
  { d := .raw, pred := false, uni := false,
    viol := [(decide (1 ≤ x.vN), illFunction), (decide (x.own ≠ 0), illModifier), (x.qp, illModifier),
      (decide (8 ≤ x.d.toNat), illField)] }

def shapePanrsv (x : XF) : Shape :=
  { d := ⟨.simg 4 4, .dst⟩, a := .vsrc, b := .vsrc, w2z := false, pred := false, uni := false, mix := true,
    viol := [(decide (1 ≤ x.vN), illFunction), (decide (x.own ≠ 0), illModifier), (!x.sa || !x.sb, illModifier)] }

def shapePanput (x : XF) : Shape :=
  { a := .vsrc, b := .vsrc, w2z := false, pred := false, uni := false,
    viol := [(decide (1 ≤ x.vN), illFunction), (decide (x.own ≠ 0), illModifier), (!x.sa || !x.sb, illModifier)] }

def shapePanrel (x : XF) : Shape :=
  { d := .vdst, w2z := false, pred := false, uni := false, mix := true,
    viol := [(decide (2 ≤ x.vN), illFunction), (decide (x.own ≠ 0), illModifier), (decide (64 ≤ x.wN), illField)] }

def shapePanqry (x : XF) : Shape :=
  { d := ⟨.v6, .dst⟩, w2z := false, uni := false, mix := true,
    viol := [(decide (1 ≤ x.vN), illFunction), (decide (x.own ≠ 0), illModifier), (decide (64 ≤ x.wN), illField)] }

/-- C of a matrix instruction: CV, DIR, and bits 7:5 as `hiOk` allows (R281). -/
def matrixViol (x : XF) (hiOk : Nat → Bool) : List (Bool × Nat) :=
  [(bitOf x.cN 4 && decide (bits x.cN 3 0 ≠ 0), illField), (!hiOk (bits x.cN 7 5), illField),
   (decide (x.ownN = 3), illField)]

/-- The bits of an element of a format (R282). -/
def mxBits (f : Nat) : Nat := if f < 2 then 16 else if f = 2 then 4 else 8

/-- The logical depth of a format, and the rows of a stored B tile (R282). -/
def mxDepth (f : Nat) : Nat := if f < 4 then 64 else 128

/-- The bytes of an A row and of a row of a stored B tile. -/
def aRowBytes (f : Nat) (sparse : Bool) : Nat := mxDepth f * (if sparse then 2 else 1) * mxBits f / 8
def bRowBytes (f : Nat) : Nat := 64 * mxBits f / 8

/-- A tile descriptor is malformed for rows of `n` bytes (R199). -/
def badPitch (w2 n : Nat) : Bool := decide (bits w2 6 0 = 0) || decide (16 * bits w2 6 0 < n)

def shapeMldb (x : XF) : Shape :=
  let spm := bits x.b.toNat 5 4
  let rows := if x.vN < 4 then 63 else 127
  { d := if spm = 1 then ⟨.v, .own⟩ else .no, a := .vsrc, b := .raw, c := .raw, w2z := false, pred := false, uni := false,
    viol := [(decide (7 ≤ x.vN), illFunction), (!x.sa, illModifier), (x.sb || x.sd, illModifier),
      (decide (spm = 3), illField), (decide (spm ≠ 1) && decide (bits x.b.toNat 7 6 ≠ 0), illField),
      (decide (spm = 1) && decide (bits x.b.toNat 7 6 = 3), illField),
      (decide (bits x.wN 19 13 ≠ rows) || decide (bits x.wN 12 7 ≠ 63) || badPitch x.wN (bRowBytes x.vN), illField),
      (decide (bits x.b.toNat 3 0 ≠ 0) && decide (x.vN ≠ 2) && decide (x.vN ≠ 3), illField),
      (decide (4 ≤ bits x.b.toNat 3 0) && decide (x.vN = 3), illField)] ++ matrixViol x (fun h => h = 0) }

def shapeMma (x : XF) : Shape :=
  let mode := bits x.cN 6 5
  { d := ⟨.m, .dst⟩, a := .vsrc, b := if mode = 0 then .raw else .vsrc, c := .raw, w2z := false, pred := false, uni := false,
    viol := [(decide (7 ≤ x.vN), illFunction), (!x.sa, illModifier), (decide (mode = 0) && x.sb, illModifier),
      (decide (mode = 3), illField), (decide (mode ≠ 0) && !x.sb, illModifier),
      (decide (mode = 0) && (decide (bits x.wN 12 7 ≠ 63) || decide (64 ≤ bits x.wN 19 13) || badPitch x.wN (aRowBytes x.vN (bitOf x.cN 7))), illField),
      (decide (mode = 0) && decide (16 ≤ x.b.toNat), illField),
      (decide (mode = 0) && decide (bits x.b.toNat 3 0 ≠ 0) && decide (x.vN ≠ 2) && decide (x.vN ≠ 3), illField),
      (decide (mode = 0) && decide (4 ≤ bits x.b.toNat 3 0) && decide (x.vN = 3), illField),
      (decide (mode ≠ 0) && (decide (x.vN = 2) || decide (x.vN = 3)), illField),
      (decide (mode = 1) && decide (x.ownN ≠ 0), illField),
      (decide (mode = 2) && (decide (bits x.wN 5 0 = 0) || decide (64 ≤ bits x.wN 19 13)), illField)]
      ++ matrixViol x (fun _ => true) }

/-- The family of a format code (R282): formats of one family may meet. -/
def fmtFamily (f : Nat) : Nat :=
  match f with
  | 0 => 0 | 1 => 1 | 2 => 0 | 3 => 0 | 4 => 2 | 5 => 2 | _ => 3

def shapeMmaw (x : XF) : Shape :=
  let bf := bits x.wN 31 28
  let rows := if bitOf x.wN 21 then 16 else 8
  { d := ⟨.m, .dst⟩, a := .vsrc, b := .vsrc, c := .raw, w2z := false, pred := false, uni := false,
    viol := [(decide (7 ≤ x.vN), illFunction), (!x.sa || !x.sb, illModifier), (decide (x.vN = 2) || decide (x.vN = 3), illField),
      (decide (bits x.cN 6 5 = 3), illField), (decide (7 ≤ bf) || decide (fmtFamily bf ≠ fmtFamily x.vN), illField),
      (bitOf x.wN 26, illField), (decide (bits x.wN 25 22 ≠ 0) && decide (bf ≠ 2) && decide (bf ≠ 3), illField),
      (decide (4 ≤ bits x.wN 25 22) && decide (bf = 3), illField),
      (decide (64 < 8 * bits x.wN 20 18 + rows), illField), (decide (bits x.wN 17 13 = 0), illField),
      (decide (4096 < bits x.wN 12 0), illField)] ++ matrixViol x (fun h => h < 4) }

def shapeMtile (x : XF) (addr : Bool) : Shape :=
  { d := ⟨.m, .dst⟩, a := if addr then .vsrc else .no, c := .raw, pred := false, uni := false,
    viol := [(decide (1 ≤ x.vN), illFunction), (addr && !x.sa, illModifier), (addr && decide (x.ownN = 1), illField),
      (!addr && decide (x.own ≠ 0), illField)] ++ matrixViol x (fun h => h = 0) }

def shapeScac (x : XF) : Shape :=
  { d := ⟨.m, .dst⟩, a := .vsrc, b := ⟨.m, .src⟩, c := .raw, pred := false, uni := false,
    viol := [(decide (1 ≤ x.vN), illFunction), (!x.sa, illModifier)] ++ matrixViol x (fun h => h = 0) }

def shapeCvset (x : XF) : Shape :=
  { d := ⟨.cv, .dst⟩, w2z := false, pred := false, uni := false,
    viol := [(decide (1 ≤ x.vN), illFunction), (decide (x.own ≠ 0), illModifier), (decide (1024 < x.wN), illField)] }

def shapeMstat (x : XF) : Shape :=
  { d := .vdst, c := if x.vN = 0 then .raw else .no,
    viol := [(decide (2 ≤ x.vN), illFunction), (decide (x.own ≠ 0), illModifier), (decide (16 ≤ x.cN), illField)] }

/-! ## The CSR map (R319) -/

inductive CsrAccess where
  | ro | rw | w1c
  deriving DecidableEq, Repr

/-- Width and kernel access of a CSR number, if it names one (R319). -/
def csrInfo (n : Nat) : Option (Nat × CsrAccess) :=
  if n ≤ 0x07 then some (32, .ro)
  else match n with
    | 0x10 => some (32, .rw)
    | 0x11 => some (32, .rw)
    | 0x12 => some (32, .rw)
    | 0x13 => some (64, .ro)
    | 0x14 => some (32, .rw)
    | 0x20 => some (32, .rw)
    | 0x21 => some (32, .rw)
    | 0x22 => some (32, .rw)
    | 0x28 => some (32, .ro)
    | 0x30 => some (64, .ro)
    | 0x31 => some (32, .ro)
    | 0x32 => some (32, .w1c)
    | 0x38 => some (32, .ro)
    | 0x39 => some (32, .ro)
    | 0x3A => some (32, .ro)
    | 0x40 => some (64, .ro)
    | 0x41 => some (64, .ro)
    | _ => none

def csrWide (n : Nat) : Bool :=
  match csrInfo n with
  | some (64, _) => true
  | _ => false

def shapeCsrr (x : XF) : Shape :=
  { d := .vw (csrWide x.a.toNat) .dst, a := .raw,
    viol := [(decide (1 ≤ x.vN), illFunction), (decide (x.own ≠ 0), illModifier),
      ((csrInfo x.a.toNat).isNone, illRegister)] }

/-- CSRW, CSRS and CSRC; `clr`: CSRC, which ERRSTAT does not take (R322). -/
def shapeCsrWrite (x : XF) (clr : Bool) : Shape :=
  { d := .raw, a := if x.imm then .no else .vw (csrWide x.d.toNat) .src, c := .raw, w2z := !x.imm, uni := false,
    viol := [(decide (1 ≤ x.vN), illFunction), (decide (x.own ≠ 0), illModifier), (decide (2 ≤ x.cN), illField),
      ((csrInfo x.d.toNat).isNone, illRegister)],
    use := match csrInfo x.d.toNat with
      | some (_, .ro) => true
      | some (_, .w1c) => clr
      | _ => false }

def shapeMode (x : XF) : Shape :=
  { w2z := false, pred := false,
    viol := [(decide (1 ≤ x.vN), illFunction), (decide (x.own ≠ 0), illModifier),
      (decide (bits x.wN 31 29 ≠ 0) || decide (bits x.wN 15 13 ≠ 0), illField)] }

def shapeTime (x : XF) (nv : Nat) : Shape :=
  { d := ⟨.w, .dst⟩, viol := [(decide (nv ≤ x.vN), illFunction), (decide (x.own ≠ 0), illModifier)] }

/-- QUOTE, ACCEPT and DECLINE (R328). -/
def shapeFront (x : XF) (two : Bool) : Shape :=
  { d := .vdst, a := ⟨.w, .src⟩, b := if two then ⟨.w, .src⟩ else .no, pred := false, uni := false, mix := true,
    viol := [(decide (1 ≤ x.vN), illFunction), (decide (x.own ≠ 0), illModifier), (!x.sa || (two && !x.sb), illModifier)] }

def shapeSleep (x : XF) : Shape :=
  { a := if x.vN = 0 then .no else ⟨.w, .src⟩, c := if x.vN = 0 then .no else .raw, w2z := decide (x.vN ≠ 0), uni := false,
    viol := [(decide (2 ≤ x.vN), illFunction), (decide (x.own ≠ 0), illModifier), (decide (x.vN = 0) && decide (x.wN = 0), illField),
      (decide (32 ≤ x.cN), illField)] }

def shapeBlst (x : XF) : Shape :=
  { w2z := decide (x.vN ≠ 0), pred := false,
    viol := [(decide (2 ≤ x.vN), illFunction), (decide (x.own ≠ 0), illModifier),
      (decide (x.vN = 0) && (decide (2097152 ≤ x.wN) || decide (bits x.wN 20 16 = 0) || decide (16 < bits x.wN 20 16)
        || decide (bits x.wN 15 0 = 0)), illField)] }

/-! ## Checking a shape -/

/-- The class select of a field is defined for its class (R196). -/
def Cls.selectable : Cls → Bool
  | .v => true
  | .w => true
  | .v4 => true
  | .v6 => true
  | .simg _ _ => true
  | _ => false

/-- The field reads a register of class v, s, w or s pair (R198). -/
def Fld.isSource (f : Fld) : Bool := f.cls.selectable && decide (f.role ≠ .dst) && decide (f.role ≠ .own)

/-- The field writes such a register. -/
def Fld.isDest (f : Fld) : Bool := f.cls.selectable && decide (f.role ≠ .src) && decide (f.role ≠ .own)

/-- Registers of class v of a field name a queue port when QP is set (R197). -/
def Fld.namesPort (f : Fld) (sel : Bool) (n : Nat) : Bool := decide (f.cls = .v) && !sel && decide (248 ≤ n)

/-- Every register source is of class s (R196). -/
def Shape.allS (sh : Shape) (x : XF) : Bool :=
  (!sh.d.isSource || x.sd) && (!sh.a.isSource || x.sa) && (!sh.b.isSource || x.sb) && (!sh.c.isSource || x.sc)

/-- The instruction is uniform: it executes once for the crew (R196). -/
def Shape.uniform (sh : Shape) (x : XF) : Bool := x.sd && sh.d.cls.selectable && sh.uni && sh.allS x

/-- The number of a register field is outside its class (R195). -/
def Fld.outside (f : Fld) (sel : Bool) (n : Nat) : Bool :=
  match f.cls with
  | .v => sel && decide (64 ≤ n)
  | .w => if sel then decide (32 ≤ n) else decide (128 ≤ n)
  | .v4 => decide (n % 4 ≠ 0)
  | .v6 => if sel then decide (58 < n) else decide (250 < n)
  | .p => decide (8 ≤ n)
  | .cv => decide (16 ≤ n)
  | .m => decide (16 ≤ n)
  | .simg k _ => decide (64 < n + k)
  | _ => false

/-- A field that holds nothing is nonzero, or an s image is misaligned (R194, R309). -/
def Fld.badField (f : Fld) (n : Nat) : Bool :=
  match f.cls with
  | .none => decide (n ≠ 0)
  | .simg _ al => decide (n % al ≠ 0)
  | _ => false

/-- An s image whose class select is 0 (R309). -/
def Fld.imageUnselected (f : Fld) (sel : Bool) : Bool :=
  match f.cls with
  | .simg _ _ => !sel
  | _ => false

/-- The breaches of R193 to R199 that every X-form is checked for, with the detail of each (R205). -/
def Shape.generic (sh : Shape) (x : XF) : List (Bool × Nat) :=
  [ ((x.sd && !sh.d.cls.selectable) || (x.sa && !sh.a.cls.selectable) || (x.sb && !sh.b.cls.selectable)
      || (x.sc && !sh.c.cls.selectable), illModifier),
    (sh.d.imageUnselected x.sd || sh.a.imageUnselected x.sa, illModifier),
    (x.qp && !(sh.d.namesPort x.sd x.d.toNat || sh.a.namesPort x.sa x.a.toNat || sh.b.namesPort x.sb x.b.toNat
      || sh.c.namesPort x.sc x.c.toNat), illModifier),
    (x.sd && sh.d.cls.selectable && !sh.mix && !(sh.uni && sh.allS x), illModifier),
    (x.pneg && decide (x.pix = 7), illPredicate),
    (!sh.pred && !(decide (x.pix = 7) && !x.pneg), illPredicate),
    (sh.uniform x && !(decide (x.pix = 7) && !x.pneg), illPredicate),
    ((x.fea && !sh.a.isSource) || (x.feb && !sh.b.isSource) || (x.fec && !sh.c.isSource), illPolicy),
    (sh.d.outside x.sd x.d.toNat || sh.a.outside x.sa x.a.toNat || sh.b.outside x.sb x.b.toNat
      || sh.c.outside x.sc x.c.toNat, illRegister),
    (sh.d.badField x.d.toNat || sh.a.badField x.a.toNat || sh.b.badField x.b.toNat || sh.c.badField x.c.toNat, illField),
    (sh.w2z && decide (x.w2 ≠ 0), illField) ]

/-- The least detail among the breaches. Log entry 10: the spec orders causes (R371), not the details of ILLEGAL. -/
def leastDetail : List (Bool × Nat) → Option Nat
  | [] => none
  | (bad, k) :: rest =>
    match leastDetail rest with
    | none => if bad then some k else none
    | some j => if bad && decide (k ≤ j) then some k else some j

/-- The ILLEGAL detail that the words alone decide, none when the encoding is legal. -/
def Shape.check (sh : Shape) (x : XF) : Option Nat := leastDetail (sh.generic x ++ sh.viol)

end Sys2Proof.Machine
end

