-- ==== Sys2Proof/WellFormed.lean ====
section
/-! DEFINITION. WellFormed.lean: the fields and the shape of each instruction, the ILLEGAL detail of its encoding (R205), and
which terms of `Instr` are legal instructions or events. -/

namespace Sys2Proof

open Machine

/-- The fields of an instruction's words; a B-form has the predicate p7 and no class select (R192). -/
def Instr.xf : Instr → XF
  | .nop => .zero
  | .nopX x => x
  | .iadd d a b => .ofB d a b
  | .iaddX x => x
  | .isub d a b => .ofB d a b
  | .isubX x => x
  | .imul d a b => .ofB d a b
  | .imulX x => x
  | .and d a b => .ofB d a b
  | .andX x => x
  | .or d a b => .ofB d a b
  | .orX x => x
  | .xor d a b => .ofB d a b
  | .xorX x => x
  | .shl d a b => .ofB d a b
  | .shlX x => x
  | .shr d a b => .ofB d a b
  | .shrX x => x
  | .sra d a b => .ofB d a b
  | .sraX x => x
  | .iaddImm d a b => .ofB d a b
  | .iaddImmX x => x
  | .mov d a => .ofB d a 0
  | .movX x => x
  | .movi d imm => .ofB d (imm.extractLsb' 8 8) (imm.extractLsb' 0 8)
  | .moviX x => x
  | .moviB64 d _ => .ofB d 0 0
  | .moviB64X x _ => x
  | .fadd d a b => .ofB d a b
  | .faddX x => x
  | .fmul d a b => .ofB d a b
  | .fmulX x => x
  | .ffma d a b => .ofB d a b
  | .ffmaX x => x
  | .fsub d a b => .ofB d a b
  | .fsubX x => x
  | .ldCB32 d a b => .ofB d a b
  | .ldCB32X x => x
  | .stCB32 d a b => .ofB d a b
  | .stCB32X x => x
  | .ldGB32 d a b => .ofB d a b
  | .ldGB32X x => x
  | .stGB32 d a b => .ofB d a b
  | .stGB32X x => x
  | .bra off => .ofB (off.extractLsb' 16 8) (off.extractLsb' 8 8) (off.extractLsb' 0 8)
  | .braX x => x
  | .brc k neg off => .ofB (k ++ (if neg then 1#1 else 0#1) ++ 0#4) (off.extractLsb' 8 8) (off.extractLsb' 0 8)
  | .brcX x => x
  | .loop m off => .ofB (m.extractLsb' 4 8) ((m.extractLsb' 0 4) ++ (off.extractLsb' 8 4)) (off.extractLsb' 0 8)
  | .loopX x => x
  | .endl k neg cnt => .ofB (k ++ (if neg then 1#1 else 0#1) ++ (if cnt then 1#1 else 0#1) ++ 0#3) 0 0
  | .join off => .ofB (off.extractLsb' 16 8) (off.extractLsb' 8 8) (off.extractLsb' 0 8)
  | .region => .zero
  | .sign cv => .ofB (0#4 ++ cv) 0 0
  | .signX x => x
  | .next d => .ofB d 0 0
  | .exit => .zero
  | .exitX x => x
  | .rep count sd sa sb sc => .ofB (0#2 ++ count) (sd ++ sa ++ sb ++ sc) 0
  | .repX count sd sa sb sc => .ofB (0#2 ++ count) (sd ++ sa ++ sb ++ sc) 0
  | .fence scope => .ofB (0#6 ++ scope) 0 0
  | .fenceX x => x
  | .imulh x => x
  | .imad x => x
  | .idiv x => x
  | .irem x => x
  | .imin x => x
  | .imax x => x
  | .iabs x => x
  | .ineg x => x
  | .andn x => x
  | .not x => x
  | .rotl x => x
  | .clz x => x
  | .popc x => x
  | .brev x => x
  | .bfx x => x
  | .bfi x => x
  | .sel x => x
  | .icmp x => x
  | .lea x => x
  | .idot4 x => x
  | .pand x => x
  | .por x => x
  | .pxor x => x
  | .pnot x => x
  | .pmov x => x
  | .fmin x => x
  | .fmax x => x
  | .fabs x => x
  | .fneg x => x
  | .fcmp x => x
  | .fclass x => x
  | .frnd x => x
  | .fcvt x => x
  | .frcp x => x
  | .frsq x => x
  | .fsqrt x => x
  | .fexp2 x => x
  | .flog2 x => x
  | .fsin x => x
  | .fcos x => x
  | .ftanh x => x
  | .qnt x => x
  | .dqnt x => x
  | .cbld x => x
  | .ctld x => x
  | .pack x => x
  | .unpk x => x
  | .jtab x => x
  | .call x => x
  | .ret x => x
  | .tkill x => x
  | .yield x => x
  | .tryRegion x => x
  | .commit x => x
  | .abort x => x
  | .trap x => x
  | .tret x => x
  | .bkpt x => x
  | .ld x => x
  | .st x => x
  | .ldfe x => x
  | .stfe x => x
  | .feset x => x
  | .feclr x => x
  | .pref x => x
  | .atom x => x
  | .cas x => x
  | .fatom x => x
  | .sdrain x => x
  | .waitad x => x
  | .waitc x => x
  | .bar x => x
  | .barinit x => x
  | .barkill x => x
  | .barkillAb x => x
  | .abinit x => x
  | .abwait x => x
  | .abtest x => x
  | .shf x => x
  | .vote x => x
  | .ballot x => x
  | .redux x => x
  | .copy x => x
  | .chain x => x
  | .gather x => x
  | .qbind x => x
  | .qunb x => x
  | .qflush x => x
  | .panrsv x _ => x
  | .panput x _ => x
  | .panrel x => x
  | .panqry x => x
  | .mldb x => x
  | .mma x => x
  | .mmaw x => x
  | .mzero x => x
  | .msta x => x
  | .mlda x => x
  | .scac x => x
  | .cvset x => x
  | .mstat x => x
  | .csrr x => x
  | .csrw x => x
  | .csrs x => x
  | .csrc x => x
  | .mode x => x
  | .time x => x
  | .enrg x => x
  | .quote x => x
  | .accept x => x
  | .decline x => x
  | .sleep x => x
  | .blst x => x
  | .halt x => x
  | _ => .zero

/-- The shape of an instruction's fields. -/
def Instr.shape : Instr → Shape
  | .nop => {}
  | .nopX x => shapeNone x
  | .iadd _ _ _ => { d := .vdst, a := .vsrc, b := .vsrc }
  | .iaddX x => shapeInt x true false
  | .isub _ _ _ => { d := .vdst, a := .vsrc, b := .vsrc }
  | .isubX x => shapeInt x true false
  | .imul _ _ _ => { d := .vdst, a := .vsrc, b := .vsrc }
  | .imulX x => shapeInt x true false
  | .and _ _ _ => { d := .vdst, a := .vsrc, b := .vsrc }
  | .andX x => shapeInt x false false
  | .or _ _ _ => { d := .vdst, a := .vsrc, b := .vsrc }
  | .orX x => shapeInt x false false
  | .xor _ _ _ => { d := .vdst, a := .vsrc, b := .vsrc }
  | .xorX x => shapeInt x false false
  | .shl _ _ _ => { d := .vdst, a := .vsrc, b := .vsrc }
  | .shlX x => shapeInt x false true
  | .shr _ _ _ => { d := .vdst, a := .vsrc, b := .vsrc }
  | .shrX x => shapeInt x false true
  | .sra _ _ _ => { d := .vdst, a := .vsrc, b := .vsrc }
  | .sraX x => shapeInt x false true
  | .iaddImm _ _ _ => { d := .vdst, a := .vsrc, b := .raw }
  | .iaddImmX x => shapeIntImm x
  | .mov _ _ => { d := .vdst, a := .vsrc }
  | .movX x => shapeMov x
  | .movi _ _ => { d := .vdst, a := .raw, b := .raw }
  | .moviX x => shapeMovi x
  | .moviB64 _ _ => { d := ⟨.w, .dst⟩ }
  | .moviB64X x _ => shapeMovi64 x
  | .fadd _ _ _ => { d := .vdst, a := .vsrc, b := .vsrc }
  | .faddX x => shapeFp2 x 1
  | .fmul _ _ _ => { d := .vdst, a := .vsrc, b := .vsrc }
  | .fmulX x => shapeFp2 x 1
  | .ffma _ _ _ => { d := ⟨.v, .both⟩, a := .vsrc, b := .vsrc }
  | .ffmaX x => shapeFfma x
  | .fsub _ _ _ => { d := .vdst, a := .vsrc, b := .vsrc }
  | .fsubX x => shapeFp2 x 1
  | .ldCB32 _ _ _ => { d := .vdst, a := .vsrc, b := .raw }
  | .ldCB32X x => shapeMemShort x false false
  | .stCB32 _ _ _ => { d := .vsrc, a := .vsrc, b := .raw }
  | .stCB32X x => shapeMemShort x false true
  | .ldGB32 _ _ _ => { d := .vdst, a := ⟨.w, .src⟩, b := .raw }
  | .ldGB32X x => shapeMemShort x true false
  | .stGB32 _ _ _ => { d := .vsrc, a := ⟨.w, .src⟩, b := .raw }
  | .stGB32X x => shapeMemShort x true true
  | .bra _ => { d := .raw, a := .raw, b := .raw }
  | .braX x => shapeBraX x
  | .brc k _ _ => { d := .raw, a := .raw, b := .raw, preds := [k.toNat] }
  | .brcX x => shapeBrcX x
  | .loop _ _ => { d := .raw, a := .raw, b := .raw }
  | .loopX x => shapeLoopX x
  | .endl k _ _ => { d := .raw, a := .raw, b := .raw, preds := [k.toNat] }
  | .join _ => { d := .raw, a := .raw, b := .raw }
  | .region => {}
  | .sign _ => { d := .raw, a := .raw, b := .raw }
  | .signX x => shapeSignX x
  | .next _ => { d := .vdst }
  | .exit => {}
  | .exitX x => shapeNone x
  | .rep _ _ _ _ _ => { d := .raw, a := .raw, b := .raw }
  | .repX _ _ _ _ _ => { d := .raw, a := .raw, pred := false }
  | .fence _ => { d := .raw, a := .raw, b := .raw }
  | .fenceX x => shapeFenceX x
  | .imulh x => shapeInt2 x 3 false
  | .imad x => shapeImad x
  | .idiv x => shapeInt2 x 2 false
  | .irem x => shapeInt2 x 2 false
  | .imin x => shapeInt2 x 2 false
  | .imax x => shapeInt2 x 2 false
  | .iabs x => shapeInt1 x true 2
  | .ineg x => shapeInt1 x true 2
  | .andn x => shapeInt2 x 1 false
  | .not x => shapeInt1 x true 1
  | .rotl x => shapeInt2 x 1 true
  | .clz x => shapeInt1 x false 1
  | .popc x => shapeInt1 x false 1
  | .brev x => shapeInt1 x true 1
  | .bfx x => shapeBfx x
  | .bfi x => shapeBfi x
  | .sel x => shapeSel x
  | .icmp x => shapeIcmp x
  | .lea x => shapeLea x
  | .idot4 x => shapeIdot4 x
  | .pand x => shapePred x true
  | .por x => shapePred x true
  | .pxor x => shapePred x true
  | .pnot x => shapePred x false
  | .pmov x => shapePmov x
  | .fmin x => shapeFp2 x 1
  | .fmax x => shapeFp2 x 1
  | .fabs x => shapeFp1 x
  | .fneg x => shapeFp1 x
  | .fcmp x => shapeFcmp x
  | .fclass x => shapeFp1 x
  | .frnd x => shapeFrnd x
  | .fcvt x => shapeFcvt x
  | .frcp x => shapeFp1 x
  | .frsq x => shapeFp1 x
  | .fsqrt x => shapeFp1 x
  | .fexp2 x => shapeFp1 x
  | .flog2 x => shapeFp1 x
  | .fsin x => shapeFp1 x
  | .fcos x => shapeFp1 x
  | .ftanh x => shapeFp1 x
  | .qnt x => shapeQnt x
  | .dqnt x => shapeDqnt x
  | .cbld x => shapeTableLoad x 16
  | .ctld x => shapeTableLoad x 4
  | .pack x => shapePack x
  | .unpk x => shapeUnpk x
  | .jtab x => shapeJtab x
  | .call x => shapeCall x
  | .ret x => shapeNone x
  | .tkill x => shapeTkill x
  | .yield x => shapeW2 x true 1 255
  | .tryRegion x => shapeTry x
  | .commit x => shapeNone x
  | .abort x => shapeW2 x true 0 255
  | .trap x => shapeW2 x true 0 255
  | .tret x => { shapeNone x with pred := false }
  | .bkpt x => shapeW2 x true 0 255
  | .ld x => shapeLd x
  | .st x => shapeSt x
  | .ldfe x => shapeLdfe x
  | .stfe x => shapeStfe x
  | .feset x => shapeFeRange x
  | .feclr x => shapeFeRange x
  | .pref x => shapePref x
  | .atom x => shapeAtom x 11 false
  | .cas x => shapeCas x
  | .fatom x => shapeAtom x 4 true
  | .sdrain x => shapeNone x
  | .waitad x => shapeWaitad x
  | .waitc x => shapeWaitc x
  | .bar x => shapeBar x
  | .barinit x => shapeBarinit x
  | .barkill x => { shapeBarkill x with viol := (decide (x.vN ≠ 0), illFunction) :: (shapeBarkill x).viol }
  | .barkillAb x => { shapeBarkillAb x with viol := [(decide (x.vN ≠ 1), illFunction)] }
  | .abinit x => shapeAbinit x
  | .abwait x => shapeAbwait x false
  | .abtest x => shapeAbwait x true
  | .shf x => shapeShf x
  | .vote x => shapeVote x
  | .ballot x => shapeBallot x
  | .redux x => shapeRedux x
  | .copy x => shapeImage x 16 16 7
  | .chain x => shapeChain x
  | .gather x => shapeImage x 8 8 255
  | .qbind x => shapeQbind x
  | .qunb x => shapeQport x
  | .qflush x => shapeQport x
  | .panrsv x _ => shapePanrsv x
  | .panput x _ => shapePanput x
  | .panrel x => shapePanrel x
  | .panqry x => shapePanqry x
  | .mldb x => shapeMldb x
  | .mma x => shapeMma x
  | .mmaw x => shapeMmaw x
  | .mzero x => shapeMtile x false
  | .msta x => shapeMtile x true
  | .mlda x => shapeMtile x true
  | .scac x => shapeScac x
  | .cvset x => shapeCvset x
  | .mstat x => shapeMstat x
  | .csrr x => shapeCsrr x
  | .csrw x => shapeCsrWrite x false
  | .csrs x => shapeCsrWrite x false
  | .csrc x => shapeCsrWrite x true
  | .mode x => shapeMode x
  | .time x => shapeTime x 1
  | .enrg x => shapeTime x 2
  | .quote x => shapeFront x true
  | .accept x => shapeFront x false
  | .decline x => shapeFront x false
  | .sleep x => shapeSleep x
  | .blst x => shapeBlst x
  | .halt x => shapeW2 x false 0 65535
  | _ => {}

/-- The row is an event of the module, not an instruction of a crew. -/
def Instr.isEvent : Instr → Bool
  | .walkRequest _ _ _ _ _ => true
  | .walkEntryRead _ _ => true
  | .tlbParityRefill _ _ _ => true
  | .invalidatePage _ _ _ => true
  | .invalidateAsid _ _ => true
  | .invalidateAllAsids _ _ => true
  | .forcedInvalidation _ _ _ _ => true
  | .invalidationComplete _ _ => true
  | .fillRequest _ _ _ => true
  | .storeAtHome _ _ _ => true
  | .pendingStorePerformed _ => true
  | .atomicAtHome _ _ _ => true
  | .storeAck _ _ _ => true
  | .portStoreReport _ _ _ => true
  | .stRetire _ _ => true
  | .loadReturn _ _ => true
  | .longLatencyResult _ _ => true
  | .fenceRelease _ _ => true
  | .ldfeRepresentation _ _ _ => true
  | .waitadReread _ _ => true
  | .timeoutExpiry _ _ => true
  | .hostSnoopOwnership _ _ => true
  | .hostSnoopData _ _ => true
  | .hostInboundWrite _ _ _ _ _ => true
  | .hostInboundRead _ _ _ _ => true
  | .l2WayMaskWrite _ _ _ => true
  | .l2WayReductionDone _ _ => true
  | .commitLockRequest _ _ _ => true
  | .commitDecide _ _ => true
  | .commitDecisionAtHome _ _ _ => true
  | .regionAbort _ _ => true
  | .regionWctReport _ _ => true
  | .regionWctForward _ _ => true
  | .completionSignal _ _ => true
  | .hostCompletionPost _ => true
  | .transferStart _ _ => true
  | .transferComplete _ _ => true
  | .chunkComplete _ _ _ => true
  | .homedContribution _ _ => true
  | .chainRecordRead _ _ => true
  | .gatherStart _ _ => true
  | .gatherRowComplete _ _ _ => true
  | .streamPrefetchRead _ _ _ => true
  | .streamPushWrite _ _ _ => true
  | .trapEntry _ _ => true
  | .storeCheckFail _ _ => true
  | .panrsvArrival _ _ _ _ _ _ _ _ _ _ _ => true
  | .slotZeroingDone _ _ => true
  | .panrsvReply _ _ _ _ _ => true
  | .panputArrival _ _ _ _ _ _ _ _ => true
  | .panputAck _ _ _ => true
  | .slotExpiry _ _ => true
  | .panResponseTimeout _ _ => true
  | .portDown _ => true
  | .portRetrain _ => true
  | .portRetrainComplete _ _ => true
  | .flitCrcFail _ => true
  | .celoreStop _ _ => true
  | .celoreGo _ _ => true
  | .portTraining _ _ _ _ => true
  | .peerTableWrite _ _ => true
  | .kernelLoad _ _ _ => true
  | .blockStart _ _ => true
  | .dcbWrite _ _ => true
  | .signatureCount _ _ => true
  | .matrixOpStart _ _ => true
  | .matrixOpComplete _ _ => true
  | .windrowDeadlineFire _ _ => true
  | .windrowBArrived _ _ => true
  | .windrowFireComplete _ _ => true
  | .slewLimiterStep _ => true
  | .controlIntervalBoundary => true
  | .railReachedPoint _ => true
  | .railFault _ _ => true
  | .budgetWindowBoundary => true
  | .telemetrySample => true
  | .eventWindowEnd _ => true
  | .quoteRequest _ _ => true
  | .acceptRequest _ _ => true
  | .acceptTakesEffect => true
  | .declineRequest _ _ => true
  | .launchStart _ => true
  | .launchReplay _ _ => true
  | .breachAllowanceExpiry _ => true
  | .handlerTimeout _ => true
  | .queueDescriptorWrite _ _ => true
  | .queueProgramLoad _ => true
  | .notify _ _ _ _ => true
  | .cqack _ _ _ _ => true
  | .packetStart _ _ => true
  | .packetBudgetExhausted _ => true
  | .preemptRequest _ _ => true
  | .preemptWithdraw _ _ => true
  | .graceTimerExpiry _ _ => true
  | .drainTimerExpiry _ _ => true
  | .killTimerExpiry _ _ => true
  | .blockStopComplete _ _ => true
  | .shadowExchangeDone _ => true
  | .tenantResume _ _ => true
  | .ownerByteWrite _ _ _ _ => true
  | .frozenContextKill _ => true
  | .modulePowerControlWrite _ => true
  | .rampTableWrite _ _ => true
  | .managementWrite _ _ _ _ => true
  | .ballastEnd _ _ => true
  | .sleepWake _ _ => true
  | .hostPortTraining _ _ _ => true
  | .functionLevelReset _ _ => true
  | .queueReset _ _ _ => true
  | .queueResetDone _ _ => true
  | .msixVectorUnmask _ _ _ => true
  | .getVersion _ => true
  | .getCapabilities _ => true
  | .negotiateAlgorithms _ _ _ => true
  | .getDigests _ => true
  | .getCertificate _ => true
  | .challenge _ _ => true
  | .getMeasurements _ _ => true
  | .coldReset => true
  | .warmReset => true
  | .powerDown => true
  | .storeChecksPass _ _ => true
  | .invcmdRefused _ _ _ => true
  | .ptpTimeSync _ _ _ => true
  | _ => false

/-- Breaches of a B-form's own fields that its shape does not hold (R201, R227, R228). -/
def Instr.bViol : Instr → List (Bool × Nat)
  | .loop _ off => [(decide (off = 0), illField)]
  | .endl k neg cnt => [(cnt && !(decide (k = 7) && !neg), illField)]
  | .rep _ sd sa sb sc => [(decide (sd = 3 ∨ sa = 3 ∨ sb = 3 ∨ sc = 3), illField)]
  | .repX _ sd sa sb sc => [(decide (sd = 3 ∨ sa = 3 ∨ sb = 3 ∨ sc = 3), illField)]
  | _ => []

/-- The X-form of an opcode below 0x20, whose FN and VAR are 0 (R193, R203). -/
def Instr.noVariant : Instr → Bool
  | .nopX _ | .iaddX _ | .isubX _ | .imulX _ | .andX _ | .orX _ | .xorX _ | .shlX _ | .shrX _ | .sraX _ | .iaddImmX _ | .movX _ | .moviX _ |
  .faddX _ | .fmulX _ | .ffmaX _ | .fsubX _ | .ldCB32X _ | .stCB32X _ | .ldGB32X _ | .stGB32X _ | .braX _ | .brcX _ | .loopX _ | .signX _ |
  .exitX _ | .fenceX _ | .moviB64X _ _ => true
  | _ => false

/-- The ILLEGAL detail that the words of an instruction decide; none for a legal encoding (R205) and for an event. -/
def Instr.illegal (i : Instr) : Option Nat :=
  leastDetail (i.shape.generic i.xf ++ i.shape.viol ++ i.bViol ++ [(i.noVariant && decide (i.xf.var ≠ 0), illFunction)])

/-- A legal instruction, or an event. -/
def Instr.wf (i : Instr) : Bool := i.isEvent || i.illegal.isNone

end Sys2Proof
end

