-- ==== Sys2Proof/Decode.lean ====
section
/-! DEFINITION. Decode.lean: from words to an instruction or to the ILLEGAL detail that names why they are none (R191 to R205),
and after it the encoder, written from the same tables. -/

namespace Sys2Proof

open Machine

/-- What stands at a PC: an instruction and its length in words, or an ILLEGAL detail (R205). -/
inductive Decoded where
  | ok (i : Instr) (words : Nat)
  | bad (detail : Nat)
  deriving DecidableEq, Repr

/-- Words of an instruction by LEN (R191). -/
def lenWords (len : Nat) : Nat :=
  match len with
  | 0 => 1 | 1 => 3 | 2 => 3 | _ => 5

/-- The fields of the three words of an X-form (R192, R193, R194). -/
def XF.ofWords (w0 w1 w2 : Word) : XF :=
  { d := w0.extractLsb' 16 8, a := w0.extractLsb' 8 8, b := w0.extractLsb' 0 8, var := w1.extractLsb' 22 4,
    pix := w1.extractLsb' 19 3, pneg := w1.getLsbD 18, fea := w1.getLsbD 17, feb := w1.getLsbD 16, fec := w1.getLsbD 15,
    c := w1.extractLsb' 7 8, sd := w1.getLsbD 6, sa := w1.getLsbD 5, sb := w1.getLsbD 4, sc := w1.getLsbD 3,
    qp := w1.getLsbD 2, own := w1.extractLsb' 0 2, w2 := w2 }

/-- The X-form of an opcode below 0x20 (R203). `lit`: it carries a literal. -/
def xBase (opc : Nat) (x : XF) (hasLit : Bool) (lit : BitVec 64) : Except Nat Instr :=
  match opc with
  | 0x00 => .ok (.nopX x)
  | 0x01 => .ok (.iaddX x)
  | 0x02 => .ok (.isubX x)
  | 0x03 => .ok (.imulX x)
  | 0x04 => .ok (.andX x)
  | 0x05 => .ok (.orX x)
  | 0x06 => .ok (.xorX x)
  | 0x07 => .ok (.shlX x)
  | 0x08 => .ok (.shrX x)
  | 0x09 => .ok (.sraX x)
  | 0x0A => .ok (.iaddImmX x)
  | 0x0B => .ok (.movX x)
  | 0x0C => .ok (if hasLit then .moviB64X x lit else .moviX x)
  | 0x0D => .ok (.faddX x)
  | 0x0E => .ok (.fmulX x)
  | 0x0F => .ok (.ffmaX x)
  | 0x10 => .ok (.fsubX x)
  | 0x11 => .ok (.ldCB32X x)
  | 0x12 => .ok (.stCB32X x)
  | 0x13 => .ok (.ldGB32X x)
  | 0x14 => .ok (.stGB32X x)
  | 0x15 => .ok (.braX x)
  | 0x16 => .ok (.brcX x)
  | 0x17 => .ok (.loopX x)
  | 0x1B => .ok (.signX x)
  | 0x1D => .ok (.exitX x)
  | 0x1E =>
    match leastDetail ((decide (x.own ≠ 0), illModifier) :: (decide (bits x.d.toNat 7 6 ≠ 0 ∨ x.b ≠ 0), illField)
        :: (Instr.repX 0 0 0 0 0).shape.generic { x with d := 0, a := 0, b := 0 }) with
      | some k => .error k
      | none => .ok (.repX (x.d.extractLsb' 0 6) (x.a.extractLsb' 6 2) (x.a.extractLsb' 4 2) (x.a.extractLsb' 2 2)
          (x.a.extractLsb' 0 2))
  | 0x1F => .ok (.fenceX x)
  | _ => .error illForm

/-- The B-form of an opcode (R203), its unused bits checked. -/
def bForm (opc : Nat) (w : Word) : Except Nat Instr :=
  let d : BitVec 8 := w.extractLsb' 16 8
  let a : BitVec 8 := w.extractLsb' 8 8
  let b : BitVec 8 := w.extractLsb' 0 8
  let need (ok : Bool) (i : Instr) : Except Nat Instr := if ok then .ok i else .error illField
  match opc with
  | 0x00 => need (decide (w.extractLsb' 0 24 = 0#24)) .nop
  | 0x01 => .ok (.iadd d a b)
  | 0x02 => .ok (.isub d a b)
  | 0x03 => .ok (.imul d a b)
  | 0x04 => .ok (.and d a b)
  | 0x05 => .ok (.or d a b)
  | 0x06 => .ok (.xor d a b)
  | 0x07 => .ok (.shl d a b)
  | 0x08 => .ok (.shr d a b)
  | 0x09 => .ok (.sra d a b)
  | 0x0A => .ok (.iaddImm d a b)
  | 0x0B => need (decide (b = 0)) (.mov d a)
  | 0x0C => .ok (.movi d (w.extractLsb' 0 16))
  | 0x0D => .ok (.fadd d a b)
  | 0x0E => .ok (.fmul d a b)
  | 0x0F => .ok (.ffma d a b)
  | 0x10 => .ok (.fsub d a b)
  | 0x11 => .ok (.ldCB32 d a b)
  | 0x12 => .ok (.stCB32 d a b)
  | 0x13 => .ok (.ldGB32 d a b)
  | 0x14 => .ok (.stGB32 d a b)
  | 0x15 => .ok (.bra (w.extractLsb' 0 24))
  | 0x16 => need (decide (w.extractLsb' 16 4 = 0#4)) (.brc (w.extractLsb' 21 3) (w.getLsbD 20) (w.extractLsb' 0 16))
  | 0x17 => need (decide (w.extractLsb' 0 12 ≠ 0#12)) (.loop (w.extractLsb' 12 12) (w.extractLsb' 0 12))
  | 0x18 => need (decide (w.extractLsb' 0 19 = 0#19)) (.endl (w.extractLsb' 21 3) (w.getLsbD 20) (w.getLsbD 19))
  | 0x19 => .ok (.join (w.extractLsb' 0 24))
  | 0x1A => need (decide (w.extractLsb' 0 24 = 0#24)) .region
  | 0x1B => need (decide (w.extractLsb' 20 4 = 0#4 ∧ w.extractLsb' 0 16 = 0#16)) (.sign (w.extractLsb' 16 4))
  | 0x1C => need (decide (w.extractLsb' 0 16 = 0#16)) (.next d)
  | 0x1D => need (decide (w.extractLsb' 0 24 = 0#24)) .exit
  | 0x1E => need (decide (w.extractLsb' 22 2 = 0#2 ∧ b = 0))
      (.rep (w.extractLsb' 16 6) (w.extractLsb' 14 2) (w.extractLsb' 12 2) (w.extractLsb' 10 2) (w.extractLsb' 8 2))
  | 0x1F => need (decide (w.extractLsb' 18 6 = 0#6 ∧ w.extractLsb' 0 16 = 0#16)) (.fence (w.extractLsb' 16 2))
  | _ => .error illOpcode

/-- The instruction that a group's function names, `f` being FN bits 9:4 (R204). -/
def groupFn (opc f : Nat) (x : XF) (lit : BitVec 64) : Option Instr :=
  match opc with
  | 0x20 =>
    match f with
    | 0x00 => some (.imulh x)
    | 0x01 => some (.imad x)
    | 0x02 => some (.idiv x)
    | 0x03 => some (.irem x)
    | 0x04 => some (.imin x)
    | 0x05 => some (.imax x)
    | 0x06 => some (.iabs x)
    | 0x07 => some (.ineg x)
    | 0x08 => some (.andn x)
    | 0x09 => some (.not x)
    | 0x0A => some (.rotl x)
    | 0x0B => some (.clz x)
    | 0x0C => some (.popc x)
    | 0x0D => some (.brev x)
    | 0x0E => some (.bfx x)
    | 0x0F => some (.bfi x)
    | 0x10 => some (.sel x)
    | 0x11 => some (.icmp x)
    | 0x12 => some (.lea x)
    | 0x13 => some (.idot4 x)
    | _ => none
  | 0x21 =>
    match f with
    | 0x00 => some (.pand x)
    | 0x01 => some (.por x)
    | 0x02 => some (.pxor x)
    | 0x03 => some (.pnot x)
    | 0x04 => some (.pmov x)
    | _ => none
  | 0x22 =>
    match f with
    | 0x00 => some (.fmin x)
    | 0x01 => some (.fmax x)
    | 0x02 => some (.fabs x)
    | 0x03 => some (.fneg x)
    | 0x04 => some (.fcmp x)
    | 0x05 => some (.fclass x)
    | 0x06 => some (.frnd x)
    | 0x07 => some (.fcvt x)
    | _ => none
  | 0x23 =>
    match f with
    | 0x00 => some (.frcp x)
    | 0x01 => some (.frsq x)
    | 0x02 => some (.fsqrt x)
    | 0x03 => some (.fexp2 x)
    | 0x04 => some (.flog2 x)
    | 0x05 => some (.fsin x)
    | 0x06 => some (.fcos x)
    | 0x07 => some (.ftanh x)
    | _ => none
  | 0x24 =>
    match f with
    | 0x00 => some (.qnt x)
    | 0x01 => some (.dqnt x)
    | 0x02 => some (.cbld x)
    | 0x03 => some (.ctld x)
    | 0x04 => some (.pack x)
    | 0x05 => some (.unpk x)
    | _ => none
  | 0x25 =>
    match f with
    | 0x00 => some (.jtab x)
    | 0x01 => some (.call x)
    | 0x02 => some (.ret x)
    | 0x03 => some (.tkill x)
    | 0x04 => some (.yield x)
    | 0x05 => some (.tryRegion x)
    | 0x06 => some (.commit x)
    | 0x07 => some (.abort x)
    | 0x08 => some (.trap x)
    | 0x09 => some (.tret x)
    | 0x0A => some (.bkpt x)
    | _ => none
  | 0x26 =>
    match f with
    | 0x00 => some (.ld x)
    | 0x01 => some (.st x)
    | 0x02 => some (.ldfe x)
    | 0x03 => some (.stfe x)
    | 0x04 => some (.feset x)
    | 0x05 => some (.feclr x)
    | 0x06 => some (.pref x)
    | _ => none
  | 0x27 =>
    match f with
    | 0x00 => some (.atom x)
    | 0x01 => some (.cas x)
    | 0x02 => some (.fatom x)
    | _ => none
  | 0x28 =>
    match f with
    | 0x00 => some (.sdrain x)
    | 0x01 => some (.waitad x)
    | 0x02 => some (.waitc x)
    | 0x03 => some (.bar x)
    | 0x04 => some (.barinit x)
    | 0x05 => if x.var = 0 then some (.barkill x) else some (.barkillAb x)
    | 0x06 => some (.abinit x)
    | 0x07 => some (.abwait x)
    | 0x08 => some (.abtest x)
    | _ => none
  | 0x29 =>
    match f with
    | 0x00 => some (.shf x)
    | 0x01 => some (.vote x)
    | 0x02 => some (.ballot x)
    | 0x03 => some (.redux x)
    | _ => none
  | 0x2A =>
    match f with
    | 0x00 => some (.copy x)
    | 0x01 => some (.chain x)
    | 0x02 => some (.gather x)
    | 0x03 => some (.qbind x)
    | 0x04 => some (.qunb x)
    | 0x05 => some (.qflush x)
    | _ => none
  | 0x2B =>
    match f with
    | 0x00 => some (.panrsv x lit)
    | 0x01 => some (.panput x lit)
    | 0x02 => some (.panrel x)
    | 0x03 => some (.panqry x)
    | _ => none
  | 0x2C =>
    match f with
    | 0x00 => some (.mldb x)
    | 0x01 => some (.mma x)
    | 0x02 => some (.mmaw x)
    | 0x03 => some (.mzero x)
    | 0x04 => some (.msta x)
    | 0x05 => some (.mlda x)
    | 0x06 => some (.scac x)
    | 0x07 => some (.cvset x)
    | 0x08 => some (.mstat x)
    | _ => none
  | 0x2D =>
    match f with
    | 0x00 => some (.csrr x)
    | 0x01 => some (.csrw x)
    | 0x02 => some (.csrs x)
    | 0x03 => some (.csrc x)
    | 0x04 => some (.mode x)
    | 0x05 => some (.time x)
    | 0x06 => some (.enrg x)
    | 0x07 => some (.quote x)
    | 0x08 => some (.accept x)
    | 0x09 => some (.decline x)
    | 0x0A => some (.sleep x)
    | 0x0B => some (.blst x)
    | 0x0C => some (.halt x)
    | _ => none
  | _ => none

/-- PANRSV and PANPUT, which must carry a literal (R316, R317). -/
def needsLit (opc f : Nat) : Bool := decide (opc = 0x2B ∧ f < 2)

/-- The words from a PC on, read as one instruction before its fields are checked (R191, R203, R204). An instruction whose words run past the end of the
image is FETCH, whatever else the words that are there would break (log entry 229). -/
def parse : List Word → Except Nat (Instr × Nat)
  | [] => .error illFetch
  | w0 :: rest =>
    let len := (w0.extractLsb' 30 2).toNat
    let opc := (w0.extractLsb' 24 6).toNat
    if 0x2E ≤ opc ∨ (0x20 ≤ opc ∧ len % 2 = 0) then .error illOpcode
    else match len, rest with
      | 0, _ => (bForm opc w0).map fun i => (i, 1)
      | 1, w1 :: w2 :: _ =>
        let x := XF.ofWords w0 w1 w2
        let f := (w1.extractLsb' 26 6).toNat
        if opc < 0x20 then
          if f ≠ 0 ∨ x.var ≠ 0 then .error illFunction else (xBase opc x false 0).map fun i => (i, 3)
        else match groupFn opc f x 0 with
          | none => .error illFunction
          | some i => if needsLit opc f then .error illForm else .ok (i, 3)
      | 2, w1 :: w2 :: _ =>
        if opc ≠ 0x0C then .error illForm
        else if w0.extractLsb' 0 16 ≠ 0#16 then .error illField
        else .ok (.moviB64 (w0.extractLsb' 16 8) (w2 ++ w1), 3)
      | 3, w1 :: w2 :: w3 :: w4 :: _ =>
        let x := XF.ofWords w0 w1 w2
        let f := (w1.extractLsb' 26 6).toNat
        if opc < 0x20 then
          if f ≠ 0 ∨ x.var ≠ 0 then .error illFunction
          else if opc ≠ 0x0C then .error illForm else (xBase opc x true (w4 ++ w3)).map fun i => (i, 5)
        else match groupFn opc f x (w4 ++ w3) with
          | none => .error illFunction
          | some i => if needsLit opc f then .ok (i, 5) else .error illForm
      | _, _ => .error illFetch

/-- The instruction at the head of a word list, or the ILLEGAL detail (R205). -/
def decode (ws : List Word) : Decoded :=
  match parse ws with
  | .error k => .bad k
  | .ok (i, n) =>
    match i.illegal with
    | some k => .bad k
    | none => .ok i n

/-- The words of a byte string, each little-endian (R191); a last incomplete word is dropped. -/
def wordsOfBytes : List Byte → List Word
  | b0 :: b1 :: b2 :: b3 :: rest => (b3 ++ b2 ++ b1 ++ b0) :: wordsOfBytes rest
  | _ => []

/-- The instruction that the first bytes hold. -/
def decodeBytes (bs : List Byte) : Decoded := decode (wordsOfBytes bs)

/-- The instruction at the head of a code image of bits `w`, the first word's bits lowest; bits above `nbits` are 0, up to the
longest instruction of five words. -/
def decodeTableWord (nbits w : Nat) : Option Instr :=
  match decodeBytes (leBytes 20 (w % 2 ^ nbits)) with
  | .ok i _ => some i
  | .bad _ => none

/-! ## The encoder -/

/-- The opcode and the function (FN bits 9:4) of an instruction (R203, R204). -/
def Instr.opcFn : Instr → BitVec 6 × BitVec 6
  | .nop => (0x00, 0x00)
  | .nopX _ => (0x00, 0x00)
  | .iadd _ _ _ => (0x01, 0x00)
  | .iaddX _ => (0x01, 0x00)
  | .isub _ _ _ => (0x02, 0x00)
  | .isubX _ => (0x02, 0x00)
  | .imul _ _ _ => (0x03, 0x00)
  | .imulX _ => (0x03, 0x00)
  | .and _ _ _ => (0x04, 0x00)
  | .andX _ => (0x04, 0x00)
  | .or _ _ _ => (0x05, 0x00)
  | .orX _ => (0x05, 0x00)
  | .xor _ _ _ => (0x06, 0x00)
  | .xorX _ => (0x06, 0x00)
  | .shl _ _ _ => (0x07, 0x00)
  | .shlX _ => (0x07, 0x00)
  | .shr _ _ _ => (0x08, 0x00)
  | .shrX _ => (0x08, 0x00)
  | .sra _ _ _ => (0x09, 0x00)
  | .sraX _ => (0x09, 0x00)
  | .iaddImm _ _ _ => (0x0A, 0x00)
  | .iaddImmX _ => (0x0A, 0x00)
  | .mov _ _ => (0x0B, 0x00)
  | .movX _ => (0x0B, 0x00)
  | .movi _ _ => (0x0C, 0x00)
  | .moviX _ => (0x0C, 0x00)
  | .moviB64 _ _ => (0x0C, 0x00)
  | .moviB64X _ _ => (0x0C, 0x00)
  | .fadd _ _ _ => (0x0D, 0x00)
  | .faddX _ => (0x0D, 0x00)
  | .fmul _ _ _ => (0x0E, 0x00)
  | .fmulX _ => (0x0E, 0x00)
  | .ffma _ _ _ => (0x0F, 0x00)
  | .ffmaX _ => (0x0F, 0x00)
  | .fsub _ _ _ => (0x10, 0x00)
  | .fsubX _ => (0x10, 0x00)
  | .ldCB32 _ _ _ => (0x11, 0x00)
  | .ldCB32X _ => (0x11, 0x00)
  | .stCB32 _ _ _ => (0x12, 0x00)
  | .stCB32X _ => (0x12, 0x00)
  | .ldGB32 _ _ _ => (0x13, 0x00)
  | .ldGB32X _ => (0x13, 0x00)
  | .stGB32 _ _ _ => (0x14, 0x00)
  | .stGB32X _ => (0x14, 0x00)
  | .bra _ => (0x15, 0x00)
  | .braX _ => (0x15, 0x00)
  | .brc _ _ _ => (0x16, 0x00)
  | .brcX _ => (0x16, 0x00)
  | .loop _ _ => (0x17, 0x00)
  | .loopX _ => (0x17, 0x00)
  | .endl _ _ _ => (0x18, 0x00)
  | .join _ => (0x19, 0x00)
  | .region => (0x1A, 0x00)
  | .sign _ => (0x1B, 0x00)
  | .signX _ => (0x1B, 0x00)
  | .next _ => (0x1C, 0x00)
  | .exit => (0x1D, 0x00)
  | .exitX _ => (0x1D, 0x00)
  | .rep _ _ _ _ _ => (0x1E, 0x00)
  | .repX _ _ _ _ _ => (0x1E, 0x00)
  | .fence _ => (0x1F, 0x00)
  | .fenceX _ => (0x1F, 0x00)
  | .imulh _ => (0x20, 0x00)
  | .imad _ => (0x20, 0x01)
  | .idiv _ => (0x20, 0x02)
  | .irem _ => (0x20, 0x03)
  | .imin _ => (0x20, 0x04)
  | .imax _ => (0x20, 0x05)
  | .iabs _ => (0x20, 0x06)
  | .ineg _ => (0x20, 0x07)
  | .andn _ => (0x20, 0x08)
  | .not _ => (0x20, 0x09)
  | .rotl _ => (0x20, 0x0A)
  | .clz _ => (0x20, 0x0B)
  | .popc _ => (0x20, 0x0C)
  | .brev _ => (0x20, 0x0D)
  | .bfx _ => (0x20, 0x0E)
  | .bfi _ => (0x20, 0x0F)
  | .sel _ => (0x20, 0x10)
  | .icmp _ => (0x20, 0x11)
  | .lea _ => (0x20, 0x12)
  | .idot4 _ => (0x20, 0x13)
  | .pand _ => (0x21, 0x00)
  | .por _ => (0x21, 0x01)
  | .pxor _ => (0x21, 0x02)
  | .pnot _ => (0x21, 0x03)
  | .pmov _ => (0x21, 0x04)
  | .fmin _ => (0x22, 0x00)
  | .fmax _ => (0x22, 0x01)
  | .fabs _ => (0x22, 0x02)
  | .fneg _ => (0x22, 0x03)
  | .fcmp _ => (0x22, 0x04)
  | .fclass _ => (0x22, 0x05)
  | .frnd _ => (0x22, 0x06)
  | .fcvt _ => (0x22, 0x07)
  | .frcp _ => (0x23, 0x00)
  | .frsq _ => (0x23, 0x01)
  | .fsqrt _ => (0x23, 0x02)
  | .fexp2 _ => (0x23, 0x03)
  | .flog2 _ => (0x23, 0x04)
  | .fsin _ => (0x23, 0x05)
  | .fcos _ => (0x23, 0x06)
  | .ftanh _ => (0x23, 0x07)
  | .qnt _ => (0x24, 0x00)
  | .dqnt _ => (0x24, 0x01)
  | .cbld _ => (0x24, 0x02)
  | .ctld _ => (0x24, 0x03)
  | .pack _ => (0x24, 0x04)
  | .unpk _ => (0x24, 0x05)
  | .jtab _ => (0x25, 0x00)
  | .call _ => (0x25, 0x01)
  | .ret _ => (0x25, 0x02)
  | .tkill _ => (0x25, 0x03)
  | .yield _ => (0x25, 0x04)
  | .tryRegion _ => (0x25, 0x05)
  | .commit _ => (0x25, 0x06)
  | .abort _ => (0x25, 0x07)
  | .trap _ => (0x25, 0x08)
  | .tret _ => (0x25, 0x09)
  | .bkpt _ => (0x25, 0x0A)
  | .ld _ => (0x26, 0x00)
  | .st _ => (0x26, 0x01)
  | .ldfe _ => (0x26, 0x02)
  | .stfe _ => (0x26, 0x03)
  | .feset _ => (0x26, 0x04)
  | .feclr _ => (0x26, 0x05)
  | .pref _ => (0x26, 0x06)
  | .atom _ => (0x27, 0x00)
  | .cas _ => (0x27, 0x01)
  | .fatom _ => (0x27, 0x02)
  | .sdrain _ => (0x28, 0x00)
  | .waitad _ => (0x28, 0x01)
  | .waitc _ => (0x28, 0x02)
  | .bar _ => (0x28, 0x03)
  | .barinit _ => (0x28, 0x04)
  | .barkill _ => (0x28, 0x05)
  | .barkillAb _ => (0x28, 0x05)
  | .abinit _ => (0x28, 0x06)
  | .abwait _ => (0x28, 0x07)
  | .abtest _ => (0x28, 0x08)
  | .shf _ => (0x29, 0x00)
  | .vote _ => (0x29, 0x01)
  | .ballot _ => (0x29, 0x02)
  | .redux _ => (0x29, 0x03)
  | .copy _ => (0x2A, 0x00)
  | .chain _ => (0x2A, 0x01)
  | .gather _ => (0x2A, 0x02)
  | .qbind _ => (0x2A, 0x03)
  | .qunb _ => (0x2A, 0x04)
  | .qflush _ => (0x2A, 0x05)
  | .panrsv _ _ => (0x2B, 0x00)
  | .panput _ _ => (0x2B, 0x01)
  | .panrel _ => (0x2B, 0x02)
  | .panqry _ => (0x2B, 0x03)
  | .mldb _ => (0x2C, 0x00)
  | .mma _ => (0x2C, 0x01)
  | .mmaw _ => (0x2C, 0x02)
  | .mzero _ => (0x2C, 0x03)
  | .msta _ => (0x2C, 0x04)
  | .mlda _ => (0x2C, 0x05)
  | .scac _ => (0x2C, 0x06)
  | .cvset _ => (0x2C, 0x07)
  | .mstat _ => (0x2C, 0x08)
  | .csrr _ => (0x2D, 0x00)
  | .csrw _ => (0x2D, 0x01)
  | .csrs _ => (0x2D, 0x02)
  | .csrc _ => (0x2D, 0x03)
  | .mode _ => (0x2D, 0x04)
  | .time _ => (0x2D, 0x05)
  | .enrg _ => (0x2D, 0x06)
  | .quote _ => (0x2D, 0x07)
  | .accept _ => (0x2D, 0x08)
  | .decline _ => (0x2D, 0x09)
  | .sleep _ => (0x2D, 0x0A)
  | .blst _ => (0x2D, 0x0B)
  | .halt _ => (0x2D, 0x0C)
  | _ => (0x3F, 0)

/-- LEN of an instruction (R191). -/
def Instr.lenCode : Instr → BitVec 2
  | .nopX _ => 1
  | .iaddX _ => 1
  | .isubX _ => 1
  | .imulX _ => 1
  | .andX _ => 1
  | .orX _ => 1
  | .xorX _ => 1
  | .shlX _ => 1
  | .shrX _ => 1
  | .sraX _ => 1
  | .iaddImmX _ => 1
  | .movX _ => 1
  | .moviX _ => 1
  | .moviB64 _ _ => 2
  | .moviB64X _ _ => 3
  | .faddX _ => 1
  | .fmulX _ => 1
  | .ffmaX _ => 1
  | .fsubX _ => 1
  | .ldCB32X _ => 1
  | .stCB32X _ => 1
  | .ldGB32X _ => 1
  | .stGB32X _ => 1
  | .braX _ => 1
  | .brcX _ => 1
  | .loopX _ => 1
  | .signX _ => 1
  | .exitX _ => 1
  | .repX _ _ _ _ _ => 1
  | .fenceX _ => 1
  | .imulh _ => 1
  | .imad _ => 1
  | .idiv _ => 1
  | .irem _ => 1
  | .imin _ => 1
  | .imax _ => 1
  | .iabs _ => 1
  | .ineg _ => 1
  | .andn _ => 1
  | .not _ => 1
  | .rotl _ => 1
  | .clz _ => 1
  | .popc _ => 1
  | .brev _ => 1
  | .bfx _ => 1
  | .bfi _ => 1
  | .sel _ => 1
  | .icmp _ => 1
  | .lea _ => 1
  | .idot4 _ => 1
  | .pand _ => 1
  | .por _ => 1
  | .pxor _ => 1
  | .pnot _ => 1
  | .pmov _ => 1
  | .fmin _ => 1
  | .fmax _ => 1
  | .fabs _ => 1
  | .fneg _ => 1
  | .fcmp _ => 1
  | .fclass _ => 1
  | .frnd _ => 1
  | .fcvt _ => 1
  | .frcp _ => 1
  | .frsq _ => 1
  | .fsqrt _ => 1
  | .fexp2 _ => 1
  | .flog2 _ => 1
  | .fsin _ => 1
  | .fcos _ => 1
  | .ftanh _ => 1
  | .qnt _ => 1
  | .dqnt _ => 1
  | .cbld _ => 1
  | .ctld _ => 1
  | .pack _ => 1
  | .unpk _ => 1
  | .jtab _ => 1
  | .call _ => 1
  | .ret _ => 1
  | .tkill _ => 1
  | .yield _ => 1
  | .tryRegion _ => 1
  | .commit _ => 1
  | .abort _ => 1
  | .trap _ => 1
  | .tret _ => 1
  | .bkpt _ => 1
  | .ld _ => 1
  | .st _ => 1
  | .ldfe _ => 1
  | .stfe _ => 1
  | .feset _ => 1
  | .feclr _ => 1
  | .pref _ => 1
  | .atom _ => 1
  | .cas _ => 1
  | .fatom _ => 1
  | .sdrain _ => 1
  | .waitad _ => 1
  | .waitc _ => 1
  | .bar _ => 1
  | .barinit _ => 1
  | .barkill _ => 1
  | .barkillAb _ => 1
  | .abinit _ => 1
  | .abwait _ => 1
  | .abtest _ => 1
  | .shf _ => 1
  | .vote _ => 1
  | .ballot _ => 1
  | .redux _ => 1
  | .copy _ => 1
  | .chain _ => 1
  | .gather _ => 1
  | .qbind _ => 1
  | .qunb _ => 1
  | .qflush _ => 1
  | .panrsv _ _ => 3
  | .panput _ _ => 3
  | .panrel _ => 1
  | .panqry _ => 1
  | .mldb _ => 1
  | .mma _ => 1
  | .mmaw _ => 1
  | .mzero _ => 1
  | .msta _ => 1
  | .mlda _ => 1
  | .scac _ => 1
  | .cvset _ => 1
  | .mstat _ => 1
  | .csrr _ => 1
  | .csrw _ => 1
  | .csrs _ => 1
  | .csrc _ => 1
  | .mode _ => 1
  | .time _ => 1
  | .enrg _ => 1
  | .quote _ => 1
  | .accept _ => 1
  | .decline _ => 1
  | .sleep _ => 1
  | .blst _ => 1
  | .halt _ => 1
  | _ => 0

/-- The literal an instruction carries (R191, R200). -/
def Instr.literal : Instr → BitVec 64
  | .moviB64 _ lit => lit
  | .moviB64X _ lit => lit
  | .panrsv _ lit => lit
  | .panput _ lit => lit
  | _ => 0

def bit1 (b : Bool) : BitVec 1 := if b then 1#1 else 0#1

/-- Word 0 (R192). -/
def Instr.word0 (i : Instr) : Word := i.lenCode ++ i.opcFn.1 ++ i.xf.d ++ i.xf.a ++ i.xf.b

/-- Word 1 of an X-form (R193). -/
def Instr.word1 (i : Instr) : Word :=
  let x := i.xf
  i.opcFn.2 ++ x.var ++ x.pix ++ bit1 x.pneg ++ bit1 x.fea ++ bit1 x.feb ++ bit1 x.fec ++ x.c ++ bit1 x.sd ++ bit1 x.sa
    ++ bit1 x.sb ++ bit1 x.sc ++ bit1 x.qp ++ x.own

/-- The words of an instruction (R191). -/
def encode (i : Instr) : List Word :=
  let lo := i.literal.extractLsb' 0 32
  let hi := i.literal.extractLsb' 32 32
  if i.lenCode = 0 then [i.word0]
  else if i.lenCode = 1 then [i.word0, i.word1, i.xf.w2]
  else if i.lenCode = 2 then [i.word0, lo, hi]
  else [i.word0, i.word1, i.xf.w2, lo, hi]

/-- The bytes of an instruction, each word little-endian (R191). -/
def encodeBytes (i : Instr) : List Byte := (encode i).flatMap fun w => leBytes 4 w.toNat

end Sys2Proof
end

