-- ==== Sys2Proof/Machine/StateCrew.lean ====
section
/-! DEFINITION. StateCrew.lean: the state of threads, crews, blocks, quadrants and cores (chapters 05 to 07, 13 to 15, 18). -/

namespace Sys2Proof.Machine

/-! ## Threads and crews -/

/-- An entry of a thread's loop stack (R227). -/
structure LoopEnt where
  loopPc : Nat
  body   : Nat
  endPc  : Nat
  max    : Nat
  trip   : Nat
  deriving DecidableEq, Repr

/-- An entry of a thread's return stack (R226). -/
structure RetEnt where
  pc    : Nat
  depth : Nat
  deriving DecidableEq, Repr

/-- What a blocking instruction of a thread waits for (R72, R93, R117, R262, R269 to R271, R278, R325). -/
inductive WaitKind where
  | fence (scope : Nat)
  | sdrain
  | waitc (cls n seq : Nat)
  | bar (id : Nat)
  | abwait (sp addr : Nat) (all : Bool) (first : Nat) (mask : DWord)
  | waitad (sp addr cc : Nat) (b : Word) (pk : Nat)
  | sleep
  | next
  | commit
  | abort
  deriving DecidableEq, Repr

/-- A thread inside a blocking instruction. `deadline`: the module time of its timeout; `lanes`: the lanes of the group that
were active at its issue; `d`, `sd`: its destination; `pc`: the instruction; `nextPc`, `rep`: the PC, and inside a REP the REPCNT, that follow its
completion; `last`: the word that a WAITAD read last, or the error mark of a WAITC; `seen`: a WAITAD has read; `pois`: what it read is poisoned; `fin`: a WAITAD lane
is done, with success or by timeout (R269). -/
structure Blocked where
  kind     : WaitKind
  deadline : Option Nat := none
  lanes    : Lanes := 0
  d        : Nat := 0
  sd       : Bool := false
  pc       : Nat := 0
  nextPc   : Nat := 0
  rep      : Option Word := none
  last     : Word := 0
  seen     : Bool := false
  pois     : Bool := false
  fin      : Option Bool := none
  deriving DecidableEq, Repr

/-- A sector in the read set of a speculative region, with the expiry it was served under (R88). -/
structure ReadEnt where
  sector : Nat
  expiry : Nat
  deriving DecidableEq, Repr

/-- A buffered byte of a speculative region: memory key, value and lane (R277), and its footprint region. Nibble stores merge into it
(R54). -/
structure SsbByte where
  key  : Nat
  val  : Byte
  lane : Nat
  nib  : BitVec 2 := 3
  reg  : Nat := 0
  deriving DecidableEq, Repr

/-- A home's answer to a lock request of a COMMIT (R89). -/
structure LockAns where
  sector : Nat
  cand   : Nat
  busy   : Bool
  deriving DecidableEq, Repr

/-- A speculative region (R275 to R280, R88 to R90). `asked`: 1 while a COMMIT has sent its lock requests and waits; `decided`: T of one
that has succeeded; `told`: a bit per written sector whose home has its T. `abort`: the code, USER, TCLS and DETAIL of an abort in progress, and
the trap that is then taken (class, detail, the PC that raised it) and its lanes. -/
structure Region where
  reads   : List ReadEnt := []
  ssb     : List SsbByte := []
  asked   : Nat := 0
  answers : List LockAns := []
  decided : Option Nat := none
  told    : Nat := 0
  abort   : Option (Nat × Nat × Nat × Nat) := none
  trap    : Option (Nat × Nat × Nat) := none
  trapLanes : Lanes := 0
  deriving DecidableEq, Repr

/-- What TRY checkpoints (R276). -/
structure Checkpoint where
  n      : Nat
  v      : List (Nat × Word)
  p      : BitVec 8
  vP     : BitVec 256 := 0
  target : Nat
  deriving DecidableEq, Repr

/-- One thread (R138, R140, R145, R152, R226, R227, R237, R275, R321). Bit 7 of `p` reads true (R195). `skid`: its `.g` stores
whose checks are open, each with the issues since (R261). `specTrap`: a trap to
take at the abort target (R280, R370). `resume`: the wait that a store fault interrupted and TRET returns to (R261). -/
structure Thread where
  live      : Bool := false
  pc        : Nat := 0
  v         : SMap Word := []
  vE        : BitVec 256 := 0
  vP        : BitVec 256 := 0
  p         : BitVec 8 := 0
  wctlast   : Nat := 0
  trecEntry : Word := 0
  trecCount : Word := 0
  tcause    : Word := 0
  tpc       : Word := 0
  tmaskM    : Bool := false
  fflags    : BitVec 5 := 0
  repcnt    : Word := 0
  loops     : List LoopEnt := []
  rets      : List RetEnt := []
  spec      : Word := 0
  ckpt      : Option Checkpoint := none
  region    : Option Region := none
  blocked   : Option Blocked := none
  arrived   : Bool := false
  starve    : Nat := 0
  yield     : Nat := 0
  skid      : List (Nat × Nat) := []
  specTrap  : Option (Nat × Nat × Nat) := none
  resume    : Option Blocked := none
  deriving DecidableEq, Repr

/-- One access of one lane: its memory keys byte by byte; `loc`: LOC of its leaf (R14), 4 for an on-chip space; `target`: the core
reached on chip; `stage`: 0 not sent, 1 accepted, performed on chip or read, 2 acknowledged; `nib`: the nibble mask of a 4-bit store
(R54); `over`: a region's buffered bytes by offset, with their nibble masks (R277); `pois`: a bit per 4 bytes read; `gran`:
the key of its full/empty granule (R41). -/
structure Acc where
  lane   : Nat
  space  : Nat
  addr   : Nat
  keys   : List Nat
  data   : List Byte := []
  nib    : BitVec 2 := 3
  loc    : Nat := 4
  port   : Nat := 0
  region : Nat := 0
  target : Nat := 0
  stage  : Nat := 0
  wct    : Nat := 0
  pois   : BitVec 4 := 0
  overlaid   : List (Nat × Byte × BitVec 2) := []
  found  : Bool := true
  gran   : Nat := 0
  deriving DecidableEq, Repr

inductive OpKind where
  | load | store | atomic | ldfe | stfe | longLat | copy | chain | gather | matrix | panrsv | panput | pop | push | quote
  deriving DecidableEq, Repr

/-- A register to be written when a long-latency operation retires: a lane's v register, or an s register when `lane` is none. -/
structure RegWrite where
  lane : Option Nat
  reg  : Nat
  val  : Word
  deriving DecidableEq, Repr

/-- An outstanding operation of a crew, in issue order (R95, R112). `cls`: its counter class, 0 LD to 5 PN, 6 when it is not
counted; `fmt`: the size variant or the atomic's operation; `flags`: FP flags raised at the write (R181). -/
structure Op where
  id      : Nat
  kind    : OpKind
  cls     : Nat
  pc      : Nat
  lanes   : Lanes
  accs    : List Acc := []
  writes  : List RegWrite := []
  dests   : List (Option Nat × Nat) := []
  fmt     : Nat := 0
  d       : Nat := 0
  sd      : Bool := false
  w       : Bool := false
  b       : List (Nat × DWord) := []
  cval    : List (Nat × DWord) := []
  acq     : Bool := false
  hint    : Nat := 0
  checked : Bool := true
  done    : Bool := false
  err     : Option Nat := none
  errCls  : Nat := 11
  flags   : BitVec 5 := 0
  pred    : Nat := 7
  clr     : Bool := false
  issued  : Nat := 0
  trec    : DWord := 0
  masked  : Bool := false
  extra   : Nat := 0
  bad     : Lanes := 0
  badAddr : Nat := 0
  deadline : Option Nat := none
  deriving DecidableEq, Repr

/-- An entry of a crew's convergence table (R144). `kind`: 0 JOIN, 1 LOOP head, 2 CALL return. -/
structure ConvEnt where
  key     : Nat
  kind    : Nat
  mask    : Lanes
  arrived : Lanes := 0
  deriving DecidableEq, Repr

/-- A bound stream of a queue port (R110, R111, R313). `pos`: the elements a lane has popped or pushed; `fetched`: per lane, the words read ahead,
with their poison; `queued`: the elements pushed and not yet sent, as lane, element, word and ST operation; `bound`: the operations issued before it was
bound, or last flushed; `pc`: its QBIND; `prot`: of a protected launch, whose pairs of lanes share the elements of one (R154). -/
structure Stream where
  space   : Nat := 0
  base    : Nat := 0
  count   : Nat := 0
  step    : Int := 0
  stride  : Int := 0
  pos     : SMap Nat := []
  fetched : SMap (List (Word × Bool)) := []
  queued  : List (Nat × Nat × Word × Nat) := []
  bound   : Nat := 0
  pc      : Nat := 0
  prot    : Bool := false
  deriving DecidableEq, Repr

/-- A trap that waits for the crew's next issue (R107, R290): class, detail, the PC of the command, the order it arose in. -/
structure AsyncTrap where
  cls    : Nat
  detail : Nat
  pc     : Nat
  seq    : Nat := 0
  deriving DecidableEq, Repr

/-- One crew in its slot. `launch`: the launch it runs, `queue`: the queue whose packet it runs (R357); `age`: steps since its
group became ready (R155). `bank`: its lane detail entry (R373). -/
structure Crew where
  launch   : Option Nat := none
  queue    : Option Nat := none
  block    : Nat := 0
  idx      : Nat := 0
  nregs    : Nat := 16
  threads  : SMap Thread := []
  s        : SMap Word := []
  sE       : BitVec 64 := 0
  sP       : BitVec 64 := 0
  bank     : BitVec 192 := 0
  tvec     : Word := 0
  fmode    : BitVec 13 := 0
  errstat  : Word := 0
  ops      : List Op := []
  conv     : List ConvEnt := []
  streams  : SMap Stream := []
  region   : Option Region := none
  slice    : Word := 0
  prio     : Nat := 0
  age      : Nat := 0
  traps    : Nat := 0
  entryAt  : Option Nat := none
  async    : List AsyncTrap := []
  notice   : Bool := false
  noticeAt : Lanes × Nat := (0, 0)
  signs    : List (Nat × Nat × Nat) := []
  issues   : Nat := 0
  seq      : Nat := 0
  halted   : Bool := false
  frozen   : Bool := false
  nextOp   : Nat := 0
  barAt    : Option Nat := none
  deriving DecidableEq, Repr

/-! ## Blocks -/

/-- A block of a launch. `stop`: how far its stop has come (R377, R380, R382): 0 running, 1 stopping at its tile boundary, 2 draining,
3 stopping to save, 4 stopping to flush, 5 stopping in a FROZEN launch, 6 stopped there; `stopAt`: since when. `core`: where it stands; `home`: the core whose schedule table holds its
slot; `started`: when its present tile started. -/
structure Block where
  launch   : Nat := 0
  core     : Nat := 0
  home     : Nat := 0
  slot     : Nat := 0
  blockId  : Nat := 0
  crews    : List Nat := []
  tile     : Word := 0xFFFFFFFF
  cursor   : Nat := 0
  persist  : Bool := false
  scrBase  : Word := 0
  scrLimit : Word := 0
  started  : Nat := 0
  stop     : Nat := 0
  stopAt   : Nat := 0
  energy   : Nat := 0
  ipk      : Nat := 0
  homed    : List (Nat × Nat) := []
  deriving DecidableEq, Repr

/-! ## The matrix unit and the quadrant (14) -/

/-- A matrix operation on its way: the instruction, and what it read at issue (the A address, the B address or constant, metadata
words of `.spi`). `seq`: its place in the dispatch order of its quadrant; `ready`: since when it could have started (R304). -/
structure MxOp where
  crew  : Nat
  op    : Nat
  instr : Instr
  a     : Nat := 0
  b     : Nat := 0
  metad : List Nat := []
  prio  : Nat := 0
  seq   : Nat := 0
  ready : Option Nat := none
  deriving DecidableEq, Repr

/-- A convergence register (R284). -/
structure Cv where
  count  : Nat := 0
  signed : Nat := 0
  gen    : Nat := 0
  posted : List MxOp := []
  deriving DecidableEq, Repr

/-- The stationary buffer (R287, R291): its format, SPM, SLOT, the logical element patterns by column (64 columns, expanded) and
whether an element was poisoned. `vals`: per column the list of (logical row, element pattern). -/
structure BBuf where
  fmt  : Nat
  spm  : Nat
  slot : Nat
  k    : Nat
  vals : List (List (Nat × BitVec 16))
  bad  : Bool := false
  deriving DecidableEq, Repr

/-- What an operation read in memory when it started: the bytes and whether one was poisoned, or the detail of R31. -/
structure Fetched where
  bytes : List Byte := []
  bad   : Bool := false
  err   : Option Nat := none
  deriving DecidableEq, Repr

/-- A contribution of a fire that has started: its rows of A as read (none in a row: a skipped block), or the detail with which it fails
(R305). -/
structure WRow where
  op   : MxOp
  quad : Nat
  a    : List (List (Option Nat))
  err  : Option Nat
  deriving DecidableEq, Repr

/-- What occupies the unit: an operation or a windrow fire (the entry it was), and its start. `pre`: what the operation reads at its start (R295,
R298); `b`, `rows`: the B that the fire read when it fired, and its contributions (R305). -/
structure Running where
  op    : Option MxOp
  fire  : Option Nat
  start : Nat
  pre   : Fetched := {}
  b     : Option BBuf := none
  rows  : List WRow := []
  deriving DecidableEq, Repr

/-- A record of the store-fault queue (R376). `taken`: the lanes that took its trap. -/
structure SfRec where
  mask   : Lanes
  addr   : DWord
  trec   : DWord
  spc    : Nat
  slot   : Nat
  detail : Nat
  taken  : Lanes := 0
  seq    : Nat := 0
  deriving DecidableEq, Repr

/-- Ballast of a quadrant that a crew's BLST started (R326): level in sixteenths, the end of its duration, whether it has its start grant, and up to
when its energy is metered. -/
structure Ballast where
  level : Nat
  endAt : Nat
  crew  : Nat
  on    : Bool := true
  since : Nat := 0
  deriving DecidableEq, Repr

/-- One quadrant. `last`: the slot chosen last (R155); `drew`: the module time at which its unit last ended an operation; `drawn`: it drew
current after the last step of the slew limiter; `ramp`, `rampAt`: it runs ramp ballast, and when it wanted to draw no longer; `stall`: the
level of its stall ballast (R397, R398, R400). -/
structure Quad where
  owner   : BitVec 8 := 0
  last    : Nat := 15
  books   : SMap (BitVec 16) := []
  curves  : SMap Word := []
  cvs     : SMap Cv := []
  nextSeq : Nat := 0
  fired   : List MxOp := []
  mq      : List MxOp := []
  running : List Running := []
  buf     : Option BBuf := none
  sfq     : List SfRec := []
  ballast : Option Ballast := none
  stall   : Nat := 0
  ramp    : Bool := false
  rampAt  : Nat := 0
  drawn   : Bool := false
  drew    : Option Nat := none
  asked   : Option Nat := none
  choice  : Option MxOp := none
  choiceFire : Option Nat := none
  queueDie : Option Nat := none
  deriving DecidableEq, Repr

/-! ## The engines of a core (05) -/

/-- How a command or a wait reaches an arrival barrier (R114, R119, R123). `sp`: 0 `.g`, by address; 1 an entry of the core; 2 bytes of the
partition's share of the core's scratchpad, by share index; 3 `.x`, by memory key; 4 a slot barrier, by slot. -/
structure AbRef where
  sp     : Nat
  addr   : Nat
  launch : Nat
  core   : Nat
  prt    : Nat
  deriving DecidableEq, Repr

/-- Whom an engine command works for: the launch, the core and the partition that issued it, and its block's scratchpad window. It outlives
the crew's stay in its slot (R381). -/
structure EngCtx where
  launch : Nat
  core   : Nat
  prt    : Nat
  base   : Nat
  limit  : Nat
  deriving DecidableEq, Repr

/-- A copy as R101 and R103 describe it. `crew`, `op`: the CP operation that retires with it; `gen`: the generation its
contributions carry (R115); `bar`: none when BAR is 0; `next`: the output bytes whose transfers have started; `record`: where its record lies;
`finished`: nothing of it is left to do; `over`: bytes it has overwritten, by key, with what stood there before (R101). -/
structure CopyCmd where
  num   : Nat
  crew  : Nat
  op    : Nat
  pc    : Nat
  ctx   : EngCtx
  ssp   : Nat
  dsp   : Nat
  src   : Nat
  dst   : Nat
  ssy   : Int
  dsy   : Int
  ssz   : Int
  dsz   : Int
  xb    : Nat
  ny    : Nat
  nz    : Nat
  chb   : Nat
  bar   : Option AbRef := none
  gen   : Nat := 0
  next  : Nat := 0
  record : Option (Nat × Nat) := none
  ord   : Bool := false
  fail  : Option Nat := none
  finished : Bool := false
  overlap  : List (Nat × List Byte × Bool) := []
  deriving DecidableEq, Repr

/-- A transfer in flight (R100): the command it belongs to, its chunk of the barrier, the latest WCT of its writes; `done`: they have been
acknowledged. -/
structure Transfer where
  id    : Nat
  cmd   : Nat
  ch    : Nat
  chunk : Nat
  wct   : Nat
  done  : Bool := false
  deriving DecidableEq, Repr

/-- A channel's chain cursor (R102): the next record's space and address and the CHAIN's operation. `parked`: it found OWN = 0, or, `rest`, a stop of its
crew's block has parked it (R381); `fail`: the detail with which the chain stopped, and the class of its trap. -/
structure Chain where
  sp      : Nat
  addr    : Nat
  crew    : Nat
  op      : Nat
  pc      : Nat
  ctx     : EngCtx
  parked  : Bool := false
  rest    : Bool := false
  fail    : Option (Nat × Nat) := none
  deriving DecidableEq, Repr

/-- One copy channel: its owner byte, its inline queue, its chain and which stream it served last (R98, R99). `cur`: the record whose transfers
are being started; `live`: commands all of whose transfers have started; `ending`: chains that the channel no longer follows and whose
records have not all retired; `last`: the chain was served last. -/
structure Channel where
  owner  : BitVec 8 := 0
  queue  : List CopyCmd := []
  cur    : Option CopyCmd := none
  chain  : Option Chain := none
  live   : List CopyCmd := []
  ending : List Chain := []
  last   : Bool := false
  frozen : Bool := false
  deriving DecidableEq, Repr

/-- An entry of the core's 64 arrival-barrier entries (R119, R120): the share index of its object and the partition, its HOME, HOMED, and
the contributions to be forwarded: chunk and generation, or the ERR bit of a failure, 255 for the end of a reference. -/
structure AbEnt where
  key   : Nat
  prt   : Nat
  home  : Nat
  launch : Nat
  homed : Bool := false
  fwd   : List (Nat × Nat × Nat) := []
  deriving DecidableEq, Repr

/-- A block-barrier entry (R271). `state`: 0 IDLE, 1 ARMED, 2 KILLED. -/
structure BarEnt where
  block : Nat
  id    : Nat
  state : Nat := 0
  count : Nat := 0
  gen   : Nat := 0
  mask  : BitVec 16 := 0
  deriving DecidableEq, Repr

/-- A contribution in a windrow entry (R300, R302). -/
structure WContrib where
  op    : MxOp
  quad  : Nat
  rows  : Nat
  deadline : Nat
  deriving DecidableEq, Repr

/-- A windrow entry that is OPEN (`fired` none) or FIRED (R302, R303, R305). `b`: the B read when it fired, none where it could not be formed;
`arrived`: the latency of its read is over. -/
structure WEnt where
  key      : List Nat
  part     : Nat
  contribs : List WContrib
  rows     : Nat
  fired    : Option Nat := none
  arrived  : Bool := false
  b        : Option BBuf := none
  ready    : Option Nat := none
  deriving DecidableEq, Repr

/-- A slot record of a pan (R124) with its slot barrier (R123). `owed`: replies that leave once the chunks are zeroed: arrival port, module
and core of the sender. -/
structure PanSlot where
  expiry  : DWord := 0
  gen     : BitVec 16 := 0
  smod    : BitVec 16 := 0
  score   : BitVec 8 := 0
  ports   : BitVec 24 := 0
  state   : Nat := 0
  cause   : Nat := 0
  mode    : Nat := 0
  ncont   : Nat := 0
  joined  : Nat := 0
  nchunk  : Nat := 0
  port    : Nat := 0
  abState : Nat := 0
  tdone   : Nat := 0
  late    : Nat := 0
  refs    : Nat := 0
  err     : BitVec 8 := 0
  waiters : Nat := 0
  done    : List Nat := []
  counts  : SMap Nat := []
  owed    : List (Nat × Nat × Nat) := []
  deriving DecidableEq, Repr

/-- An entry of the sender table (R126). -/
structure SendEnt where
  lit    : DWord
  hdr    : BitVec 8
  slot   : Nat
  gen    : Nat
  mode   : Nat
  port   : Nat
  launch : Nat
  deriving DecidableEq, Repr

/-- A pan operation not yet answered (R129, R133), by its number in the core. `w2`: word 2 of the instruction; `pos`: the put's source and
position register, or the reservation's key and parameters; `sent`: it has left; `answered`: it retires in its turn, and the put then frees
its entry, if it does. -/
structure PanReq where
  crew  : Nat
  op    : Nat
  isPut : Bool
  ctx   : EngCtx
  lit   : DWord
  w2    : Word
  arg   : Nat
  pos   : Nat
  port  : Nat
  sentAt : Nat
  sent  : Bool := false
  answered : Bool := false
  deriving DecidableEq, Repr

/-- One core: its copy channels, barrier entries, windrow, TLBs, launch bookkeeping, and the slots of its pans by launch * 64 + slot. -/
structure Core where
  chans    : SMap Channel := []
  nextCmd  : Nat := 0
  rrChan   : Nat := 7
  transfers : List Transfer := []
  ab       : SMap AbEnt := []
  bars     : List BarEnt := []
  windrow  : SMap WEnt := []
  urgent   : SMap Word := []
  pan      : SMap PanSlot := []
  sender   : SMap SendEnt := []
  panReqs  : SMap PanReq := []
  regionWct : SMap Nat := []
  reported : List Nat := []
  retired  : Bool := false
  deriving DecidableEq, Repr

end Sys2Proof.Machine
end

