-- ==== Sys2Proof/Machine/StateMod.lean ====
section
/-! DEFINITION. StateMod.lean: the state of memory, translation, launches, queues, power, host ports and the management plane
(chapters 01 to 03, 06, 07, 16 to 20). -/

namespace Sys2Proof.Machine

/-! ## Leases and caches (02, 03) -/

/-- A pending store of a sector (R66): the holder, its WCT and its bytes (memory key, value). `masks`: the bytes of which it writes one
nibble, with their nibble masks (R54). `bad`: an engine wrote them as poison (R100). -/
structure Pending where
  sector : Nat
  holder : Nat
  wct    : Nat
  bytes  : List (Nat × Byte)
  launch : Nat := 0
  bad    : Bool := false
  masks  : List (Nat × BitVec 2) := []
  deriving DecidableEq, Repr

/-- The lease record of a sector (R63); holder 0 is none. -/
structure Lease where
  e1    : Nat := 0
  h1    : Nat := 0
  e2    : Nat := 0
  lastw : Nat := 0
  deriving DecidableEq, Repr

/-- A way of an L2 set (R51): the line (memory key div 128), the owning partition, its last use and its sectors. -/
structure L2Way where
  line  : Nat
  part  : Nat
  used  : Nat
  s0    : Option (Lease × Bool) := none
  s1    : Option (Lease × Bool) := none
  deriving DecidableEq, Repr

/-- A line of an L1 (R47): the line (memory key div 64), its bytes, the expiry of its lease, the poisoned 64-bit parts. -/
structure L1Line where
  line   : Nat
  data   : BitVec 512
  expiry : Nat
  used   : Nat
  pois   : BitVec 8 := 0
  deriving DecidableEq, Repr

/-- A COMMIT's lock on a sector (R89). -/
structure LockEnt where
  sector : Nat
  crew   : Nat
  lane   : Nat
  deriving DecidableEq, Repr

/-! ## Translation (01) -/

/-- A translation of one page (R12, R14): `size` is log2 of the page size. -/
structure Xlate where
  asid : Nat
  va   : Nat
  size : Nat
  pa   : Nat
  loc  : Nat
  port : Nat
  r    : Bool
  w    : Bool
  x    : Bool
  deriving DecidableEq, Repr

/-- An L2 TLB entry (R21): pinned entries never leave. `bad`: its parity reads bad (R23). -/
structure TlbEnt where
  tr     : Xlate
  pinned : Bool
  bad    : Bool := false
  deriving DecidableEq, Repr

/-- A pin record (R19, R20): the page, how many launches pin it; `forced`: removed by a forced invalidation (R28). -/
structure Pin where
  tr     : Xlate
  launches : List Nat
  forced : Bool := false
  deriving DecidableEq, Repr

/-- Who asked for a walk (R24): 0 a queue core's crew, 1 a host function, 2 the front end for a queue; the requester's name and the address. -/
structure WalkReq where
  asid : Nat
  va   : Nat
  kind : Nat
  who  : Nat
  deriving DecidableEq, Repr

/-- A walk in progress (R25): the level of the table it reads next, that table's address, and its followers. -/
structure Walk where
  id    : Nat
  req   : WalkReq
  level : Nat
  table : Nat
  followers : List WalkReq := []
  discard : Bool := false
  running : Bool := true
  deriving DecidableEq, Repr

/-- How a walk ended for a requester: the translation, or a status 1 INVALID, 2 MALFORMED, 3 NOROOT (R15). -/
structure WalkEnd where
  req : WalkReq
  tr  : Option Xlate
  status : Nat
  deriving DecidableEq, Repr

/-- A die's walkers, walk queue and walk cache (R24). -/
structure WalkPool where
  walks : List Walk := []
  queue : List WalkReq := []
  cache : List (Nat × Nat × Nat × Nat) := []
  ends  : List WalkEnd := []
  nextId : Nat := 0
  deriving DecidableEq, Repr

/-! ## Gather engines (05) -/

/-- A gather (R108, R109, R312). `list`: the indices read at its start; `rows`: the rows written, with their WCT; `chunks`: the chunks it has
contributed; `stop`: the position of the first index out of range. -/
structure GatherCmd where
  num  : Nat
  crew : Nat
  op   : Nat
  pc   : Nat
  ctx  : EngCtx
  tsp  : Nat
  tbl  : Nat
  idx  : Nat
  n    : Nat
  nrows : Nat
  len  : Nat
  dsp  : Nat
  dst  : Nat
  chb  : Nat
  bar  : Option AbRef := none
  gen  : Nat := 0
  started : Bool := false
  list : List Nat := []
  rows : List (Nat × Nat) := []
  chunks : List Nat := []
  stop : Nat := 4096
  fail : Option (Nat × Nat) := none
  deriving DecidableEq, Repr

/-- A gather engine: its owner byte and its queue of up to 32 commands (R108). -/
structure Gather where
  owner : BitVec 8 := 0
  queue : List GatherCmd := []
  nextCmd : Nat := 0
  deriving DecidableEq, Repr

/-! ## Quotations and launches (16, 17) -/

/-- A footprint region (R17) with what its pinned leaves showed: the LOCs and the physical 4 KiB frames (R362). -/
structure FpRegion where
  base : Nat
  len  : Nat
  rd   : Bool
  w    : Bool
  atom : Bool
  eng  : Bool
  frames : List Nat := []
  deriving DecidableEq, Repr

/-- A schedule table entry (R366). -/
structure TileEnt where
  tile   : Nat
  energy : Nat
  ipk    : Nat
  time   : Nat
  deriving DecidableEq, Repr

/-- A slot of the distribution (R365, R367): its core, its number there, its tiles, its cursor. -/
structure SlotEnt where
  core   : Nat
  slot   : Nat
  block  : Nat
  tiles  : List TileEnt
  cursor : Nat := 0
  waiting : Option Nat := none
  admitted : Bool := false
  busy   : Bool := false
  deriving DecidableEq, Repr

/-- A quotation (R340) with what the front end keeps of it (R343): the request, the kernel record, the priced quadrants and
places, the code image. -/
structure Quote where
  qid     : DWord := 0
  status  : Nat := 0
  attr    : Nat := 0
  recVa   : Nat := 0
  queue   : Nat := 0
  asid    : Nat := 0
  job     : Nat := 0
  tenant  : Nat := 0
  parts   : BitVec 32 := 0
  nquads  : Nat := 0
  rclass  : Nat := 0
  pclass  : Nat := 0
  prot    : Bool := false
  hbudget : Nat := 0
  ntrap   : Nat := 0
  hallow  : Nat := 0
  pan     : DWord := 0
  codeVa  : Nat := 0
  code    : List Word := []
  digest  : DWord := 0
  crews   : Nat := 1
  nregs   : Nat := 16
  slice   : Nat := 0
  scratch : Nat := 0
  ntiles  : Nat := 1
  sched   : Nat := 0
  persist : Bool := false
  idem    : Bool := false
  regions : List FpRegion := []
  quads   : List Nat := []
  spans   : SMap (Nat × Nat) := []
  slots   : List SlotEnt := []
  ways    : List (Nat × Nat × Nat) := []
  booked  : Nat := 0
  tbound  : Nat := 0
  ebound  : Nat := 0
  ipeak   : Nat := 0
  pres    : Nat := 0
  startdly : Nat := 0
  valid   : Nat := 0
  sums    : SMap Nat := []
  stale   : Bool := false
  deriving DecidableEq, Repr

/-- A launch under an accepted quotation. `phase`: 0 waiting to start, 1 running, 2 ended and not yet posted; `startAt`: when its booked
rise will be served (R399); `mevent`: cause, detail and core of the earliest MACHINE event (R349); `meters`: nJ by cluster up to `meteredAt`, and
`drawn` what BLST ballast has drawn since (R392); `tables`: where its schedule tables lie, base and length in keys (R366); `codePages`: the code pages
that it pins, base and length in keys (R207). -/
structure Launch where
  q        : Quote := {}
  dcb      : Nat := 0
  seq      : Nat := 0
  phase    : Nat := 0
  accepted : Nat := 0
  startAt  : Nat := 0
  started  : Option Nat := none
  deadline : DWord := 0
  endedAt  : Nat := 0
  callerAt : Option Nat := none
  mevent   : Option (Nat × Nat × Nat) := none
  preempted : Bool := false
  replays  : Nat := 0
  replayable : Bool := true
  snaps    : List (Nat × Nat × List Host.Cell) := []
  snapPois : List Nat × List Nat := ([], [])
  dieWct   : SMap (SMap Nat) := []
  forwarded : List Nat := []
  wct      : SMap Nat := []
  frozen   : Bool := false
  failed   : Bool := false
  killed   : Bool := false
  flushNeeded : Bool := false
  alloc    : SMap Nat := []
  peak     : Nat := 0
  meters   : SMap Nat := []
  drawn    : SMap Nat := []
  meteredAt : Nat := 0
  tables   : List (Nat × Nat) := []
  codePages : List (Nat × Nat) := []
  used     : Nat := 0
  deriving DecidableEq, Repr

/-- A dependence edge (R362): the regions of the producer it carries; `raised`: its completion signal, and when it was raised. -/
structure Edge where
  prod : Nat
  cons : Nat
  regions : List Nat
  raised : Bool := false
  raisedAt : Nat := 0
  deriving DecidableEq, Repr

/-- A QUOTE, ACCEPT or DECLINE at the front end (R328, R342): the crew and the operation that its answer completes. -/
structure FrontReq where
  id    : Nat
  crew  : Nat
  op    : Nat
  qid   : DWord
  req   : Nat := 0
  recVa : Nat := 0
  time  : Nat
  lane  : Nat := 0
  kind  : Nat := 0
  deriving DecidableEq, Repr

/-- A queue descriptor at reset: RSIZE, CQSIZE and HALTVOID 1, every other field 0 (R354). -/
def queueReset : BitVec 512 := BitVec.ofNat 512 (2 ^ 235 + 2 ^ 231 + 2 ^ 228)

/-- A queue (R354) with its program and its packet. -/
structure Queue where
  desc    : BitVec 512 := queueReset
  code    : List Word := []
  nregs   : Nat := 16
  regions : List FpRegion := []
  slice   : Nat := 0
  inFlight : Bool := false
  packetSeq : Nat := 0
  packetCrew : Option Nat := none
  lastAt  : Nat := 0
  reserved : Nat := 0
  launches : List Nat := []
  owner   : Option (Nat × Nat × Nat) := none
  report  : Nat := 0
  halting : Option (Nat × Nat) := none
  draining : Bool := false
  loading : Bool := false
  deriving DecidableEq, Repr

/-- A tenant: its budgets of the window (R359), its breach log (R352), its spill area (R383), its pre-emption requests. -/
structure Tenant where
  used    : Nat := 0
  timeNs  : Nat := 0
  logBase : Nat := 0
  logSize : Nat := 0
  logHead : Nat := 0
  logTail : Nat := 0
  logSeq  : Word := 0
  lost    : Nat := 0
  spill   : Nat := 0
  deriving DecidableEq, Repr

/-- A soft pre-emption of a tenant on a partition (R377): when, and how far it has climbed. -/
structure Preempt where
  tenant : Nat
  part   : Nat
  since  : Nat
  rung   : Nat := 1
  stopped : Bool := false
  withdrawn : Bool := false
  deriving DecidableEq, Repr

/-- A saved block (R383, R384): the block, its crews under the keys from 2^20 on that they have at rest, and the storage that goes with
it: `window` by window offset, `fe` the offsets of FULL granules, `slices` by (crew index * 64 + lane) * 2048 + offset, `tiles` by
position * 2^18 + offset, `pois` the poisoned units of these (0, 1 or 2 and the key); `places`: crew index and position of its quadrant;
`quads`: position and quadrant. `inShadow`: none on its way, 0 in its core's shadow slot, 1 in the tenant's spill area. -/
structure Saved where
  block   : Block
  crews   : List (Nat × Crew)
  window  : List Host.Cell
  fe      : List Nat
  slices  : List Host.Cell
  tiles   : List Host.Cell
  pois    : List (Nat × Nat)
  places  : List (Nat × Nat)
  quads   : List (Nat × Quad)
  bars    : List BarEnt
  recs    : List SfRec
  inShadow : Option Nat := none
  tenant  : Nat := 0
  part    : Nat := 0
  deriving DecidableEq, Repr

/-- A DCB at reset: GRACE 25 and KILLT 50, every other field 0 (R149). -/
def dcbReset : BitVec 128 := 0x0000_0019_0320_0000#128

/-! ## Power (19) -/

/-- A cluster: ramp table and limiter (R397, R398); its operating point, its clock's and its rail's (R395): `rail` in mV at `railAt`, on its
way to `target`; the cap named in this interval and in the last, 0 none, 1 boost, 2 current, 3 thermal; the current cap's point; `fallen`: a
rail fault holds it at P0; `stepAt`: the limiter's last step; `cyc`: MHz times ns since `cycFrom`, up to the last change of the clock at `clockAt`. -/
structure Cluster where
  ramp    : BitVec 96 := 0
  rampSet : Bool := false
  j       : Nat := 0
  d       : Nat := 0
  reqs    : List (Nat × Nat × Nat) := []
  point   : Nat := 3
  clock   : Nat := 3
  rail    : Nat := 650
  railAt  : Nat := 0
  target  : Nat := 3
  capNow  : Nat := 0
  capLast : Nat := 0
  curCap  : Option Nat := none
  fallen  : Bool := false
  stepAt  : Nat := 0
  cyc     : Nat := 0
  cycFrom : Nat := 0
  clockAt : Nat := 0
  deriving DecidableEq, Repr

/-- A partition: its power control register (R394), its meter of the last interval, the power it wanted, its
floor and its ballast, in mW (R392, R400), its throttle in sixteenths (R393), the ballast charged to the operator (R401), the sum of its
power since the last sample; `blst`: the nJ that BLST ballast has drawn in this interval, `blstMw` its power in the last (R326);
`clusters`: those on which its ballast may run while its power falls (R400). -/
structure Part where
  ppc     : Word := 0
  ppcSet  : Bool := false
  power   : Nat := 0
  wanted  : Nat := 0
  floor   : Nat := 0
  gate    : Nat := 16
  ballast : Nat := 0
  opBal   : Nat := 0
  acc     : Nat := 0
  blst    : Nat := 0
  blstMw  : Nat := 0
  clusters : List Nat := []
  deriving DecidableEq, Repr

/-! ## Ports, functions, management (06, 20) -/

/-- Something the module sends out: a kind and its numbers. Kinds: 1 an MSI-X message, 2 a completion of an inbound read, 3 an
unsupported-request completion, 4 a telemetry record, 5 an SPDM answer, 6 a pan reservation, 7 a pan put, 8 a reply to a
reservation, 9 an acknowledgement of a put, 10 STOP or GO of a channel, 11 a snoop answer, 12 a report to management. -/
structure OutMsg where
  kind : Nat
  nums : List Nat
  deriving DecidableEq, Repr

/-- A Celore port (R131 to R133, R137). `stopped`: the channels that the peer has stopped; `told`: those on which this module has sent STOP and not yet
GO; `vc1`: the replies and acknowledgements that wait for VC1, oldest first. -/
structure Port where
  owner    : BitVec 8 := 0
  peer     : DWord := 0
  measured : Nat := 0
  down     : Bool := false
  retrain  : Bool := false
  replays  : List Nat := []
  retrains : List Nat := []
  stopped  : BitVec 4 := 0
  told     : BitVec 4 := 0
  vc1      : List OutMsg := []
  deriving DecidableEq, Repr

/-- A host function (R414 to R422). `wct`: the WCT of its last ordered write (R84); `qrstBusy`: the queues whose reset has not completed. -/
structure Func where
  owner    : BitVec 8 := 0
  tenant   : Nat := 0
  invcmd   : DWord := 0
  invList  : List (Nat × Nat × Nat) := []
  qrst     : Word := 0
  qrstBusy : List Nat := []
  errHead  : Word := 0
  errBase  : Nat := 0
  errLog   : List (Nat × Nat) := []
  drop     : Word := 0
  badNotify : Word := 0
  queues   : SMap Nat := []
  wct      : Nat := 0
  msixOn   : Bool := false
  msixMask : BitVec 256 := BitVec.allOnes 256
  msixTab  : SMap (BitVec 128) := []
  pba      : BitVec 256 := 0
  resetting : Bool := false
  frozen   : Bool := false
  deriving DecidableEq, Repr

/-- A host port: untrained (0), PCIe 7.0 (1) or CXL 3.1 (2), its lanes, and its SPDM connection (R424). -/
structure HostPort where
  mode  : Nat := 0
  lanes : Nat := 0
  spdm  : Nat := 0
  deriving DecidableEq, Repr

/-- A unit of R410: its two counters, the end of their window, retirement. -/
structure UnitCnt where
  events    : Nat := 0
  corrected : Nat := 0
  since     : Nat := 0
  retired   : Bool := false
  pending   : Bool := false
  deriving DecidableEq, Repr

/-- A kernel that the loader has loaded (R136): the die, the ASID and address of its record, its relocations. -/
structure Loaded where
  die    : Nat
  asid   : Nat
  record : Nat
  relocs : List (Nat × Nat × Nat × Nat × Nat)
  deriving DecidableEq, Repr

/-- The module-wide registers of the management plane (R391, R402, R411, R425). `routesOld`: a unit or a link has been retired since the routes were
filled. `ptpSec`, `ptpNs`: PTP time at module time `ptpAt`. `ints`, `modAcc`, `balAcc`, `opAcc`: the intervals since
the last sample, and the sums of what it averages, in mW. `interval`, `msWindow`, `samples`: the control intervals, budget
windows and telemetry samples that have ended. `ptpErr`: how far PTP time was ahead of what module time gives, in ns, at the last time input;
the slewing works on it (R5). `schedAt`: the physical address of each core's schedule tables, 0 for none (R366). `badImage`: the
step of bring-up whose firmware image fails its signature or its security version, 0 for none (R423). -/
structure Mgmt where
  mpc      : DWord := 0
  modnum   : BitVec 16 := 0
  window   : Nat := 86400000000000
  evLimit  : Nat := 3
  corrLimit : Nat := 4096
  sampleSeq : Word := 0
  ptpSec   : Nat := 0
  ptpNs    : Nat := 0
  sync     : Nat := 0
  step     : Nat := 7
  sramUp   : Bool := true
  logicUp  : Bool := true
  rampx    : Nat := 0
  opbw     : Nat := 0
  interval : Nat := 0
  msWindow : Nat := 0
  samples  : Nat := 0
  routesOld : Bool := false
  ptpAt    : Nat := 0
  ptpErr   : Int := 0
  ints     : Nat := 0
  modAcc   : Nat := 0
  balAcc   : Nat := 0
  opAcc    : Nat := 0
  schedAt  : SMap Nat := []
  badImage : Nat := 0
  deriving DecidableEq, Repr

end Sys2Proof.Machine
end

