-- ==== Sys2Proof/Machine/State.lean ====
section
/-! DEFINITION. State.lean: the whole state of the module as plain data, why a step can stop, and the state after reset. -/

namespace Sys2Proof.Machine

/-- The issue context of a step: the crew, the lanes of the issuing group, its PC, the PC that follows in sequence; `rep`: the
repeat index and count when a REP's target issues, and `fmode` the FMODE the instruction runs under (R182, R236). -/
structure Ctx where
  crew  : Nat
  lanes : Lanes
  pc    : Nat
  next  : Nat
  rep   : Option (Nat × Nat) := none
  fmode : BitVec 13 := 0
  deriving DecidableEq, Repr

/-- A repeat that a REP has begun at this issue (R236): its index, COUNT and the steps of the fields. -/
structure RepPlan where
  i     : Nat
  count : Nat
  sd    : Nat
  sa    : Nat
  sb    : Nat
  sc    : Nat
  deriving DecidableEq, Repr

/-- Storage: the bytes of every memory by memory key (a space tag times 2^64 plus the address inside), the full/empty bits of the
scratchpad by the key of the granule (R41), the poisoned units by key (R53, R408). -/
structure Mem where
  bytes : List Host.Cell := []
  fe    : SMap Bool := []
  pois  : SMap Bool := []
  deriving DecidableEq, Repr

/-- Leases and caches: pending stores (R66), L1 lines (R47), L2 ways (R51), lease floors (R52), COMMIT locks (R89). -/
structure Coh where
  pend   : List Pending := []
  l1     : SMap L1Line := []
  l2     : SMap L2Way := []
  floors : SMap Nat := []
  locks  : List LockEnt := []
  deriving DecidableEq, Repr

/-- Translation: root table (R11), L2 TLBs by cluster, set and way, the L1 data and instruction TLBs by core, the entry used last first (R21), pin
records by die (R20), walkers by die (R24). -/
structure Trans where
  roots : SMap DWord := []
  tlb   : SMap TlbEnt := []
  dtlb  : SMap (List Xlate) := []
  itlb  : SMap (List Xlate) := []
  pins  : SMap (List Pin) := []
  walk  : SMap WalkPool := []
  deriving DecidableEq, Repr

/-- Execution: crews by crew key, blocks by block key, quadrants, cores, gather engines by die * 8 + engine. -/
structure Exec where
  crews   : SMap Crew := []
  blocks  : SMap Block := []
  quads   : SMap Quad := []
  cores   : SMap Core := []
  gathers : SMap Gather := []
  deriving DecidableEq, Repr

/-- The front end: quotations by QID, launches by DCB index, edges, requests not yet answered, the acceptance order, queues,
tenants by DCB index, the tenant chosen last per die, the DCB tree, pre-emptions, saved blocks; when a launch in flight or a completion entry last
made room for an ACCEPT (R358, R361). -/
structure Front where
  quotes   : SMap Quote := []
  launches : SMap Launch := []
  edges    : List Edge := []
  reqs     : List FrontReq := []
  order    : List FrontReq := []
  queues   : SMap Queue := []
  tenants  : SMap Tenant := []
  lastT    : SMap Nat := []
  dcbs     : SMap (BitVec 128) := []
  preempts : List Preempt := []
  saved    : List Saved := []
  nextQid  : Nat := 1
  rampEnd  : Nat := 0
  roomAt   : Nat := 0
  deriving DecidableEq, Repr

/-- The platform: partitions, memory grant tables by partition * 16 + entry (R389), chip-scratchpad grants by partition * 4 + die
(R6), L2 way shares by die * 32 + partition (R56), clusters, snapshot pools (R404), quarantine (R409), poison records by die *
8 + controller (R408), units (R410), Celore ports, functions by port * 33 + number, host ports, what was sent out, management, the loaded kernels. -/
structure Plat where
  parts   : SMap Part := []
  grants  : SMap (Nat × Nat) := []
  xgrants : SMap (Nat × Nat) := []
  ways    : SMap Word := []
  releasing : SMap (BitVec 24) := []
  clusters : SMap Cluster := []
  pools   : SMap (Nat × Nat) := []
  poolUsed : SMap (List Nat) := []
  quar    : SMap Bool := []
  poisRec : SMap (List Nat) := []
  units   : SMap UnitCnt := []
  ports   : SMap Port := []
  funcs   : SMap Func := []
  hosts   : SMap HostPort := []
  out     : List OutMsg := []
  mgmt    : Mgmt := {}
  loads   : List Loaded := []
  deriving DecidableEq, Repr

/-- The module. `now`: module time in ns, a number of 64 bits (R5, R60). `ctr`: the model's own counter, which numbers the free values. `events`: the
rows of the opcode table that are due next, oldest first: what the parties outside and the agents of the module do. `rr`: the
quadrant looked at first for an issue. `held`: the last issue left its group where it stood. `turn`: this step
looks for an internal event before it looks for an issue. -/
structure State where
  now    : Nat := 0
  ctr    : Nat := 0
  events : List Instr := []
  cur    : Option Ctx := none
  rep    : Option RepPlan := none
  rr     : Nat := 0
  held   : Bool := false
  turn   : Bool := false
  mem    : Mem := {}
  coh    : Coh := {}
  tr     : Trans := {}
  ex     : Exec := {}
  fr     : Front := {}
  pl     : Plat := {}
  deriving DecidableEq, Repr

/-- Why the machine stops. -/
inductive Fault where
  /-- Raised by every instruction row when no group of a resident crew is issuing it: an instruction has no meaning outside an
  issue (R141). Safe: the module never does it. -/
  | noIssuingGroup
  deriving DecidableEq, Repr

/-- Why the model gives no meaning. -/
inductive Refusal where
  /-- Raised by an arm of `exec` whose instruction is not modelled. Safe: no next state is claimed. -/
  | notModelled (mnemonic : String)
  deriving DecidableEq, Repr

/-- What a step or an instruction answers. -/
abbrev Out := Host.Outcome State Fault Refusal

/-- After reset: every field at its reset value; module power control at MBUDGET 3,600, RLIM 250, ICL 150, BOOSTEN 0 (R391). -/
def State.reset : State :=
  { pl := { mgmt := { mpc := 0x7080_7D4B_0000_0000#64 } } }

end Sys2Proof.Machine
end

