-- ==== Sys2Proof/Machine/Base.lean ====
section
/-! DEFINITION. Base.lean: reaching the tables of the state, places, storage, lanes and registers. -/

namespace Sys2Proof.Machine

/-! ## Places (R2, R140) -/

def quadOf (crew : Nat) : Nat := crew / 16
def slotOf (crew : Nat) : Nat := crew % 16
def coreOf (crew : Nat) : Nat := crew / 64
/-- The die of a core; cores from 160 up are the queue cores, eight to a die (R357). -/
def dieOf (core : Nat) : Nat := if core < 160 then core / 40 else (core - 160) / 8
/-- The cluster of a core (R140). -/
def clusterOf (core : Nat) : Nat := core / 8

/-- Module time holds 64 bits (R5); it does not pass the largest of them (log entry 2). -/
def maxTime (t : Nat) : Nat := if Nat.ble t 0xFFFFFFFFFFFFFFFF then t else 0xFFFFFFFFFFFFFFFF

namespace State

/-! ## Reaching the tables of the state -/
def crew (s : State) (k : Nat) : Crew := SMap.get {} s.ex.crews k
def setCrew (s : State) (k : Nat) (c : Crew) : State := { s with ex := { s.ex with crews := SMap.put s.ex.crews k c } }
def modCrew (s : State) (k : Nat) (f : Crew → Crew) : State := s.setCrew k (f (s.crew k))
def block (s : State) (k : Nat) : Block := SMap.get {} s.ex.blocks k
def setBlock (s : State) (k : Nat) (b : Block) : State := { s with ex := { s.ex with blocks := SMap.put s.ex.blocks k b } }
def modBlock (s : State) (k : Nat) (f : Block → Block) : State := s.setBlock k (f (s.block k))
def quad (s : State) (k : Nat) : Quad := SMap.get {} s.ex.quads k
def setQuad (s : State) (k : Nat) (q : Quad) : State := { s with ex := { s.ex with quads := SMap.put s.ex.quads k q } }
def modQuad (s : State) (k : Nat) (f : Quad → Quad) : State := s.setQuad k (f (s.quad k))
def core (s : State) (k : Nat) : Core := SMap.get {} s.ex.cores k
def setCore (s : State) (k : Nat) (c : Core) : State := { s with ex := { s.ex with cores := SMap.put s.ex.cores k c } }
def modCore (s : State) (k : Nat) (f : Core → Core) : State := s.setCore k (f (s.core k))
def gather (s : State) (k : Nat) : Gather := SMap.get {} s.ex.gathers k
def setGather (s : State) (k : Nat) (g : Gather) : State := { s with ex := { s.ex with gathers := SMap.put s.ex.gathers k g } }
def launch (s : State) (k : Nat) : Launch := SMap.get {} s.fr.launches k
def setLaunch (s : State) (k : Nat) (l : Launch) : State := { s with fr := { s.fr with launches := SMap.put s.fr.launches k l } }
def modLaunch (s : State) (k : Nat) (f : Launch → Launch) : State :=
  match SMap.find? s.fr.launches k with
  | none => s
  | some l => s.setLaunch k (f l)
def quote (s : State) (k : Nat) : Quote := SMap.get {} s.fr.quotes k
def setQuote (s : State) (k : Nat) (q : Quote) : State := { s with fr := { s.fr with quotes := SMap.put s.fr.quotes k q } }
def queue (s : State) (k : Nat) : Queue := SMap.get {} s.fr.queues k
def setQueue (s : State) (k : Nat) (q : Queue) : State := { s with fr := { s.fr with queues := SMap.put s.fr.queues k q } }
def modQueue (s : State) (k : Nat) (f : Queue → Queue) : State := s.setQueue k (f (s.queue k))
def tenant (s : State) (k : Nat) : Tenant := SMap.get {} s.fr.tenants k
def setTenant (s : State) (k : Nat) (t : Tenant) : State := { s with fr := { s.fr with tenants := SMap.put s.fr.tenants k t } }
def dcb (s : State) (k : Nat) : Nat := (SMap.get dcbReset s.fr.dcbs k).toNat
def setDcb (s : State) (k : Nat) (v : Nat) : State :=
  { s with fr := { s.fr with dcbs := SMap.put s.fr.dcbs k (BitVec.ofNat 128 v) } }
def part (s : State) (k : Nat) : Part := SMap.get {} s.pl.parts k
def setPart (s : State) (k : Nat) (p : Part) : State := { s with pl := { s.pl with parts := SMap.put s.pl.parts k p } }
def cluster (s : State) (k : Nat) : Cluster := SMap.get {} s.pl.clusters k
def setCluster (s : State) (k : Nat) (c : Cluster) : State := { s with pl := { s.pl with clusters := SMap.put s.pl.clusters k c } }
def port (s : State) (k : Nat) : Port := SMap.get {} s.pl.ports k
def setPort (s : State) (k : Nat) (p : Port) : State := { s with pl := { s.pl with ports := SMap.put s.pl.ports k p } }
def func (s : State) (k : Nat) : Func := SMap.get {} s.pl.funcs k
def setFunc (s : State) (k : Nat) (f : Func) : State := { s with pl := { s.pl with funcs := SMap.put s.pl.funcs k f } }
def walkPool (s : State) (die : Nat) : WalkPool := SMap.get {} s.tr.walk die
def setWalk (s : State) (die : Nat) (w : WalkPool) : State := { s with tr := { s.tr with walk := SMap.put s.tr.walk die w } }
/-- Adds rows that are due after the present ones. -/
def due (s : State) (es : List Instr) : State := { s with events := s.events ++ es }
/-- Sends something out of the module. -/
def send (s : State) (kind : Nat) (nums : List Nat) : State := { s with pl := { s.pl with out := s.pl.out ++ [⟨kind, nums⟩] } }
/-- A fresh number for a free value. -/
def fresh (s : State) : State := { s with ctr := s.ctr + 1 }

end State

/-! ## Clocks (R395) -/

/-- The clock of an operating point in MHz. -/
def pointMhz (p : Nat) : Nat :=
  match p with
  | 0 => 2200 | 1 => 2640 | 2 => 2970 | 3 => 3300 | 4 => 3520 | _ => 3740

/-- The whole nanoseconds that `n` clk of a core take, rounded up. -/
def State.clkNs (s : State) (core n : Nat) : Nat := cdiv (n * 1000) (pointMhz (s.cluster (clusterOf core)).clock)

/-! ## Storage -/

/-- The memory key of address `a` in the storage `tag`: 1 HBM by physical address, 2 and 3 host memory by port, 4 and 5 peer
memory by port, 6 scratchpads, 7 chip scratchpads, 8 lane slices, 9 accumulator tiles. -/
def memKey (tag a : Nat) : Nat := tag * 2 ^ 64 + a

def keyTag (key : Nat) : Nat := key / 2 ^ 64
def keyAddr (key : Nat) : Nat := key % 2 ^ 64

/-- The canonical form of a memory: keys rise and no entry holds what an unlisted key reads as (log entry 1). -/
def Memory.wf (m : List Host.Cell) : Bool := SMap.wf 0 m

namespace Mem

/-- A byte of storage; one that nothing has written reads 0. Log entry 1. -/
def byte (m : Mem) (key : Nat) : Byte := SMap.get 0 m.bytes key

/-- Storage with a byte written. -/
def setByte (m : Mem) (key : Nat) (b : Byte) : Mem := { m with bytes := SMap.set 0 m.bytes key b }

/-- The canonical form of the byte list: keys rise and no entry holds 0. -/
def wf (m : Mem) : Bool := Memory.wf m.bytes

/-- `n` bytes from a key on. -/
def read (m : Mem) (key : Nat) : Nat → List Byte
  | 0 => []
  | n + 1 => m.byte key :: read m (key + 1) n

/-- Writes bytes from a key on. -/
def write (m : Mem) (key : Nat) : List Byte → Mem
  | [] => m
  | b :: rest => (m.setByte key b).write (key + 1) rest

/-- Writes bytes each at its own key. -/
def writeAll (m : Mem) : List (Nat × Byte) → Mem
  | [] => m
  | (k, b) :: rest => (m.setByte k b).writeAll rest

end Mem

/-- Bits of a byte that a nibble mask names (R54). -/
def nibBits (m : BitVec 2) : Byte := (if m.getLsbD 0 then 0x0F#8 else 0#8) ||| (if m.getLsbD 1 then 0xF0#8 else 0#8)

/-- Merges the named nibbles of a new byte into an old one (R54). -/
def mergeNib (old new : Byte) (m : BitVec 2) : Byte := (old &&& ~~~nibBits m) ||| (new &&& nibBits m)

/-- The unit that one poison mark covers (R53): 4 bytes on chip, 8 bytes behind the caches. -/
def poisonUnit (key : Nat) : Nat := if keyTag key < 6 then key - key % 8 else key - key % 4

def poisonBytes (key : Nat) : Nat := if keyTag key < 6 then 8 else 4

/-- The 64-byte sector of a key. -/
def sectorOf (key : Nat) : Nat := key / 64

/-- The memory controller of an HBM address (R50). -/
def controllerOf (pa : Nat) : Nat := bits pa 37 9 % 6

/-- The die of an HBM address (R50). -/
def dieOfPa (pa : Nat) : Nat := pa / 0x4000000000

/-- A physical address lies in a die's 192 GiB of HBM (R2, R50). -/
def inHbm (pa : Nat) : Bool := Nat.blt pa 0x10000000000 && Nat.blt (pa % 0x4000000000) 0x3000000000

/-- A range of physical addresses lies in one die's HBM; an empty one does. -/
def inHbmRange (pa len : Nat) : Bool := decide (len = 0) || (inHbm pa && inHbm (pa + len - 1) && decide (dieOfPa pa = dieOfPa (pa + len - 1)))

/-- The 16-byte granule of the scratchpad that a byte lies in: its first byte, in the first of four consecutive banks (R41). -/
def granuleOf (key : Nat) : Nat :=
  let a := keyAddr key
  let bank := a % 2 ^ 22 / 4 / 12288
  memKey 6 (a / 2 ^ 22 * 2 ^ 22 + ((bank - bank % 4) * 12288 + a % 2 ^ 22 / 4 % 12288) * 4)

/-- The home die of a key behind the caches (R50). -/
def homeDie (key : Nat) : Nat :=
  match keyTag key with
  | 1 => dieOfPa (keyAddr key)
  | 2 => 0
  | 4 => 0
  | _ => 2

namespace State

/-- The 4 KiB frame of an HBM key is quarantined (R409). -/
def quarantined (s : State) (key : Nat) : Bool := decide (keyTag key = 1) && SMap.get false s.pl.quar (keyAddr key / 4096)

/-- A range of keys touches a code page or a schedule table that an accepted launch holds until it ends (R207, R366). -/
def codeHit (s : State) (key n : Nat) : Bool :=
  s.fr.launches.any fun p => decide (p.2.phase < 2) && (p.2.codePages ++ p.2.tables).any fun r => decide (r.1 < key + n) && decide (key < r.1 + r.2)

/-- A byte of memory that no write reaches: of a quarantined frame (R409), of a locked code page or schedule table (R207, R366). -/
def unwritable (s : State) (key : Nat) : Bool := s.quarantined key || s.codeHit key 1

/-- A byte is poisoned: its unit, its recorded sector (R408) or its quarantined frame (R409). -/
def poisoned (s : State) (key : Nat) : Bool :=
  SMap.get false s.mem.pois (poisonUnit key) || s.quarantined key
    || (decide (keyTag key = 1) && (SMap.get [] s.pl.poisRec (dieOfPa (keyAddr key) * 8 + controllerOf (keyAddr key))).contains
        (sectorOf key))

def anyPoisoned (s : State) (key n : Nat) : Bool := (List.range n).any fun i => s.poisoned (key + i)

/-- Every byte of a poison unit is among the written keys, so the write clears the mark (R53). -/
def coversUnit (keys : List Nat) (u : Nat) : Bool := (List.range (poisonBytes u)).all fun i => keys.contains (u + i)

def coversSector (keys : List Nat) (sec : Nat) : Bool := (List.range 64).all fun i => keys.contains (sec * 64 + i)

/-- Performs a write of bytes at home or at a bank (R53, R66, R69, R408, R409): a write of a whole unit or sector clears its mark,
a write to a quarantined frame is discarded, and none is made into a locked code page or schedule table, from any master (R207). -/
def performBytes (s : State) (bs : List (Nat × Byte)) : State :=
  let bs := bs.filter fun p => !s.unwritable p.1
  let keys := bs.map (·.1)
  let units := (keys.map poisonUnit).filter fun u => SMap.get false s.mem.pois u && coversUnit keys u
  let pois := units.foldl (fun m u => SMap.set false m u false) s.mem.pois
  let recs := s.pl.poisRec.map fun (k, l) => (k, l.filter fun sec => !coversSector keys sec)
  let m := s.mem.writeAll bs
  { s with mem := { m with pois := pois }, pl := { s.pl with poisRec := recs } }

/-- Marks units as poisoned. -/
def poisonKeys (s : State) (keys : List Nat) : State :=
  { s with mem := { s.mem with pois := keys.foldl (fun m k => SMap.set false m (poisonUnit k) true) s.mem.pois } }

/-- Adds an entry to the error log of each function whose partition's grants cover an HBM address (R33, R409): the address and a code, 1 to 3
a walk status, 4 a quarantine, 5 an isolation break. -/
def logFunc (f : Func) (addr code : Nat) : Func := { f with errHead := f.errHead + 1, errLog := f.errLog ++ [(addr, code)] }

/-- The frame with the most entries of a record, the lowest address on a tie. -/
def worstFrame (l : List Nat) : Nat :=
  (l.map (· / 64)).foldl (fun best f =>
    let n := fun g => (l.filter fun sec => decide (sec / 64 = g)).length
    if n best < n f ∨ (n best = n f ∧ f < best) then f else best) (l.headD 0 / 64)

/-- A controller records a poisoned sector of HBM; with 512 entries in use it first quarantines a frame (R408, R409). -/
def recordPoison (s : State) (sec : Nat) : State :=
  let pa := keyAddr (sec * 64)
  let k := dieOfPa pa * 8 + controllerOf pa
  let l := SMap.get [] s.pl.poisRec k
  if l.contains sec || s.quarantined (sec * 64) then s
  else if l.length < 512 then { s with pl := { s.pl with poisRec := SMap.set [] s.pl.poisRec k (l ++ [sec]) } }
  else
    let f := worstFrame l
    let frame := keyAddr (f * 4096) / 4096
    let l := l.filter fun x => !decide (x / 64 = f)
    let funcs := s.pl.funcs.map fun p => (p.1, if 128 ≤ p.2.owner.toNat ∧ (List.range 16).any (fun i =>
        let g := SMap.get (0, 0) s.pl.grants (p.2.owner.toNat % 32 * 16 + i)
        decide (g.1 * 512 ≤ frame) && decide (frame < (g.1 + g.2) * 512)) then logFunc p.2 (frame * 4096) 4 else p.2)
    { s with pl := { s.pl with
        quar := SMap.set false s.pl.quar frame true
        poisRec := SMap.set [] s.pl.poisRec k (if sec / 64 = f then l else l ++ [sec])
        funcs := funcs } }

/-- The quarter numbers of a core that a partition owns (R37, R387). -/
def quarters (s : State) (core prt : Nat) : List Nat :=
  (List.range 4).filter fun q => decide ((s.quad (core * 4 + q)).owner.toNat = 128 + prt)

/-- The bytes of a partition's share on a core (R37). -/
def shareLen (s : State) (core prt : Nat) : Nat := (s.quarters core prt).length * 786432

/-- The memory key of share index `i` of a partition on a core (R36). -/
def scrKey (s : State) (core prt i : Nat) : Nat :=
  let qs := s.quarters core prt
  let w := i / 4
  let nb := 16 * qs.length
  let bank := if nb = 0 then 0 else 16 * qs.getD (w % nb / 16) 0 + w % nb % 16
  let row := if nb = 0 then 0 else w / nb
  memKey 6 (core * 2 ^ 22 + (bank * 12288 + row) * 4 + i % 4)

/-- The keys of `n` bytes of a share from index `i` on. -/
def scrKeys (s : State) (core prt i n : Nat) : List Nat := (List.range n).map fun j => s.scrKey core prt (i + j)

/-- The partition that owns a quadrant. -/
def partOf (s : State) (quad : Nat) : Nat := (s.quad quad).owner.toNat % 32

/-- The full/empty bit of the granule at a share index (R41). -/
def feBit (s : State) (core prt i : Nat) : Bool := SMap.get false s.mem.fe (s.scrKey core prt (i - i % 16))

def setFe (s : State) (core prt i : Nat) (full : Bool) : State :=
  { s with mem := { s.mem with fe := SMap.set false s.mem.fe (s.scrKey core prt (i - i % 16)) full } }

/-- The key of a lane's slice byte (R8, R35). -/
def sliceKey (quad lane off : Nat) : Nat := memKey 8 ((quad * 64 + lane) * 2048 + off)

/-- The key of byte `off` of an accumulator tile (R46). -/
def tileKey (quad m off : Nat) : Nat := memKey 9 ((quad * 16 + m) * 16384 + off)

/-- The key of a chip-scratchpad byte: the partition's grant on the die plus the offset (R6, R45). -/
def xKey (s : State) (prt die off : Nat) : Nat := memKey 7 (die * 2 ^ 26 + (SMap.get (0, 0) s.pl.xgrants (prt * 4 + die)).1 + off)

end State

/-! ## Lanes and registers -/

namespace Thread

def rd (t : Thread) (n : Nat) : Word := SMap.get 0 t.v n
/-- Writes a v register: the value, FULL and not poisoned (R145, R146). -/
def wr (t : Thread) (n : Nat) (x : Word) : Thread :=
  { t with v := SMap.set 0 t.v n x, vE := t.vE &&& ~~~(1#256 <<< n), vP := t.vP &&& ~~~(1#256 <<< n) }
def setEmpty (t : Thread) (n : Nat) : Thread := { t with vE := t.vE ||| (1#256 <<< n) }
def setPois (t : Thread) (n : Nat) : Thread := { t with vP := t.vP ||| (1#256 <<< n) }
/-- A predicate; p7 reads true (R195). -/
def pred (t : Thread) (n : Nat) : Bool := decide (n = 7) || t.p.getLsbD n
/-- Writes a predicate; a write to p7 is discarded (R195). -/
def wrPred (t : Thread) (n : Nat) (b : Bool) : Thread :=
  if n = 7 then t else { t with p := if b then t.p ||| (1#8 <<< n) else t.p &&& ~~~(1#8 <<< n) }
def specAct (t : Thread) : Bool := t.spec.getLsbD 31
def specCrew (t : Thread) : Bool := t.spec.getLsbD 30
def specDepth (t : Thread) : Nat := bits t.spec.toNat 29 27

end Thread

/-- A thread leaves its blocking instruction. -/
def Thread.unblock (t : Thread) : Thread :=
  match t.blocked with
  | none => t
  | some b => { t with blocked := none, pc := b.nextPc, repcnt := b.rep.getD t.repcnt }

namespace Crew

def thread (c : Crew) (l : Nat) : Thread := SMap.get {} c.threads l
/-- Applies a function to the threads of a lane set. -/
def mapLanes (c : Crew) (m : Lanes) (f : Nat → Thread → Thread) : Crew :=
  { c with threads := c.threads.map fun (l, t) => (l, if hasLane m l then f l t else t) }
/-- The live threads. -/
def live (c : Crew) : Lanes := laneSet fun l => (c.thread l).live
/-- The handler has the names s58 to s63 (R373). -/
def inHandler (c : Crew) (m : Lanes) : Bool :=
  match lowLane m with
  | none => false
  | some l => (c.thread l).tmaskM
/-- An s register as the issuing group names it (R373). -/
def rdS (c : Crew) (h : Bool) (n : Nat) : Word :=
  if h && decide (58 ≤ n) then c.bank.extractLsb' (32 * (n - 58)) 32 else SMap.get 0 c.s n
/-- Reserved bits of the lane detail entry, which ignore writes (R373). -/
def bankMask : BitVec 192 := ~~~(0x07000000#192 ||| 0x000FFF00#192)
def wrS (c : Crew) (h : Bool) (n : Nat) (x : Word) : Crew :=
  if h && decide (58 ≤ n) then
    let sh := 32 * (n - 58)
    { c with bank := ((c.bank &&& ~~~(0xFFFFFFFF#192 <<< sh)) ||| (x.setWidth 192 <<< sh)) &&& bankMask }
  else { c with s := SMap.set 0 c.s n x, sE := c.sE &&& ~~~(1#64 <<< n), sP := c.sP &&& ~~~(1#64 <<< n) }
def sEmpty (c : Crew) (h : Bool) (n : Nat) : Bool := !(h && decide (58 ≤ n)) && c.sE.getLsbD n
def sPois (c : Crew) (h : Bool) (n : Nat) : Bool := !(h && decide (58 ≤ n)) && c.sP.getLsbD n
def setSEmpty (c : Crew) (n : Nat) : Crew := { c with sE := c.sE ||| (1#64 <<< n) }

/-- Writes registers: lanes' v registers and s registers. -/
def applyWrites (c : Crew) (h : Bool) : List RegWrite → Crew
  | [] => c
  | w :: rest =>
    (match w.lane with
      | some l => c.mapLanes (oneLane l) fun _ t => t.wr w.reg w.val
      | none => c.wrS h w.reg w.val).applyWrites h rest

/-- Marks destinations EMPTY (R145). -/
def markEmpty (c : Crew) : List (Option Nat × Nat) → Crew
  | [] => c
  | (some l, r) :: rest => (c.mapLanes (oneLane l) fun _ t => t.setEmpty r).markEmpty rest
  | (none, r) :: rest => (c.setSEmpty r).markEmpty rest

/-- The destinations that have a full/empty bit: not a queue port's pushes, nor the entries of the lane detail buffer, which a handler
names (R373). -/
def realDests (_ : Crew) (h : Bool) (ds : List (Option Nat × Nat)) : List (Option Nat × Nat) :=
  ds.filter fun d => decide (d.2 < 256) && (d.1.isSome || !h || decide (d.2 < 58))

/-- How many operations of a class are outstanding (R112). -/
def outstanding (c : Crew) (cls : Nat) : Nat := (c.ops.filter fun o => decide (o.cls = cls)).length

/-- The pushes that waits of the crew make when they end: the port, the instruction, its lanes (R111, R267). -/
def waitPushes (c : Crew) : List (Nat × Nat × Lanes) :=
  ((c.threads.filterMap fun p => if p.2.live then p.2.blocked.orElse fun _ => p.2.resume else none).filterMap fun b =>
    if 256 ≤ b.d then some (b.d - 256, b.pc, b.lanes) else none).eraseDups

/-- The class has room for one more operation (R112); a push that a wait still has to make has its place in ST already. -/
def clsRoom (c : Crew) (cls : Nat) : Bool :=
  decide (6 ≤ cls) || decide (c.outstanding cls + (if cls = 1 then c.waitPushes.length else 0) < clsMax cls)

/-- OCNT (R112). -/
def ocnt (c : Crew) : Nat :=
  c.outstanding 5 * 2 ^ 26 + c.outstanding 4 * 2 ^ 22 + c.outstanding 3 * 2 ^ 18 + c.outstanding 2 * 2 ^ 13 + c.outstanding 1 * 2 ^ 6
    + c.outstanding 0

/-- Enters an operation, numbered in issue order. -/
def addOp (c : Crew) (o : Op) : Crew := { c with ops := c.ops ++ [{ o with id := c.nextOp }], nextOp := c.nextOp + 1 }

def modOp (c : Crew) (id : Nat) (f : Op → Op) : Crew := { c with ops := c.ops.map fun o => if o.id = id then f o else o }
def findOp (c : Crew) (id : Nat) : Option Op := c.ops.find? fun o => decide (o.id = id)

end Crew

/-- What the two lanes of some pair would do differs (R154); a lane that is not active does nothing. -/
def State.pairsDiffer (act : Lanes) (f : Nat → List Nat) : Bool :=
  (List.range 32).any fun i =>
    let g := fun l => if hasLane act l then some (f l) else none
    decide (g (2 * i) ≠ g (2 * i + 1))

/-- The span of a launch on a core: its base share index and length. -/
def State.spanOf (l : Launch) (core : Nat) : Nat × Nat := SMap.get (0, 0) l.q.spans core

/-- The bytes of a launch's pan (R121, R122): NSLOT slots of SLOTCH chunks of 512 bytes. -/
def panBytes (q : Quote) : Nat := bits q.pan.toNat 6 0 * bits q.pan.toNat 23 12 * 512

end Sys2Proof.Machine
end

