-- ==== Sys2Proof/Machine/Access.lean ====
section
/-! DEFINITION. Access.lean: where an access goes (R6 to R9, R17, R22, R31, R36, R44, R45, R80, R207), the L2 TLBs (R21), and the
pinned translations of a launch (R19, R20, R28). -/

namespace Sys2Proof.Machine

/-- The rights that an access needs of its region (R17). -/
structure Need where
  r : Bool := false
  w : Bool := false
  a : Bool := false
  e : Bool := false
  deriving DecidableEq, Repr

def Need.load : Need := { r := true }
def Need.store : Need := { w := true }
def Need.atom : Need := { a := true }
def Need.engRead : Need := { r := true, e := true }
def Need.engWrite : Need := { w := true, e := true }
/-- An arrival barrier in `.g` (R114). -/
def Need.barrier : Need := { r := true, w := true, a := true, e := true }
def Need.writes (n : Need) : Bool := n.w || n.a

/-- Where a byte range starts: in a partition's share of a core's scratchpad, by share index, or at a memory key. -/
structure Place where
  scr    : Option (Nat × Nat) := none
  base   : Nat := 0
  loc    : Nat := 4
  port   : Nat := 0
  region : Nat := 0
  deriving DecidableEq, Repr

/-- Why an address gives no place: a fault of R31, a translation that a queue core must ask for, or a walk that failed (R33). -/
inductive Miss where
  | fault (detail : Nat)
  | walk (asid va : Nat)
  | walkFail (status : Nat)
  deriving DecidableEq, Repr

def badNoncanon : Nat := 0x01
def badZerobits : Nat := 0x02
def badSlice : Nat := 0x03
def badWindow : Nat := 0x04
def badSpan : Nat := 0x05
def badGrant : Nat := 0x06
def badFootprint : Nat := 0x07
def badRights : Nat := 0x08
def badForced : Nat := 0x09
def badNibble : Nat := 0x0A
def badAtom : Nat := 0x0B
def badCode : Nat := 0x0C

/-- Bits 63:57 are copies of bit 56 (R9). -/
def canonical (va : Nat) : Bool := decide (va < 2 ^ 56) || (decide (2 ^ 64 - 2 ^ 56 ≤ va) && decide (va < 2 ^ 64))

/-- The memory key of a translated address (R14, R50). -/
def Xlate.key (t : Xlate) (va : Nat) : Nat :=
  memKey (if t.loc = 0 then 1 else if t.loc = 3 then 4 + t.port else 2 + t.port) (t.pa + (va - t.va))

def Xlate.covers (t : Xlate) (asid va : Nat) : Bool :=
  decide (t.asid = asid) && decide (t.va ≤ va) && decide (va < t.va + 2 ^ t.size)

namespace State

def placeKey (s : State) (p : Place) (i : Nat) : Nat :=
  match p.scr with
  | some (core, prt) => s.scrKey core prt (p.base + i)
  | none => p.base + i

def placeKeys (s : State) (p : Place) (n : Nat) : List Nat := (List.range n).map (s.placeKey p)

/-- The partition of a crew: its quadrant's owner; on a queue core, its tenant's. -/
def crewPart (s : State) (k : Nat) : Nat :=
  match (s.crew k).queue with
  | some q => bits (s.dcb (bits (s.queue q).desc.toNat 255 244)) 97 93
  | none => s.partOf (quadOf k)

/-- The ASID of a crew (R11). -/
def crewAsid (s : State) (k : Nat) : Nat :=
  match (s.crew k).queue with
  | some q => bits (s.dcb (bits (s.queue q).desc.toNat 255 244)) 109 98
  | none =>
    match (s.crew k).launch with
    | some d => (s.launch d).q.asid
    | none => 0

/-- The lease holder of a crew (R62): 0 is no holder. -/
def holderOf (s : State) (k : Nat) : Nat := coreOf k * 32 + s.crewPart k + 1

/-! ## The L2 TLB (R21) -/

/-- The set of a page: `va` its address, `size` log2 of its size. -/
def tlbSet (asid va size : Nat) : Nat :=
  let n := va / 2 ^ size
  Nat.xor (Nat.xor n (n / 512)) asid % 512

/-- The ways of a set, by key. -/
def tlbWays (cluster set : Nat) : List Nat := (List.range 16).map fun w => (cluster * 512 + set) * 16 + w

/-- The six page sizes (R12). -/
def pageSizes : List Nat := [12, 16, 21, 25, 30, 34]

/-- The entry that translates an address, if one does. -/
def tlbFind (s : State) (cluster asid va : Nat) : Option Xlate :=
  ((pageSizes.flatMap fun z => tlbWays cluster (tlbSet asid va z)).filterMap fun k => SMap.find? s.tr.tlb k).findSome? fun e =>
    if e.tr.covers asid va then some e.tr else none

/-- Installs an unpinned entry in a way that holds no pinned one, a free way first (R21). -/
def tlbInstall (s : State) (cluster : Nat) (t : Xlate) : State :=
  let ks := tlbWays cluster (tlbSet t.asid t.va t.size)
  let free := ks.find? fun k => (SMap.find? s.tr.tlb k).isNone
  let any := ks.find? fun k => match SMap.find? s.tr.tlb k with
    | some e => !e.pinned
    | none => true
  match free.orElse fun _ => any with
  | some k => { s with tr := { s.tr with tlb := SMap.put s.tr.tlb k { tr := t, pinned := false } } }
  | none => s

/-! ## The L1 TLBs (R21) -/

/-- An L1 TLB of `n` entries, fully associative, after an entry is used: it is the one used last, and the one used longest ago leaves a full TLB
(log entry 31). -/
def useL1Tlb (n : Nat) (t : Xlate) (l : List Xlate) : List Xlate := (t :: l.filter (· ≠ t)).take n

/-- The entry of a core's L1 data TLB that translates an address. -/
def dtlbFind (s : State) (core asid va : Nat) : Option Xlate := (SMap.get [] s.tr.dtlb core).find? fun t => t.covers asid va

/-- A core's crews, channels or streams use a data translation: it is in the L1 data TLB, refilled from the L2 TLB after a miss. -/
def useData (s : State) (core : Nat) (t : Xlate) : State :=
  { s with tr := { s.tr with dtlb := SMap.put s.tr.dtlb core (useL1Tlb 256 t (SMap.get [] s.tr.dtlb core)) } }

/-- A core uses a code translation. -/
def useCode (s : State) (core : Nat) (t : Xlate) : State :=
  { s with tr := { s.tr with itlb := SMap.put s.tr.itlb core (useL1Tlb 32 t (SMap.get [] s.tr.itlb core)) } }

/-- Entries of every L1 TLB leave. -/
def dropL1Tlbs (s : State) (gone : Xlate → Bool) : State :=
  { s with tr := { s.tr with
    dtlb := s.tr.dtlb.map fun p => (p.1, p.2.filter fun t => !gone t)
    itlb := s.tr.itlb.map fun p => (p.1, p.2.filter fun t => !gone t) } }

/-- The cluster whose L2 TLB serves the queue cores and host functions of a die. Log entry 11. -/
def queueCluster (die : Nat) : Nat := die * 5

/-- A translation that the die's walkers hold ready for a requester, or its failure. -/
def walkEnd (s : State) (die asid va who : Nat) : Option WalkEnd :=
  (s.walkPool die).ends.find? fun e => decide (e.req.asid = asid) && decide (e.req.who = who) &&
    (match e.tr with
     | some t => t.covers asid va
     | none => decide (e.req.va / 4096 = va / 4096))

/-- The results of walks that a requester has used. -/
def dropEnds (s : State) (die who : Nat) : State :=
  let w := s.walkPool die
  if w.ends.isEmpty then s else s.setWalk die { w with ends := w.ends.filter fun e => !decide (e.req.who = who) }

/-- Translation outside a launch (R21, R24, R33): an L1 data TLB, for a crew of core `core`, the L2 TLB, else a walk. -/
def translateQ (s : State) (die asid va who : Nat) (core : Option Nat := none) : Except Miss Xlate :=
  match (core.bind fun c => s.dtlbFind c asid va).orElse fun _ => s.tlbFind (queueCluster die) asid va with
  | some t => .ok t
  | none =>
    match s.walkEnd die asid va who with
    | some e =>
      match e.tr with
      | some t => .ok t
      | none => .error (.walkFail e.status)
    | none => .error (.walk asid va)

/-! ## A launch's pages (R19, R20, R28) -/

/-- The pin record under which a launch reaches an address. -/
def pinOf (s : State) (d die va : Nat) : Except Miss Xlate :=
  match (SMap.get [] s.tr.pins die).find? fun p => p.launches.contains d && p.tr.covers (s.launch d).q.asid va with
  | some p => if p.forced then .error (.fault badForced) else .ok p.tr
  | none => .error (.fault badForced)

/-- The footprint region that covers every byte (R22, R32), with its number. -/
def regionOf (q : Quote) (va n : Nat) : Option (Nat × FpRegion) :=
  ((List.range q.regions.length).zip q.regions).find? fun p => decide (p.2.base ≤ va) && decide (va + n ≤ p.2.base + p.2.len)

/-- The region grants what the access needs. -/
def granted (r : FpRegion) (nd : Need) : Bool := (!nd.r || r.rd) && (!nd.w || r.w) && (!nd.a || r.atom) && (!nd.e || r.eng)

/-! ## The five spaces (R6) -/

/-- The place of a `.g` access of a launch. -/
def placeG (s : State) (d die va n : Nat) (nd : Need) : Except Miss Place :=
  let q := (s.launch d).q
  if !canonical va then .error (.fault badNoncanon)
  else match regionOf q va n with
    | none => .error (.fault badFootprint)
    | some (i, r) =>
      if !granted r nd then .error (.fault badRights)
      else if nd.writes && decide (va < q.codeVa + 4 * q.code.length) && decide (q.codeVa < va + n) then .error (.fault badCode)
      else match s.pinOf d die va with
        | .error e => .error e
        | .ok t =>
          if nd.writes && s.codeHit (t.key va) n then .error (.fault badCode)
          else .ok { base := t.key va, loc := t.loc, port := t.port, region := i }

/-- The place of a `.g` access of a queue crew, which has no footprint (R330): the leaf's rights alone bind it. -/
def placeQ (s : State) (k va n : Nat) (nd : Need) : Except Miss Place :=
  if !canonical va then .error (.fault badNoncanon)
  else match s.translateQ (dieOf (coreOf k)) (s.crewAsid k) va k (some (coreOf k)) with
    | .error e => .error e
    | .ok t =>
      if (nd.r && !t.r) || (nd.writes && !t.w) then .error (.fault badRights)
      else if nd.writes && s.codeHit (t.key va) n then .error (.fault badCode)
      else .ok { base := t.key va, loc := t.loc, port := t.port }

/-- The place of an access of a lane and its rights, or why it has none; alignment is the caller's. -/
def place (s : State) (k lane sp addr n : Nat) (nd : Need) : Except Miss Place :=
  let c := s.crew k
  let core := coreOf k
  let prt := s.crewPart k
  match sp with
  | 0 =>
    match c.launch with
    | some d => s.placeG d (dieOf core) addr n nd
    | none => s.placeQ k addr n nd
  | 1 =>
    let b := s.block c.block
    if 2 ^ 22 ≤ addr then .error (.fault badZerobits)
    else if b.scrLimit.toNat < b.scrBase.toNat + addr + n then .error (.fault badWindow)
    else .ok { scr := some (core, prt), base := b.scrBase.toNat + addr }
  | 2 =>
    let m := core / 8 * 8 + bits addr 24 22
    let span := match c.launch with
      | some d => spanOf (s.launch d) m
      | none => (0, 0)
    if 2 ^ 25 ≤ addr then .error (.fault badZerobits)
    else if span.2 < bits addr 21 0 + n then .error (.fault badSpan)
    else .ok { scr := some (m, prt), base := span.1 + bits addr 21 0 }
  | 3 =>
    let die := bits addr 27 26
    let g := SMap.get (0, 0) s.pl.xgrants (prt * 4 + die)
    if 2 ^ 28 ≤ addr then .error (.fault badZerobits)
    else if g.2 < bits addr 25 0 + n then .error (.fault badGrant)
    else .ok { base := s.xKey prt die (bits addr 25 0) }
  | _ =>
    let size := bits c.slice.toNat 27 16
    if 2 ^ 11 ≤ addr then .error (.fault badZerobits)
    else if size < addr + n then .error (.fault badSlice)
    else .ok { base := sliceKey (quadOf k) lane (bits c.slice.toNat 10 4 * 16 + addr) }

/-- A range that an engine command names (R22, R105): the fault of any byte of it, or none. A `.g` range is checked against the
footprint as a whole and against the pages it touches. -/
def rangeFault (s : State) (k sp addr n : Nat) (nd : Need) : Option Nat :=
  match sp, (s.crew k).launch with
  | 0, some d =>
    let q := (s.launch d).q
    if !canonical addr || !canonical (addr + n - 1) then some badNoncanon
    else match regionOf q addr n with
      | none => some badFootprint
      | some (_, r) =>
        if !granted r nd then some badRights
        else
          let pins := (SMap.get [] s.tr.pins (dieOf (coreOf k))).filter fun p =>
            p.launches.contains d && decide (p.tr.asid = q.asid) && decide (p.tr.va < addr + n) && decide (addr < p.tr.va + 2 ^ p.tr.size)
          let code := pins.any fun p =>
            let lo := max addr p.tr.va
            let hi := min (addr + n) (p.tr.va + 2 ^ p.tr.size)
            s.codeHit (p.tr.key lo) (hi - lo)
          if nd.writes && (code || (decide (addr < q.codeVa + 4 * q.code.length) && decide (q.codeVa < addr + n))) then some badCode
          else if pins.any (·.forced) then some badForced else none
  | _, _ =>
    match s.place k 0 sp addr n nd with
    | .error (.fault f) => some f
    | _ => none

/-- One access of a lane: naturally aligned (R31, R39, R81), in its space. -/
def access (s : State) (k lane sp addr n : Nat) (nd : Need) : Except Miss Acc :=
  if addr % n ≠ 0 then .error (.fault badZerobits)
  else match s.place k lane sp addr n nd with
    | .error e => .error e
    | .ok p =>
      if nd.a && decide (2 ≤ p.loc) && decide (p.loc ≤ 3) then .error (.fault badAtom)
      else .ok { lane := lane, space := sp, addr := addr, keys := s.placeKeys p n, loc := p.loc, port := p.port, region := p.region,
                 target := match p.scr with
                   | some (core, _) => core
                   | none => 0
                 gran := match p.scr with
                   | some (core, prt) => s.scrKey core prt (p.base - p.base % 16)
                   | none => 0 }

/-- The translation under which a crew reaches a `.g` address. -/
def xlateOf (s : State) (k va : Nat) : Option Xlate :=
  match (s.crew k).launch with
  | some d => (s.pinOf d (dieOf (coreOf k)) va).toOption
  | none => (s.translateQ (dieOf (coreOf k)) (s.crewAsid k) va k (some (coreOf k))).toOption

/-- An instruction of a launch's image is fetched: the L1 instruction TLB of the core holds its page (R21). -/
def fetched (s : State) (k pc : Nat) : State :=
  match (s.crew k).launch with
  | none => s
  | some d =>
    match s.pinOf d (dieOf (coreOf k)) ((s.launch d).q.codeVa + pc) with
    | .ok t => s.useCode (coreOf k) t
    | .error _ => s

/-- A crew has translated these `.g` addresses: the L1 data TLB of its core holds their pages, and walks made for it are used up. -/
def translated (s : State) (k : Nat) (vas : List Nat) : State :=
  ((vas.filterMap (s.xlateOf k)).foldl (fun s t => s.useData (coreOf k) t) s).dropEnds (dieOf (coreOf k)) k

end State

end Sys2Proof.Machine
end

