-- ==== Sys2Proof/Machine/Cache.lean ====
section
/-! DEFINITION. Cache.lean: global memory at its homes (02 R47 to R53, 03 R61 to R68, R79, R404): the L1s, the L2s, the lease records,
pending stores, snapshots. A sector is a memory key div 64; its number names it everywhere. -/

namespace Sys2Proof.Machine

namespace State

/-! ## The L1 (R47 to R49) -/

/-- The ways of a core's L1 that a partition uses (R48). -/
def l1Ways (s : State) (core prt : Nat) : List Nat :=
  let own := s.quarters core prt
  if own.length = 4 then List.range 8 else own.flatMap fun j => [2 * j, 2 * j + 1]

/-- The keys of the lines of a set that a partition uses. -/
def l1Slots (s : State) (core prt sec : Nat) : List Nat := (s.l1Ways core prt).map fun w => core * 4096 + sec % 512 * 8 + w

/-- The line that holds a sector's copy, whatever its expiry. -/
def l1Copy (s : State) (core prt sec : Nat) : Option (Nat × L1Line) :=
  (s.l1Slots core prt sec).findSome? fun k =>
    match SMap.find? s.coh.l1 k with
    | some l => if l.line = sec then some (k, l) else none
    | none => none

/-- A load hits a copy only while module time is earlier than its expiry (R47). -/
def l1Hit (s : State) (core prt sec : Nat) : Option (Nat × L1Line) :=
  match s.l1Copy core prt sec with
  | some (k, l) => if s.now < l.expiry then some (k, l) else none
  | none => none

def setL1 (s : State) (k : Nat) (l : L1Line) : State := { s with coh := { s.coh with l1 := SMap.put s.coh.l1 k l } }
def dropL1 (s : State) (k : Nat) : State := { s with coh := { s.coh with l1 := SMap.erase s.coh.l1 k } }

/-- The least recently used of some slots, a free one first. -/
def leastUsed (used : Nat → Option Nat) : List Nat → Option Nat
  | [] => none
  | k :: rest =>
    match leastUsed used rest with
    | none => some k
    | some j => if (match used k, used j with
        | none, _ => true
        | some _, none => false
        | some a, some b => decide (a ≤ b)) then some k else some j

/-- Fills a line with its lease (R64, R65). -/
def fillL1 (s : State) (core prt : Nat) (l : L1Line) : State :=
  match s.l1Copy core prt l.line with
  | some (k, _) => s.setL1 k l
  | none =>
    match leastUsed (fun k => (SMap.find? s.coh.l1 k).map (·.used)) (s.l1Slots core prt l.line) with
    | some k => s.setL1 k l
    | none => s

/-- Puts a byte into a line. -/
def putByte (d : BitVec 512) (off : Nat) (b : Byte) : BitVec 512 :=
  (d &&& ~~~(0xFF#512 <<< (8 * off))) ||| (b.setWidth 512 <<< (8 * off))

def getByte (d : BitVec 512) (off : Nat) : Byte := d.extractLsb' (8 * off) 8

/-- A store passes the L1: it updates the copy in the storing partition's ways (R49); one that writes a whole 64-bit part clears its poison (R53). -/
def passL1 (s : State) (core prt : Nat) (bs : List (Nat × Byte)) : State :=
  let whole := fun (key : Nat) => (List.range 8).all fun j => bs.any fun p => decide (p.1 = key / 8 * 8 + j)
  bs.foldl (fun s p =>
    match s.l1Copy core prt (sectorOf p.1) with
    | some (k, l) => s.setL1 k { l with data := putByte l.data (p.1 % 64) p.2, pois := if whole p.1 then l.pois &&& ~~~(1#8 <<< (p.1 % 64 / 8)) else l.pois }
    | none => s) s

/-- An atomic passes the L1: the holder's copy goes (R79). -/
def invalL1 (s : State) (core prt sec : Nat) : State :=
  match s.l1Copy core prt sec with
  | some (k, _) => s.dropL1 k
  | none => s

/-! ## Snapshots (R404) -/

/-- Before a launch's first write to a local-HBM frame is performed the frame is copied into its die's pool; where it cannot be, the
launch is no longer replayable. -/
def snapshot (s : State) (d key : Nat) : State :=
  match SMap.find? s.fr.launches d with
  | none => s
  | some l =>
    if !l.replayable then s
    else if keyTag key ≠ 1 then s.setLaunch d { l with replayable := false }
    else
      let frame := keyAddr key / 4096
      if l.snaps.any fun x => decide (x.1 = frame) then s
      else
        let die := dieOfPa (keyAddr key)
        let pool := SMap.get (0, 0) s.pl.pools die
        let used := SMap.get [] s.pl.poolUsed die
        match ((List.range (pool.2 / 4096)).map fun i => pool.1 / 4096 + i).find? fun f => !used.contains f with
        | none => s.setLaunch d { l with replayable := false }
        | some f =>
          let cells := s.mem.bytes.filter fun p => decide (keyTag p.1 = 1) && decide (keyAddr p.1 / 4096 = frame)
          let inF := fun (key : Nat) => decide (keyTag key = 1) && decide (keyAddr key / 4096 = frame)
          let units := (List.filter (fun p : Nat × Bool => p.2 && inF p.1) s.mem.pois).map (·.1)
          let secs := (List.flatMap (fun p : Nat × List Nat => p.2) s.pl.poisRec).filter fun sec => inF (sec * 64)
          let s := { s with pl := { s.pl with poolUsed := SMap.put s.pl.poolUsed die (f :: used) } }
          s.setLaunch d { l with snaps := (frame, f, cells) :: l.snaps, snapPois := (units ++ l.snapPois.1, secs ++ l.snapPois.2) }

/-! ## Pending stores (R66, R67) -/

def pendOf (s : State) (sec : Nat) : List Pending := s.coh.pend.filter fun p => decide (p.sector = sec)

/-- One nibble of each of some bytes is written, as the masks say; what stands in the others of the unit, and its poison, stays (R53, R54). -/
def performNibbles (s : State) (bs : List (Nat × Byte)) (masks : List (Nat × BitVec 2)) : State :=
  let put := (bs.filter fun b => !s.unwritable b.1).filterMap fun b => (masks.find? fun m => decide (m.1 = b.1)).map fun m => (b.1, mergeNib (s.mem.byte b.1) b.2 m.2)
  { s with mem := s.mem.writeAll put }

/-- The bytes of a pending store are written, the masked nibbles merged into what then stands there (R54), as poison if they are. -/
def pendBytes (s : State) (p : Pending) : State :=
  let whole := p.bytes.filter fun b => !p.masks.any fun m => decide (m.1 = b.1)
  let s := (s.performBytes whole).performNibbles p.bytes p.masks
  if p.bad then s.poisonKeys (p.bytes.map (·.1)) else s

/-- A pending store becomes performed. -/
def performPend (s : State) (p : Pending) : State :=
  let s := if p.launch = 0 then s else s.snapshot p.launch (p.sector * 64)
  s.pendBytes p

/-- What holder `h` reads of a sector at home: the performed bytes, the stores whose WCT has come, its own pending ones; `all`: every
store accepted before (R67). -/
def homeView (s : State) (h sec : Nat) (all : Bool) : State :=
  ((s.pendOf sec).filter fun p => all || decide (p.wct ≤ s.now) || (decide (p.holder = h) && decide (h ≠ 0))).foldl
    pendBytes s

/-- The stores of a sector whose WCT has come become performed, in order. -/
def performDue (s : State) (sec : Nat) : State :=
  let due := (s.pendOf sec).filter fun p => decide (p.wct ≤ s.now)
  let t := due.foldl performPend s
  { t with coh := { t.coh with pend := s.coh.pend.filter fun p => !(decide (p.sector = sec) && decide (p.wct ≤ s.now)) } }

/-- The pending stores of a die (R68). -/
def pendCount (s : State) (die : Nat) : Nat := (s.coh.pend.filter fun p => decide (homeDie (p.sector * 64) = die)).length

def locked (s : State) (sec : Nat) : Bool := s.coh.locks.any fun l => decide (l.sector = sec)

/-! ## The L2 and the lease records (R50 to R52, R63) -/

/-- The number of a sector's L2 set over the four dies. -/
def l2SetOf (sec : Nat) : Nat := homeDie (sec * 64) * 32768 + bits (keyAddr (sec * 64)) 21 7

/-- The slots of a set, by way. -/
def l2Slots (sec : Nat) (ways : List Nat) : List Nat := ways.map fun w => l2SetOf sec * 32 + w

def l2Find (s : State) (sec : Nat) : Option (Nat × L2Way) :=
  (l2Slots sec (List.range 24)).findSome? fun k =>
    match SMap.find? s.coh.l2 k with
    | some w => if w.line = sec / 2 then some (k, w) else none
    | none => none

def L2Way.sect (w : L2Way) (sec : Nat) : Option (Lease × Bool) := if sec % 2 = 0 then w.s0 else w.s1
def L2Way.setSect (w : L2Way) (sec : Nat) (x : Option (Lease × Bool)) : L2Way :=
  if sec % 2 = 0 then { w with s0 := x } else { w with s1 := x }

def floorOf (s : State) (sec : Nat) : Nat := SMap.get 0 s.coh.floors (l2SetOf sec)

/-- The record that a sector starts with when it is filled (R63). -/
def floorLease (s : State) (sec : Nat) : Lease := { e1 := s.floorOf sec, h1 := 0, e2 := s.floorOf sec, lastw := s.floorOf sec }

/-- The lease record of a sector. -/
def leaseOf (s : State) (sec : Nat) : Lease :=
  match s.l2Find sec with
  | some (_, w) => ((L2Way.sect w sec).map (·.1)).getD (s.floorLease sec)
  | none => s.floorLease sec

def putLease (s : State) (sec : Nat) (l : Lease) : State :=
  match s.l2Find sec with
  | some (k, w) =>
    let d := ((L2Way.sect w sec).map (·.2)).getD false
    { s with coh := { s.coh with l2 := SMap.put s.coh.l2 k (L2Way.setSect { w with used := s.now } sec (some (l, d))) } }
  | none => s

/-- A sector of the L2 becomes dirty when a store to it is performed. -/
def markDirty (s : State) (sec : Nat) : State :=
  match s.l2Find sec with
  | some (k, w) =>
    let l := ((L2Way.sect w sec).map (·.1)).getD (s.floorLease sec)
    { s with coh := { s.coh with l2 := SMap.put s.coh.l2 k (L2Way.setSect w sec (some (l, true))) } }
  | none => s

/-- The stores of a sector whose WCT has come become performed, and the sector dirty. -/
def performSector (s : State) (sec : Nat) : State := (s.performDue sec).markDirty sec

/-- The sectors that hold a pending store whose WCT has come. -/
def dueSectors (s : State) : List Nat := ((s.coh.pend.filter fun p => decide (p.wct ≤ s.now)).map (·.sector)).eraseDups

/-- Module time has reached their WCT: the pending stores become performed (R66). -/
def performAllDue (s : State) : State := s.dueSectors.foldl performSector s

/-- A dirty poisoned sector is written back: its controller records it (R408). -/
def backPoison (s : State) (sec : Nat) (x : Option (Lease × Bool)) : State :=
  if (x.map (·.2)) = some true ∧ keyTag (sec * 64) = 1 ∧ s.anyPoisoned (sec * 64) 64 = true then s.recordPoison sec else s

/-- A line leaves the L2: its unexpired leases pass to the floor of the set (R52). -/
def evictL2 (s : State) (k : Nat) : State :=
  match SMap.find? s.coh.l2 k with
  | none => s
  | some w =>
    let s := (s.backPoison (2 * w.line) w.s0).backPoison (2 * w.line + 1) w.s1
    let set := k / 32
    let up := fun (f : Nat) (x : Option (Lease × Bool)) => match x with
      | some (l, _) => if s.now < max l.e1 l.e2 then max f (max l.e1 l.e2) else f
      | none => f
    let f := up (up (SMap.get 0 s.coh.floors set) w.s0) w.s1
    { s with coh := { s.coh with l2 := SMap.erase s.coh.l2 k, floors := SMap.set 0 s.coh.floors set f } }

/-- A read at home hits a line of the L2: it is the line used last (R51). -/
def touchL2 (s : State) (sec : Nat) : State :=
  match s.l2Find sec with
  | some (k, w) => { s with coh := { s.coh with l2 := SMap.put s.coh.l2 k { w with used := s.now } } }
  | none => s

/-- The ways in which a partition may allocate on a die (R51, R56). -/
def l2Ways (s : State) (die prt : Nat) : List Nat :=
  let m := SMap.get 0 s.pl.ways (die * 32 + prt)
  (List.range 24).filter m.getLsbD

/-- Brings a sector into its home L2 (R51, R63): the line is allocated in a way of the partition's mask, least recently used; a line
with a pending store or a lock stays. Without such a way the sector is served uncached. -/
def residentL2 (s : State) (prt sec : Nat) : State :=
  match s.l2Find sec with
  | some (k, w) =>
    let w := { w with used := s.now }
    if (L2Way.sect w sec).isSome then { s with coh := { s.coh with l2 := SMap.put s.coh.l2 k w } }
    else { s with coh := { s.coh with l2 := SMap.put s.coh.l2 k (L2Way.setSect w sec (some (s.floorLease sec, false))) } }
  | none =>
    let busy := fun k => match SMap.find? s.coh.l2 k with
      | some w => !(s.pendOf (2 * w.line)).isEmpty || !(s.pendOf (2 * w.line + 1)).isEmpty || s.locked (2 * w.line) || s.locked (2 * w.line + 1)
      | none => false
    let slots := (l2Slots sec (s.l2Ways (homeDie (sec * 64)) prt)).filter fun k => !busy k
    match leastUsed (fun k => (SMap.find? s.coh.l2 k).map (·.used)) slots with
    | none => s
    | some k =>
      let s := s.evictL2 k
      let w : L2Way := { line := sec / 2, part := prt, used := s.now }
      { s with coh := { s.coh with l2 := SMap.put s.coh.l2 k (L2Way.setSect w sec (some (s.floorLease sec, false))) } }

/-- The requested lease length of a hint (R61). -/
def leaseLen (hint : Nat) : Nat :=
  match hint with
  | 1 => 64
  | 2 => 4096
  | _ => 512

/-- The lease that the home grants on a resident sector (R64): the record after it and the expiry, if there is one. -/
def grantLease (l : Lease) (now h len : Nat) (others : Option Nat) : Lease × Option Nat :=
  let e := match others with
    | some w => min (now + len) (w - 4)
    | none => now + len
  if e ≤ now then (l, none)
  else if h = l.h1 ∨ l.e1 ≤ now then
    ({ l with e2 := if l.e1 ≤ now ∧ h ≠ l.h1 then max l.e2 l.e1 else l.e2, e1 := max l.e1 e, h1 := h }, some e)
  else if l.e1 < e then ({ l with e2 := max l.e2 l.e1, e1 := e, h1 := h }, some e)
  else ({ l with e2 := max l.e2 e }, some e)

/-- The WCT of a store that its home accepts from holder `h` (R66); `prev` is the WCT of the last store accepted. -/
def wctOf (l : Lease) (now h prev : Nat) : Nat := max (max now (max l.lastw prev)) (if h = l.h1 then l.e2 + 4 else l.e1 + 4)

/-- The home accepts a store of bytes of one sector and gives its WCT (R66). -/
def acceptStore (s : State) (h prt launch sec : Nat) (bs : List (Nat × Byte)) (masks : List (Nat × BitVec 2) := []) : State × Nat :=
  let s := s.residentL2 prt sec
  let l := s.leaseOf sec
  let prev := (s.pendOf sec).foldl (fun m p => max m p.wct) 0
  let w := wctOf l s.now h prev
  let s := s.putLease sec { l with lastw := w }
  let s := { s with coh := { s.coh with pend := s.coh.pend ++ [{ sector := sec, holder := h, wct := w, bytes := bs, launch := launch, masks := masks }] } }
  (if w ≤ s.now then s.performSector sec else s, w)

/-- Stores of one update or one COMMIT enter a sector's list of pending stores with the WCT that is theirs all (R89, R115). -/
def appendAt (s : State) (h launch w : Nat) (p : Nat × List (Nat × Byte)) (masks : List (Nat × BitVec 2) := []) : State :=
  let s := s.putLease p.1 { s.leaseOf p.1 with lastw := max (s.leaseOf p.1).lastw w }
  let s := { s with coh := { s.coh with pend := s.coh.pend ++ [{ sector := p.1, holder := h, wct := w, bytes := p.2, launch := launch, masks := masks }] } }
  if w ≤ s.now then s.performSector p.1 else s

/-- An update of bytes in several sectors as one store: the latest of their WCTs is that of each (R66, R115). -/
def acceptAll (s : State) (h prt launch : Nat) (ps : List (Nat × List (Nat × Byte))) : State × Nat :=
  let s := ps.foldl (fun s p => s.residentL2 prt p.1) s
  let w := ps.foldl (fun m p => max m (wctOf (s.leaseOf p.1) s.now h ((s.pendOf p.1).foldl (fun m q => max m q.wct) 0))) s.now
  (ps.foldl (fun s p => s.appendAt h launch w p) s, w)

/-- A read of a sector at home by holder `h` asking for a lease of `len` ns, none for 0 (R64): the state and the expiry. -/
def fillSector (s : State) (h prt sec len : Nat) : State × Option Nat :=
  let s := s.residentL2 prt sec
  match s.l2Find sec with
  | none => (s, none)
  | some _ =>
    if len = 0 then (s, none)
    else
      let others := ((s.pendOf sec).filter fun p => decide (p.holder ≠ h) && decide (s.now < p.wct)).foldl
        (fun m p => some (match m with
          | some x => min x p.wct
          | none => p.wct)) none
      let r := grantLease (s.leaseOf sec) s.now h len others
      (s.putLease sec r.1, r.2)

/-- The 64 bytes of a sector and its poisoned 64-bit parts, as a view shows them. -/
def sectorData (v : State) (sec : Nat) : BitVec 512 × BitVec 8 :=
  (BitVec.ofNat 512 (leNat (v.mem.read (sec * 64) 64)),
   (List.range 8).foldl (fun m i => if v.anyPoisoned (sec * 64 + 8 * i) 8 then m ||| (1#8 <<< i) else m) 0)

end State

end Sys2Proof.Machine
end

