-- ==== Sys2Proof/Machine/AbObj.lean ====
section
/-! DEFINITION. AbObj.lean: arrival barriers and slot barriers as objects (05 R114 to R120, 06 R123, R125): their header, bitmap and
counters, and every transition that a contribution, a failure or a reference makes. -/

namespace Sys2Proof.Machine

/-- The header of R114 by field. -/
structure AbHdr where
  home    : Nat
  tdone   : Nat
  late    : Nat
  done    : Nat
  refs    : Nat
  gen     : Nat
  state   : Nat
  nchunk  : Nat
  ncont   : Nat
  err     : Nat
  waiters : Nat
  deriving DecidableEq, Repr

def abIdle : Nat := 0
def abArmed : Nat := 1
def abComplete : Nat := 2
def abFailed : Nat := 3
def abKilled : Nat := 4

/-- The ERR bits (R106, R114). -/
def errSrcf : Nat := 0
def errDstf : Nat := 1
def errIndex : Nat := 2
def errLink : Nat := 3
def errOver : Nat := 4
def errRange : Nat := 5
def errForm : Nat := 6
def errStopped : Nat := 7

/-- A header read from its 64 bytes. -/
def abDecode (v : Nat) : AbHdr :=
  { home := bits v 511 448, tdone := bits v 447 384, late := bits v 127 112, done := bits v 111 99, refs := bits v 98 87, gen := bits v 63 48,
    state := bits v 47 45, nchunk := bits v 44 32, ncont := bits v 31 28, err := bits v 27 20, waiters := bits v 19 12 }

/-- The 64 bytes of a header as a number; reserved bits read 0. -/
def AbHdr.encode (h : AbHdr) : Nat :=
  h.home % 2 ^ 64 * 2 ^ 448 + h.tdone % 2 ^ 64 * 2 ^ 384 + h.late % 2 ^ 16 * 2 ^ 112 + h.done % 2 ^ 13 * 2 ^ 99 + h.refs % 2 ^ 12 * 2 ^ 87
    + h.gen % 2 ^ 16 * 2 ^ 48 + h.state % 8 * 2 ^ 45 + h.nchunk % 2 ^ 13 * 2 ^ 32 + h.ncont % 16 * 2 ^ 28 + h.err % 256 * 2 ^ 20
    + h.waiters % 256 * 2 ^ 12

/-- The bytes of an object's bitmap and counter area (R114). -/
def abMapBytes (nchunk : Nat) : Nat := cdiv nchunk 512 * 64
def abCntBytes (nchunk ncont : Nat) : Nat := if 1 < ncont then cdiv nchunk 128 * 64 else 0
def abBytes (nchunk ncont : Nat) : Nat := 64 + abMapBytes nchunk + abCntBytes nchunk ncont

/-- What an update makes of a header (R115): `h` with a chunk complete or counted, a failure, or one more LATE. -/
def AbHdr.dropped (h : AbHdr) : AbHdr := { h with late := min 0xFFFF (h.late + 1) }

def AbHdr.fail (h : AbHdr) (now bit : Nat) : AbHdr :=
  if h.state = abArmed ∨ h.state = abComplete ∨ h.state = abFailed then
    { h with state := abFailed, err := Nat.lor h.err (2 ^ bit), tdone := if h.state = abArmed then now else h.tdone }
  else h

/-- One more chunk is complete. -/
def AbHdr.completeOne (h : AbHdr) (now : Nat) : AbHdr :=
  let h := { h with done := h.done + 1 }
  if h.state = abArmed ∧ h.nchunk ≤ h.done then { h with state := abComplete, tdone := now } else h

namespace State

/-! ## Where an object's bytes are -/

/-- The memory key of a `.g` address of a launch on a die; none where no pinned page translates it. -/
def pinKey (s : State) (d die va : Nat) : Option Nat :=
  match s.pinOf d die va with
  | .ok t => some (t.key va)
  | .error _ => none

/-- The memory key of byte `i` of an object. A HOMED entry stands for its home image (R120). -/
def abKey (s : State) (r : AbRef) (i : Nat) : Option Nat :=
  match r.sp with
  | 0 => s.pinKey r.launch (dieOf r.core) (r.addr + i)
  | 1 =>
    match SMap.find? (s.core r.core).ab r.addr with
    | some e => if e.homed then s.pinKey e.launch (dieOf r.core) (e.home + i) else some (s.scrKey r.core e.prt (e.key + i))
    | none => none
  | 2 => some (s.scrKey r.core r.prt (r.addr + i))
  | _ => some (r.addr + i)

/-- The `.g` address of byte `i` of an object that lies there, itself or its home image. -/
def abVa (s : State) (r : AbRef) (i : Nat) : Option Nat :=
  match r.sp with
  | 0 => some (r.addr + i)
  | 1 =>
    match SMap.find? (s.core r.core).ab r.addr with
    | some e => if e.homed then some (e.home + i) else none
    | none => none
  | _ => none

/-- The sectors at home of some 64-byte blocks of an object, by offset; none for one on chip. -/
def abSectors (s : State) (r : AbRef) (offs : List Nat) : List Nat :=
  if r.sp = 4 then [] else ((offs.filterMap (s.abKey r)).filter fun k => decide (keyTag k < 6)).map sectorOf

/-- The homes take a store to each of these sectors now: no COMMIT holds one, and no die's pending stores pass 2,048 (R68, R90). -/
def homeTakes (s : State) (secs : List Nat) : Bool :=
  secs.all (fun sec => !s.locked sec) && (List.range 4).all fun die =>
    let n := (secs.filter fun sec => decide (homeDie (sec * 64) = die)).length
    decide (n = 0) || decide (s.pendCount die + n ≤ 2048)

/-- The latest WCT of a launch's region on a core takes a write at home in (R85). -/
def noteWct (s : State) (d core va wct : Nat) : State :=
  match regionOf (s.launch d).q va 1 with
  | none => s
  | some (i, _) => s.modCore core fun c =>
      let key := d * 64 + i
      { c with regionWct := SMap.put c.regionWct key (max wct (SMap.get 0 c.regionWct key)) }

/-- The 64 bytes of an object from `i` on, as a number. `all`: as an update at the home finds them, every store accepted before
included (R67, R79); else as a read of holder `h` at home does (R117). Bytes that no page translates read 0. -/
def abBlock (s : State) (h : Nat) (all : Bool) (r : AbRef) (i : Nat) : Nat :=
  match s.abKey r i with
  | none => 0
  | some key =>
    let v := if keyTag key < 6 then s.homeView h (sectorOf key) all else s
    leNat ((List.range 64).map fun j => ((s.abKey r (i + j)).map v.mem.byte).getD 0)

/-- Changes of an object's 64-byte blocks, by offset, as one update at its home, by holder `h` or, for 0, an engine (R115): the state, and at an L2 the
WCT, which the launch's regions take in (R85); 0 on chip. -/
def abUpdate (s : State) (r : AbRef) (blocks : List (Nat × Nat)) (h : Nat := 0) : State × Nat :=
  let put := blocks.map fun b => ((leBytes 64 b.2).zip (List.range 64)).filterMap fun p => (s.abKey r (b.1 + p.2)).map fun k => (k, p.1)
  let put := put.filter fun bs => !bs.isEmpty
  if (put.flatMap id).any fun p => decide (keyTag p.1 < 6) then
    let u := s.acceptAll h r.prt r.launch (put.map fun bs => (sectorOf ((bs.headD (0, 0)).1), bs))
    (blocks.foldl (fun s b => match s.abVa r b.1 with
      | some va => s.noteWct r.launch r.core va u.2
      | none => s) u.1, u.2)
  else (put.foldl (fun s bs => s.performBytes bs) s, 0)

def abWrite (s : State) (r : AbRef) (blocks : List (Nat × Nat)) : State := (s.abUpdate r blocks).1

/-! ## Slot barriers (R123, R125) -/

/-- The key of a slot of a launch's pan on a core. -/
def slotKey (d slot : Nat) : Nat := d * 64 + slot

def slot (s : State) (core key : Nat) : PanSlot := SMap.get {} (s.core core).pan key
def setSlot (s : State) (core key : Nat) (p : PanSlot) : State := s.modCore core fun c => { c with pan := SMap.put c.pan key p }

/-- The port takes flits of a virtual channel now (R132). -/
def portOpen (s : State) (p vc : Nat) : Bool := !(s.port p).down && !(s.port p).retrain && !(s.port p).stopped.getLsbD vc

/-- A reply or an acknowledgement leaves through a port on VC1, in order, once the channel is open (R132); through a port that is DOWN it is lost (R137). -/
def sendReply (s : State) (p kind : Nat) (nums : List Nat) : State :=
  let q := s.port p
  if q.down then s
  else if s.portOpen p 1 && q.vc1.isEmpty then s.send kind nums
  else s.setPort p { q with vc1 := q.vc1 ++ [⟨kind, nums⟩] }

/-- What waited for VC1 of a port leaves, if the channel is open. -/
def releaseVc1 (s : State) (p : Nat) : State :=
  let q := s.port p
  let t := s.setPort p { q with vc1 := [] }
  if s.portOpen p 1 then { t with pl := { t.pl with out := t.pl.out ++ q.vc1 } } else s

/-- A reply to a reservation: status, GEN and EXPIRY. -/
def panReply (s : State) (port smod score slot st gen expiry : Nat) : State := s.sendReply port 8 [port, smod, score, slot, st, gen, expiry]

/-- The chunks of a slot are zeroed: the replies that have waited for it leave (R125). -/
def slotReplies (s : State) (core key : Nat) : State :=
  let p := s.slot core key
  if p.owed.isEmpty then s
  else (p.owed.foldl (fun s o => s.panReply o.1 o.2.1 o.2.2 (key % 64) 0 p.gen.toNat p.expiry.toNat) s).setSlot core key { p with owed := [] }

/-- A slot barrier's header. -/
def slotHdr (p : PanSlot) : AbHdr :=
  { home := 0, tdone := p.tdone, late := p.late, done := p.done.length, refs := p.refs, gen := p.gen.toNat, state := p.abState, nchunk := p.nchunk,
    ncont := p.ncont, err := p.err.toNat, waiters := p.waiters }

/-- A slot with its barrier's header changed, chunk bits and counters apart. -/
def withHdr (p : PanSlot) (h : AbHdr) : PanSlot :=
  { p with tdone := h.tdone, late := h.late, refs := h.refs, abState := h.state, err := BitVec.ofNat 8 h.err, waiters := h.waiters }

/-! ## Reading an object -/

/-- The header of an object. -/
def abHdr (s : State) (h : Nat) (all : Bool) (r : AbRef) : AbHdr :=
  if r.sp = 4 then slotHdr (s.slot r.core r.addr) else abDecode (s.abBlock h all r 0)

/-- The bit of a chunk. -/
def abBit (s : State) (h : Nat) (all : Bool) (r : AbRef) (k : Nat) : Bool :=
  if r.sp = 4 then (s.slot r.core r.addr).done.contains k else bitOf (s.abBlock h all r (64 + k / 512 * 64)) (k % 512)

/-- The counter of a chunk, when contributions are counted. -/
def abCount (s : State) (r : AbRef) (nchunk k : Nat) : Nat :=
  if r.sp = 4 then SMap.get 0 (s.slot r.core r.addr).counts k
  else
    let v := s.abBlock 0 true r (64 + abMapBytes nchunk + k / 128 * 64)
    bits v (k % 128 * 4 + 3) (k % 128 * 4)

/-- Writes a header. -/
def abPut (s : State) (r : AbRef) (h : AbHdr) : State :=
  if r.sp = 4 then s.setSlot r.core r.addr (withHdr (s.slot r.core r.addr) h) else s.abWrite r [(0, h.encode)]

/-- The offsets of the blocks that an update touches: the header; for a contribution to a chunk its bit and its counter too, and the header once more,
for the end of the reference that may follow it. -/
def abOffsets (h : AbHdr) : Option Nat → List Nat
  | none => [0]
  | some k => [0, 0, 64 + k / 512 * 64] ++ if 1 < h.ncont then [64 + abMapBytes h.nchunk + k / 128 * 64] else []

/-- The homes take an update of an object now (R68, R90). -/
def abReady (s : State) (r : AbRef) (chunk : Option Nat) : Bool := s.homeTakes (s.abSectors r (abOffsets (s.abHdr 0 true r) chunk))

/-- A crew's update of the first `n` bytes of an object passes its holder's L1, which drops its copies, as an atomic does (R79, R115). -/
def abPass (s : State) (k : Nat) (r : AbRef) (n : Nat) : State :=
  (List.range (cdiv n 64)).foldl (fun s j =>
    match s.abKey r (64 * j) with
    | some key => if keyTag key < 6 then s.invalL1 (coreOf k) (s.crewPart k) (sectorOf key) else s
    | none => s) s

/-- An update by threads `m` of a crew (R115): it passes the L1, and at an L2 it is an atomic, whose WCT returns to them (R70, R79). -/
def abPutBy (s : State) (k : Nat) (m : Lanes) (r : AbRef) (blocks : List (Nat × Nat)) : State :=
  let u := (s.abPass k r (64 * blocks.length)).abUpdate r blocks (s.holderOf k)
  u.1.modCrew k fun c => c.mapLanes m fun _ t => { t with wctlast := max t.wctlast u.2 }

/-- A header that threads `m` of a crew write. -/
def abPutHdr (s : State) (k : Nat) (m : Lanes) (r : AbRef) (h : AbHdr) : State := if r.sp = 4 then s.abPut r h else s.abPutBy k m r [(0, h.encode)]

/-- An entry of the core is freed when its object has left ARMED with no reference and no waiter, a HOMED one once REFS is 0 (R119,
R120). -/
def abTidy (s : State) (r : AbRef) : State :=
  if r.sp ≠ 1 then s
  else match SMap.find? (s.core r.core).ab r.addr with
    | none => s
    | some e =>
      let h := s.abHdr 0 true r
      if h.refs = 0 ∧ (e.homed = true ∨ (h.state ≠ abArmed ∧ h.waiters = 0)) then
        s.modCore r.core fun c => { c with ab := SMap.erase c.ab r.addr }
      else s

/-! ## Transitions (R115, R116) -/

/-- A contribution to a chunk with the generation of its command, as one update. -/
def abContribute (s : State) (r : AbRef) (k gen : Nat) : State :=
  let h := s.abHdr 0 true r
  if h.gen ≠ gen ∨ h.state = abIdle ∨ abKilled ≤ h.state then s.abPut r h.dropped
  else if s.abBit 0 true r k then s.abPut r (h.fail s.now errOver)
  else
    let n := if 1 < h.ncont then s.abCount r h.nchunk k + 1 else 1
    let full := decide (h.ncont ≤ n)
    let h' := if full then h.completeOne s.now else h
    if r.sp = 4 then
      let p := withHdr (s.slot r.core r.addr) h'
      let p := { p with done := if full then p.done ++ [k] else p.done, counts := if 1 < h.ncont then SMap.set 0 p.counts k n else p.counts }
      s.setSlot r.core r.addr p
    else
      let bo := 64 + k / 512 * 64
      let co := 64 + abMapBytes h.nchunk + k / 128 * 64
      let map := s.abBlock 0 true r bo
      let cnt := s.abBlock 0 true r co
      let sh := 2 ^ (k % 128 * 4)
      let blocks := (if decide (h' = h) then [] else [(0, h'.encode)]) ++ (if full then [(bo, map + 2 ^ (k % 512))] else [])
        ++ (if 1 < h.ncont then [(co, cnt - bits cnt (k % 128 * 4 + 3) (k % 128 * 4) * sh + n % 16 * sh)] else [])
      s.abWrite r blocks

/-- A failure that a referencing command reports (R106). -/
def abFail (s : State) (r : AbRef) (bit : Nat) : State :=
  let h := s.abHdr 0 true r
  let h' := h.fail s.now bit
  if h' = h then s else s.abPut r h'

/-- A command takes its reference: its generation, or the detail with which it fails (R115). -/
def abTake (s : State) (r : AbRef) (last : Nat) : Except Nat (State × Nat) :=
  let h := s.abHdr 0 true r
  if h.state ≠ abArmed then .error 0x12
  else if h.nchunk ≤ last then .error 0x13
  else .ok (s.abPut r { h with refs := h.refs + 1 }, h.gen)

/-- A command gives its reference up. -/
def abDrop (s : State) (r : AbRef) : State :=
  let h := s.abHdr 0 true r
  (s.abPut r { h with refs := h.refs - 1 }).abTidy r

/-- The entry of a reference is HOMED: what its commands do is forwarded to the home image by an event of its own (R120). -/
def abHomed (s : State) (r : AbRef) : Bool :=
  decide (r.sp = 1) && match SMap.find? (s.core r.core).ab r.addr with
    | some e => e.homed
    | none => false

/-- Queues what is to be forwarded: `kind` 0 a contribution of generation `b` to chunk `a`, 1 a failure with ERR bit `a`, 2 the end of
a reference. -/
def abForward (s : State) (r : AbRef) (kind a b : Nat) : State :=
  s.modCore r.core fun c => { c with ab := match SMap.find? c.ab r.addr with
    | some e => SMap.put c.ab r.addr { e with fwd := e.fwd ++ [(kind, a, b)] }
    | none => c.ab }

/-- Applies one of these. -/
def abApply (s : State) (r : AbRef) (x : Nat × Nat × Nat) : State :=
  match x.1 with
  | 0 => s.abContribute r x.2.1 x.2.2
  | 1 => (s.abFail r x.2.1).abTidy r
  | _ => s.abDrop r

/-- A contribution, a failure or the end of a reference of a command of the core: at the object, or forwarded. -/
def abSend (s : State) (r : AbRef) (kind a b : Nat) : State :=
  if s.abHomed r then s.abForward r kind a b else s.abApply r (kind, a, b)

/-! ## Waiting (R117) -/

/-- What a wait on some chunks of an object finds: 0 it waits, 1 every bit is set, 2 FAILED, 3 KILLED. -/
def abCond (s : State) (h : Nat) (r : AbRef) (chunks : List Nat) : Nat :=
  let hdr := s.abHdr h false r
  if chunks.all (s.abBit h false r) then 1 else if hdr.state = abFailed then 2 else if hdr.state = abKilled then 3 else 0

/-- The chunks that a wait names. -/
def abChunks (all : Bool) (first nchunk : Nat) (mask : DWord) : List Nat :=
  if all then List.range nchunk else (allLanes.filter mask.getLsbD).map (first + ·)

/-- WAITERS counts the threads `m` of a crew, which wait from now on, or, `out`, wait no longer. -/
def abWaiters (s : State) (k : Nat) (r : AbRef) (m : Lanes) (out : Bool) : State :=
  let h := s.abHdr 0 true r
  let n : Int := laneCount m
  s.abPutHdr k m r { h with waiters := wrapInt 8 ((h.waiters : Int) + if out then -n else n) }

/-! ## The object that a crew names (R119, R120, R272) -/

/-- The object at an address of a space (0 `.g`, 1 `.c`, 3 `.x`) or of a slot (4). -/
def abRefOf (s : State) (k sp addr : Nat) : AbRef :=
  let c := s.crew k
  let core := coreOf k
  let prt := s.crewPart k
  let d := c.launch.getD 0
  let b := s.block c.block
  match sp with
  | 0 => ⟨0, addr, d, core, prt⟩
  | 1 =>
    let idx := b.scrBase.toNat + addr
    match b.homed.find? fun p => decide (p.1 = addr) with
    | some p => ⟨0, p.2, d, core, prt⟩
    | none =>
      match List.find? (fun p : Nat × AbEnt => decide (p.2.key = idx) && decide (p.2.prt = prt) && !p.2.homed) (s.core core).ab with
      | some p => ⟨1, p.1, d, core, prt⟩
      | none => ⟨2, idx, d, core, prt⟩
  | 3 =>
    match s.place k 0 3 addr 64 {} with
    | .ok p => ⟨3, p.base, d, core, prt⟩
    | .error _ => ⟨3, memKey 7 0, d, core, prt⟩
  | _ => ⟨4, slotKey d addr, d, core, prt⟩

/-- WAITERS of the objects that ended threads were waiting on (R117): a thread counts only while it waits. Log entry 217. -/
def abLeave (s : State) (k : Nat) (m : Lanes) : State :=
  let c := s.crew k
  (lanesOf m).foldl (fun s l =>
    match ((c.thread l).blocked.orElse fun _ => (c.thread l).resume) with
    | some b =>
      (match b.kind with
        | .abwait sp addr _ _ _ => if !hasLane b.lanes l then s else (s.abWaiters k (s.abRefOf k sp addr) (oneLane l) true).abTidy (s.abRefOf k sp addr)
        | _ => s)
    | none => s) s

end State

end Sys2Proof.Machine
end

