-- ==== Sys2Proof/Machine/Commit.lean ====
section
/-! DEFINITION. Commit.lean: speculative regions (R275 to R280): the region a lane is inside, the beginning of an abort, and what a COMMIT
does at the homes of its write set (R89, R90, R96). -/

namespace Sys2Proof.Machine

/-- The region that a lane is inside. -/
def Crew.regionOf (c : Crew) (l : Nat) : Option Region :=
  let t := c.thread l
  if !t.specAct then none else if t.specCrew then some (c.region.getD {}) else some (t.region.getD {})

def Crew.putRegion (c : Crew) (l : Nat) (r : Region) : Crew :=
  if (c.thread l).specCrew then { c with region := some r } else c.mapLanes (oneLane l) fun _ t => { t with region := some r }

/-- The lanes that share a lane's region: itself, or the members of its crew's. -/
def Crew.members (c : Crew) (l : Nat) : Lanes :=
  if (c.thread l).specAct && (c.thread l).specCrew then laneSet fun j => (c.thread j).live && (c.thread j).specAct && (c.thread j).specCrew
  else oneLane l

/-- The members of the regions of some lanes. -/
def Crew.allMembers (c : Crew) (m : Lanes) : Lanes := (lanesOf m).foldl (fun a l => a ||| c.members l) 0

/-- The `.g` sectors of the write set, in the order of their first store. -/
def Region.sectors (r : Region) : List Nat := ((r.ssb.filter fun e => decide (keyTag e.key < 6)).map fun e => sectorOf e.key).eraseDups

/-- The name under which a region's COMMIT holds its locks: the lane, or 64 for the crew's region. -/
def Crew.lockName (c : Crew) (l : Nat) : Nat := if (c.thread l).specCrew then 64 else l

namespace State

/-- A region's abort begins (R277, R279, R280): in `.crew` mode for every member, else for the lane; its threads wait. A region whose
COMMIT has succeeded is no longer open. `trap`: the trap taken at the target (class, detail, PC that raised it). -/
def beginAbort (s : State) (k lane : Nat) (code user tcls detail : Nat) (trap : Option (Nat × Nat × Nat)) : State :=
  let c := s.crew k
  match c.regionOf lane with
  | none => s
  | some r =>
    if r.decided.isSome then s
    else
      let r := if r.abort.isNone then { r with abort := some (code, user, tcls, detail), trap := trap, trapLanes := oneLane lane, asked := 0 }
        else if trap.isSome ∧ r.trap = trap then { r with trapLanes := r.trapLanes ||| oneLane lane } else r
      s.setCrew k ((c.putRegion lane r).mapLanes (c.members lane) fun _ t => { t with blocked := some { kind := .abort, pc := t.pc, nextPc := t.pc } })

/-- The region's buffered bytes of a sector, and the nibble masks of those of which it holds one nibble (R54). -/
def commitBytes (r : Region) (sec : Nat) : List (Nat × Byte) := (r.ssb.filter fun e => decide (sectorOf e.key = sec)).map fun e => (e.key, e.val)

def commitMasks (r : Region) (sec : Nat) : List (Nat × BitVec 2) :=
  (r.ssb.filter fun e => decide (sectorOf e.key = sec) && decide (e.nib ≠ 3)).map fun e => (e.key, e.nib)

/-- The latest WCT of a launch's region on a core (R85). -/
def noteRegionWct (s : State) (k region wct : Nat) : State :=
  match (s.crew k).launch with
  | none => s
  | some d => s.modCore (coreOf k) fun c =>
      let key := d * 64 + region
      { c with regionWct := SMap.put c.regionWct key (max wct (SMap.get 0 c.regionWct key)) }

/-- Releases the locks of a region. -/
def dropLocks (s : State) (k name : Nat) : State :=
  { s with coh := { s.coh with locks := s.coh.locks.filter fun e => !(decide (e.crew = k) && decide (e.lane = name)) } }

def dropLock (s : State) (k name sec : Nat) : State :=
  { s with coh := { s.coh with locks := s.coh.locks.filter fun e => !(decide (e.crew = k) && decide (e.lane = name) && decide (e.sector = sec)) } }

/-- The decision T of a successful COMMIT at the home of one sector (R89 step 4): its buffered stores are appended with WCT T, the lock
goes. -/
def tellHome (s : State) (k lane : Nat) (r : Region) (t sec : Nat) : State :=
  let bs := commitBytes r sec
  let s := (r.ssb.filter fun e => decide (sectorOf e.key = sec)).foldl (fun s e => s.noteRegionWct k e.reg t) s
  (s.appendAt (coreOf k * 32 + s.crewPart k + 1) ((s.crew k).launch.getD 0) t (sec, bs) (commitMasks r sec)).dropLock k ((s.crew k).lockName lane) sec

/-- The homes that a decided COMMIT has not told yet are told: its outcome does not depend on its threads. -/
def tellRest (s : State) (k lane : Nat) : State :=
  match (s.crew k).regionOf lane with
  | none => s
  | some r =>
    let s := match r.decided with
      | none => s
      | some t => ((List.range r.sectors.length).zip r.sectors).foldl (fun (s : State) (p : Nat × Nat) => if bitOf r.told p.1 then s else s.tellHome k lane r t p.2) s
    s.dropLocks k ((s.crew k).lockName lane)

/-- The buffered `.l` bytes are written (R278). -/
def commitSlices (s : State) (r : Region) : State :=
  s.performBytes ((r.ssb.filter fun e => decide (keyTag e.key = 8)).map fun e => (e.key, mergeNib (s.mem.byte e.key) e.val e.nib))

end State

end Sys2Proof.Machine
end

