-- ==== Sys2Proof/Machine/Ops.lean ====
section
/-! DEFINITION. Ops.lean: the named operations over the state: an issue and its end, the ends of threads and blocks, breaches, taking a
trap and returning from one. -/

namespace Sys2Proof.Machine

/-! ## Issue -/

/-- A trap raised at an issue: its class (R370), its detail, the lanes that raised it and the faulting address. -/
structure Raise where
  cls    : Nat
  detail : Nat
  lanes  : Lanes
  addr   : Nat := 0
  deriving DecidableEq, Repr

/-- Why an issue does not end in its effect: the group stays where it is, or a precise trap; `trapIn`: a trap whose issue changed
the state first (FFLAGS, R181); `holdIn`: it stays, having asked for something (a walk, R33). -/
inductive Stop where
  | hold
  | holdIn (s : State)
  | trap (t : Raise)
  | trapIn (s : State) (t : Raise)
  deriving DecidableEq, Repr

/-- The trap classes (R370). -/
def clsBound : Nat := 0
def clsMemfault : Nat := 1
def clsStorefault : Nat := 2
def clsArith : Nat := 3
def clsIllegal : Nat := 4
def clsFempty : Nat := 5
def clsSpec : Nat := 6
def clsPoison : Nat := 7
def clsPreempt : Nat := 8
def clsSyscall : Nat := 9
def clsBreak : Nat := 10
def clsEngine : Nat := 11

/-- An ILLEGAL trap of some lanes. -/
def illegal (detail : Nat) (m : Lanes) : Stop := .trap ⟨clsIllegal, detail, m, 0⟩

namespace State

/-- The lanes continue at `pc`. -/
def setPc (s : State) (x : Ctx) (m : Lanes) (pc : Nat) : State :=
  s.modCrew x.crew fun c => c.mapLanes m fun _ t => { t with pc := pc }

/-- The next repeat's REPCNT (R236, R237): V set, FM kept, NEXTI the next index. -/
def stepRepcnt (r : Word) (i : Nat) : Word := (r &&& 0x8007FFC0#32) ||| BitVec.ofNat 32 (i % 64)

/-- The issuing group goes on in sequence; inside a REP, to the next repeat (R236). -/
def advance (s : State) (x : Ctx) : State :=
  match x.rep with
  | some (i, n) =>
    if i < n then s.modCrew x.crew fun c => c.mapLanes x.lanes fun _ t => { t with repcnt := stepRepcnt t.repcnt (i + 1) }
    else s.modCrew x.crew fun c => c.mapLanes x.lanes fun _ t => { t with pc := x.next, repcnt := 0 }
  | none => s.setPc x x.lanes x.next

/-- The PC, and inside a REP the REPCNT, at which a lane that completes the present instruction goes on (R236). -/
def after (x : Ctx) (t : Thread) : Nat × Option Word :=
  match x.rep with
  | some (i, n) => if i < n then (x.pc, some (stepRepcnt t.repcnt (i + 1))) else (x.next, some 0)
  | none => (x.next, none)

/-- The lanes wait inside a blocking instruction; `f` gives what each waits for. -/
def waitFor (s : State) (x : Ctx) (m : Lanes) (f : Nat → Blocked) : State :=
  s.modCrew x.crew fun c => c.mapLanes m fun l t =>
    { t with blocked := some { f l with pc := x.pc, nextPc := (after x t).1, rep := (after x t).2 } }

/-- The issue is over. -/
def endIssue (s : State) : State := { s with cur := none, rep := none }

/-! ## The domain tree and breaches (R149, R151, R346, R351) -/

/-- The ancestors of a DCB, itself first (R149), at most five levels. -/
def ancestors (s : State) : Nat → Nat → List Nat
  | 0, _ => []
  | n + 1, d => if d = 0 then [0] else d :: ancestors s n (bits (s.dcb d) 127 116)

def dcbState (s : State) (d : Nat) : Nat := bits (s.dcb d) 112 110

/-- In effect ACTIVE: the node and its ancestors below the module are ACTIVE (R150). -/
def dcbActive (s : State) (d : Nat) : Bool :=
  decide (d ≠ 0) && (s.ancestors 6 d).all fun a => decide (a = 0) || decide (s.dcbState a = 1)

/-- FAULTS of a DCB counts one more, saturating (R149, R151). -/
def countFault (s : State) (d : Nat) : State :=
  let v := s.dcb d
  if v % 65536 = 65535 then s else s.setDcb d (v + 1)

/-- Sets STATE of a DCB (R149). -/
def putDcbState (s : State) (d st : Nat) : State :=
  let v := s.dcb d
  s.setDcb d (v - bits v 112 110 * 2 ^ 110 + st * 2 ^ 110)

/-- Sets STATE of a DCB; HALTED, FROZEN and KILLED pass to every descendant, and a KILLED one stays so (R151). -/
def setDcbState (s : State) (d st : Nat) : State :=
  let below := if st < 2 then [] else (List.filter (fun p : Nat × BitVec 128 =>
    decide (p.1 ≠ d) && (s.ancestors 6 p.1).contains d && decide (1 ≤ s.dcbState p.1) && decide (s.dcbState p.1 ≠ 4)) s.fr.dcbs).map (·.1)
  below.foldl (fun (s : State) k => s.putDcbState k st) (s.putDcbState d st)

/-- The party of a breach cause (R346): 1 CALLER, 2 MACHINE, 3 OPERATOR. -/
def partyOf (cause : Nat) : Nat := if cause < 0x20 then 1 else if cause < 0x40 then 2 else 3

/-- PTP time, in ns, that corresponds to module time (R351, R402). -/
def ptpNow (s : State) : Nat := s.pl.mgmt.ptpSec * 1000000000 + s.pl.mgmt.ptpNs + (s.now - s.pl.mgmt.ptpAt)

/-- The 64 bytes of a breach record (R351). -/
def breachRecord (s : State) (l : Launch) (seq : Word) (quoted actual detail cause kind party : Nat) (voided : Bool) (core time : Nat)
    : Nat :=
  l.q.qid.toNat * 2 ^ 448 + l.q.digest.toNat * 2 ^ 384 + (s.ptpNow / 1000000000 % 2 ^ 48) * 2 ^ 336 + s.ptpNow % 1000000000 * 2 ^ 304
    + (time % 2 ^ 64) * 2 ^ 240 + (quoted % 2 ^ 64) * 2 ^ 176 + (actual % 2 ^ 64) * 2 ^ 112 + (detail % 65536) * 2 ^ 96
    + (cause % 256) * 2 ^ 88 + (kind % 16) * 2 ^ 84 + (party % 4) * 2 ^ 82 + b2n voided * 2 ^ 81 + (l.dcb % 4096) * 2 ^ 68
    + seq.toNat * 2 ^ 32 + (core % 256) * 2 ^ 24

/-- Appends a record to the tenant's breach log, or counts it lost when the ring is full (R352); Jasper carries it in telemetry. -/
def logRecord (s : State) (d : Nat) (quoted actual detail cause kind party core time : Nat) (voided : Bool) : State :=
  let l := s.launch d
  let t := s.tenant l.q.tenant
  if t.logSize ≤ t.logTail - t.logHead then s.setTenant l.q.tenant { t with lost := t.lost + 1 }
  else
    let v := s.breachRecord l t.logSeq quoted actual detail cause kind party voided core time
    let key := memKey 1 (t.logBase + 64 * (t.logTail % t.logSize))
    let s := if inHbm (keyAddr key) then { s with mem := s.mem.write key (leBytes 64 v) } else s
    let s := s.send 4 [v]
    s.setTenant l.q.tenant { t with logTail := t.logTail + 1, logSeq := t.logSeq + 1 }

/-- Rewrites STATUS and ATTR of a launch's quotation and of its record in memory (R340, R342). `recVa` holds the record's memory
key. -/
def setStatus (s : State) (qid status attr : Nat) : State :=
  match SMap.find? s.fr.quotes qid with
  | none => s
  | some q =>
    let s := s.setQuote qid { q with status := status, attr := attr }
    if q.recVa = 0 then s
    else { s with mem := (s.mem.setByte q.recVa (BitVec.ofNat 8 status)).setByte (q.recVa + 1) (BitVec.ofNat 8 (attr % 4)) }

/-- Records a breach of a launch (R346 to R352): the record, the first party in ATTR, VOID for a CALLER or OPERATOR breach, the
breach allowance, FAULTS up the tree. `core` is 255 for a module-wide cause. -/
def breach (s : State) (d cause detail core : Nat) : State :=
  match SMap.find? s.fr.launches d with
  | none => s
  | some l =>
    let party := partyOf cause
    let q := s.quote l.q.qid.toNat
    let voided := decide (q.status = 0x06)
    let s := s.logRecord d 0 0 detail cause 0 party core s.now voided
    let attr := if q.attr = 0 then party else q.attr
    let s := s.setStatus l.q.qid.toNat (if party = 2 then q.status else 0x06) attr
    let s := s.modLaunch d fun l =>
      { l with
        deadline := if party = 2 then l.deadline else 0
        callerAt := if party = 1 ∧ l.callerAt = none then some s.now else l.callerAt
        mevent := if party = 2 ∧ l.mevent = none then some (cause, detail, core) else l.mevent }
    if party = 1 then (s.ancestors 6 d).foldl countFault s else s

/-- The core at which a cause of a whole cluster stands in a launch's record: its lowest core there (R351, as the records of the quoted search show; log
entry 212). -/
def coreIn (s : State) (d cl : Nat) : Nat := ((s.launch d).q.quads.filter fun q => decide (q / 32 = cl)).foldl (fun m q => min m (q / 4)) 255

/-- The launch of a crew, if it runs one. -/
def crewLaunch (s : State) (k : Nat) : Option Nat := (s.crew k).launch

/-! ## Ends of threads, crews, blocks and launches -/

/-- A store-fault record leaves once every lane of its mask has taken its trap or ended (R376). -/
def trimSfq (s : State) (k : Nat) : State :=
  let liveM := (s.crew k).live
  s.modQuad (quadOf k) fun q =>
    { q with sfq := q.sfq.filter fun r => !decide (r.slot = slotOf k) || decide (r.mask &&& ~~~r.taken &&& liveM ≠ 0) }

/-- Ends threads as EXIT and TKILL do (R233, R234, R277): a `.lane` region of an ended thread is discarded; in `.crew` mode every
other member aborts with MEMBERSHIP. What a decided COMMIT has still to tell its homes is told. -/
def endLanes (s : State) (k : Nat) (m : Lanes) : State :=
  let s := s.abLeave k (m &&& (s.crew k).live)
  let c := s.crew k
  let inside := (lanesOf m).filter fun l => (c.thread l).live && (c.thread l).specAct
  let rest := c.allMembers (laneSet inside.contains) &&& ~~~m
  let s := inside.foldl (fun s l => if (c.thread l).specCrew && decide (rest ≠ 0) then s else s.tellRest k l) s
  let s := s.modCrew k fun c => c.mapLanes m fun _ t => { t with live := false, blocked := none, region := none, ckpt := none, spec := 0, arrived := false }
  let s := match lowLane rest with
    | some l => s.beginAbort k l 8 0 0 0 none
    | none => s
  s.trimSfq k

/-! ## Units (R410 to R412) -/

/-- The number of a unit of R410: kind 0 quadrant, 1 scratchpad, 2 L1, 3 copy engine, 4 L2 TLB, 5 L2 slice, 6 memory controller,
7 Celore port, 8 chip-scratchpad bank group. -/
def unitKey (kind idx : Nat) : Nat := kind * 4096 + idx

/-- The unit whose record or array holds the poison mark of a byte (R410, R432): a scratchpad, a chip scratchpad's bank group, a memory controller, or
the quadrant of a slice or a tile. -/
def markUnit (key : Nat) : Option Nat :=
  let a := keyAddr key
  match keyTag key with
  | 1 => some (unitKey 6 (dieOfPa a * 32 + controllerOf a))
  | 6 => some (unitKey 1 (a / 2 ^ 22))
  | 7 => some (unitKey 8 (a / 2 ^ 26 * 32 + a / 64 % 128 / 16))
  | 8 => some (unitKey 0 (a / 2048 / 64))
  | 9 => some (unitKey 0 (a / 16384 / 16))
  | _ => none

def unit (s : State) (kind idx : Nat) : UnitCnt := SMap.get {} s.pl.units (unitKey kind idx)

/-- A region of a launch lies in a die's HBM. -/
def memoryOn (l : Launch) (die : Nat) : Bool := l.q.regions.any fun r => r.frames.any fun f => decide (keyTag (f * 4096) = 1) && decide (dieOfPa (keyAddr (f * 4096)) = die)

/-- A launch that has not ended uses the unit. Units of a die count from 32 times the die's number, but for the Celore ports, whose own numbers serve and
which are retired at once. -/
def unitUsed (s : State) (u : Nat) : Bool :=
  let idx := u % 4096
  List.any s.fr.launches fun p => decide (p.2.phase < 2) && p.2.q.quads.any fun q =>
    match u / 4096 with
    | 0 => decide (q = idx)
    | 1 => decide (q / 4 = idx)
    | 2 => decide (q / 4 = idx)
    | 3 => decide (q / 4 = idx)
    | 4 => decide (clusterOf (q / 4) = idx)
    | 5 => decide (dieOf (q / 4) = idx / 32) || memoryOn p.2 (idx / 32)
    | 6 => decide (dieOf (q / 4) = idx / 32) || memoryOn p.2 (idx / 32)
    | 7 => false
    | _ => decide (dieOf (q / 4) = idx / 32)

/-- A unit is retired (R412): the owner bytes of what it is read V = 0; a core without scratchpad, L1 or L2 TLB is granted no more. -/
def retireUnit (s : State) (u : Nat) : State :=
  let idx := u % 4096
  let out := fun (s : State) (c : Nat) => s.modCore c fun c => { c with retired := true }
  let s := match u / 4096 with
    | 0 => s.modQuad idx fun q => { q with owner := 0 }
    | 1 => out s idx
    | 2 => out s idx
    | 3 => s.modCore idx fun c => { c with chans := c.chans.map fun (p : Nat × Channel) => (p.1, { p.2 with owner := 0 }) }
    | 4 => (List.range 8).foldl (fun s i => out s (idx * 8 + i)) s
    | _ => s
  let c : UnitCnt := SMap.get {} s.pl.units u
  { s with pl := { s.pl with units := SMap.put s.pl.units u { c with retired := true, pending := false }, mgmt := { s.pl.mgmt with routesOld := true } } }

/-- Units that have reached a threshold are retired once no launch uses them; a port's retirement takes it DOWN as well (`retirePorts`). -/
def retireUnits (s : State) : State :=
  (List.filter (fun p : Nat × UnitCnt => p.2.pending && !p.2.retired && decide (p.1 / 4096 ≠ 7)) s.pl.units).foldl (fun s p =>
    if s.unitUsed p.1 then s else s.retireUnit p.1) s

/-- No quotation grants a quadrant that is retired, or about to be with what it needs (R412). -/
def quadOut (s : State) (q : Nat) : Bool :=
  let off := fun (c : UnitCnt) => c.retired || c.pending
  (s.core (q / 4)).retired || off (s.unit 0 q) || off (s.unit 1 (q / 4)) || off (s.unit 2 (q / 4)) || (s.unit 3 (q / 4)).pending
    || off (s.unit 4 (clusterOf (q / 4)))

/-- Counts an event of a unit (R411). -/
def countUnit (s : State) (u : Nat) : State :=
  let c : UnitCnt := SMap.get {} s.pl.units u
  let c := { c with events := c.events + 1, pending := c.pending || decide (s.pl.mgmt.evLimit ≤ c.events + 1) }
  ({ s with pl := { s.pl with units := SMap.put s.pl.units u c } }).retireUnits

/-- A launch has no more block to run on any slot (R345, R347, R367). -/
def slotsDone (s : State) (d : Nat) : Bool :=
  let l := s.launch d
  l.q.slots.all fun e => !e.busy && (decide (e.tiles.length ≤ e.cursor) || l.callerAt.isSome || l.failed || l.killed)

/-- An overrun record (R349): kind 1 TIME, 2 ENERGY, 3 CURRENT. Its cause, detail and core are those of the launch's earliest MACHINE event, as the records
of the quoted search show them; with none it is UNATTRIBUTED. -/
def overrun (s : State) (d kind quoted actual : Nat) : State :=
  let e := (s.launch d).mevent.getD (0x2F, 0, 255)
  s.logRecord d quoted actual e.2.1 e.1 kind 2 e.2.2 s.now false

/-! ## Meters (R326, R392) -/

/-- The clusters of a launch's quadrants. -/
def metered (l : Launch) : List Nat := (l.q.quads.map fun q => q / 32).eraseDups

/-- The mW of one level of ballast on a unit: 0.18125 A at 0.76 V. -/
def levelMw : Nat := 138

/-- The DCB of a partition. -/
def partDcb (s : State) (p : Nat) : Option Nat :=
  (List.find? (fun e : Nat × BitVec 128 => decide (bits e.2.toNat 115 113 = 1) && decide (bits e.2.toNat 97 93 = p)) s.fr.dcbs).map (·.1)

/-- WATTS of a partition. -/
def wattsOf (s : State) (p : Nat) : Nat := bits (s.dcb ((s.partDcb p).getD 0)) 88 76

/-- The level at which a unit's BLST ballast runs: the partition's allotment caps it, shared evenly by the units that run such ballast (log entry 210). -/
def ballastLevel (s : State) (quad : Nat) (b : Ballast) : Nat :=
  let p := s.partOf quad
  let n := (s.ex.quads.filter fun e => decide (e.2.owner = (s.quad quad).owner) && e.2.ballast.any (·.on)).length
  min b.level ((1000 * s.wattsOf p - ((s.part p).wanted - (s.part p).blstMw)) / (levelMw * max 1 n))

/-- What a unit's BLST ballast has drawn since it was last metered is counted: level times 0.453 nJ in each 16 clk, nothing while the ballast yields to
an operation of the unit. -/
def meterBallast (s : State) (quad : Nat) : State :=
  match (s.quad quad).ballast with
  | none => s
  | some b =>
    let stop := min s.now b.endAt
    let e := if b.on && (s.quad quad).running.isEmpty then
        s.ballastLevel quad b * 453 * (stop - b.since) * pointMhz (s.cluster (clusterOf (quad / 4))).clock / 16000000 else 0
    let s := s.modQuad quad fun q => { q with ballast := some { b with since := s.now } }
    let s := match (s.crew b.crew).launch with
      | none => s
      | some d => s.modLaunch d fun l => { l with drawn := SMap.put l.drawn (clusterOf (quad / 4)) (SMap.get 0 l.drawn (clusterOf (quad / 4)) + e) }
    let p := s.part (s.partOf quad)
    s.setPart (s.partOf quad) { p with blst := p.blst + e }

/-- The units that run a launch's BLST ballast are metered. -/
def meterUnits (s : State) (mine : Nat → Bool) : State :=
  ((s.ex.quads.filter fun e => e.2.ballast.isSome && mine e.1).map (·.1)).foldl meterBallast s

/-- A launch's meters since they were last read: 0.35 W for each of its quadrants, its BLST ballast, and what was metered beside; the peak of its granted
current. -/
def meterLaunch (s : State) (d : Nat) : State :=
  let s := s.meterUnits fun q => (s.launch d).q.quads.contains q
  s.modLaunch d fun l =>
    if l.phase ≠ 1 then l
    else
      let n := fun (cl : Nat) => (l.q.quads.filter fun q => decide (q / 32 = cl)).length
      let amps := fun (cl : Nat) => (l.q.quads.filter fun q => decide (q / 32 = cl)).foldl (fun a q => a + match (s.quad q).ballast with
        | some b => if b.on then 29 * s.ballastLevel q b else 0
        | none => 0) 0
      { l with
        meters := (metered l).foldl (fun m cl =>
          SMap.put m cl (SMap.get 0 m cl + 35 * n cl * (s.now - l.meteredAt) / 100 + SMap.get 0 l.drawn cl + Config.freeMeter s.ctr (1000 + d * 32 + cl))) l.meters
        peak := (metered l).foldl (fun m cl => max m (Config.freeMeter s.ctr (200000 + d * 32 + cl) + cdiv (amps cl) 40)) l.peak
        drawn := []
        meteredAt := s.now }

/-- The launch's pins go (R20): a page that no launch pins any more leaves its die's records and the L1 TLBs, and the L2 TLB of a cluster on which no
launch that pins it is granted lets its entry go. -/
def unpin (s : State) (d : Nat) : State :=
  let pins := s.tr.pins.map fun p => (p.1, (p.2.map fun x => { x with launches := x.launches.filter (· ≠ d) }).filter fun x => !x.launches.isEmpty)
  let kept := fun (k : Nat) (e : TlbEnt) => !e.pinned || (SMap.get [] pins (k / 8192 / 5)).any fun x =>
    decide (x.tr = e.tr) && x.launches.any fun j => (s.launch j).q.quads.any fun q => decide (q / 32 = k / 8192)
  let held := fun (t : Xlate) => pins.any fun p => p.2.any fun x => decide (x.tr = t)
  ({ s with tr := { s.tr with pins := pins, tlb := List.filter (fun p : Nat × TlbEnt => kept p.1 p.2) s.tr.tlb } }).dropL1Tlbs fun t =>
    (s.tr.pins.any fun p => p.2.any fun x => decide (x.tr = t)) && !held t

/-- What a launch keeps on its cores goes with it: its pans' slots, its sender entries, its barrier entries (R119, R125, R126). -/
def leaveCores (s : State) (d : Nat) : State :=
  let s := s.ex.cores.foldl (fun s p => (p.2.pan.filter fun e => decide (e.1 / 64 = d)).foldl (fun s e => s.slotReplies p.1 e.1) s) s
  { s with ex := { s.ex with cores := s.ex.cores.map fun p => (p.1, { p.2 with
      pan := p.2.pan.filter fun e => !decide (e.1 / 64 = d)
      sender := p.2.sender.filter fun e => !decide (e.2.launch = d)
      ab := p.2.ab.filter fun e => !decide (e.2.launch = d) }) } }

/-- The end of a launch (R345, R349, R412): units that only it used may be retired; phase 2; COMPLETE, or VOID left, or FAILED; overrun records unless VOID or
FAILED, of which the first names the party of a quotation that had no breach. -/
def endLaunch (s : State) (d : Nat) : State :=
  let s := s.meterLaunch d
  let l := s.launch d
  let q := s.quote l.q.qid.toNat
  let s := (((s.leaveCores d).unpin d).modLaunch d fun l => { l with phase := 2, endedAt := s.now }).retireUnits
  if l.failed then s.setStatus l.q.qid.toNat 0x08 2
  else if q.status = 0x06 then s
  else
    let startT := l.started.getD 0
    let energy := (l.meters.map (·.2)).foldl (· + ·) 0
    let late := decide (l.deadline.toNat < s.now)
    let hungry := decide (1000 * l.q.ebound < energy)
    let high := decide (l.q.ipeak < l.peak)
    let s := if late then s.overrun d 1 l.q.tbound (s.now - startT) else s
    let s := if hungry then s.overrun d 2 l.q.ebound (cdiv energy 1000) else s
    let s := if high then s.overrun d 3 l.q.ipeak l.peak else s
    let q := s.quote l.q.qid.toNat
    s.setStatus l.q.qid.toNat 0x05 (if q.attr = 0 ∧ (late || hungry || high) = true then 2 else q.attr)

/-- The launch ends when no slot has a block left (R345). -/
def checkLaunch (s : State) (d : Nat) : State :=
  match SMap.find? s.fr.launches d with
  | none => s
  | some l => if l.phase = 1 && s.slotsDone d && !l.frozen then s.endLaunch d else s

/-- The first of a launch's blocks stops for a pre-emption: the OPERATOR breach is recorded once, and the launch is HALTED (R378). -/
def noteStopped (s : State) (d : Nat) : State :=
  if (s.launch d).preempted then s
  else ((s.breach d 0x41 0 255).modLaunch d fun l => { l with preempted := true }).setDcbState d 2

/-- The end of a block (R147, R271): its crews have left, its barrier entries free, its slot's cursor moves on (R367). -/
def endBlock (s : State) (bk : Nat) : State :=
  let b := s.block bk
  let s := s.modCore b.core fun c => { c with bars := c.bars.filter fun e => !decide (e.block = bk) }
  let s := b.crews.foldl (fun s k => (s.meterBallast (quadOf k)).modQuad (quadOf k) fun q =>
    { q with ballast := match q.ballast with
        | some bl => if b.crews.contains bl.crew then none else some bl
        | none => none }) s
  let s := { s with ex := { s.ex with blocks := SMap.erase s.ex.blocks bk, crews := b.crews.foldl SMap.erase s.ex.crews } }
  let s := s.modLaunch b.launch fun l =>
    { l with q := { l.q with slots := l.q.slots.map fun e =>
        if e.core = b.home ∧ e.slot = b.slot then
          { e with busy := false, admitted := false, cursor := if b.stop = 4 then e.cursor else if b.persist then e.tiles.length else e.cursor + 1 }
        else e } }
  let s := if b.stop = 1 ∨ b.stop = 2 then s.noteStopped b.launch else s
  s.checkLaunch b.launch

/-- A crew has exited and its counters are 0 (R107, R147). -/
def crewGone (s : State) (k : Nat) : Bool :=
  let c := s.crew k
  decide (c.live = 0#64) && c.ops.isEmpty && c.signs.isEmpty

/-- A queue raises its interrupt (R420): the message of entry VEC of its owner's table, or the pending bit of a masked vector. -/
def interrupt (s : State) (qi : Nat) : State :=
  let q := s.queue qi
  let d := q.desc.toNat
  match q.owner with
  | none => s
  | some (port, fn, _) =>
    let k := port * 33 + fn
    let f := s.func k
    let vec := bits d 202 195
    if !bitOf d 203 || !f.msixOn then s
    else if f.msixMask.getLsbD vec then s.setFunc k { f with pba := f.pba ||| (1#256 <<< vec) }
    else s.send 1 [port, fn, vec, (SMap.get 0 f.msixTab vec).toNat]

/-- A queue halts with a cause and a code (R355): STATE 2, HCAUSE, HCODE of a HALT or, for a WALK_FAULT, the status of the walk (R33, log entry 211), and
its interrupt. -/
def haltQueue (s : State) (qi cause code : Nat) : State :=
  let q := s.queue qi
  let d := setBits (setBits q.desc.toNat 230 229 2) 211 204 cause
  let d := if cause = 0x01 ∨ cause = 0x04 then setBits d 227 212 code else d
  (s.setQueue qi { q with desc := BitVec.ofNat 512 d }).interrupt qi

/-- The packet in flight ends with a status, 0 OK or an HCAUSE: its completion word, which counts the issue that ends it, then HEAD, then a halt (R355,
R356). `quiet`: no word is
written, HEAD stays and the queue does not halt (R422). -/
def endPacket (s : State) (qi status : Nat) (quiet : Bool) : State :=
  let q := s.queue qi
  let issues := match q.packetCrew with
    | some k => (s.crew k).issues + (if s.cur.any fun x => decide (x.crew = k) then 1 else 0)
    | none => 0
  let code := match q.halting with
    | some (_, c) => c
    | none => 0
  let word := q.packetSeq * 2 ^ 48 + (issues % 65536) * 2 ^ 32 + (status % 256) * 2 ^ 8
  let s := match q.packetCrew with
    | some k => { s with ex := { s.ex with crews := SMap.erase s.ex.crews k } }
    | none => s
  let s := if quiet then s else { s with mem := s.mem.write q.report (leBytes 8 word) }
  let head := if quiet then bits q.desc.toNat 319 304 else bits q.desc.toNat 319 304 + 1
  let s := s.setQueue qi { q with desc := BitVec.ofNat 512 (setBits q.desc.toNat 319 304 head), inFlight := false, packetCrew := none, draining := false,
                                  halting := none }
  if quiet || decide (status = 0) then s else s.haltQueue qi status code

/-- After a change to a crew: it leaves its slot once it has ended, and its block or packet ends with its last crew (R147, R357). -/
def reap (s : State) (k : Nat) : State :=
  match SMap.find? s.ex.crews k with
  | none => s
  | some c =>
    if !s.crewGone k then s
    else match c.queue with
      | some qi =>
        (match (s.queue qi).halting with
        | some (0xFF, _) => s.endPacket qi 0 true
        | some (h, _) => s.endPacket qi h false
        | none => s.endPacket qi 0 false)
      | none => if (s.block c.block).crews.all s.crewGone && !decide (SMap.find? s.ex.blocks c.block = none) then s.endBlock c.block
        else s

/-! ## Traps (R371 to R375) -/

/-- The classes that R348 counts against NTRAP: ARITH, FEMPTY, SYSCALL, BREAK and SPEC. -/
def countedTrap (cls : Nat) : Bool := cls = 3 || cls = 5 || cls = 6 || cls = 9 || cls = 10

/-- The breach cause of a trap, if it is one (R31, R105, R130, R205, R346, R370). -/
def trapCause (cls detail : Nat) : Option Nat :=
  if cls = clsBound then some 0x01
  else if cls = clsIllegal then some 0x05
  else if cls = clsMemfault ∨ cls = clsStorefault then
    if detail = 0x09 then none else if detail = 0x0C then some 0x03 else some 0x02
  else if cls = clsEngine then
    if detail = 0x09 ∨ detail = 0x1A ∨ detail = 0x1D ∨ detail = 0x1E then none
    else if detail = 0x0C then some 0x03
    else if detail < 0x0D then some 0x02
    else if detail = 0x10 then some 0x04
    else if detail = 0x1B ∨ detail = 0x1F then some 0x24
    else if detail = 0x1C then some 0x41
    else some 0x06
  else none

/-- The breach that a trap records where it is taken. A link failure's is recorded when the port goes DOWN (R137), not again at the
retirement of what it failed. -/
def trapBreach (cls detail : Nat) (imp : Bool) : Option Nat := if imp && decide (cls = clsEngine ∧ detail = 0x1B) then none else trapCause cls detail

/-- The lane detail entry (R373). -/
def bankWord (mask : Lanes) (addr pc cls : Nat) (imp : Bool) (slot detail : Nat) : BitVec 192 :=
  BitVec.ofNat 192 (mask.toNat * 2 ^ 128 + (addr % 2 ^ 64) * 2 ^ 64 + (pc % 2 ^ 32) * 2 ^ 32 + (cls % 16) * 2 ^ 28 + b2n imp * 2 ^ 27
    + (slot % 16) * 2 ^ 20 + detail % 256)

/-- TCAUSE (R321). -/
def causeWord (cls : Nat) (imp : Bool) (detail : Nat) : Word := BitVec.ofNat 32 ((cls % 16) * 2 ^ 28 + b2n imp * 2 ^ 27 + detail % 256)

/-- An unhandled trap (R374): its lanes end; the launch records BOUND with detail UNHANDLED. In a queue program the packet ends
with TRAP (R357). -/
def unhandled (s : State) (k : Nat) (e : Lanes) : State :=
  let c := s.crew k
  match c.queue with
  | some qi =>
    let s := s.modQueue qi fun q => { q with halting := some (0x06, 0) }
    (s.endLanes k c.live).reap k
  | none =>
    let s := s.endLanes k e
    let s := match c.launch with
      | some d => s.breach d 0x01 0x05 (coreOf k)
      | none => s
    s.reap k

/-- The protected pairs of a lane mask, bit i for pair i (R373). -/
def pairMask (m : Lanes) : Lanes := laneSet fun i => decide (i < 32) && (hasLane m (2 * i) || hasLane m (2 * i + 1))

def protectedCrew (s : State) (k : Nat) : Bool :=
  match (s.crew k).launch with
  | some d => (s.launch d).q.prot
  | none => false

/-- The lanes that run the thread of a lane whose access is performed: in a protected launch both lanes of its pair (R154). -/
def pairLanes (s : State) (k l : Nat) : Lanes := if s.protectedCrew k then oneLane (l - l % 2) ||| oneLane (l - l % 2 + 1) else oneLane l

/-- Enters the handler (R372): the lane detail entry, TCAUSE, TPC, TMASK.M and the PC of the slot, for the lanes `e`. A trap of
the counted classes beyond NTRAP raises BOUND with detail TRAPS in its place (R348). Only the handlers of R348 and R407 have a time of their
own. -/
def enter (s : State) (k : Nat) (e mask : Lanes) (cls detail addr pc tpc : Nat) (imp : Bool) : State :=
  let c := s.crew k
  let exceeds := match c.launch with
    | some d => countedTrap cls && decide ((s.launch d).q.ntrap < c.traps + 1)
    | none => false
  let cls' := if exceeds then clsBound else cls
  let detail' := if exceeds then 0x03 else detail
  let mask := if s.protectedCrew k then pairMask mask else mask
  let c := { c with
    bank := bankWord mask addr pc cls' imp (slotOf k) detail'
    traps := if countedTrap cls then c.traps + 1 else c.traps
    entryAt := if countedTrap cls' ∨ cls' = clsPoison then some s.now else none }
  let c := c.mapLanes e fun _ t =>
    { t with
      tcause := causeWord cls' imp detail'
      tpc := BitVec.ofNat 32 tpc
      tmaskM := true
      pc := bits c.tvec.toNat 31 10 * 1024 + 0x40 * cls'
      starve := 0 }
  let s := s.setCrew k c
  match c.launch, trapBreach cls' detail' imp with
  | some d, some cause => s.breach d cause detail' (coreOf k)
  | _, _ => s

/-- Some thread of the crew is in a handler. -/
def handlerBusy (c : Crew) : Bool := (lanesOf c.live).any fun l => (c.thread l).tmaskM

/-! ## Replay and failure (R403, R405 to R407) -/

/-- The crews of a launch. -/
def launchCrews (s : State) (d : Nat) : List Nat := (s.ex.crews.filter fun p => decide (p.2.launch = some d)).map (·.1)

/-- The lanes of a crew that are not in a handler end; the crew leaves if that ends it (R386, R407). -/
def endCrew (s : State) (k : Nat) (alsoHandler : Bool) : State :=
  let c := s.crew k
  let m := laneSet fun l => (c.thread l).live && (alsoHandler || !(c.thread l).tmaskM)
  (s.endLanes k m).reap k

/-- A launch ends FAILED (R407): cause 0x29 is recorded, and every crew ends, a handler's lanes once it has returned. -/
def failLaunch (s : State) (d : Nat) : State :=
  let s := (s.breach d 0x29 0 255).modLaunch d fun l => { l with failed := true }
  ((s.launchCrews d).foldl (fun s k => s.endCrew k false) s).checkLaunch d

/-- A mismatch of a protected pair of a crew (R403): the event is counted and the launch is replayed. -/
def mismatchCrew (s : State) (k : Nat) : State :=
  match s.crewLaunch k with
  | none => s
  | some d => (s.countUnit (unitKey 0 (quadOf k))).due [.launchReplay d 0x22]

/-- A mismatch at the present issue: nothing is performed and no lane goes on. -/
def mismatch (s : State) (x : Ctx) : State := s.mismatchCrew x.crew

/-- Takes a trap of the lanes `e` (R372, R374, R406): unhandled when TVEC.V = 0 or a lane is masked, held while another handler of the
crew runs, entered otherwise. A replayable launch that consumes poison is replayed instead; one that is not ends FAILED after the
trap. None: the group stays. -/
def take (s : State) (k : Nat) (e mask : Lanes) (cls detail addr pc tpc : Nat) (imp : Bool) : Option State :=
  let c := s.crew k
  let replay := match c.launch with
    | some d => if cls = clsPoison && (s.launch d).replayable then some d else none
    | none => none
  if let some d := replay then some (s.due [.launchReplay d 0x23])
  else if !c.tvec.getLsbD 0 || (lanesOf e).any (fun l => (c.thread l).tmaskM) then
    let s := match c.launch, trapBreach cls detail imp with
      | some d, some cause => s.breach d cause detail (coreOf k)
      | _, _ => s
    let s := match c.launch with
      | some d => if cls = clsPoison then s.failLaunch d else s
      | none => s
    some (s.unhandled k e)
  else if handlerBusy c then none
  else
    let s := s.enter k e mask cls detail addr pc tpc imp
    some (match c.launch with
      | some d => if cls = clsPoison then s.failLaunch d else s
      | none => s)

/-- The group stays and nothing is issued. -/
def stay (s : State) : State := { s.endIssue with held := true }

end State

/-- A precise trap raised at the present issue (R371, R372, R375, R280): of lanes that raise it inside a speculative region the region aborts with
FAULT, and a class that is not suppressed is then taken at the abort target. Where only lanes outside raise it, every active lane enters, one that
stands inside a region of its own too, which stays open (log entry 236). -/
def State.raise (s : State) (x : Ctx) (act : Lanes) (t : Raise) : State :=
  let c := s.crew x.crew
  let inside := (lanesOf (act &&& t.lanes)).filter fun l => (c.thread l).specAct
  if inside.isEmpty then
    let tpc := if t.cls = clsSyscall ∨ t.cls = clsBreak then x.pc + 12 else x.pc
    match s.take x.crew act t.lanes t.cls t.detail t.addr x.pc tpc false with
    | some s' => s'.endIssue
    | none => s.stay
  else
    let suppressed := t.cls = clsMemfault ∨ t.cls = clsArith ∨ t.cls = clsFempty ∨ t.cls = clsPoison
    let keep := if suppressed then none else some (t.cls, t.detail, x.pc)
    (inside.foldl (fun s l => s.beginAbort x.crew l 5 0 t.cls t.detail keep) s).endIssue

/-- Ends an issue: with its effect, held, or with its trap. -/
def settle (s : State) (x : Ctx) (act : Lanes) (r : Except Stop State) : State :=
  match r with
  | .ok s' => s'.endIssue
  | .error .hold => s.stay
  | .error (.holdIn s') => s'.stay
  | .error (.trap t) => s.raise x act t
  | .error (.trapIn s' t) => s'.raise x act t

/-- Runs the body of an instruction for the issuing group. -/
def issue (s : State) (act : Ctx → Crew → Lanes) (f : Ctx → Crew → Except Stop State) : Out :=
  match s.cur with
  | none => .fault .noIssuingGroup
  | some x =>
    let c := s.crew x.crew
    .next (settle s x (act x c) (f x c))

end Sys2Proof.Machine
end

