-- ==== Sys2Proof/Machine/Operands.lean ====
section
/-! DEFINITION. Operands.lean: the operand forms (R195 to R198): which registers a field names, what a lane reads there, the checks
that come before an instruction's effect (R145, R146, R371), and how a result is written. -/

namespace Sys2Proof.Machine

/-- The registers of a field: `sel` turns v into s and w into s pairs (R195, R196). -/
def Fld.regs (f : Fld) (sel : Bool) (n : Nat) : List Nat :=
  match f.cls with
  | .v => [n]
  | .w => [2 * n, 2 * n + 1]
  | .v4 => if sel then [n] else [n, n + 1, n + 2, n + 3]
  | .v6 => [n, n + 1, n + 2, n + 3, n + 4, n + 5]
  | .simg k _ => (List.range k).map (n + ·)
  | _ => []

/-- A v register number of the field is at or above the crew's count (R139, R195). A queue port is no v register (R197). -/
def Fld.beyond (f : Fld) (sel qp : Bool) (nregs n : Nat) : Bool :=
  !sel && !(qp && f.namesPort sel n) && (f.regs sel n).any (nregs ≤ ·)

/-- The lanes that execute an X-form (R193). -/
def Crew.active (c : Crew) (m : Lanes) (x : XF) : Lanes :=
  if x.pix = 7 ∧ x.pneg = false then m
  else laneSet fun l => hasLane m l && ((c.thread l).pred x.pix.toNat != x.pneg)

/-- The active lanes that find one of the registers EMPTY (R145). -/
def Crew.emptyLanes (c : Crew) (h sel : Bool) (rs : List Nat) (act : Lanes) : Lanes :=
  if sel then (if rs.any (c.sEmpty h) then act else 0)
  else laneSet fun l => hasLane act l && rs.any fun r => (c.thread l).vE.getLsbD r

/-- The active lanes that read a poisoned register (R146). -/
def Crew.poisonLanes (c : Crew) (h sel : Bool) (rs : List Nat) (act : Lanes) : Lanes :=
  if sel then (if rs.any (c.sPois h) then act else 0)
  else laneSet fun l => hasLane act l && rs.any fun r => (c.thread l).vP.getLsbD r

/-- One register field of an instruction with what its control word says of it. -/
structure Operand where
  fld : Fld
  sel : Bool
  n   : Nat
  fe  : Bool := false
  deriving DecidableEq, Repr

/-- The four fields of an instruction. -/
def operands (sh : Shape) (x : XF) : List Operand :=
  [⟨sh.d, x.sd, x.d.toNat, false⟩, ⟨sh.a, x.sa, x.a.toNat, x.fea⟩, ⟨sh.b, x.sb, x.b.toNat, x.feb⟩, ⟨sh.c, x.sc, x.c.toNat, x.fec⟩]

def Operand.port (o : Operand) (qp : Bool) : Bool := qp && o.fld.namesPort o.sel o.n

/-- The field names, as a v name, a register whose queue port is bound (R110, R197). -/
def Operand.aliasBound (o : Operand) (qp : Bool) (c : Crew) : Bool :=
  !o.sel && !o.port qp && (o.fld.regs o.sel o.n).any fun r => decide (248 ≤ r) && (SMap.find? c.streams (r - 248)).isSome

/-- A port used as R197 forbids: unbound, a store stream read, a load stream written. -/
def Operand.badPort (o : Operand) (qp : Bool) (c : Crew) : Bool :=
  o.port qp && ((SMap.find? c.streams (o.n - 248)).isNone
    || (decide (o.fld.role ≠ .dst) && decide (252 ≤ o.n)) || (decide (o.fld.role ≠ .src) && decide (o.n < 252)))

/-- The stream of a port. -/
def Crew.stream (c : Crew) (n : Nat) : Stream := SMap.get {} c.streams n

/-- The active lanes past their element count (R111). -/
def Crew.streamEnd (c : Crew) (port : Nat) (act : Lanes) : Lanes :=
  let st := c.stream port
  laneSet fun l => hasLane act l && decide (st.count ≤ SMap.get 0 st.pos l)

/-- The active lanes whose next element is poisoned (R53, R146). -/
def Crew.popPois (c : Crew) (port : Nat) (act : Lanes) : Lanes :=
  let st := c.stream port
  laneSet fun l => hasLane act l && ((SMap.get [] st.fetched l).headD (0, false)).2

/-- Prefetched elements of load streams are discarded (R315). -/
def Crew.dropFetched (c : Crew) : Crew := { c with streams := c.streams.map fun p => (p.1, { p.2 with fetched := [] }) }

/-- The lane whose elements a lane has: in a protected launch the two lanes of a pair share LANEID's (R154, log entry 216). -/
def Stream.laneOf (st : Stream) (l : Nat) : Nat := if st.prot then l / 2 else l

/-- The address of an element of a stream (R110). -/
def Stream.addr (st : Stream) (l j : Nat) : Nat :=
  wrapInt (if st.space = 0 then 64 else 32) ((st.base : Int) + (j : Int) * st.step + (st.laneOf l : Int) * st.stride)

/-- Some active lane's next element has not arrived (R111). -/
def Crew.popWaits (c : Crew) (port : Nat) (act : Lanes) : Bool :=
  let st := c.stream port
  (lanesOf act).any fun l => (SMap.get [] st.fetched l).isEmpty

/-- The stream holds 16 pushes not yet sent (R111), those that waits still have to make included. -/
def Crew.pushWaits (c : Crew) (port : Nat) : Bool :=
  decide (16 ≤ ((c.stream port).queued.map (·.2.2.2)).eraseDups.length + (c.waitPushes.filter fun w => decide (w.1 = port)).length)

/-- The predicates that an instruction names. -/
def predNames (sh : Shape) (x : XF) : List Nat :=
  sh.preds ++ (if x.pix = 7 ∧ x.pneg = false then [] else [x.pix.toNat])
    ++ ((operands sh x).filter fun o => decide (o.fld.cls = .p)).map (·.n)

/-- A predicate of a lane that an LDFE has yet to write (R91, R264). -/
def Op.predPends (o : Op) (m : Lanes) (ps : List Nat) : Bool :=
  decide (o.kind = .ldfe) && decide (o.pred ≠ 7) && ps.contains o.pred
    && o.accs.any fun a => decide (a.stage < 2) && if o.sd then decide (m &&& o.lanes ≠ 0) else hasLane m a.lane

def Crew.predsPend (c : Crew) (m : Lanes) (ps : List Nat) : Bool := c.ops.any fun o => o.predPends m ps

/-- What the state decides before an instruction's own effect (R371): ILLEGAL by REGISTER or USE, FEMPTY, a wait for a source or a
destination, POISON, a stream's end. With no active lane there is nothing to check. -/
def gate (c : Crew) (sh : Shape) (x : XF) (m act : Lanes) : Except Stop Unit :=
  let h := c.inHandler m
  let os := operands sh x
  let srcs := os.filter fun o => o.fld.isSource && !o.port x.qp
  let dsts := os.filter fun o => o.fld.isDest && !o.port x.qp
  let ports := os.filter fun o => o.port x.qp
  let pops := ports.filter fun o => decide (o.fld.role = .src)
  let pushes := ports.filter fun o => decide (o.fld.role ≠ .src)
  let union (f : Operand → Lanes) (l : List Operand) : Lanes := l.foldl (fun a o => a ||| f o) 0
  let empties := fun o : Operand => c.emptyLanes h o.sel (o.fld.regs o.sel o.n) act
  let trapE := union empties (srcs.filter (·.fe))
  let pois := union (fun o => c.poisonLanes h o.sel (o.fld.regs o.sel o.n) act) srcs ||| union (fun o => c.popPois (o.n - 248) act) pops
  let ended := union (fun o => c.streamEnd (o.n - 248) act) ports
  if c.predsPend m (predNames sh x) then .error .hold
  else if act = 0 then .ok ()
  else if os.any (fun o => o.fld.beyond o.sel x.qp c.nregs o.n) then .error (illegal illRegister act)
  else if sh.use || os.any (fun o => o.aliasBound x.qp c || o.badPort x.qp c) then .error (illegal illUse act)
  else if trapE ≠ 0 then .error (.trap ⟨clsFempty, 0, trapE, 0⟩)
  else if srcs.any (fun o => decide (empties o ≠ 0)) || dsts.any (fun o => decide (empties o ≠ 0)) then .error .hold
  else if pois ≠ 0 then .error (.trap ⟨clsPoison, 0x24, pois, 0⟩)
  else if ended ≠ 0 then .error (.trap ⟨clsEngine, 0x15, ended, 0⟩)
  else if pops.any (fun o => c.popWaits (o.n - 248) act) then .error .hold
  else if pushes.any (fun o => c.pushWaits (o.n - 248) || !c.clsRoom 1) then .error .hold
  else .ok ()

/-! ## Reading -/

/-- What lane `l` reads in a v field: an s register, a queue port's next element, or the v register (R196, R197). -/
def Crew.rdV (c : Crew) (h qp sel : Bool) (n l : Nat) : Word :=
  if sel then c.rdS h n
  else if qp && decide (248 ≤ n) then ((SMap.get [] (c.stream (n - 248)).fetched l).headD (0, false)).1
  else (c.thread l).rd n

/-- A 64-bit field: v(2K) low, v(2K + 1) high, or the s pair (R195). -/
def Crew.rdW (c : Crew) (h sel : Bool) (n l : Nat) : DWord :=
  if sel then c.rdS h (2 * n + 1) ++ c.rdS h (2 * n) else (c.thread l).rd (2 * n + 1) ++ (c.thread l).rd (2 * n)

/-- A field at width 64 when `w`, else 32, as a number. -/
def Crew.rdN (c : Crew) (h qp w sel : Bool) (n l : Nat) : Nat :=
  if w then (c.rdW h sel n l).toNat else (c.rdV h qp sel n l).toNat

/-! ## Writing -/

/-- The register writes of a value of 32 or 64 bits. -/
def regWrites (lane : Option Nat) (w : Bool) (n v : Nat) : List RegWrite :=
  if w then [⟨lane, 2 * n, BitVec.ofNat 32 v⟩, ⟨lane, 2 * n + 1, BitVec.ofNat 32 (v / 2 ^ 32)⟩] else [⟨lane, n, BitVec.ofNat 32 v⟩]

/-- The writes of D: one to an s register, from the lowest active lane's value, when SD = 1; else one per active lane. -/
def dWrites (x : XF) (w : Bool) (act : Lanes) (f : Nat → Nat) : List RegWrite :=
  if x.sd then
    match lowLane act with
    | none => []
    | some l => regWrites none w x.d.toNat (f l)
  else (lanesOf act).flatMap fun l => regWrites (some l) w x.d.toNat (f l)

/-- One element fewer for each active lane of every popped port, and its position moved on (R111). -/
def Crew.pop (c : Crew) (ports : List Nat) (act : Lanes) : Crew :=
  ports.foldl (fun c p =>
    let st := c.stream p
    let pos := (lanesOf act).foldl (fun m l => SMap.set 0 m l (SMap.get 0 m l + 1)) st.pos
    let fetched := (lanesOf act).foldl (fun m l => SMap.set [] m l (SMap.get [] m l).tail) st.fetched
    { c with streams := SMap.put c.streams p { st with pos := pos, fetched := fetched } }) c

/-- The load-stream ports that an instruction reads; a port named twice pops once per issue. -/
def popPorts (sh : Shape) (x : XF) : List Nat :=
  (((operands sh x).filter fun o => o.port x.qp && decide (o.fld.role = .src)).map fun o => o.n - 248).eraseDups

/-- The store-stream port that an instruction writes. -/
def pushPort (sh : Shape) (x : XF) : Option Nat :=
  if (operands sh x).any (fun o => o.port x.qp && decide (o.fld.role ≠ .src)) then some (x.d.toNat - 248) else none

/-- Enters a long-latency operation whose registers stay EMPTY until its result event (R145). -/
def Crew.later (c : Crew) (h : Bool) (pc : Nat) (act : Lanes) (kind : OpKind) (ws : List RegWrite) (flags : BitVec 5) : Crew :=
  let ds := ws.map fun w => (w.lane, w.reg)
  (c.addOp { id := 0, kind := kind, cls := 6, pc := pc, lanes := act, writes := ws, dests := ds, flags := flags, masked := h }).markEmpty
    (c.realDests h ds)

/-- Pushes one element per active lane: one ST operation, whose engine writes are its accesses, a lane's each (R111). `bad`: the lanes whose element is
poisoned. -/
def Crew.push (c : Crew) (pc port : Nat) (act : Lanes) (f : Nat → Word) (bad : Nat → Bool := fun _ => false) : Crew :=
  let st := c.stream port
  let at' := fun l => SMap.get 0 st.pos l
  let accs : List Acc := (lanesOf act).map fun l =>
    { lane := l, space := st.space, addr := st.addr l (at' l), keys := [], data := leBytes 4 (f l).toNat, pois := if bad l then 1 else 0 }
  let st := { st with pos := (lanesOf act).foldl (fun m l => SMap.set 0 m l (at' l + 1)) st.pos
                      queued := st.queued ++ (lanesOf act).map fun l => (l, at' l, f l, c.nextOp) }
  { c with streams := SMap.put c.streams port st }.addOp { id := 0, kind := .push, cls := 1, pc := pc, lanes := act, extra := port, accs := accs }

/-- A push whose values come later: its elements have their places, and wait. -/
def Crew.reserve (c : Crew) (pc port : Nat) (act : Lanes) : Crew :=
  (c.push pc port act fun _ => 0).modOp c.nextOp fun o => { o with accs := o.accs.map fun a => { a with found := false } }

/-- The value of a lane's element in a push that waits. -/
def Crew.pushFill (c : Crew) (id l : Nat) (v : Word) (pois : Bool) : Crew :=
  match c.findOp id with
  | none => c
  | some o =>
    let st := c.stream o.extra
    let c := { c with streams := SMap.put c.streams o.extra { st with queued := st.queued.map fun (q : Nat × Nat × Word × Nat) => if q.2.2.2 = id ∧ q.1 = l then (l, q.2.1, v, id) else q } }
    c.modOp id fun o => { o with accs := o.accs.map fun a => if a.lane = l then { a with found := true, data := leBytes 4 v.toNat, pois := if pois then 1 else 0 } else a }

/-- What a wait writes at its end: a register, or 256 and a queue port's number. -/
def waitDest (sh : Shape) (i : XF) : Nat :=
  match pushPort sh i with
  | some p => 256 + p
  | none => i.d.toNat

/-- The destinations that an operation fills later: registers, or for a queue port 256 and the number of its push, for each lane. -/
def Crew.destinations (c : Crew) (sh : Shape) (i : XF) (pc : Nat) (act : Lanes) (regs : List (Option Nat × Nat)) :
    Crew × List (Option Nat × Nat) :=
  match pushPort sh i with
  | some p => (c.reserve pc p act, (lanesOf act).map fun l => (some l, 256 + c.nextOp))
  | none => (c, regs)

/-- The elements that an instruction has read leave their ports. -/
def State.popped (s : State) (x : Ctx) (sh : Shape) (i : XF) (act : Lanes) : State :=
  if act = 0 ∨ popPorts sh i = [] then s else s.modCrew x.crew fun c => c.pop (popPorts sh i) act

/-- Writes D and goes on: through a queue port as a push; after a pop, or for a long-latency instruction, as an operation that
fills its registers later (R145); else at once. -/
def writeD (s : State) (x : Ctx) (sh : Shape) (i : XF) (act : Lanes) (w long : Bool) (f : Nat → Nat) : State :=
  let c := s.crew x.crew
  let h := c.inHandler x.lanes
  let ports := popPorts sh i
  if act = 0 then s.advance x else
  match pushPort sh i with
  | some p => (s.setCrew x.crew ((c.push x.pc p act fun l => BitVec.ofNat 32 (f l)).pop ports act)).advance x
  | none =>
    let ws := dWrites i w act f
    let c' := if long || !ports.isEmpty then (c.pop ports act).later h x.pc act (if long then .longLat else .pop) ws 0
      else c.applyWrites h ws
    (s.setCrew x.crew c').advance x

/-- Writes a predicate in the active lanes (R195, R219). -/
def writeP (s : State) (x : Ctx) (sh : Shape) (i : XF) (act : Lanes) (f : Nat → Bool) : State :=
  let c := if act = 0 then s.crew x.crew else (s.crew x.crew).pop (popPorts sh i) act
  (s.setCrew x.crew (c.mapLanes act fun l t => t.wrPred i.d.toNat (f l))).advance x

/-- An instruction that may not run inside a speculative region (R277): the regions of the active lanes inside abort with
UNSUPPORTED before any effect, and the lanes outside execute it in the same issue. -/
def outsideRegions (s : State) (i : XF) (run : State → Out) : Out :=
  match s.cur with
  | none => run s
  | some x =>
    let c := s.crew x.crew
    let inside := (lanesOf (c.active x.lanes i)).filter fun l => (c.thread l).specAct
    if inside.isEmpty then run s
    else
      let s' := inside.foldl (fun s l => s.beginAbort x.crew l 7 0 0 0 none) s
      let rest := x.lanes &&& ~~~c.allMembers (laneSet inside.contains)
      if rest = 0 then .next s'.endIssue else run { s' with cur := some { x with lanes := rest } }

/-- The instruction reads or writes a queue port (R277). -/
def usesPort (sh : Shape) (i : XF) : Bool := (operands sh i).any fun o => o.port i.qp

/-- What a queue port's use adds to an instruction: it does not run inside a speculative region (R277). -/
def portSafe (s : State) (sh : Shape) (i : XF) (run : State → Out) : Out := if usesPort sh i then outsideRegions s i run else run s

/-- An instruction that computes D from registers lane by lane: checks, then `f` in each active lane. -/
def lanewise (s : State) (sh : Shape) (i : XF) (w long : Bool) (f : Crew → Bool → Nat → Nat) : Out :=
  let run := fun s => issue s (fun x c => c.active x.lanes i) fun x c =>
    let act := c.active x.lanes i
    match gate c sh i x.lanes act with
    | .error e => .error e
    | .ok _ => .ok (writeD s x sh i act w long (f c (c.inHandler x.lanes)))
  if usesPort sh i then outsideRegions s i run else run s

/-- An instruction that computes a predicate lane by lane. -/
def lanewiseP (s : State) (sh : Shape) (i : XF) (f : Crew → Bool → Nat → Bool) : Out :=
  let run := fun s => issue s (fun x c => c.active x.lanes i) fun x c =>
    let act := c.active x.lanes i
    match gate c sh i x.lanes act with
    | .error e => .error e
    | .ok _ => .ok (writeP s x sh i act (f c (c.inHandler x.lanes)))
  if usesPort sh i then outsideRegions s i run else run s

/-- The B operand: word 2 when IMM (R210, R239), else the register. -/
def Crew.opB (c : Crew) (h : Bool) (i : XF) (w : Bool) (l : Nat) : Nat :=
  if i.imm then wrapInt (if w then 64 else 32) i.w2.toInt else c.rdN h i.qp w i.sb i.b.toNat l

end Sys2Proof.Machine
end

