-- ==== Sys2Proof/Machine/Code.lean ====
section
/-! DEFINITION. Code.lean: the locked code image of a crew (R206, R207, R344), its chain of instructions, and what stands at a PC. -/

namespace Sys2Proof.Machine

/-- The words of the instruction whose word 0 is `w` (R191). -/
def wordLen (w : Word) : Nat := lenWords (w.toNat / 2 ^ 30)

/-- The byte offsets of the instruction starts of an image, `pc` being the offset of its first word and `skip` the words of the
present instruction still to come (R206). -/
def chainFrom (pc skip : Nat) : List Word → List Nat
  | [] => []
  | w :: rest =>
    match skip with
    | 0 => pc :: chainFrom (pc + 4) (wordLen w - 1) rest
    | n + 1 => chainFrom (pc + 4) n rest

/-- The instruction starts of an image. -/
def chainOf (code : List Word) : List Nat := chainFrom 0 0 code

/-- `target` is an instruction start of the image. -/
def chainHas (pc skip target : Nat) : List Word → Bool
  | [] => false
  | w :: rest =>
    match skip with
    | 0 => decide (pc = target) || chainHas (pc + 4) (wordLen w - 1) target rest
    | n + 1 => chainHas (pc + 4) n target rest

/-- The words of an image from a byte offset on, at most five (R191). -/
def wordsAt (code : List Word) (pc : Nat) : List Word := (code.drop (pc / 4)).take 5

/-- What stands at a PC of an image: TARGET where no instruction of the chain starts, past its end too, else what the words decode to (R205, R206). -/
def fetch (code : List Word) (pc : Nat) : Decoded :=
  if !chainHas 0 0 pc code then .bad illTarget
  else decode (wordsAt code pc)

/-- An instruction that makes its kernel slot-using (R253). -/
def usesSlots : Instr → Bool
  | .cbld _ | .ctld _ | .sign _ | .signX _ | .mldb _ | .mma _ | .mmaw _ | .mzero _ | .msta _ | .mlda _ | .scac _ | .cvset _
  | .mstat _ => true
  | .qnt x => decide (x.vN = 1)
  | .dqnt x => decide (x.vN ≠ 1)
  | _ => false

/-- The kernel of an image is slot-using (R253). -/
def slotUsing (code : List Word) : Bool :=
  (chainOf code).any fun pc =>
    match decode (wordsAt code pc) with
    | .ok i _ => usesSlots i
    | .bad _ => false

/-- The image a crew runs: its launch's, or its queue's program. -/
def State.codeOf (s : State) (k : Nat) : List Word :=
  let c := s.crew k
  match c.queue with
  | some q => (s.queue q).code
  | none =>
    match c.launch with
    | some d => (s.launch d).q.code
    | none => []

end Sys2Proof.Machine
end

