-- ==== Sys2Proof/Machine/Tiles.lean ====
section
/-! DEFINITION. Tiles.lean: a block's start (R147), the power admission of tiles (R368) and the step of a persistent block's cursor
(R232, R367). -/

namespace Sys2Proof.Machine

/-- Storage without the bytes and poison marks whose keys meet `f`: they read 0 and clean. -/
def Mem.clear (m : Mem) (f : Nat → Bool) : Mem :=
  { m with bytes := m.bytes.filter fun p => !f p.1, pois := m.pois.filter fun p => !f p.1 }

/-- The key lies in the lanes' slices of a quadrant from `base`, `size` bytes each (R35). -/
def inSlice (quad base size key : Nat) : Bool :=
  decide (keyTag key = 8) && decide (keyAddr key / (64 * 2048) = quad)
    && decide (base ≤ keyAddr key % 2048) && decide (keyAddr key % 2048 < base + size)

/-- The key lies in an accumulator tile of the quadrant (R46). -/
def inTiles (quad key : Nat) : Bool := decide (keyTag key = 9) && decide (keyAddr key / (16 * 16384) = quad)

namespace State

/-! ## Admission (R368) -/

/-- A launch's cluster sum (R339), in units of 1/160 A. -/
def clusterSum (l : Launch) (cl : Nat) : Nat := SMap.get 0 l.q.sums cl

/-- The interval allowance AE of a launch on a cluster, in nJ: 10,000 times PRES_c (R368). -/
def allowance (l : Launch) (cl : Nat) : Nat := 10000 * cdiv (19 * clusterSum l cl) 4000

/-- The quadrants of a core that a launch was granted, rising (R147). -/
def grantedOn (l : Launch) (core : Nat) : List Nat := l.q.quads.filter fun q => decide (q / 4 = core)

/-- The quadrants that a block of the launch on this core uses. -/
def blockQuads (l : Launch) (core : Nat) : List Nat := (grantedOn l core).take l.q.crews

/-- The largest IPK of the launch's running tiles on a quadrant, in units of 0.25 A: those of its blocks, and those admitted whose block has found no
room yet, since a tile runs from its admission (R368). -/
def quadIpk (s : State) (d quad : Nat) : Nat :=
  let l := s.launch d
  let due := (l.q.slots.filter fun e => e.admitted && !e.busy && (blockQuads l e.core).contains quad).foldl
    (fun m e => max m (((e.tiles.drop e.cursor).head?.map (·.ipk)).getD 0)) 0
  (s.ex.blocks.filter fun p => decide (p.2.launch = d) && decide (p.2.stop < 6) && p.2.crews.any fun k => decide (quadOf k = quad)).foldl
    (fun m p => max m p.2.ipk) due

/-- A tile may start at once: its energy fits what is left of the interval, and the cluster's current stays within the sum. -/
def admits (s : State) (d : Nat) (e : SlotEnt) (t : TileEnt) : Bool :=
  let l := s.launch d
  let cl := clusterOf e.core
  let used := SMap.get 0 l.alloc cl
  let quads := l.q.quads.filter fun q => decide (clusterOf (q / 4) = cl)
  let mine := blockQuads l e.core
  let amps := quads.foldl (fun a q => a + (if mine.contains q then max (s.quadIpk d q) t.ipk else s.quadIpk d q)) 0
  decide (used + t.energy ≤ allowance l cl) && decide (40 * amps ≤ clusterSum l cl)

/-- Charges a tile's energy to the interval of its cluster. -/
def charge (s : State) (d core energy : Nat) : State :=
  s.modLaunch d fun l => { l with alloc := SMap.put l.alloc (clusterOf core) (SMap.get 0 l.alloc (clusterOf core) + energy) }

/-- Changes one slot of a launch. -/
def modSlot (s : State) (d core slot : Nat) (f : SlotEnt → SlotEnt) : State :=
  s.modLaunch d fun l => { l with q := { l.q with slots := l.q.slots.map fun e => if e.core = core ∧ e.slot = slot then f e else e } }

/-- The slot entry of a launch by core and slot number. -/
def slotEnt (s : State) (d core slot : Nat) : Option SlotEnt :=
  (s.launch d).q.slots.find? fun e => decide (e.core = core ∧ e.slot = slot)

/-- A slot asks for its next tile: admitted at once and charged, or waiting from now on (R368). -/
def askTile (s : State) (d : Nat) (e : SlotEnt) (t : TileEnt) : State :=
  if e.admitted then s
  else if e.waiting.isNone && s.admits d e t then
    (s.charge d e.core t.energy).modSlot d e.core e.slot fun e => { e with admitted := true }
  else s.modSlot d e.core e.slot fun e => { e with waiting := some (e.waiting.getD s.now) }

/-! ## NEXT (R232, R347, R367, R377) -/

/-- Some thread of the block waits, and every live thread of every crew of it stands at a NEXT. -/
def allAtNext (s : State) (bk : Nat) : Bool :=
  ((s.block bk).crews.any fun k => decide ((s.crew k).live ≠ 0)) && (s.block bk).crews.all fun k =>
    let c := s.crew k
    (lanesOf c.live).all fun l =>
      match (c.thread l).blocked with
      | some b => decide (b.kind = .next)
      | none => false

/-- Delivers a tile number to every waiting thread: D, TILEID, and the PC that follows. -/
def deliverTile (s : State) (bk : Nat) (tile : Word) : State :=
  let s := s.modBlock bk fun b => { b with tile := tile }
  (s.block bk).crews.foldl (fun s k =>
    s.modCrew k fun c => c.mapLanes c.live fun _ t =>
      match t.blocked with
      | some b => (t.wr b.d tile).unblock
      | none => t) s

/-- A thread of the block is in a handler. -/
def blockInHandler (s : State) (bk : Nat) : Bool :=
  (s.block bk).crews.any fun k => let c := s.crew k; (lanesOf c.live).any fun l => (c.thread l).tmaskM

/-- The block's NEXT completes, if it can: exhausted or voided, 0xFFFF_FFFF; else when the next tile is admitted. A block that is
stopping at its tile boundary, or draining, has come to it and stops there to be saved (R377, R382). -/
def stepNext (s : State) (bk : Nat) : State :=
  let b := s.block bk
  if !s.allAtNext bk || decide (3 ≤ b.stop) then s
  else if b.stop ≠ 0 then
    if s.blockInHandler bk then s
    else (s.noteStopped b.launch).modBlock bk fun b => { b with stop := 3, stopAt := s.now }
  else
    let l := s.launch b.launch
    match s.slotEnt b.launch b.home b.slot with
    | none => s
    | some e =>
      match (e.tiles.drop b.cursor).head? with
      | none => s.deliverTile bk 0xFFFFFFFF
      | some t =>
        if l.callerAt.isSome || l.failed || l.killed then s.deliverTile bk 0xFFFFFFFF
        else
          let s := s.askTile b.launch e t
          if ((s.slotEnt b.launch b.home b.slot).map (·.admitted)) = some true then
            let s := s.modSlot b.launch b.home b.slot fun e => { e with admitted := false, waiting := none }
            let s := s.modBlock bk fun b => { b with cursor := b.cursor + 1, energy := t.energy, ipk := t.ipk, started := s.now }
            s.deliverTile bk (BitVec.ofNat 32 t.tile)
          else s

/-- Every block whose live threads all stand at a NEXT steps on where it can: threads may have ended, or have come back to their NEXT from a handler
(R232, R261, R374). -/
def stepBlocks (s : State) : State := s.ex.blocks.foldl (fun (s : State) p => if p.2.persist then s.stepNext p.1 else s) s

/-! ## Block start (R147) -/

/-- The v registers and the slice bytes that a quadrant's resident crews hold, and its free crew slots. -/
def residents (s : State) (quad : Nat) : List (Nat × Crew) := s.ex.crews.filter fun p => decide (quadOf p.1 = quad)
def regsHeld (s : State) (quad : Nat) : Nat := (s.residents quad).foldl (fun n p => n + p.2.nregs) 0
def freeSlots (s : State) (quad n : Nat) : List Nat :=
  (List.range n).filter fun i => (SMap.find? s.ex.crews (quad * 16 + i)).isNone

/-- The lowest slice base at which `size` bytes are free on the quadrant's lanes (R8). -/
def sliceBase (s : State) (quad size : Nat) : Option Nat :=
  ((List.range 128).map (16 * ·)).find? fun b =>
    decide (b + size ≤ 2048) && (s.residents quad).all fun p =>
      let ob := bits p.2.slice.toNat 10 4 * 16
      let os := bits p.2.slice.toNat 27 16
      decide (b + size ≤ ob) || decide (ob + os ≤ b) || decide (size = 0) || decide (os = 0)

/-- A thread at a block's start: every register 0 and FULL, p0 to p6 false, its PC at the entry. -/
def startThread (pc : Nat) : Thread := { live := true, pc := pc }

/-- Sixty-four threads at the entry. -/
def startThreads (pc : Nat) : SMap Thread := allLanes.map fun l => (l, startThread pc)

/-- The crew of index `i` placed in a quadrant, if a slot, registers and a slice are free there. -/
def placeCrew (s : State) (d bk i quad nregs size prio : Nat) : Option (Nat × State) :=
  match (s.freeSlots quad 16).head?, s.sliceBase quad size with
  | some sl, some base =>
    if 2048 < s.regsHeld quad + nregs then none
    else
      let k := quad * 16 + sl
      let c : Crew :=
        { launch := some d, block := bk, idx := i, nregs := nregs, threads := startThreads 0,
          slice := BitVec.ofNat 32 (size * 2 ^ 16 + base), prio := prio }
      let s := s.setCrew k c
      some (k, { s with mem := s.mem.clear (inSlice quad base size) })
  | _, _ => none

/-- Places the crews of a block over the granted quadrants of its core in turn. -/
def placeCrews (s : State) (d bk nregs size prio : Nat) (quads : List Nat) : List Nat → Option (List Nat × State)
  | [] => some ([], s)
  | i :: rest =>
    match s.placeCrew d bk i (quads.getD (i % quads.length) 0) nregs size prio with
    | none => none
    | some (k, s) =>
      match placeCrews s d bk nregs size prio quads rest with
      | none => none
      | some (ks, s) => some (k :: ks, s)

/-- What a slot-using block finds in a quadrant at its start (R46, R183, R184, R253, R284, R287): codebooks +0.0, the identity curves,
convergence registers and tiles 0, no tile in the stationary buffer. -/
def resetSlots (s : State) (quad : Nat) : State :=
  { s with mem := s.mem.clear (inTiles quad) }.modQuad quad fun q => { q with books := [], curves := [], cvs := [], buf := none }

/-- The key of the block of a slot: its launch, the core of its schedule table, its slot there. -/
def blockKey (d core slot : Nat) : Nat := (d * 160 + core) * 256 + slot

/-- Starts the block of a slot (R147, R367): none when a crew finds no room, or when
the kernel is slot-using and another block holds crews on the quadrants (R253). -/
def startBlock (s : State) (d : Nat) (e : SlotEnt) : Option State :=
  let l := s.launch d
  let bk := blockKey d e.core e.slot
  let quads := grantedOn l e.core
  if quads.isEmpty || (SMap.find? s.ex.blocks bk).isSome then none
  else
    let uses := slotUsing l.q.code
    let busy := uses && quads.any fun q => (s.residents q).any fun p => (s.crew p.1).launch.isSome
    if busy then none else
    match s.placeCrews d bk l.q.nregs l.q.slice l.q.pclass quads (List.range l.q.crews) with
    | none => none
    | some (ks, s) =>
      let s := if uses then quads.foldl (fun s q => s.resetSlots q) s else s
      let sp := spanOf l e.core
      let base := sp.1 + panBytes l.q + e.slot * l.q.scratch
      let t := (e.tiles.drop e.cursor).head?
      let b : Block :=
        { launch := d, core := e.core, home := e.core, slot := e.slot, blockId := e.block, crews := ks,
          tile := if l.q.persist then 0xFFFFFFFF else BitVec.ofNat 32 ((t.map (·.tile)).getD 0), cursor := e.cursor, persist := l.q.persist,
          scrBase := BitVec.ofNat 32 base, scrLimit := BitVec.ofNat 32 (base + l.q.scratch), started := s.now,
          energy := if l.q.persist then 0 else (t.map (·.energy)).getD 0, ipk := if l.q.persist then 0 else (t.map (·.ipk)).getD 0 }
      let s := s.setBlock bk b
      let prt := s.partOf (quads.headD 0)
      let gran := (List.range (l.q.scratch / 16)).map fun i => s.scrKey e.core prt (base + 16 * i)
      let s := { s with mem := { s.mem with fe := s.mem.fe.filter fun x => !gran.contains x.1 } }
      some (s.modSlot d e.core e.slot fun e => { e with busy := true, admitted := false, waiting := none })

end State

end Sys2Proof.Machine
end

