-- ==== Sys2Proof/Machine/Control.lean ====
section
/-! DEFINITION. Control.lean: predicates (R221), transfers, loops, waiting points, ends and repeats (11 R222 to R238). -/

namespace Sys2Proof.Machine

/-- The instruction passes the gate and then does `f` with its active lanes. -/
def guarded (s : State) (sh : Shape) (i : XF) (f : Ctx → Crew → Lanes → Except Stop State) : Out :=
  issue s (fun x c => c.active x.lanes i) fun x c =>
    let act := c.active x.lanes i
    match gate c sh i x.lanes act with
    | .error e => .error e
    | .ok _ => f x c act

/-- The gate of an instruction for which the state may decide an ILLEGAL of its own, of detail `pre`: it comes before FEMPTY and POISON (R371), and
of two details the lesser is reported. -/
def gateFirst (pre : Option Nat) (c : Crew) (sh : Shape) (i : XF) (m act : Lanes) : Except Stop Unit :=
  match pre with
  | none => gate c sh i m act
  | some d =>
    if act = 0 || c.predsPend m (predNames sh i) then gate c sh i m act
    else match gate c sh i m act with
      | .error (.trap t) => .error (illegal (if t.cls = clsIllegal then min t.detail d else d) act)
      | _ => .error (illegal d act)

/-- `guarded` with such an ILLEGAL. -/
def guardedFirst (pre : Ctx → Crew → Option Nat) (s : State) (sh : Shape) (i : XF) (f : Ctx → Crew → Lanes → Except Stop State) : Out :=
  issue s (fun x c => c.active x.lanes i) fun x c =>
    let act := c.active x.lanes i
    match gateFirst (pre x c) c sh i x.lanes act with
    | .error e => .error e
    | .ok _ => f x c act

/-- The detail where a condition holds. -/
def detailIf (b : Bool) (d : Nat) : Option Nat := if b then some d else none

/-- An instruction performed once for the crew needs every live thread in its group (R283, R313). -/
def notWhole (x : Ctx) (c : Crew) : Bool := decide (c.live &&& ~~~x.lanes ≠ 0)

/-! ## NOP (R215) and the predicate group (R221) -/

def execNop (s : State) : Out := guarded s (Instr.nop).shape .zero fun x _ _ => .ok (s.advance x)
def execNopX (i : XF) (s : State) : Out := guarded s (Instr.nopX i).shape i fun x _ _ => .ok (s.advance x)

/-- A source predicate, negated by its OWN bit (R221). -/
def srcPred (c : Crew) (n : BitVec 8) (neg : Bool) (l : Nat) : Bool := (c.thread l).pred n.toNat != neg

def execPand (i : XF) (s : State) : Out :=
  lanewiseP s (Instr.pand i).shape i fun c _ l => srcPred c i.a i.o0 l && srcPred c i.b i.o1 l
def execPor (i : XF) (s : State) : Out :=
  lanewiseP s (Instr.por i).shape i fun c _ l => srcPred c i.a i.o0 l || srcPred c i.b i.o1 l
def execPxor (i : XF) (s : State) : Out :=
  lanewiseP s (Instr.pxor i).shape i fun c _ l => srcPred c i.a i.o0 l != srcPred c i.b i.o1 l
def execPnot (i : XF) (s : State) : Out :=
  lanewiseP s (Instr.pnot i).shape i fun c _ l => !srcPred c i.a i.o0 l
/-- PMOV: variant 0 to a predicate, 1 from a register's nonzero test, 2 into a v register. OWN[0] negates A (R221); for a register the model negates the
test (log entry 230). -/
def execPmov (i : XF) (s : State) : Out :=
  if i.vN = 2 then lanewise s (Instr.pmov i).shape i false false fun c _ l => b2n (srcPred c i.a i.o0 l)
  else lanewiseP s (Instr.pmov i).shape i fun c h l =>
    if i.vN = 1 then decide (c.rdV h i.qp i.sa i.a.toNat l ≠ 0) != i.o0 else srcPred c i.a i.o0 l

/-! ## The convergence table (R144) -/

namespace Crew

/-- Enters a waiting point's entry; a split at a fork that has one adds its mask; a full table loses its oldest entry. -/
def addConv (c : Crew) (e : ConvEnt) : Crew :=
  if e.kind = 0 ∧ c.conv.any (fun o => decide (o.kind = 0 ∧ o.key = e.key)) then
    { c with conv := c.conv.map fun o => if o.kind = 0 ∧ o.key = e.key then { o with mask := o.mask ||| e.mask } else o }
  else { c with conv := (if c.conv.length < 16 then c.conv else c.conv.tail) ++ [e] }

/-- The entry that a lane standing at a loop head or a return point waits in: the newest one that still counts on it. -/
def waitIdx (c : Crew) (kind key l : Nat) : Option Nat :=
  ((List.range c.conv.length).reverse).find? fun i =>
    match (c.conv.drop i).head? with
    | some e => decide (e.kind = kind ∧ e.key = key) && hasLane e.mask l && !hasLane e.arrived l
    | none => false

/-- The lane has left the loops whose heads are `heads`: it counts as arrived there. -/
def leftLoops (c : Crew) (l : Nat) (heads : List Nat) : Crew :=
  { c with conv := c.conv.map fun e =>
      if e.kind = 1 ∧ heads.contains e.key ∧ hasLane e.mask l then { e with arrived := e.arrived ||| oneLane l } else e }

/-- Entries of loops and calls that no live thread is still due at are freed. -/
def tidyConv (c : Crew) : Crew :=
  let liveM := c.live
  { c with conv := c.conv.filter fun e => decide (e.kind = 0) || decide (e.mask &&& liveM &&& ~~~e.arrived ≠ 0) }

end Crew

/-- A lane has a `.g` store whose checks have not completed, one issued in a handler included (R261, R262). -/
def Crew.openChecks (c : Crew) (m : Lanes) : Bool := c.ops.any fun o => !o.checked && decide (o.lanes &&& m ≠ 0)

/-! ## Transfers of control (R222 to R229) -/

/-- The loop stack (top first) of a lane that branches to `target`: the entries whose span it leaves go, with those above (R229). -/
def leaveLoops (target : Nat) : List LoopEnt → List LoopEnt
  | [] => []
  | e :: rest =>
    if (e :: rest).any fun e => decide (target < e.loopPc) || decide (e.endPc < target) then leaveLoops target rest else e :: rest

/-- Both lanes of some protected pair are in the group and their values differ (R154, R403). -/
def pairDiffers (m : Lanes) (f : Nat → Nat) : Bool :=
  (List.range 32).any fun i => hasLane m (2 * i) && hasLane m (2 * i + 1) && decide (f (2 * i) ≠ f (2 * i + 1))

/-- The lanes of a set go to different PCs. -/
def splits (m : Lanes) (f : Nat → Nat) : Bool :=
  match lowLane m with
  | none => false
  | some l0 => (lanesOf m).any fun l => decide (f l ≠ f l0)

/-- Sends each lane of the group to its PC: a split makes the fork's entry (R143, R144); a pair of a protected launch whose lanes
part is a mismatch (R403). `upd`: what else changes in a lane. -/
def transfer (s : State) (x : Ctx) (pcOf : Nat → Nat) (upd : Nat → Thread → Thread) (left : Nat → List Nat) : State :=
  if s.protectedCrew x.crew && pairDiffers x.lanes pcOf then s.mismatch x
  else
    let c := s.crew x.crew
    let c := if splits x.lanes pcOf then c.addConv { key := x.pc, kind := 0, mask := x.lanes } else c
    let c := (lanesOf x.lanes).foldl (fun c l => c.leftLoops l (left l)) c
    let c := c.mapLanes x.lanes fun l t => { upd l t with pc := pcOf l }
    s.setCrew x.crew c.tidyConv

/-- A branch of the active lanes to a target that may lie outside their loops (R223 to R225, R229). -/
def branch (s : State) (x : Ctx) (c : Crew) (taken : Lanes) (target : Nat → Nat) : State :=
  let keep := fun l => leaveLoops (target l) (c.thread l).loops
  transfer s x (fun l => if hasLane taken l then target l else x.next)
    (fun l t => if hasLane taken l then { t with loops := keep l } else t)
    (fun l => if hasLane taken l then ((c.thread l).loops.take ((c.thread l).loops.length - (keep l).length)).map (·.body) else [])

/-- PC plus a signed offset in words. -/
def offWords (pc : Nat) (off : Int) : Nat := wrapInt 32 ((pc : Int) + 4 * off)

/-- PC plus the signed byte offset of word 2. -/
def offBytes (pc : Nat) (w2 : Word) : Nat := wrapInt 32 ((pc : Int) + w2.toInt)

def execBra (off : BitVec 24) (s : State) : Out :=
  guarded s (Instr.bra off).shape .zero fun x c act => .ok (branch s x c act fun _ => offWords x.pc off.toInt)

def execBraX (i : XF) (s : State) : Out :=
  guarded s (Instr.braX i).shape i fun x c act => .ok (branch s x c act fun _ => offBytes x.pc i.w2)

/-- The active lanes whose predicate k, negated by `neg`, is true. -/
def condLanes (c : Crew) (act : Lanes) (k : Nat) (neg : Bool) : Lanes := laneSet fun l => hasLane act l && ((c.thread l).pred k != neg)

def execBrc (k : BitVec 3) (neg : Bool) (off : BitVec 16) (s : State) : Out :=
  guarded s (Instr.brc k neg off).shape .zero fun x c act =>
    .ok (branch s x c (condLanes c act k.toNat neg) fun _ => offWords x.pc off.toInt)

def execBrcX (i : XF) (s : State) : Out :=
  guarded s (Instr.brcX i).shape i fun x c act =>
    .ok (branch s x c (condLanes c act (bits i.d.toNat 7 5) (bitOf i.d.toNat 4)) fun _ => offBytes x.pc i.w2)

/-- The `n` words from `pc` on are B-form BRAs (R225). -/
def braTable (code : List Word) (pc n : Nat) : Bool :=
  let ws := (code.drop (pc / 4)).take n
  decide (ws.length = n) && ws.all fun w => decide (w.toNat / 2 ^ 24 = 0x15)

def execJtab (i : XF) (s : State) : Out :=
  portSafe s (Instr.jtab i).shape i fun s =>
    guardedFirst (fun x _ => detailIf (!braTable (s.codeOf x.crew) (x.pc + 12) i.wN) illForm) s (Instr.jtab i).shape i fun x c act =>
      let h := c.inHandler x.lanes
      .ok (branch (s.popped x (Instr.jtab i).shape i act) x c act fun l => x.pc + 12 + 4 * min (c.rdV h i.qp i.sa i.a.toNat l).toNat i.wN)

/-- R226. -/
def execCall (i : XF) (s : State) : Out :=
  guarded s (Instr.call i).shape i fun x c act =>
    let deep := laneSet fun l => hasLane act l && decide (i.cN ≤ (c.thread l).rets.length)
    if deep ≠ 0 then .error (.trap ⟨clsBound, 0x02, deep, 0⟩)
    else
      let c' := if act = 0 then c else c.addConv { key := x.next, kind := 2, mask := act }
      .ok (transfer (s.setCrew x.crew c') x (fun l => if hasLane act l then offBytes x.pc i.w2 else x.next)
        (fun l t => if hasLane act l then { t with rets := ⟨x.next, t.loops.length⟩ :: t.rets } else t) fun _ => [])

/-- R226; a lane that comes back to its CALL's return point waits there (R144). -/
def execRet (i : XF) (s : State) : Out :=
  guarded s (Instr.ret i).shape i fun x c act =>
    let empty := laneSet fun l => hasLane act l && (c.thread l).rets.isEmpty
    if empty ≠ 0 then .error (illegal illUse empty)
    else
      let top := fun l => (c.thread l).rets.headD ⟨0, 0⟩
      let n := fun l => (c.thread l).loops.length - (top l).depth
      .ok (transfer s x (fun l => if hasLane act l then (top l).pc else x.next)
        (fun l t => if hasLane act l then
            { t with rets := t.rets.tail, loops := t.loops.drop (n l), arrived := (c.waitIdx 2 (top l).pc l).isSome }
          else t)
        fun l => if hasLane act l then ((c.thread l).loops.take (n l)).map (·.body) else [])

/-- LOOP (R227): `endPc` its ENDL's PC, `m` the maximum trip count. -/
def loopHead (s : State) (x : Ctx) (c : Crew) (act : Lanes) (endPc m : Nat) : Except Stop State :=
  let full := laneSet fun l => hasLane act l && decide (8 ≤ (c.thread l).loops.length)
  if full ≠ 0 then .error (illegal illUse full)
  else
    let c' := if act = 0 then c else c.addConv { key := x.next, kind := 1, mask := act }
    .ok (transfer (s.setCrew x.crew c') x (fun l => if hasLane act l then x.next else endPc + 4)
      (fun l t => if hasLane act l then { t with loops := ⟨x.pc, x.next, endPc, m, 1⟩ :: t.loops } else t) fun _ => [])

def execLoop (m off : BitVec 12) (s : State) : Out :=
  guarded s (Instr.loop m off).shape .zero fun x c act => loopHead s x c act (x.pc + 4 * off.toNat) (m.toNat + 1)

def execLoopX (i : XF) (s : State) : Out :=
  guarded s (Instr.loopX i).shape i fun x c act =>
    loopHead s x c act (x.pc + 4 * (i.d.toNat * 65536 + i.a.toNat * 256 + i.b.toNat)) (i.wN + 1)

/-- R228. -/
def execEndl (k : BitVec 3) (neg cnt : Bool) (s : State) : Out :=
  guarded s (Instr.endl k neg cnt).shape .zero fun x c act =>
    let top := fun l => (c.thread l).loops.headD ⟨0, 0, 0, 0, 0⟩
    let bad := laneSet fun l => hasLane act l && ((c.thread l).loops.isEmpty || decide ((top l).endPc ≠ x.pc))
    let back := fun l => if cnt then decide ((top l).trip < (top l).max) else ((c.thread l).pred k.toNat != neg)
    let bound := laneSet fun l => hasLane act l && back l && decide ((top l).trip = (top l).max)
    if bad ≠ 0 then .error (illegal illUse bad)
    else if bound ≠ 0 then .error (.trap ⟨clsBound, 0x01, bound, 0⟩)
    else
      .ok (transfer s x (fun l => if back l then (top l).body else x.next)
        (fun l t =>
          if back l then
            { t with loops := { top l with trip := (top l).trip + 1 } :: t.loops.tail, arrived := (c.waitIdx 1 (top l).body l).isSome }
          else { t with loops := t.loops.tail })
        fun l => if back l then [] else [(top l).body])

/-- R230: its fork's entry is freed. -/
def execJoin (off : BitVec 24) (s : State) : Out :=
  guarded s (Instr.join off).shape .zero fun x _ _ =>
    let s := s.modCrew x.crew fun c =>
      { c with conv := c.conv.filter fun e => !decide (e.kind = 0 ∧ e.key = offWords x.pc off.toInt) }
    .ok (s.advance x)

/-- R152, R231: the region entry count and the entry PC of each thread, once its earlier stores have been checked (R261). -/
def execRegion (s : State) : Out :=
  guarded s (Instr.region).shape .zero fun x c act =>
    if c.openChecks act then .error .hold else
    let s := s.modCrew x.crew fun c => c.mapLanes x.lanes fun _ t =>
      { t with trecCount := t.trecCount + 1, trecEntry := BitVec.ofNat 32 x.next }
    .ok (s.advance x)

/-! ## Ending, stepping and yielding (R232 to R235) -/

/-- R232: the threads wait; with the last of the block the cursor steps on. -/
def execNext (d : BitVec 8) (s : State) : Out :=
  guarded s (Instr.next d).shape (XF.ofB d 0 0) fun x c act =>
    if c.launch.isNone || !(s.block c.block).persist then .error (illegal illUse act)
    else
      .ok ((s.waitFor x act fun _ => { kind := .next, lanes := act, d := d.toNat }).stepNext c.block)

/-- The active lanes end and the crew leaves its slot if that was all; the others go on. -/
def exitLanes (s : State) (x : Ctx) (act : Lanes) : State :=
  let s := s.setPc x (x.lanes &&& ~~~act) x.next
  let s := s.endLanes x.crew act
  let s := s.modCrew x.crew (·.tidyConv)
  let bk := (s.crew x.crew).block
  let isLaunch := (s.crew x.crew).launch.isSome
  let s := s.reap x.crew
  if isLaunch then s.stepNext bk else s

def execExit (s : State) : Out :=
  guarded s (Instr.exit).shape .zero fun x c act => if c.openChecks act then .error .hold else .ok (exitLanes s x act)
def execExitX (i : XF) (s : State) : Out :=
  guarded s (Instr.exitX i).shape i fun x c act => if c.openChecks act then .error .hold else .ok (exitLanes s x act)

/-- R234: the OR of the masks that the active lanes name; in a protected launch bit i names pair i. -/
def execTkill (i : XF) (s : State) : Out :=
  guarded s (Instr.tkill i).shape i fun x c act =>
    let h := c.inHandler x.lanes
    let m := (lanesOf act).foldl (fun m l => m ||| c.rdW h i.sa i.a.toNat l) 0#64
    let m := if s.protectedCrew x.crew then laneSet fun l => m.getLsbD (l / 2) else m
    let s := s.advance x
    let s := (s.endLanes x.crew (m &&& c.live)).modCrew x.crew (·.tidyConv)
    let bk := (s.crew x.crew).block
    let s := s.reap x.crew
    .ok (if c.launch.isSome then s.stepNext bk else s)

/-- R235. -/
def execYield (i : XF) (s : State) : Out :=
  guarded s (Instr.yield i).shape i fun x _ act =>
    let s := s.modCrew x.crew fun c => c.mapLanes act fun _ t => { t with yield := i.wN }
    .ok (s.advance x)

/-! ## REP (R201, R202, R236 to R238) -/

/-- An instruction that cannot repeat (R202). -/
def noRepeat : Instr → Bool
  | .bra _ | .braX _ | .brc _ _ _ | .brcX _ | .loop _ _ | .loopX _ | .endl _ _ _ | .join _ | .region | .sign _ | .signX _ | .next _
  | .exit | .exitX _ | .rep _ _ _ _ _ | .repX _ _ _ _ _ | .jtab _ | .call _ | .ret _ | .tkill _ | .yield _ | .tryRegion _ | .commit _
  | .abort _ | .trap _ | .tret _ | .bkpt _ | .barinit _ | .barkill _ | .barkillAb _ | .abinit _ | .mode _ | .quote _ | .accept _
  | .decline _ | .sleep _ | .halt _ => true
  | _ => false

/-- A field that may step: a register of class v, w, s, an s pair, an image, or a tile register (R202). -/
def stepable (f : Fld) : Bool :=
  match f.cls with
  | .v | .w | .v4 | .v6 | .m | .simg _ _ => true
  | .none | .p | .cv | .raw => false

/-- A field names registers of its class and of the crew for every repeat (R195, R202). -/
def inClass (f : Fld) (sel : Bool) (nregs n : Nat) : Bool :=
  match f.cls with
  | .v => if sel then decide (n < 64) else decide (n < nregs)
  | .w => if sel then decide (n < 32) else decide (2 * n + 1 < nregs)
  | .v4 => if sel then decide (n < 32) else decide (n % 4 = 0 ∧ n + 3 < nregs)
  | .v6 => if sel then decide (n + 5 < 64) else decide (n + 5 < nregs)
  | .simg k al => decide (n % al = 0 ∧ n + k ≤ 64)
  | .m => decide (n < 16)
  | _ => true

/-- The fields of an instruction stepped for repeat `i`. -/
def stepFields (x : XF) (p : RepPlan) (i : Nat) : XF :=
  { x with d := x.d + BitVec.ofNat 8 (i * p.sd), a := x.a + BitVec.ofNat 8 (i * p.sa), b := x.b + BitVec.ofNat 8 (i * p.sb),
           c := x.c + BitVec.ofNat 8 (i * p.sc) }

/-- Every repeat of the target names registers that exist, and only register fields step. -/
def repFits (t : Instr) (p : RepPlan) (nregs : Nat) : Bool :=
  let sh := t.shape
  let x := t.xf
  let ok := fun (f : Fld) (sel : Bool) (n : BitVec 8) (st : Nat) =>
    (decide (st = 0) || stepable f) && (List.range (p.count + 1)).all fun i => inClass f sel nregs (n.toNat + i * st)
  ok sh.d x.sd x.d p.sd && ok sh.a x.sa x.a p.sa && ok sh.b x.sb x.b p.sb && ok sh.c x.sc x.c p.sc

/-- The detail that REP raises for what follows it, if any (R202). -/
def repDetail (t : Decoded) (p : RepPlan) (nregs : Nat) : Option Nat :=
  match t with
  | .bad k => some (if k = illRegister then illRepeat else k)
  | .ok i _ => if noRepeat i || i.xf.qp || !repFits i p nregs then some illRepeat else none

/-- REP's own part of its issue (R236): it checks the target, starts REPCNT where V is 0, and leaves the repeat of this issue in the
state's plan. -/
def repStart (s : State) (x : Ctx) (p : RepPlan) (len : Nat) : Except Stop State :=
  let c := s.crew x.crew
  let r := match lowLane x.lanes with
    | some l0 => (c.thread l0).repcnt
    | none => 0
  let i := if r.getLsbD 31 then r.toNat % 64 else 0
  match repDetail (fetch (s.codeOf x.crew) (x.pc + 4 * len)) p c.nregs with
  | some k => .error (illegal k x.lanes)
  | none =>
    if p.count < i then .error (illegal illRepeat x.lanes)
    else
      let c := c.mapLanes x.lanes fun _ t =>
        { t with repcnt := if t.repcnt.getLsbD 31 then t.repcnt else 0x80000000#32 ||| (c.fmode.setWidth 32 <<< 6) }
      .ok { (s.setCrew x.crew c) with rep := some { p with i := i } }

/-- A REP that starts leaves its context and its plan in the state, and the step issues the target under them; a REP that raises
ends its issue. -/
def repHead (s : State) (p : RepPlan) (len : Nat) : Out :=
  match s.cur with
  | none => .fault .noIssuingGroup
  | some x =>
    match repStart s x p len with
    | .ok s' => .next s'
    | .error e => .next (settle s x x.lanes (.error e))

def repPlan (count : BitVec 6) (sd sa sb sc : BitVec 2) : RepPlan :=
  { i := 0, count := count.toNat, sd := sd.toNat, sa := sa.toNat, sb := sb.toNat, sc := sc.toNat }

def execRep (count : BitVec 6) (sd sa sb sc : BitVec 2) (s : State) : Out :=
  repHead s (repPlan count sd sa sb sc) 1

def execRepX (count : BitVec 6) (sd sa sb sc : BitVec 2) (s : State) : Out :=
  repHead s (repPlan count sd sa sb sc) 3

end Sys2Proof.Machine
end

