-- ==== Sys2Proof/Machine/Groups.lean ====
section
/-! DEFINITION. Groups.lean: the issue groups of a crew (R141, R143), its waiting points (R144), and the traps that wait for a group's
next issue (R107, R370 to R376, R379). -/

namespace Sys2Proof.Machine

/-- Threads of a crew that issue together: their PC, their set, and whether they wait at a loop's head or a call's return point. -/
structure Group where
  key   : List Nat
  pc    : Nat
  lanes : Lanes
  wait  : Bool := false
  deriving DecidableEq, Repr

/-- The opcode of the word at a PC. -/
def opcAt (code : List Word) (pc : Nat) : Nat := ((code.drop (pc / 4)).head?.getD 0).toNat / 2 ^ 24 % 64

namespace Crew

/-- The entry in which an arrived lane waits: at its loop's head or at its call's return point. -/
def waitOf (c : Crew) (l : Nat) (t : Thread) : Option Nat :=
  if !t.arrived then none
  else if (t.loops.head?.map (·.body)) = some t.pc then c.waitIdx 1 t.pc l else c.waitIdx 2 t.pc l

/-- The lanes that wait in an entry. -/
def waiters (c : Crew) (i : Nat) : Lanes :=
  c.threads.foldl (fun m p => if p.2.live && p.2.blocked.isNone && decide (c.waitOf p.1 p.2 = some i) then m ||| oneLane p.1 else m) 0

/-- The live threads that an entry still waits for: neither waiting in it nor counted as arrived (R144). -/
def dueAt (c : Crew) (i : Nat) : Lanes :=
  match (c.conv.drop i).head? with
  | some e => e.mask &&& c.live &&& ~~~e.arrived &&& ~~~c.waiters i
  | none => 0

/-- The thread waits at a loop's head or at a call's return point: its entry still waits for another. -/
def waits (c : Crew) (l : Nat) (t : Thread) : Bool :=
  match c.waitOf l t with
  | some i => decide (c.dueAt i ≠ 0)
  | none => false

/-- What threads must share to be one group (R141, R143, R238, R372): the PC, being in a handler or not, REPCNT at a REP, and waiting or
not: the threads that do not wait and stand at one PC are one group, whatever entries brought them there. -/
def groupKey (c : Crew) (code : List Word) (l : Nat) (t : Thread) : List Nat :=
  [t.pc, b2n t.tmaskM, if opcAt code t.pc = 0x1E then t.repcnt.toNat else 0, b2n (c.waits l t)]

/-- Adds a lane to the group of its key. -/
def addLane (key : List Nat) (pc l : Nat) (w : Bool) : List Group → List Group
  | [] => [⟨key, pc, oneLane l, w⟩]
  | g :: rest => if g.key = key then { g with lanes := g.lanes ||| oneLane l } :: rest else g :: addLane key pc l w rest

/-- The groups of a crew's live threads that are not inside a blocking instruction. -/
def groups (c : Crew) (code : List Word) : List Group :=
  c.threads.foldl (fun gs p =>
    if p.2.live && p.2.blocked.isNone then addLane (c.groupKey code p.1 p.2) p.2.pc p.1 (c.waits p.1 p.2) gs else gs) []

/-- Lanes that meet a test of their thread. -/
def lanesBy (c : Crew) (f : Thread → Bool) : Lanes := c.threads.foldl (fun m p => if f p.2 then m ||| oneLane p.1 else m) 0

/-- The instruction that a group standing at a PC would issue: a REP's target for a REP (R202). -/
def issuedAt (code : List Word) (pc : Nat) : Decoded :=
  match fetch code pc with
  | .ok (.rep _ _ _ _ _) n | .ok (.repX _ _ _ _ _) n => fetch code (pc + 4 * n)
  | d => d

/-- The waiting point of the instruction at which a group stands: the threads waited for and those that have arrived (R144, R276, R278,
R283). Where the threads of a group at a REGION hold different region entry counts, every live thread with any of those counts is waited for:
R144 speaks of one count (log entry 225). -/
def waitPoint (c : Crew) (code : List Word) (g : Group) : Option (Lanes × Lanes) :=
  match issuedAt code g.pc with
  | .ok (.join off) _ =>
    match c.conv.find? fun e => decide (e.kind = 0 ∧ e.key = offWords g.pc off.toInt) with
    | some e => some (e.mask, c.lanesBy fun t => t.live && t.blocked.isNone && decide (t.pc = g.pc))
    | none => none
  | .ok .region _ =>
    let counts := (lanesOf g.lanes).map fun l => (c.thread l).trecCount
    some (c.lanesBy fun t => t.live && counts.contains t.trecCount, c.lanesBy fun t => t.live && decide (t.pc = g.pc))
  | .ok (.tryRegion x) _ => if x.vN = 1 then some (c.live, g.lanes) else none
  | .ok (.mldb _) _ | .ok (.mma _) _ | .ok (.mmaw _) _ | .ok (.mzero _) _ | .ok (.msta _) _ | .ok (.mlda _) _ | .ok (.scac _) _
  | .ok (.cvset _) _ | .ok (.qbind _) _ | .ok (.qunb _) _ | .ok (.qflush _) _ => some (c.live, g.lanes)
  | .ok (.commit _) _ =>
    if (lanesOf g.lanes).any fun l => (c.thread l).specAct && (c.thread l).specCrew then
      some (c.lanesBy fun t => t.live && t.specAct && t.specCrew, g.lanes)
    else none
  | _ => none

/-- The group stands at a waiting point of R144: at its instruction, or at the loop head or return point to which all its threads have come. -/
def atPoint (c : Crew) (code : List Word) (g : Group) : Bool :=
  g.wait || (lanesOf g.lanes).all (fun l => (c.waitOf l (c.thread l)).isSome) || (c.waitPoint code g).isSome

/-- A blocked thread stands at a waiting point of R144. -/
def blockedWaits (t : Thread) : Bool :=
  match t.blocked with
  | some b =>
    match b.kind with
    | .bar _ | .abwait _ _ _ _ _ | .waitad _ _ _ _ _ | .next => true
    | _ => false
  | none => false

/-- The instruction at which a group stands needs a register or a predicate that a waiting LDFE still has to fill (R144). -/
def ldfeStuck (c : Crew) (code : List Word) (g : Group) : Bool :=
  match fetch code g.pc with
  | .ok i _ =>
    let os := operands i.shape i.xf
    c.ops.any fun o => decide (o.kind = .ldfe) && o.deadline.isSome && !o.done && (o.predPends g.lanes (predNames i.shape i.xf) || o.dests.any fun (ln, r) =>
      os.any fun f => f.fld.cls.selectable && (f.fld.regs f.sel f.n).contains r
        && (match ln with
          | some l => !f.sel && hasLane g.lanes l
          | none => f.sel))
  | .bad _ => false

/-- A thread that the group's waiting point waits for has not arrived. -/
def awaits (c : Crew) (code : List Word) (g : Group) : Bool :=
  g.wait || match c.waitPoint code g with
    | none => false
    | some (due, here) => decide (due &&& c.live &&& ~~~here ≠ 0)

/-- The group waits at its waiting point: a thread waited for has not arrived, and another group can still go on. -/
def mustWait (c : Crew) (code : List Word) (gs : List Group) (g : Group) : Bool :=
  c.awaits code g
    && ((gs.any fun o => decide (o.key ≠ g.key) && !c.atPoint code o && !c.ldfeStuck code o)
      || decide (c.lanesBy (fun t => t.live && t.blocked.isSome && !blockedWaits t) ≠ 0))

/-- The group proceeds from the loop heads and return points in which its threads stood: a call's entry is freed, and at a loop's head the
threads that arrived form the mask of the next trip. -/
def release (c : Crew) (g : Group) : Crew :=
  if (lanesOf g.lanes).all fun l => !(c.thread l).arrived then c
  else
    let went := fun i => laneSet fun l => hasLane g.lanes l && decide (c.waitOf l (c.thread l) = some i)
    let conv := ((List.range c.conv.length).zip c.conv).filterMap fun p =>
      if went p.1 = 0 then some p.2 else if p.2.kind = 1 then some { p.2 with mask := went p.1, arrived := 0 } else none
    { c with conv := conv }.mapLanes g.lanes fun _ t => { t with arrived := false }

end Crew

/-! ## Traps that wait for an issue -/

/-- A trap that waits for a group: its order, class, detail, the PC that the bank records, the address, the lanes it names, whether it
is imprecise. -/
structure Waiting where
  seq    : Nat
  cls    : Nat
  detail : Nat
  pc     : Nat
  addr   : Nat
  lanes  : Lanes
  imp    : Bool
  deriving DecidableEq, Repr

namespace State

/-- The traps that wait for a group of a crew: store faults that name one of its lanes, asynchronous ENGINE and POISON traps, the
SPEC traps of aborted regions, and a PREEMPT notice, of the active lanes of the instruction about to issue (R372, R379), whose PC is the one inside
the region that it aborted (R280). -/
def waitingTraps (s : State) (k : Nat) (g : Lanes) : List Waiting :=
  let c := s.crew k
  let pc := ((lowLane g).map fun l => (c.thread l).pc).getD 0
  let sf := ((s.quad (quadOf k)).sfq.filter fun r => decide (r.slot = slotOf k) && decide (r.mask &&& ~~~r.taken &&& g ≠ 0)).map
    fun r => (⟨r.seq, clsStorefault, r.detail, r.spc, r.addr.toNat, r.mask &&& ~~~r.taken &&& g, true⟩ : Waiting)
  let asy := c.async.map fun a => (⟨a.seq, a.cls, a.detail, a.pc, 0, g, true⟩ : Waiting)
  let spec := (lanesOf g).filterMap fun l =>
    match (c.thread l).specTrap with
    | some (cls, d, pc) => some (⟨0, cls, d, pc, 0, oneLane l, false⟩ : Waiting)
    | none => none
  let note := if c.notice && c.tvec.getLsbD 0 then
      let act := match Crew.issuedAt (s.codeOf k) pc with
        | .ok i _ => c.active g i.xf
        | .bad _ => g
      if act = 0 then []
      else [(⟨c.seq + 1, clsPreempt, 0x01, if c.noticeAt.1 &&& g = 0 then pc else c.noticeAt.2, 0, act, true⟩ : Waiting)]
    else []
  spec ++ sf ++ asy ++ note

/-- The oldest of the traps. -/
def oldest : List Waiting → Option Waiting
  | [] => none
  | w :: rest =>
    match oldest rest with
    | none => some w
    | some v => if v.seq < w.seq then some v else some w

/-- The trap no longer waits for these lanes. -/
def dropWaiting (s : State) (k : Nat) (w : Waiting) (e : Lanes) : State :=
  if w.cls = clsStorefault then
    (s.modQuad (quadOf k) fun q =>
      { q with sfq := q.sfq.map fun r => if r.slot = slotOf k ∧ r.seq = w.seq then { r with taken := r.taken ||| e } else r }).trimSfq k
  else if w.cls = clsPreempt then s.modCrew k fun c => { c with notice := false, noticeAt := (0, 0) }
  else if w.imp then s.modCrew k fun c => { c with async := c.async.filter fun a => !decide (a.seq = w.seq) }
  else s.modCrew k fun c => c.mapLanes e fun _ t => { t with specTrap := none }

/-- A group takes the oldest trap that waits for it (R371, R372, R376); inside a speculative region the region aborts first and the
trap is taken at the target (R280). None: no trap waits, the group is in a handler, or another handler of the crew runs. -/
def takeWaiting (s : State) (k : Nat) (g : Group) : Option State :=
  let c := s.crew k
  if c.inHandler g.lanes then none
  else match oldest (s.waitingTraps k g.lanes) with
    | none => none
    | some w =>
      let inside := (lanesOf w.lanes).filter fun l => (c.thread l).specAct
      if !inside.isEmpty then
        let s := if w.cls ≠ clsPreempt then s
          else s.modCrew k fun c => { c with noticeAt := (c.allMembers (inside.foldl (fun m l => m ||| oneLane l) 0), w.pc) }
        some (inside.foldl (fun s l => s.beginAbort k l 5 0 w.cls w.detail none) s)
      else
        let same := match (lowLane w.lanes).bind fun l => (c.thread l).specTrap with
          | some t => if w.imp then w.lanes else laneSet fun l => hasLane g.lanes l && decide ((c.thread l).specTrap = some t)
          | none => w.lanes
        match (s.dropWaiting k w same).take k same same w.cls w.detail w.addr w.pc g.pc w.imp with
        | none => none
        | some s' => some s'.endIssue

end State

/-- A thread that stands in a wait of R144 when a store of it is found faulty takes the trap there; TRET returns it to the wait
(R261). -/
def State.takeParked (s : State) (k lane : Nat) : State :=
  let c := s.crew k
  let t := c.thread lane
  if !(Crew.blockedWaits t) || t.tmaskM then s
  else
    let here := c.lanesBy fun u => u.live && Crew.blockedWaits u && decide (u.pc = t.pc) && !u.tmaskM
    match oldest ((s.waitingTraps k here).filter fun w => decide (w.cls = clsStorefault) && hasLane w.lanes lane) with
    | none => s
    | some w =>
      let s' := s.modCrew k fun c => c.mapLanes w.lanes fun _ u => { u with blocked := none, resume := u.blocked }
      match (s'.dropWaiting k w w.lanes).take k w.lanes w.lanes w.cls w.detail w.addr w.pc t.pc true with
      | some s'' => s''
      | none => s

/-- TRAP_ENTRY (R372): the group that holds the lane takes the oldest trap that waits for it. -/
def execTrapEntry (crew lane : Nat) (s : State) : Out :=
  match ((s.crew crew).groups (s.codeOf crew)).find? fun g => hasLane g.lanes lane with
  | none => .next (s.takeParked crew lane)
  | some g => .next ((s.takeWaiting crew g).getD s)

end Sys2Proof.Machine
end

