-- ==== Sys2Proof/Machine/Float.lean ====
section
/-! DEFINITION. Float.lean: the number formats (R170 to R172), rounding (R176 to R179), and the exact operations that the vector unit
and the matrix unit share. -/

namespace Sys2Proof.Machine

/-! ## Formats -/

/-- A floating-point format: exponent bits, mantissa bits, bias, and whether it has infinities (R170). -/
structure Fmt where
  eb   : Nat
  mb   : Nat
  bias : Nat
  inf  : Bool
  deriving DecidableEq, Repr

def fmtF32 : Fmt := ⟨8, 23, 127, true⟩
def fmtBf16 : Fmt := ⟨8, 7, 127, true⟩
def fmtF16 : Fmt := ⟨5, 10, 15, true⟩
def fmtE4m3 : Fmt := ⟨4, 3, 7, false⟩
def fmtE5m2 : Fmt := ⟨5, 2, 15, true⟩

/-- A floating-point value: a NaN, signalling or not; an infinity; or a sign with m times 2^e. -/
inductive Fv where
  | nan (sig : Bool)
  | inf (neg : Bool)
  | fin (neg : Bool) (m : Nat) (e : Int)
  deriving DecidableEq, Repr

/-! The flags of FFLAGS (R180). -/
def flNV : BitVec 5 := 16
def flDZ : BitVec 5 := 8
def flOF : BitVec 5 := 4
def flUF : BitVec 5 := 2
def flNX : BitVec 5 := 1

def flagIf (b : Bool) (f : BitVec 5) : BitVec 5 := if b then f else 0

namespace Fmt

def width (f : Fmt) : Nat := f.eb + f.mb + 1
def emin (f : Fmt) : Int := 1 - (f.bias : Int)
/-- The largest exponent of a finite value. -/
def emax (f : Fmt) : Int := (2 ^ f.eb : Int) - (if f.inf then 2 else 1) - f.bias
/-- The mantissa of the largest finite value, as an integer of mb + 1 bits (R171). -/
def maxM (f : Fmt) : Nat := if f.inf then 2 ^ (f.mb + 1) - 1 else 2 ^ (f.mb + 1) - 2
def signBit (f : Fmt) (neg : Bool) : Nat := if neg then 2 ^ (f.eb + f.mb) else 0
/-- The canonical NaN (R171, R172). -/
def cnan (f : Fmt) : Nat := if f.inf then (2 ^ f.eb - 1) * 2 ^ f.mb + 2 ^ (f.mb - 1) else 2 ^ (f.eb + f.mb) - 1
def infBits (f : Fmt) (neg : Bool) : Nat := f.signBit neg + (if f.inf then (2 ^ f.eb - 1) * 2 ^ f.mb else 2 ^ (f.eb + f.mb) - 1)
/-- The largest finite value. -/
def largest (f : Fmt) (neg : Bool) : Fv := .fin neg f.maxM (f.emax - f.mb)

/-- The value of an encoding. -/
def decode (f : Fmt) (x : Nat) : Fv :=
  let neg := bitOf x (f.eb + f.mb)
  let e := bits x (f.eb + f.mb - 1) f.mb
  let m := x % 2 ^ f.mb
  if f.inf && decide (e = 2 ^ f.eb - 1) then
    if m = 0 then .inf neg else .nan (!bitOf m (f.mb - 1))
  else if !f.inf && decide (e = 2 ^ f.eb - 1) && decide (m = 2 ^ f.mb - 1) then .nan false
  else if e = 0 then .fin neg m (f.emin - f.mb)
  else .fin neg (2 ^ f.mb + m) ((e : Int) - f.bias - f.mb)

/-- Its exponent field is 0 and its mantissa is not. -/
def subnormal (f : Fmt) (x : Nat) : Bool := decide (bits x (f.eb + f.mb - 1) f.mb = 0) && decide (x % 2 ^ f.mb ≠ 0)

/-- The value read under FTZI (R177). -/
def decodeIn (f : Fmt) (ftzi : Bool) (x : Nat) : Fv :=
  if ftzi && f.subnormal x then .fin (bitOf x (f.eb + f.mb)) 0 0 else f.decode x

/-- The encoding of a value that the format holds exactly. -/
def encode (f : Fmt) : Fv → Nat
  | .nan _ => f.cnan
  | .inf neg => f.infBits neg
  | .fin neg m e =>
    if m = 0 then f.signBit neg
    else
      let top := e + (bitLen m : Int) - 1
      if top < f.emin then f.signBit neg + m * 2 ^ (e - (f.emin - f.mb)).toNat
      else
        let sh := (f.mb + 1 : Int) - bitLen m
        let man := if 0 ≤ sh then m * 2 ^ sh.toNat else m / 2 ^ (-sh).toNat
        f.signBit neg + (top + f.bias).toNat * 2 ^ f.mb + man % 2 ^ f.mb

end Fmt

/-! ## Rounding (R176) -/

/-- The multiple of 2^q that m times 2^e rounds to in a mode (0 RNE, 1 RTZ, 2 RUP, 3 RDN), and whether they differ. -/
def roundAt (rm : Nat) (neg : Bool) (m : Nat) (e q : Int) : Nat × Bool :=
  if q ≤ e then (m * 2 ^ (e - q).toNat, false)
  else
    let sh := (q - e).toNat
    let n := m / 2 ^ sh
    let r := m % 2 ^ sh
    let half := 2 ^ (sh - 1)
    let up := match rm with
      | 0 => decide (half < r) || (decide (r = half) && decide (n % 2 = 1))
      | 1 => false
      | 2 => !neg && decide (r ≠ 0)
      | _ => neg && decide (r ≠ 0)
    (if up then n + 1 else n, decide (r ≠ 0))

/-- round(x, fmt, mode) of a value m times 2^e, with FTZO (R176, R177): the value and its flags. -/
def roundFin (f : Fmt) (rm : Nat) (ftzo : Bool) (neg : Bool) (m : Nat) (e : Int) : Fv × BitVec 5 :=
  if m = 0 then (.fin neg 0 0, 0)
  else
    let q := e + (bitLen m : Int) - 1 - f.mb
    let (n, ix) := roundAt rm neg m e q
    let top := q + (bitLen n : Int) - 1
    let tooBig := decide (f.emax < top) || (decide (f.emax = top) && decide (f.maxM * 2 ^ (bitLen n - (f.mb + 1)) < n))
    if tooBig then
      let big := match rm with
        | 0 => .inf neg
        | 1 => f.largest neg
        | 2 => if neg then f.largest neg else .inf neg
        | _ => if neg then .inf neg else f.largest neg
      (big, flOF ||| flNX)
    else if top < f.emin then
      if ftzo then (.fin neg 0 0, flUF ||| flNX)
      else
        let (n2, ix2) := roundAt rm neg m e (f.emin - f.mb)
        (.fin neg n2 (f.emin - f.mb), flagIf ix2 (flUF ||| flNX))
    else (.fin neg n q, flagIf ix flNX)

/-- Rounds any value: infinities and NaNs pass. -/
def roundFv (f : Fmt) (rm : Nat) (ftzo : Bool) : Fv → Fv × BitVec 5
  | .fin neg m e => roundFin f rm ftzo neg m e
  | v => (v, 0)

/-! ## Exact operations -/

def Fv.isNan : Fv → Bool
  | .nan _ => true
  | _ => false
def Fv.isSnan : Fv → Bool
  | .nan s => s
  | _ => false
def Fv.isZero : Fv → Bool
  | .fin _ m _ => decide (m = 0)
  | _ => false
def Fv.isNeg : Fv → Bool
  | .fin neg _ _ => neg
  | .inf neg => neg
  | .nan _ => false
def Fv.negate : Fv → Fv
  | .fin neg m e => .fin (!neg) m e
  | .inf neg => .inf (!neg)
  | v => v

/-- Both values as integers at the smaller of their exponents. -/
def alignFin (n1 : Bool) (m1 : Nat) (e1 : Int) (n2 : Bool) (m2 : Nat) (e2 : Int) : Int × Int × Int :=
  let e := if m1 = 0 then e2 else if m2 = 0 then e1 else min e1 e2
  let s := fun (n : Bool) (m : Nat) (k : Int) => (if n then -1 else 1) * ((m * 2 ^ (k - e).toNat : Nat) : Int)
  (s n1 m1 e1, s n2 m2 e2, e)

/-- The exact sum; none where it is invalid (∞ − ∞). A zero sum has the sign that IEEE 754 gives (R176). -/
def addFv (rm : Nat) (a b : Fv) : Option Fv :=
  match a, b with
  | .nan _, _ => some (.nan false)
  | _, .nan _ => some (.nan false)
  | .inf x, .inf y => if x = y then some (.inf x) else none
  | .inf x, _ => some (.inf x)
  | _, .inf y => some (.inf y)
  | .fin n1 m1 e1, .fin n2 m2 e2 =>
    let (x, y, e) := alignFin n1 m1 e1 n2 m2 e2
    let r := x + y
    if r = 0 then some (.fin (if n1 = n2 then n1 else decide (rm = 3)) 0 0) else some (.fin (decide (r < 0)) r.natAbs e)

/-- The exact product; none where it is invalid (0 × ∞). -/
def mulFv (a b : Fv) : Option Fv :=
  match a, b with
  | .nan _, .inf _ => some (.nan false)
  | .nan _, _ => some (.nan false)
  | _, .nan _ => some (.nan false)
  | .inf x, .inf y => some (.inf (x != y))
  | .inf x, .fin y m _ => if m = 0 then none else some (.inf (x != y))
  | .fin x m _, .inf y => if m = 0 then none else some (.inf (x != y))
  | .fin n1 m1 e1, .fin n2 m2 e2 => some (.fin (n1 != n2) (m1 * m2) (e1 + e2))

/-- The order of two values that are no NaNs: a < b. −0 equals +0. -/
def ltFv (a b : Fv) : Bool :=
  match a, b with
  | .inf x, .inf y => x && !y
  | .inf x, _ => x
  | _, .inf y => !y
  | .fin n1 m1 e1, .fin n2 m2 e2 =>
    let (x, y, _) := alignFin n1 m1 e1 n2 m2 e2
    decide (x < y)
  | _, _ => false

def eqFv (a b : Fv) : Bool := !a.isNan && !b.isNan && !ltFv a b && !ltFv b a

/-- Rounds a result that may be invalid; a NaN result is canonical, an invalid one raises NV (R240). -/
def finish (f : Fmt) (rm : Nat) (ftzo : Bool) (snan : Bool) : Option Fv → Nat × BitVec 5
  | none => (f.cnan, flNV)
  | some (.nan _) => (f.cnan, flagIf snan flNV)
  | some v =>
    let (r, fl) := roundFv f rm ftzo v
    (f.encode r, fl ||| flagIf snan flNV)

/-- A value rounded to an integral multiple of 1, as an integer, and whether it was inexact. -/
def roundInt (rm : Nat) (neg : Bool) (m : Nat) (e : Int) : Int × Bool :=
  let (n, ix) := roundAt rm neg m e 0
  (if neg then -(n : Int) else n, ix)

/-- The quotient a / b of finite values, b not zero, with a sticky low part: enough bits for one rounding. -/
def divFin (m1 : Nat) (e1 : Int) (m2 : Nat) (e2 : Int) : Nat × Int :=
  let sh := 80 + bitLen m2
  let q := m1 * 2 ^ sh / m2
  let r := m1 * 2 ^ sh % m2
  (4 * q + (if r = 0 then 0 else 1), e1 - e2 - sh - 2)

/-- The largest integer whose square is at most `n`, found bit by bit from bit `k` down. -/
def isqrtFrom (n : Nat) : Nat → Nat → Nat
  | 0, r => r
  | k + 1, r => if (r + 2 ^ k) * (r + 2 ^ k) ≤ n then isqrtFrom n k (r + 2 ^ k) else isqrtFrom n k r

def isqrt (n : Nat) : Nat := isqrtFrom n (bitLen n / 2 + 1) 0

/-- The square root of m times 2^e with a sticky low part. -/
def sqrtFin (m : Nat) (e : Int) : Nat × Int :=
  let (m, e) := if e % 2 = 0 then (m, e) else (2 * m, e - 1)
  let n := m * 2 ^ 120
  let r := isqrt n
  (4 * r + (if r * r = n then 0 else 1), e / 2 - 60 - 2)

/-! ## FP32 in round to nearest even, without flags: the matrix unit, companding and pans -/

def f32 (x : Nat) : Fv := fmtF32.decode x

/-- An FP32 result in RNE of an exact value or an invalid one. -/
def f32Of (v : Option Fv) : Nat := (finish fmtF32 0 false false v).1

def f32Add (a b : Nat) : Nat := f32Of (addFv 0 (f32 a) (f32 b))
def f32Sub (a b : Nat) : Nat := f32Of (addFv 0 (f32 a) (f32 b).negate)
def f32Mul (a b : Nat) : Nat := f32Of (mulFv (f32 a) (f32 b))

/-- a / b in RNE for finite a and finite nonzero b, as R186 uses it. -/
def f32Div (a b : Nat) : Nat :=
  match f32 a, f32 b with
  | .fin n1 m1 e1, .fin n2 m2 e2 => if m2 = 0 then fmtF32.cnan else
      let (m, e) := divFin m1 e1 m2 e2
      f32Of (some (.fin (n1 != n2) m e))
  | .inf n1, .fin n2 _ _ => fmtF32.infBits (n1 != n2)
  | _, _ => fmtF32.cnan

/-- BF16 rounding of an FP32 value in RNE. -/
def bf16OfF32 (x : Nat) : Nat := (finish fmtBf16 0 false false (some (f32 x))).1

/-! ## Companding (R184 to R186) -/

/-- Breakpoint i of the curve that a slot holds at block start: 16i − 128 (R184). -/
def idCurve (i : Nat) : Nat :=
  let v : Int := 16 * (i : Int) - 128
  f32Of (some (.fin (decide (v < 0)) v.natAbs 0))

/-- expand(c, b) (R185): the BF16 value of code c, as an unsigned byte; b the breakpoints. -/
def expandC8 (b : Nat → Nat) (c : Nat) : Nat :=
  let k := (c + 128) % 256
  let i := k / 16
  let j := f32Of (some (.fin false (k % 16) 0))
  let d := f32Sub (b (i + 1)) (b i)
  let t := f32Mul d j
  let u := f32Mul t 0x3D800000
  bf16OfF32 (f32Add (b i) u)

/-- compand(v, b, mode) (R186): the code as an integer, and its flags. -/
def compandC8 (b : Nat → Nat) (rm : Nat) (v : Fv) : Int × BitVec 5 :=
  match v with
  | .nan _ => (0, flNV)
  | v =>
    let i := (List.range 16).foldl (fun r i => if !ltFv v (f32 (b i)) then i else r) 0
    let vb := f32Of (some v)
    let d := f32Sub (b (i + 1)) (b i)
    let p := f32Sub vb (b i)
    match f32 (f32Div p d) with
    | .fin neg m e =>
      let off : Int := 16 * (i : Int) - 128
      let base : Fv := .fin (decide (off < 0)) off.natAbs 0
      match addFv 0 base (.fin neg m (e + 4)) with
      | some (.fin n2 m2 e2) =>
        let (c, ix) := roundInt rm n2 m2 e2
        let r := if c < -128 then -128 else if 127 < c then 127 else c
        (r, flagIf (ix || decide (r ≠ c)) flNX)
      | _ => (0, 0)
    | .inf neg => (if neg then -128 else 127, flNX)
    | .nan _ => (0, 0)

/-- A curve is valid (R184): finite, strictly rising breakpoints with finite differences. -/
def curveValid (b : Nat → Nat) : Bool :=
  let fin := fun x : Nat => match f32 x with
    | .fin _ _ _ => true
    | _ => false
  (List.range 17).all (fun i => fin (b i)) && (List.range 16).all fun i =>
    ltFv (f32 (b i)) (f32 (b (i + 1))) && fin (f32Sub (b (i + 1)) (b i))

end Sys2Proof.Machine
end

