-- ==== Sys2Proof/Machine/Flags.lean ====
section
/-! DEFINITION. Flags.lean: FMODE (R175), FFLAGS (R180) and the ARITH trap (R181) around floating-point instructions. -/

namespace Sys2Proof.Machine

/-- The fields of a captured FMODE (R175). -/
def fmRm (m : BitVec 13) : Nat := bits m.toNat 1 0
def fmFtzi (m : BitVec 13) : Bool := m.getLsbD 2
def fmFtzo (m : BitVec 13) : Bool := m.getLsbD 3
def fmSat8 (m : BitVec 13) : Bool := m.getLsbD 4
/-- The enables, in the places of the flags they enable. -/
def fmEnables (m : BitVec 13) : BitVec 5 := m.extractLsb' 8 5

/-- What one lane of a floating-point instruction computes: a result and the flags it raises. -/
abbrev FlagRes := Nat × BitVec 5

/-- The flags that lane `l` raises; a uniform instruction computes once and its flags go to every active lane (R239). -/
def laneFlags (uni : Bool) (act : Lanes) (f : Nat → FlagRes) (l : Nat) : BitVec 5 :=
  (f (if uni then (lowLane act).getD 0 else l)).2

/-- ORs each active lane's flags into its FFLAGS. -/
def orFlags (c : Crew) (act : Lanes) (fl : Nat → BitVec 5) : Crew := c.mapLanes act fun l t => { t with fflags := t.fflags ||| fl l }

/-- Raises the flags of a computation and, where no enabled flag is raised, goes on with `write`; else traps ARITH with nothing
written (R181). -/
def withFlags (s : State) (x : Ctx) (act : Lanes) (fl : Nat → BitVec 5) (write : State → State) : Except Stop State :=
  let s' := s.setCrew x.crew (orFlags (s.crew x.crew) act fl)
  let bad := laneSet fun l => hasLane act l && decide (fl l &&& fmEnables x.fmode ≠ 0)
  if bad = 0 then .ok (write s')
  else
    let all := (lanesOf act).foldl (fun a l => a ||| fl l) 0#5
    .error (.trapIn s' ⟨clsArith, all.toNat, bad, 0⟩)

/-- A floating-point instruction that computes D lane by lane. `long`: it is long-latency, unless an enabled flag makes its group
wait for the result (R249). -/
def fpLanes (s : State) (sh : Shape) (i : XF) (long : Bool) (f : Ctx → Crew → Bool → Nat → FlagRes) : Out :=
  let run := fun s => guarded s sh i fun x c act =>
    let h := c.inHandler x.lanes
    let g := f x c h
    withFlags s x act (laneFlags i.sd act g) fun s =>
      writeD s x sh i act false (long && decide (fmEnables x.fmode = 0)) fun l => (g l).1
  if usesPort sh i then outsideRegions s i run else run s

/-- A floating-point instruction that computes a predicate lane by lane. -/
def fpLanesP (s : State) (sh : Shape) (i : XF) (f : Ctx → Crew → Bool → Nat → Bool × BitVec 5) : Out :=
  let run := fun s => guarded s sh i fun x c act =>
    let g := f x c (c.inHandler x.lanes)
    withFlags s x act (fun l => (g l).2) fun s => writeP s x sh i act fun l => (g l).1
  if usesPort sh i then outsideRegions s i run else run s

/-! ## Elements (R239) -/

/-- The format of a type code, and its elements per register. -/
def typeFmt (t : Nat) : Fmt := if t = 0 then fmtF32 else if t = 1 then fmtBf16 else fmtF16
def typeElems (t : Nat) : Nat := if t = 0 then 1 else 2

/-- Computes each element from its bits and packs the results, the flags ORed. -/
def perElem (t : Nat) (f : Fmt → Nat → FlagRes) : FlagRes :=
  let fm := typeFmt t
  let w := fm.width
  (List.range (typeElems t)).foldl (fun r e =>
    let v := f fm e
    (r.1 + v.1 % 2 ^ w * 2 ^ (w * e), r.2 ||| v.2)) (0, 0)

/-- Element e of a register. -/
def elemBits (fm : Fmt) (x e : Nat) : Nat := x / 2 ^ (fm.width * e) % 2 ^ fm.width

/-- in(X, e): the element as a value, after FTZI (R239). -/
def elemIn (fm : Fmt) (m : BitVec 13) (x e : Nat) : Fv := fm.decodeIn (fmFtzi m) (elemBits fm x e)

/-! ## The operations on values -/

/-- FADD, FSUB, FMUL and FFMA on one element (R240). -/
def fp2 (op : Nat → Fv → Fv → Option Fv) (t : Nat) (m : BitVec 13) (a b : Nat) : FlagRes :=
  perElem t fun fm e =>
    let x := elemIn fm m a e
    let y := elemIn fm m b e
    finish fm (fmRm m) (fmFtzo m) (x.isSnan || y.isSnan) (op (fmRm m) x y)

/-- a × b + c, rounded once; 0 × ∞ raises NV even beside a quiet NaN addend. -/
def fma (t : Nat) (m : BitVec 13) (a b c : Nat) : FlagRes :=
  perElem t fun fm e =>
    let x := elemIn fm m a e
    let y := elemIn fm m b e
    let z := elemIn fm m c e
    finish fm (fmRm m) (fmFtzo m) (x.isSnan || y.isSnan || z.isSnan) ((mulFv x y).bind fun p => addFv (fmRm m) p z)

/-- FMIN and FMAX (R242). FTZO writes a tiny result as a zero of its sign with UF and NX (R177). -/
def fminmax (isMax : Bool) (t : Nat) (m : BitVec 13) (a b : Nat) : FlagRes :=
  perElem t fun fm e =>
    let x := elemIn fm m a e
    let y := elemIn fm m b e
    let less := fun (u v : Fv) => ltFv u v || (eqFv u v && u.isNeg && !v.isNeg)
    let r := if x.isNan then y else if y.isNan then x else if isMax then (if less x y then y else x) else (if less y x then y else x)
    let nv := flagIf (x.isSnan || y.isSnan) flNV
    match r with
    | .nan _ => (fm.cnan, nv)
    | v =>
      let bits := fm.encode v
      if fmFtzo m && fm.subnormal bits then (fm.signBit v.isNeg, nv ||| flUF ||| flNX) else (bits, nv)

/-- FCMP on the scalars (R244). -/
def fcmpOp (v : Nat) (x y : Fv) : Bool × BitVec 5 :=
  let un := x.isNan || y.isNan
  let sn := x.isSnan || y.isSnan
  let r := match v with
    | 0 => eqFv x y
    | 1 => !eqFv x y
    | 2 => !un && ltFv x y
    | 3 => !un && !ltFv y x
    | 4 => !un && ltFv y x
    | 5 => !un && !ltFv x y
    | 6 => un
    | _ => !un
  (r, flagIf (if 2 ≤ v ∧ v ≤ 5 then un else sn) flNV)

/-- FCLASS (R245). -/
def fclassOp (fm : Fmt) (x : Nat) : Nat :=
  let k := match fm.decode x with
    | .nan s => if s then 8 else 9
    | .inf neg => if neg then 0 else 7
    | .fin neg m _ =>
      if m = 0 then (if neg then 3 else 4)
      else if fm.subnormal x then (if neg then 2 else 5) else if neg then 1 else 6
  2 ^ k

/-- The mode that RMODE selects (R246). -/
def rmodeOf (m : BitVec 13) (w2 : Nat) : Nat :=
  let r := bits w2 10 8
  if r = 0 then fmRm m else r - 4

/-- FRND on one element (R246): an integral value in its own format, no NX. -/
def frndOp (fm : Fmt) (rm : Nat) : Fv → FlagRes
  | .nan s => (fm.cnan, flagIf s flNV)
  | .inf neg => (fm.infBits neg, 0)
  | .fin neg m e =>
    let n := (roundAt rm neg m e 0).1
    if 0 ≤ e then (fm.encode (.fin neg m e), 0) else (fm.encode (.fin neg n 0), 0)

/-! ## FCVT (R247, R248) -/

/-- The floating-point format of a code below 5. -/
def codeFmt (c : Nat) : Fmt :=
  match c with
  | 0 => fmtF32
  | 1 => fmtBf16
  | 2 => fmtF16
  | 3 => fmtE4m3
  | _ => fmtE5m2

/-- An integer code's width and whether it is signed. -/
def codeInt (c : Nat) : Nat × Bool := if c < 9 then (8 * 2 ^ (c - 5), true) else (8 * 2 ^ (c - 9), false)

/-- A conversion's result in a floating-point format (R176, R178). -/
def toFmt (f : Fmt) (rm : Nat) (ftzo sat : Bool) (v : Fv) : FlagRes :=
  let small := decide (f.mb < 4)
  let (r, fl) := roundFv f rm ftzo v
  match r with
  | .inf neg =>
    if small && sat then (f.encode (f.largest neg), fl ||| flOF)
    else if small && !f.inf then (f.cnan, fl ||| flNV ||| flOF)
    else (f.infBits neg, fl)
  | r => (f.encode r, fl)

/-- A floating-point value as an integer of n bits (R179). -/
def toInt (n : Nat) (sgn : Bool) (rm : Nat) (v : Fv) : FlagRes :=
  let hi : Int := if sgn then (2 : Int) ^ (n - 1) - 1 else (2 : Int) ^ n - 1
  let lo : Int := if sgn then -((2 : Int) ^ (n - 1)) else 0
  match v with
  | .nan _ => (0, flNV)
  | .inf neg => (wrapInt n (if neg then lo else hi), flNV)
  | .fin neg m e =>
    let (r, ix) := roundInt rm neg m e
    if r < lo then (wrapInt n lo, flNV) else if hi < r then (wrapInt n hi, flNV) else (wrapInt n r, flagIf ix flNX)

/-- One element converted from format `src` to format `dst`. The flushes and SAT8 act in every case, the same format included. Log
entry 20. -/
def cvtOp (src dst rm : Nat) (m : BitVec 13) (x : Nat) : FlagRes :=
  if src < 5 then
    let v := (codeFmt src).decodeIn (fmFtzi m) x
    let sn := flagIf v.isSnan flNV
    if dst < 5 then
      match v with
      | .nan _ => ((codeFmt dst).cnan, sn)
      | v =>
        if src = dst then
          let r := (codeFmt dst).encode v
          if fmFtzo m && (codeFmt dst).subnormal r then ((codeFmt dst).signBit v.isNeg, flUF ||| flNX)
          else if dst = 4 then toFmt (codeFmt dst) rm false (fmSat8 m) v
          else (r, 0)
        else toFmt (codeFmt dst) rm (fmFtzo m) (fmSat8 m) v
    else
      let (n, sgn) := codeInt dst
      toInt n sgn rm v
  else
    let (n, sgn) := codeInt src
    let k : Int := if sgn then sval n x else ((x % 2 ^ n : Nat) : Int)
    toFmt (codeFmt dst) rm (fmFtzo m) (fmSat8 m) (.fin (decide (k < 0)) k.natAbs 0)

/-- A narrow result in a register: sign copies for .i8 and .i16, zeros for every other narrow type (R173). -/
def widenCode (dst x : Nat) : Nat :=
  if dst = 5 then wrapInt 32 (sval 8 x) else if dst = 6 then wrapInt 32 (sval 16 x) else x

end Sys2Proof.Machine
end

