-- ==== Sys2Proof/Machine/Mem.lean ====
section
/-! DEFINITION. Mem.lean: what the memory instructions share: speculative buffers (R88, R277), order within a holder (R49, R75, R76, R96),
retirement (R95, R112, R113), the ends of waits, fences (R72), and freezing (R390). -/

namespace Sys2Proof.Machine

/-! ## Speculative buffers -/

/-- The entries of the buffer that a region takes (R277). -/
def Region.entries (r : Region) : Nat := (r.ssb.map fun e => e.key / 16).eraseDups.length + r.reads.length

/-- A region's buffered bytes among some keys, by offset. -/
def Region.overlaid (r : Region) (keys : List Nat) : List (Nat × Byte × BitVec 2) :=
  ((List.range keys.length).zip keys).filterMap fun p =>
    match r.ssb.find? fun e => decide (e.key = p.2) with
    | some e => some (p.1, e.val, e.nib)
    | none => none

/-- Bytes read from memory with buffered bytes in their place. -/
def overlay (bs : List Byte) (o : List (Nat × Byte × BitVec 2)) : List Byte :=
  ((List.range bs.length).zip bs).map fun p =>
    match o.find? fun e => decide (e.1 = p.1) with
    | some e => mergeNib p.2 e.2.1 e.2.2
    | none => p.2

/-- Buffers a byte. -/
def Region.put (r : Region) (lane key : Nat) (b : Byte) (nib : BitVec 2) (reg : Nat) : Region :=
  match r.ssb.find? fun e => decide (e.key = key) with
  | some o => { r with ssb := r.ssb.map fun e => if e.key = key then { o with val := mergeNib o.val b nib, nib := o.nib ||| nib, lane := lane } else e }
  | none => { r with ssb := r.ssb ++ [{ key := key, val := b &&& nibBits nib, lane := lane, nib := nib, reg := reg }] }

/-- Records a sector of the read set with the earliest of its expiries (R88, R89). -/
def Region.read (r : Region) (sec expiry : Nat) : Region :=
  if r.reads.any fun e => decide (e.sector = sec) then
    { r with reads := r.reads.map fun e => if e.sector = sec then { e with expiry := min e.expiry expiry } else e }
  else { r with reads := r.reads ++ [⟨sec, expiry⟩] }

/-- An expiry that no lease has yet fixed. -/
def noExpiry : Nat := 2 ^ 64

/-- The sector of a `.g` access. -/
def Acc.sector (a : Acc) : Nat := sectorOf (a.keys.headD 0)

namespace State

/-- The entries of a quadrant's speculative store buffer that are in use. -/
def ssbUsed (s : State) (quad : Nat) : Nat :=
  (s.residents quad).foldl (fun n p =>
    let own := (p.2.region.map Region.entries).getD 0
    n + own + p.2.threads.foldl (fun m t => m + (t.2.region.map Region.entries).getD 0) 0) 0

/-- A lane's region may grow to `r` (R277). -/
def ssbFits (s : State) (k lane : Nat) (r : Region) : Bool :=
  let c := s.crew k
  let old := ((c.regionOf lane).map Region.entries).getD 0
  decide (r.entries ≤ if (c.thread lane).specCrew then 1024 else 16) && decide (s.ssbUsed (quadOf k) - old + r.entries ≤ 4096)

/-- Changes a lane's region where it fits; the lanes whose regions do not fit are collected. -/
def growRegion (k : Nat) (st : State × Lanes) (lane : Nat) (f : Region → Region) : State × Lanes :=
  let c := st.1.crew k
  match c.regionOf lane with
  | none => st
  | some r =>
    let r := f r
    if st.1.ssbFits k lane r then (st.1.setCrew k (c.putRegion lane r), st.2) else (st.1, st.2 ||| oneLane lane)

/-- The lanes of an issue whose regions abort leave it (R277): the state, the context and the active lanes that go on. -/
def regionSplit (s : State) (x : Ctx) (act out : Lanes) (code : Nat) : State × Ctx × Lanes :=
  if out = 0 then (s, x, act)
  else
    let c := s.crew x.crew
    let s' := (lanesOf out).foldl (fun s l => s.beginAbort x.crew l code 0 0 0 none) s
    let gone := c.allMembers out
    (s', { x with lanes := x.lanes &&& ~~~gone }, act &&& ~~~gone)

/-! ## Order within a holder -/

/-- The access has reached the point that a later access to its sector waits for (R75, R76, R97). -/
def accSettled (o : Op) (a : Acc) : Bool := decide (1 ≤ a.stage) && (decide (o.kind = .load) || decide (a.loc < 2) || decide (2 ≤ a.stage))

/-- The crews of a core that share a holder (R62). -/
def holderCrews (s : State) (core prt : Nat) : List (Nat × Crew) :=
  s.ex.crews.filter fun p => decide (coreOf p.1 = core) && decide (s.crewPart p.1 = prt)

/-- A `.g` access of the holder to a sector is on its way to its home; `earlier`: it counts only what meets this test. -/
def onTheWay (s : State) (core prt sec : Nat) (earlier : Nat → Op → Nat → Bool) (writes : Bool) : Bool :=
  (s.holderCrews core prt).any fun p => p.2.ops.any fun o =>
    ((List.range o.accs.length).zip o.accs).any fun a =>
      decide (a.2.space = 0) && decide (Acc.sector a.2 = sec) && !accSettled o a.2 && (!writes || decide (o.kind ≠ .load)) && earlier p.1 o a.1

/-- Every access of the holder to the sector that was issued before access `i` of the operation has gone before it. -/
def inTurn (s : State) (k : Nat) (op : Op) (i sec : Nat) : Bool :=
  !s.onTheWay (coreOf k) (s.crewPart k) sec
    (fun k' o j => decide (o.issued < op.issued) || (decide (k' = k) && (decide (o.id < op.id) || (decide (o.id = op.id) && decide (j < i))))) false

/-- A COMMIT of the holder has sent its lock requests and waits for the decision, and the sector is in its write set (R96). -/
def commitHolds (s : State) (core prt sec : Nat) : Bool :=
  (s.holderCrews core prt).any fun p =>
    let held := fun (r : Region) => decide (0 < r.asked) && decide (r.decided = none) && r.ssb.any fun e => decide (sectorOf e.key = sec)
    (match p.2.region with
      | some r => held r
      | none => false) || p.2.threads.any fun t => match t.2.region with
      | some r => held r
      | none => false

/-! ## Ends of waits -/

end State

/-- A lane's wait ends: its destination register is written if it was active at the issue, and it goes on. -/
def Crew.finish (c : Crew) (l : Nat) (val : Option Word) : Crew :=
  match (c.thread l).blocked with
  | none => c
  | some b =>
    let c := match val with
      | some v => if !hasLane b.lanes l ∨ (b.sd = false ∧ 256 ≤ b.d) then c else if b.sd then c.wrS (c.thread l).tmaskM b.d v
        else c.mapLanes (oneLane l) fun _ t => t.wr b.d v
      | none => c
    c.mapLanes (oneLane l) fun _ t => t.unblock

/-- The lanes that wait in the same instruction as lane `l`: the group proceeds as one. -/
def Crew.waitMates (c : Crew) (l : Nat) : Lanes :=
  match (c.thread l).blocked with
  | none => 0
  | some b => c.threads.foldl (fun m p =>
      match p.2.blocked with
      | some o => if p.2.live ∧ o.pc = b.pc ∧ o.lanes = b.lanes then m ||| oneLane p.1 else m
      | none => m) 0

/-- What the waits of some lanes push through queue ports as they end: one push for each wait (R111). -/
def Crew.pushWaited (c : Crew) (m : Lanes) (f : Nat → Blocked → Word) (bad : Blocked → Bool) : Crew :=
  let waits := c.waitPushes.filter fun w => c.threads.any fun p => hasLane m p.1 && p.2.blocked.any fun b => decide ((b.d - 256, b.pc, b.lanes) = w)
  waits.foldl (fun c w =>
    let ls := laneSet fun l => hasLane m l && hasLane w.2.2 l && (c.thread l).blocked.any fun b => decide (256 ≤ b.d ∧ b.pc = w.2.1 ∧ b.lanes = w.2.2)
    c.push w.2.1 w.1 ls (fun l => ((c.thread l).blocked.map (f l)).getD 0) fun l => (c.thread l).blocked.any bad) c

/-- The waits of some lanes end with a status word, if the instruction writes one. -/
def Crew.finishAll (c : Crew) (m : Lanes) (val : Option Word) : Crew :=
  (lanesOf m).foldl (fun c l => c.finish l val) (match val with
    | some v => c.pushWaited m (fun _ _ => v) fun _ => false
    | none => c)

/-- A status word (R267). -/
def statusWord (gen err st : Nat) : Word := BitVec.ofNat 32 (gen % 65536 * 65536 + err % 256 * 256 + st % 256)

def stOk : Nat := 0x00
def stTimeout : Nat := 0x01
def stError : Nat := 0x02
def stBusy : Nat := 0x03
def stFull : Nat := 0x04
def stForm : Nat := 0x05
def stKilled : Nat := 0x06
def stNotyet : Nat := 0x07
def stDenied : Nat := 0x08

/-! ## Retirement (R95, R112, R113) -/

/-- Operations that are done leave their class in issue order: those that stay and those that retire. -/
def retireList : List Nat → List Op → List Op × List Op
  | _, [] => ([], [])
  | waiting, o :: rest =>
    if o.done && (decide (6 ≤ o.cls) || !waiting.contains o.cls) then
      let r := retireList waiting rest
      (r.1, o :: r.2)
    else
      let r := retireList (o.cls :: waiting) rest
      (o :: r.1, r.2)

/-- ERRSTAT after an operation of a class retired with error (R113). -/
def errstatAfter (e : Word) (cls detail : Nat) : Word :=
  let e' := if e &&& 0x3F#32 = 0 then BitVec.ofNat 32 (detail % 256 * 2 ^ 24 + cls % 8 * 2 ^ 21) else e
  e' ||| BitVec.ofNat 32 (2 ^ cls)

/-- The class of the asynchronous trap that an operation's error raises, none for 15: ENGINE (R107) or POISON (R290). -/
def noTrap : Nat := 15

namespace State

/-- What a retired operation leaves in its crew: its error, its asynchronous trap, the waits that counted on it. -/
def retireErr (c : Crew) (o : Op) : Crew :=
  match o.err with
  | none => c
  | some d =>
    let c := { c with errstat := errstatAfter c.errstat o.cls d }
    let c := { c with threads := c.threads.map fun (l, t) => (l, match t.blocked with
      | some b => (match b.kind with
        | .waitc cls _ seq => if cls = o.cls ∧ o.id < seq then { t with blocked := some { b with last := 1 } } else t
        | _ => t)
      | none => t) }
    if o.errCls = noTrap then c
    else { c with async := c.async ++ [{ cls := o.errCls, detail := d, pc := o.pc, seq := c.seq }], seq := c.seq + 1 }

/-- WAITCs whose condition holds complete (R270). -/
def finishWaitc (c : Crew) : Crew :=
  (lanesOf c.live).foldl (fun c l =>
    match (c.thread l).blocked with
    | some b =>
      (match b.kind with
        | .waitc cls n _ => if c.outstanding cls ≤ n then c.finishAll (c.waitMates l) (some (statusWord 0 0 (if b.last = 0 then stOk else stError))) else c
        | _ => c)
    | none => c) c

/-- Retires what is done; then the WAITCs complete, and a crew that has ended leaves its slot (R107). -/
def retire (s : State) (k : Nat) : State :=
  match SMap.find? s.ex.crews k with
  | none => s
  | some c =>
    let r := retireList [] c.ops
    (s.setCrew k (finishWaitc (r.2.foldl retireErr { c with ops := r.1 }))).reap k

/-! ## Fences (R72) -/

/-- The conditions of a fence's scope hold for a lane. -/
def fenceOk (s : State) (k lane scope : Nat) : Bool :=
  let c := s.crew k
  let mine := c.ops.flatMap fun o => (o.accs.filter fun a => decide (a.lane = lane)).map fun a => (o, a)
  let loads := mine.all fun p => decide (p.1.cls ≠ 0) || decide (2 ≤ p.2.stage)
  let near := mine.all fun p => decide (p.1.cls ≠ 1) || decide (p.2.space = 1) || decide (p.2.loc = 2) || decide (p.2.loc = 3) || decide (2 ≤ p.2.stage)
  let far := mine.all fun p => decide (p.1.cls ≠ 1) || !(decide (p.2.loc = 2) || decide (p.2.loc = 3)) || decide (2 ≤ p.2.stage)
  let wct := decide ((c.thread lane).wctlast < s.now)
  loads && (decide (scope = 0) || (near && wct)) && (decide (scope < 3) || far)

/-- The condition of an SDRAIN: every earlier `.g` store has been accepted at its home, or found faulty (R262). -/
def drained (s : State) (k lane : Nat) : Bool :=
  (s.crew k).ops.all fun o => decide (o.kind ≠ .store) || o.accs.all fun a => decide (a.lane ≠ lane) || decide (a.space ≠ 0) || decide (1 ≤ a.stage)

/-- An acquire of one of the lanes has not yet returned its value (R74). -/
def acqPending (c : Crew) (m : Lanes) : Bool :=
  c.ops.any fun o => o.acq && o.accs.any fun a => hasLane m a.lane && (decide (a.stage < 2) || (decide (o.kind = .atomic) && !o.dests.isEmpty && decide (o.extra = 0)))

/-! ## Misses -/

/-- A walk fault ends the packet (R33, R357). -/
def walkFault (s : State) (k status : Nat) : State :=
  match (s.crew k).queue with
  | none => s
  | some qi =>
    let s := s.modQueue qi fun q => { q with halting := some (0x04, status) }
    (s.endLanes k (s.crew k).live).reap k

/-- A walk for the address is under way for the requester. -/
def walking (s : State) (die asid va who : Nat) : Bool :=
  let w := s.walkPool die
  let same := fun (r : WalkReq) => decide (r.asid = asid) && decide (r.va / 4096 = va / 4096) && decide (r.who = who)
  w.queue.any same || w.walks.any fun k => same k.req || k.followers.any same

/-- A requester's miss goes to the die's walkers, once. -/
def askWalk (s : State) (die asid va kind who : Nat) : State :=
  if s.walking die asid va who then s else s.due [.walkRequest die asid (va / 4096 * 4096) kind who]

/-- How an issue with lanes that have no place ends: a MEMFAULT of the faulting lanes with the detail of the lowest (R259), the end of the
packet, or a wait for walks. -/
def missed (s : State) (x : Ctx) (bad : List (Nat × Nat × Miss)) : Except Stop State :=
  let faults := bad.filterMap fun b => match b.2.2 with
    | .fault d => some (b.1, b.2.1, d)
    | _ => none
  match faults with
  | (_, addr, d) :: _ => .error (.trap ⟨clsMemfault, d, laneSet fun l => faults.any fun f => decide (f.1 = l), addr⟩)
  | [] =>
    let failed := bad.findSome? fun b => match b.2.2 with
      | .walkFail st => some st
      | _ => none
    match failed with
    | some st => .ok (s.walkFault x.crew st)
    | none =>
      let die := dieOf (coreOf x.crew)
      let need := (bad.filterMap fun b => match b.2.2 with
        | .walk asid va => some (asid, va / 4096 * 4096)
        | _ => none).eraseDups
      let new := need.filter fun n => !s.walking die n.1 n.2 x.crew
      if new.isEmpty then .error .hold else .error (.holdIn (s.due (new.map fun n => .walkRequest die n.1 n.2 0 x.crew)))

/-- The accesses of some lanes and the lanes that have none. -/
def accesses (s : State) (k sp n : Nat) (nd : Need) (addr : Nat → Nat) : List Nat → List Acc × List (Nat × Nat × Miss)
  | [] => ([], [])
  | l :: rest =>
    let r := s.accesses k sp n nd addr rest
    match s.access k l sp (addr l) n nd with
    | .ok a => (a :: r.1, r.2)
    | .error m => (r.1, (l, addr l, m) :: r.2)

/-! ## Freezing (R389, R390) -/

/-- The partition's grant table covers an HBM address, which lies in a die's 192 GiB (R50, R389); other storage is not checked. -/
def inGrants (s : State) (prt key : Nat) : Bool :=
  decide (keyTag key ≠ 1) || (inHbm (keyAddr key) && (List.range 16).any fun i =>
    let g := SMap.get (0, 0) s.pl.grants (prt * 16 + i)
    decide (g.1 * 2097152 ≤ keyAddr key) && decide (keyAddr key < (g.1 + g.2) * 2097152))

/-- A launch becomes FROZEN: its blocks stop as R380 stops them, without a save (stop 5), its saved images stay where they are, the machine event is
recorded, the L2 TLB of the cluster counts it. -/
def freezeLaunch (s : State) (d core : Nat) : State :=
  let s := (s.breach d 0x2A 0 core).countUnit (unitKey 4 (clusterOf core))
  let s := (s.modLaunch d fun l => { l with frozen := true }).setDcbState d 3
  { s with ex := { s.ex with blocks := s.ex.blocks.map fun (p : Nat × Block) => (p.1, if p.2.launch = d then { p.2 with stop := 5, stopAt := s.now } else p.2) } }

/-- The crew that broke isolation is frozen, and its launch with it. -/
def freezeCrew (s : State) (k : Nat) : State :=
  let s := s.modCrew k fun c => { c with frozen := true }
  match (s.crew k).launch with
  | some d => s.freezeLaunch d (coreOf k)
  | none => s

/-! ## Pairs (R154, R403) -/

/-- The lanes that perform a store or an atomic: of a protected pair the even one. -/
def doers (prot : Bool) (act : Lanes) : List Nat := (lanesOf act).filter fun l => !prot || decide (l % 2 = 0)

end State

end Sys2Proof.Machine
end

