-- ==== Sys2Proof/Machine/Load.lean ====
section
/-! DEFINITION. Load.lean: loads (R258, R259, R264, R266), their fills at home (R61, R64, R389) and the return of their values (R145). -/

namespace Sys2Proof.Machine

/-- What a load or store names: its space, its size variant, the displacement, ORD, SCOPE and HINT (R258). -/
structure MemForm where
  sp    : Nat
  size  : Nat
  disp  : Int
  ord   : Bool := false
  scope : Nat := 0
  hint  : Nat := 0
  deriving DecidableEq, Repr

/-- The form of the MEM group: the modifier byte in B, the variant, word 2. -/
def memForm (i : XF) : MemForm :=
  { sp := i.space, size := i.vN, disp := i.w2.toInt, ord := bitOf i.b.toNat 5, scope := bits i.b.toNat 7 6, hint := bits i.b.toNat 4 3 }

/-- The short B-forms: an unsigned displacement in B. -/
def shortForm (sp : Nat) (b : BitVec 8) : MemForm := { sp := sp, size := 4, disp := b.toNat }

/-- Their X-forms: the displacement in word 2. -/
def shortFormX (sp : Nat) (i : XF) : MemForm := { sp := sp, size := 4, disp := i.w2.toInt }

/-- The bytes of a size variant (R258). -/
def sizeBytes (v : Nat) : Nat :=
  match v with
  | 0 => 1 | 1 => 1 | 2 => 2 | 3 => 2 | 4 => 4 | 5 => 8 | 6 => 16 | _ => 1

/-- The address that a lane names: a 64-bit base for `.g`, else 32 bits (R6, R259). -/
def memAddr (c : Crew) (h : Bool) (i : XF) (f : MemForm) (l : Nat) : Nat :=
  if f.sp = 0 then wrapInt 64 ((c.rdW h i.sa i.a.toNat l).toNat + f.disp) else wrapInt 32 ((c.rdV h i.qp i.sa i.a.toNat l).toNat + f.disp)

/-- The value of a load's bytes, extended as its variant says (R258). -/
def loadVal (size : Nat) (bs : List Byte) : Nat :=
  if size = 1 then wrapInt 32 (sval 8 (leNat bs)) else if size = 3 then wrapInt 32 (sval 16 (leNat bs)) else leNat bs

/-- The registers of a load's destination. -/
def sizeRegs (size : Nat) (sel : Bool) (d : Nat) : List Nat :=
  if size = 5 then [2 * d, 2 * d + 1] else if size = 6 then [d, d + 1, d + 2, d + 3] else if sel then [d] else [d]

/-- The destinations of an access, by lane or for the crew. -/
def sizeDests (size : Nat) (sel : Bool) (d lane : Nat) : List (Option Nat × Nat) :=
  (sizeRegs size sel d).map fun r => (if sel then none else some lane, r)

/-- Writes a register with its poison mark (R146), or gives a queue port's push its value. -/
def Crew.fill (c : Crew) (h : Bool) (dst : Option Nat × Nat) (v : Word) (pois : Bool) : Crew :=
  match dst.1 with
  | some l => if 256 ≤ dst.2 then c.pushFill (dst.2 - 256) l v pois else c.mapLanes (oneLane l) fun _ t => if pois then (t.wr dst.2 v).setPois dst.2 else t.wr dst.2 v
  | none =>
    let c := c.wrS h dst.2 v
    if pois && !(h && decide (58 ≤ dst.2)) then { c with sP := c.sP ||| (1#64 <<< dst.2) } else c

/-- The destinations of an access among those of its operation. -/
def laneDests (dests : List (Option Nat × Nat)) (size : Nat) (sel : Bool) (d lane : Nat) : List (Option Nat × Nat) :=
  if dests.any fun p => decide (256 ≤ p.2) then dests.filter fun p => decide (p.1 = some lane) else sizeDests size sel d lane

/-- Writes a value of several registers, word by word. -/
def Crew.fillAll (c : Crew) (h : Bool) (v : Nat) (pois : BitVec 4) (dsts : List (Option Nat × Nat)) : Crew :=
  ((List.range dsts.length).zip dsts).foldl (fun c p => c.fill h p.2 (BitVec.ofNat 32 (v / 2 ^ (32 * p.1))) (pois.getLsbD p.1)) c

/-- The words among some keys that hold poison, a bit per 4 bytes. -/
def State.poisonWords (s : State) (keys : List Nat) : BitVec 4 :=
  (List.range 4).foldl (fun m j => if ((keys.drop (4 * j)).take 4).any s.poisoned then m ||| (1#4 <<< j) else m) 0

/-- An access performed at its bank or slice: its bytes with the region's own in their place. -/
def State.readHere (s : State) (a : Acc) : Acc := { a with data := overlay (a.keys.map s.mem.byte) a.overlaid, pois := s.poisonWords a.keys, stage := 1 }

/-- The bytes that an access finds in 64 bytes of its sector. -/
def lineBytes (data : BitVec 512) (keys : List Nat) : List Byte := keys.map fun k => State.getByte data (k % 64)

/-- The poisoned words of an access in a line whose 64-bit parts are marked. -/
def linePois (pois : BitVec 8) (keys : List Nat) : BitVec 4 :=
  (List.range 4).foldl (fun m j => if ((keys.drop (4 * j)).take 4).any fun k => pois.getLsbD (k % 64 / 8) then m ||| (1#4 <<< j) else m) 0

/-- The lines of these keys are leased to the load: what a region records (R88). -/
def State.noteRead (s : State) (k lane sec expiry : Nat) : State :=
  match (s.crew k).regionOf lane with
  | none => s
  | some r => s.setCrew k ((s.crew k).putRegion lane (r.read sec expiry))

/-- A `.g` access tries the L1 (R47); acquire loads, `.nl` loads, queue cores and uncached memory go to the home (R61). -/
def State.tryL1 (s : State) (k : Nat) (f : MemForm) (a : Acc) : State × Acc :=
  if f.ord || decide (f.hint = 3) || decide (2 ≤ a.loc) || decide (160 ≤ coreOf k) then (s, a)
  else match s.l1Hit (coreOf k) (s.crewPart k) (Acc.sector a) with
    | none => (s, a)
    | some (key, l) =>
      ((s.setL1 key { l with used := s.now }).noteRead k a.lane (Acc.sector a) l.expiry,
        { a with data := overlay (lineBytes l.data a.keys) a.overlaid, pois := linePois l.pois a.keys, stage := 1 })

/-- A load of some lanes whose accesses have their places (R259, R277). -/
def loadGo (s : State) (x : Ctx) (sh : Shape) (i : XF) (f : MemForm) (act : Lanes) (accs : List Acc) : Except Stop State :=
  let k := x.crew
  let c := s.crew k
  let h := c.inHandler x.lanes
  let far := laneSet fun l => (c.thread l).specAct && accs.any fun a => decide (a.lane = l) && (decide (a.loc = 2) || decide (a.loc = 3))
  let (s, x, act) := s.regionSplit x act far 7
  let mine := accs.filter fun a => hasLane act a.lane
  let grown := (mine.filter fun a => decide (a.space = 0)).foldl (fun st a => State.growRegion k st a.lane fun r => r.read (Acc.sector a) noExpiry) (s, 0)
  let (s, x, act) := grown.1.regionSplit x act grown.2 3
  let mine := (mine.filter fun a => hasLane act a.lane).map fun a =>
    { a with overlaid := match (s.crew k).regionOf a.lane with
        | some r => if a.space = 0 ∨ a.space = 4 then r.overlaid a.keys else []
        | none => [] }
  if x.lanes = 0 then .ok s
  else if mine.any fun a => decide (a.space = 0) && s.commitHolds (coreOf k) (s.crewPart k) (Acc.sector a) then .error .hold
  else if f.sp = 4 then
    let r := (s.crew k).destinations sh i x.pc act []
    let c := mine.foldl (fun c a =>
      let a := s.readHere a
      c.fillAll h (loadVal f.size a.data) a.pois (laneDests r.2 f.size i.sd i.d.toNat a.lane)) r.1
    .ok ((s.setCrew k c).advance x)
  else
    let (s, done) := mine.foldl (fun st a =>
      if f.sp = 0 then
        let r := st.1.tryL1 k f a
        (r.1, st.2 ++ [r.2])
      else (st.1, st.2 ++ [st.1.readHere a])) (s, [])
    let (c, dests) := (s.crew k).destinations sh i x.pc act (mine.flatMap fun a => sizeDests f.size i.sd i.d.toNat a.lane)
    let c := c.addOp { id := 0, kind := .load, cls := 0, pc := x.pc, lanes := act, accs := done, dests := dests, fmt := f.size, d := i.d.toNat,
                       sd := i.sd, acq := f.ord, hint := f.hint, issued := s.ctr, masked := h,
                       bad := laneSet fun l => hasLane act l && (c.thread l).specAct }
    .ok ((s.setCrew k (c.markEmpty (c.realDests h dests))).advance x)

/-- The lanes that access memory: one for a uniform instruction (R196, R259). -/
def memLanes (uni : Bool) (act : Lanes) : List Nat := if uni then (lanesOf act).take 1 else lanesOf act

/-- LD in every form (R259). -/
def load (s : State) (sh : Shape) (i : XF) (f : MemForm) : Out :=
  portSafe s sh i fun s => guarded s sh i fun x c act =>
    let h := c.inHandler x.lanes
    if c.queue.isSome && decide (f.sp ≠ 0) && decide (f.sp ≠ 4) then .error (illegal illUse act)
    else if act = 0 then .ok (s.advance x)
    else if State.acqPending c act || (decide (f.sp ≠ 4) && !c.clsRoom 0) then .error .hold
    else
      let r := s.accesses x.crew f.sp (sizeBytes f.size) .load (memAddr c h i f) (memLanes i.sd act)
      if !r.2.isEmpty then s.missed x r.2
      else loadGo ((if f.sp = 0 then s.translated x.crew (r.1.map (·.addr)) else s).popped x sh i act) x sh i f act r.1

def execLd (i : XF) (s : State) : Out := load s (Instr.ld i).shape i (memForm i)
def execLdCB32 (d a b : BitVec 8) (s : State) : Out := load s (Instr.ldCB32 d a b).shape (XF.ofB d a 0) (shortForm 1 b)
def execLdCB32X (i : XF) (s : State) : Out := load s (Instr.ldCB32X i).shape i (shortFormX 1 i)
def execLdGB32 (d a b : BitVec 8) (s : State) : Out := load s (Instr.ldGB32 d a b).shape (XF.ofB d a 0) (shortForm 0 b)
def execLdGB32X (i : XF) (s : State) : Out := load s (Instr.ldGB32X i).shape i (shortFormX 0 i)

/-! ## Fills (R61, R64) -/

/-- Storage behind a host port is read where it lies (R29); what the holder has on the way to it has been performed. -/
def State.readHost (s : State) (a : Acc) : Acc := { a with data := a.keys.map s.mem.byte, stage := 1 }

/-- A read of a sector at its home for a load: its bytes, and the copy that the L1 keeps with its lease. Where a store or an atomic of the holder to the
sector is between the L1 and the home as the fill comes back, the lease is granted and the data returned, but the L1 is not filled: the spec does not say
whether it is (log entry 221). -/
def State.fillAt (s : State) (k : Nat) (o : Op) (a : Acc) : State × Acc :=
  let core := coreOf k
  let prt := s.crewPart k
  let sec := Acc.sector a
  let h := s.holderOf k
  let lease := if o.acq || decide (o.hint = 3) || decide (160 ≤ core) then 0 else leaseLen o.hint
  let lease := if (s.l1Ways core prt).isEmpty then 0 else lease
  let (s, e) := s.fillSector h prt sec lease
  let (data, pois) := sectorData (s.homeView h sec false) sec
  let s := match e with
    | some e => if s.onTheWay core prt sec (fun _ _ _ => true) true then s else s.fillL1 core prt { line := sec, data := data, expiry := e, used := s.now, pois := pois }
    | none => s
  let a := { a with data := overlay (lineBytes data a.keys) a.overlaid, pois := linePois pois a.keys, stage := 1 }
  (if hasLane o.bad a.lane then s.noteRead k a.lane sec (e.getD s.now) else s, a)

/-- Replaces an access of an operation. -/
def Op.setAcc (o : Op) (i : Nat) (a : Acc) : Op := { o with accs := o.accs.set i a }

/-- FILL_REQUEST (R64): the home serves a load's access. It waits while a COMMIT holds the sector (R90) and while an earlier access of the
holder to the sector is on its way (R75). -/
def execFillRequest (crew op k : Nat) (s : State) : Out :=
  let c := s.crew crew
  match c.findOp op with
  | none => .next s
  | some o =>
    match (o.accs.drop k).head? with
    | none => .next s
    | some a =>
      let sec := Acc.sector a
      if o.kind ≠ .load ∨ a.space ≠ 0 ∨ a.stage ≠ 0 ∨ s.locked sec ∨ !s.inTurn crew o k sec
          ∨ s.commitHolds (coreOf crew) (s.crewPart crew) sec ∨ c.frozen then .next s
      else if !s.inGrants (s.crewPart crew) (a.keys.headD 0) then .next (s.freezeCrew crew)
      else
        let (s, a) := if 2 ≤ a.loc ∧ a.loc ≤ 3 then (s, s.readHost a) else s.fillAt crew o a
        .next (s.modCrew crew fun c => c.modOp op fun o => o.setAcc k a)

/-! ## Full/empty loads (R41, R42, R264) -/

/-- Presents an LDFE access to its bank: the bytes and the bit as one access. `wait`: one that finds EMPTY waits. -/
def State.presentFe (s : State) (clr wait : Bool) (a : Acc) : State × Acc :=
  let full := SMap.get false s.mem.fe a.gran
  if full then
    ((if clr then { s with mem := { s.mem with fe := SMap.set false s.mem.fe a.gran false } } else s), { s.readHere a with found := true })
  else if wait then (s, a)
  else (s, { s.readHere a with found := false })

/-- A lane that times out reads 0 and FOUND false (R264). -/
def Acc.expire (a : Acc) : Acc := { a with data := a.keys.map fun _ => 0, pois := 0, stage := 1, found := false }

/-- The writes of accesses whose value is there: D, and FOUND of an LDFE; they are then returned. -/
def returnAccs (c : Crew) (o : Op) : Crew :=
  let ready := o.accs.filter fun a => decide (a.stage = 1)
  let c := ready.foldl (fun c a =>
    let c := c.fillAll o.masked (loadVal o.fmt a.data) a.pois (laneDests o.dests o.fmt o.sd o.d a.lane)
    if o.kind = .ldfe then
      (if o.sd then c.mapLanes o.lanes fun _ t => t.wrPred o.pred a.found else c.mapLanes (oneLane a.lane) fun _ t => t.wrPred o.pred a.found)
    else c) c
  let accs := o.accs.map fun a => if a.stage = 1 then { a with stage := 2 } else a
  c.modOp o.id fun o => { o with accs := accs, done := accs.all fun a => decide (a.stage = 2) }

def execLdfe (i : XF) (s : State) : Out :=
  outsideRegions s i fun s => guarded s (Instr.ldfe i).shape i fun x c act =>
    let h := c.inHandler x.lanes
    let f : MemForm := { sp := i.space, size := i.vN, disp := i.w2.toInt }
    let tmo := bits i.b.toNat 7 3
    if c.queue.isSome then .error (illegal illUse act)
    else if act = 0 then .ok (s.advance x)
    else if State.acqPending c act || !c.clsRoom 0 then .error .hold
    else
      let r := s.accesses x.crew f.sp (sizeBytes f.size) .load (memAddr c h i f) (memLanes i.sd act)
      if !r.2.isEmpty then s.missed x r.2
      else
        let wait := i.o0 && decide (tmo ≠ 0)
        let (s, accs) := r.1.foldl (fun st a =>
          let p := st.1.presentFe i.o1 wait a
          (p.1, st.2 ++ [if i.o0 && !wait && !p.2.found then p.2.expire else p.2])) (s, [])
        let (c, dests) := ((s.popped x (Instr.ldfe i).shape i act).crew x.crew).destinations (Instr.ldfe i).shape i x.pc act
          (r.1.flatMap fun a => sizeDests f.size i.sd i.d.toNat a.lane)
        let c := c.addOp { id := 0, kind := .ldfe, cls := 0, pc := x.pc, lanes := act, accs := accs, dests := dests, fmt := f.size,
                                         d := i.d.toNat, sd := i.sd, pred := i.cN, clr := i.o1, issued := s.ctr, masked := h,
                                         deadline := if wait then some (s.now + 2 ^ (tmo + 3)) else none }
        let c := if i.o0 || decide (f.sp = 2) then c.markEmpty (c.realDests h dests)
          else match c.findOp (c.nextOp - 1) with
            | some o => (returnAccs c o).modOp o.id fun o => { o with done := false }
            | none => c
        .ok ((s.setCrew x.crew c).advance x)

/-- LDFE_REPRESENTATION (R42): a waiting lane's access is presented again. -/
def execLdfeRepresentation (crew op k : Nat) (s : State) : Out :=
  match (s.crew crew).findOp op with
  | none => .next s
  | some o =>
    match (o.accs.drop k).head? with
    | none => .next s
    | some a =>
      if o.kind ≠ .ldfe ∨ a.stage ≠ 0 then .next s
      else
        let p := s.presentFe o.clr true a
        .next (p.1.modCrew crew fun c => c.modOp op fun o => o.setAcc k p.2)

/-- LOAD_RETURN (R145, R146): the values that have come fill their registers, and the operation retires with the last of them. -/
def execLoadReturn (crew op : Nat) (s : State) : Out :=
  match (s.crew crew).findOp op with
  | none => .next s
  | some o =>
    if o.kind ≠ .load ∧ o.kind ≠ .ldfe then .next s
    else .next ((s.modCrew crew fun c => returnAccs c o).retire crew)

/-! ## PREF (R266) -/

/-- Brings a line into its home L2, or into the L1 as a load with the hint would: one that a load would hit is used, and no lease is asked for (R65). -/
def State.prefetch (s : State) (k : Nat) (l2 : Bool) (hint : Nat) (a : Acc) : State :=
  if 2 ≤ a.loc then s
  else if l2 then s.residentL2 (s.crewPart k) (Acc.sector a)
  else if (s.tryL1 k { sp := 0, size := 0, disp := 0, hint := hint } a).2.stage = 1 then (s.tryL1 k { sp := 0, size := 0, disp := 0, hint := hint } { a with lane := 64 }).1
  else (s.fillAt k { id := 0, kind := .load, cls := 0, pc := 0, lanes := 0, hint := hint } { a with lane := 64 }).1

def execPref (i : XF) (s : State) : Out :=
  guarded s (Instr.pref i).shape i fun x c act =>
    let h := c.inHandler x.lanes
    let f : MemForm := { sp := 0, size := 0, disp := i.w2.toInt }
    if act = 0 then .ok (s.advance x)
    else if State.acqPending c act then .error .hold
    else
      let r := s.accesses x.crew 0 1 .load (memAddr c h i f) (lanesOf act)
      let busy := r.1.any fun a => s.locked (Acc.sector a) || s.commitHolds (coreOf x.crew) (s.crewPart x.crew) (Acc.sector a)
      if !r.2.isEmpty then s.missed x r.2
      else if busy then .error .hold
      else .ok ((r.1.foldl (fun s a => s.prefetch x.crew (decide (i.vN = 1)) (bits i.b.toNat 4 3) a)
        (s.translated x.crew (r.1.map (·.addr)))).advance x)

end Sys2Proof.Machine
end

