-- ==== Sys2Proof/Machine/Store.lean ====
section
/-! DEFINITION. Store.lean: stores (R54, R55, R66, R69, R258, R260, R261, R264, R265), their checks, their acceptance at home and their
retirement (R70, R78, R376). -/

namespace Sys2Proof.Machine

/-- The low bytes of the data register that a store of a size writes (R260). -/
def storeData (c : Crew) (h : Bool) (i : XF) (size l : Nat) : Nat :=
  if size = 5 then (c.rdW h i.sd i.d.toNat l).toNat
  else if size = 6 then leNat ((sizeRegs 6 i.sd i.d.toNat).flatMap fun r => leBytes 4 (if i.sd then c.rdS h r else (c.thread l).rd r).toNat)
  else (c.rdV h i.qp i.sd i.d.toNat l).toNat

/-- The nibble mask of a `.b4` store, both nibbles for the others. -/
def storeNib (size v : Nat) : BitVec 2 := if size = 7 then BitVec.ofNat 2 (bits v 9 8) else 3

/-- An access with the data that a store writes. -/
def withData (c : Crew) (h : Bool) (i : XF) (size : Nat) (a : Acc) : Acc :=
  let v := storeData c h i size a.lane
  { a with data := leBytes (sizeBytes size) v, nib := storeNib size v }

/-- What a store writes over bytes as they stand: whole bytes, or the named nibbles merged (R54). -/
def State.storeBytes (s : State) (a : Acc) : List (Nat × Byte) :=
  (a.keys.zip a.data).map fun p => (p.1, if a.nib = 3 then p.2 else mergeNib (s.mem.byte p.1) p.2 a.nib)

/-- A 4-bit store writes part of a unit, so a poison mark stays (R53, R54). -/
def State.storeHere (s : State) (a : Acc) : State := if a.nib = 0 then s else s.performBytes (s.storeBytes a)

/-- An on-chip store performed at its bank: its WCT is module time (R69). -/
def State.chipStore (s : State) (a : Acc) : State × Acc := (s.storeHere a, { a with stage := 1, wct := s.now })

/-- On-chip stores of several lanes in ascending lane order (R39), entered as one ST operation. -/
def State.chipStores (s : State) (x : Ctx) (act : Lanes) (accs : List Acc) (after : State → Acc → State) : State :=
  let (s, accs) := accs.foldl (fun st a =>
    let r := st.1.chipStore a
    (after r.1 a, st.2 ++ [r.2])) (s, [])
  s.modCrew x.crew fun c => c.addOp { id := 0, kind := .store, cls := 1, pc := x.pc, lanes := act, accs := accs, issued := s.ctr }

/-- The `.g` store instructions of a quadrant whose checks have not completed (R261). -/
def State.openStores (s : State) (quad : Nat) : Nat :=
  (s.residents quad).foldl (fun n p => n + (p.2.ops.filter fun o => !o.checked).length) 0

/-- What a store does at issue differs in the two lanes of some protected pair (R154, R403). -/
def storeMismatch (s : State) (x : Ctx) (act : Lanes) (addr val : Nat → Nat) : Bool :=
  s.protectedCrew x.crew && State.pairsDiffer act fun l => [addr l, val l]

/-- A `.g` store leaves issue (R260, R261): what passes its checks updates the L1 (R49); its faults are found later. The record of a fault carries the
address and the TREC of the lowest lane that fails (R152, R376; log entry 226). -/
def storeG (s : State) (x : Ctx) (act : Lanes) (accs : List Acc) (bad : List (Nat × Nat × Nat)) : State :=
  let k := x.crew
  let c := s.crew k
  let h := c.inHandler x.lanes
  let s := accs.foldl (fun s a =>
    if 2 ≤ a.loc then s
    else s.passL1 (coreOf k) (s.crewPart k) ((a.keys.zip a.data).map fun p =>
      (p.1, if a.nib = 3 then p.2 else match s.l1Copy (coreOf k) (s.crewPart k) (sectorOf p.1) with
        | some (_, l) => mergeNib (State.getByte l.data (p.1 % 64)) p.2 a.nib
        | none => p.2))) s
  let c := s.crew k
  let trec := match bad.head? with
    | some b => (c.thread b.1).trecEntry ++ (c.thread b.1).trecCount
    | none => 0
  let c := c.addOp { id := 0, kind := .store, cls := 1, pc := x.pc, lanes := act, accs := accs, checked := false, issued := s.ctr, masked := h,
                     trec := trec, bad := laneSet fun l => bad.any fun b => decide (b.1 = l), badAddr := (bad.head?.map (·.2.1)).getD 0,
                     err := bad.head?.map (·.2.2), errCls := noTrap }
  s.setCrew k (if h then c else c.mapLanes act fun _ t => { t with skid := t.skid ++ [(c.nextOp - 1, 0)] })

/-- Stores of lanes inside speculative regions are buffered (R88, R277). -/
def bufferStores (s : State) (k : Nat) (accs : List Acc) : State × Lanes :=
  accs.foldl (fun st a => State.growRegion k st a.lane fun r =>
    if a.nib = 0 then r else (a.keys.zip a.data).foldl (fun r p => r.put a.lane p.1 p.2 a.nib a.region) r) (s, 0)

/-- ST of some lanes to `.g`: those inside regions are checked precisely and buffered, the others leave issue (R260, R277). -/
def storeGo (s : State) (x : Ctx) (act : Lanes) (accs : List Acc) (bad : List (Nat × Nat × Nat)) : Except Stop State :=
  let c := s.crew x.crew
  let inside := fun l => (c.thread l).specAct
  let far := laneSet fun l => inside l && accs.any fun a => decide (a.lane = l) && decide (2 ≤ a.loc)
  match bad.find? fun b => inside b.1 with
  | some b => .error (.trap ⟨clsMemfault, b.2.2, laneSet fun l => inside l && bad.any fun b => decide (b.1 = l), b.2.1⟩)
  | none =>
    let (s, x, act) := s.regionSplit x act far 7
    let r := bufferStores s x.crew (accs.filter fun a => hasLane act a.lane && inside a.lane)
    let (s, x, act) := r.1.regionSplit x act r.2 3
    let out := laneSet fun l => hasLane act l && !inside l
    if x.lanes = 0 then .ok s
    else .ok ((if out = 0 then s else storeG s x out (accs.filter fun a => hasLane out a.lane) bad).advance x)

/-- ST to an on-chip space (R260). -/
def storeChip (s : State) (x : Ctx) (act : Lanes) (sp : Nat) (accs : List Acc) : Except Stop State :=
  let c := s.crew x.crew
  let inside := laneSet fun l => hasLane act l && (c.thread l).specAct
  if sp = 4 then
    let r := bufferStores s x.crew (accs.filter fun a => hasLane inside a.lane)
    let (s, x, act) := r.1.regionSplit x act r.2 3
    if x.lanes = 0 then .ok s
    else .ok (((accs.filter fun a => hasLane act a.lane && !hasLane inside a.lane).foldl (fun s a => s.storeHere a) s).advance x)
  else .ok ((s.chipStores x act accs fun s _ => s).advance x)

/-- A store that may not run inside a speculative region, whatever its address: through a queue port, to a space other than `.g` and `.l`, or `.rel`
(R277). -/
def storeSafe (s : State) (sh : Shape) (i : XF) (f : MemForm) (run : State → Out) : Out :=
  if usesPort sh i || f.ord || (decide (f.sp ≠ 0) && decide (f.sp ≠ 4)) then outsideRegions s i run else run s

/-- The lanes of a precise access that fail, in ascending order, each with its reason: misalignment comes first in a lane (R81, R259). -/
def misFirst (align : Nat) (addr : Nat → Nat) (lanes : List Nat) (bad : List (Nat × Nat × Miss)) : List (Nat × Nat × Miss) :=
  lanes.filterMap fun l => if addr l % align ≠ 0 then some (l, addr l, .fault badZerobits) else bad.find? fun b => decide (b.1 = l)

/-- ST in every form (R260, R73): the alignment of a `.g` store is checked precisely, its other checks come later; all those of another space are
precise, and the detail is that of the lowest lane that fails. In a protected launch lane 2i alone stores to memory, and each lane to its own slice (R154). -/
def store (s : State) (sh : Shape) (i : XF) (f : MemForm) : Out :=
  storeSafe s sh i f fun s => guarded s sh i fun x c act =>
    let k := x.crew
    let h := c.inHandler x.lanes
    let lanes := (memLanes i.sd act).filter fun l => !s.protectedCrew k || decide (f.sp = 4) || decide (l % 2 = 0)
    let addr := memAddr c h i f
    let n := sizeBytes f.size
    let mis := lanes.filter fun l => decide (addr l % n ≠ 0)
    if c.queue.isSome && decide (f.sp ≠ 0) && decide (f.sp ≠ 4) then .error (illegal illUse act)
    else if act = 0 then .ok (s.advance x)
    else if State.acqPending c act || (decide (f.sp ≠ 4) && !c.clsRoom 1) then .error .hold
    else if f.ord && (c.openChecks act || (lanesOf act).any fun l => !s.fenceOk k l f.scope) then .error .hold
    else if storeMismatch s x act addr (storeData c h i f.size) then .ok (s.mismatch x)
    else if decide (f.sp = 0) && !mis.isEmpty then
      .error (.trap ⟨clsMemfault, badZerobits, laneSet mis.contains, addr (mis.headD 0)⟩)
    else
      let r := s.accesses k f.sp n .store addr lanes
      let accs := r.1.map (withData c h i f.size)
      if f.sp ≠ 0 then (if !r.2.isEmpty then s.missed x (misFirst n addr lanes r.2) else storeChip (s.popped x sh i act) x act f.sp accs)
      else
        let walks := r.2.filter fun b => match b.2.2 with
          | .fault _ => false
          | _ => true
        let faults := r.2.filterMap fun b => match b.2.2 with
          | .fault d => some (b.1, b.2.1, d)
          | _ => none
        let remote := (accs.filter fun a => decide (f.size = 7) && decide (2 ≤ a.loc)).map fun a => (a.lane, a.addr, badNibble)
        let bad := (lanes.filterMap fun l => (faults ++ remote).find? fun b => decide (b.1 = l))
        let good := accs.filter fun a => !remote.any fun b => decide (b.1 = a.lane)
        if !walks.isEmpty then s.missed x walks
        else if !h && decide (32 ≤ (s.quad (quadOf k)).sfq.length + s.openStores (quadOf k)) then .error .hold
        else storeGo ((s.translated k (r.1.map (·.addr))).popped x sh i act) x act good bad

def execSt (i : XF) (s : State) : Out := store s (Instr.st i).shape i (memForm i)
def execStCB32 (d a b : BitVec 8) (s : State) : Out := store s (Instr.stCB32 d a b).shape (XF.ofB d a 0) (shortForm 1 b)
def execStCB32X (i : XF) (s : State) : Out := store s (Instr.stCB32X i).shape i (shortFormX 1 i)
def execStGB32 (d a b : BitVec 8) (s : State) : Out := store s (Instr.stGB32 d a b).shape (XF.ofB d a 0) (shortForm 0 b)
def execStGB32X (i : XF) (s : State) : Out := store s (Instr.stGB32X i).shape i (shortFormX 0 i)

/-! ## Full/empty stores (R41, R264, R265) -/

/-- Sets or clears the full/empty bits of granules. -/
def State.setGrans (s : State) (grans : List Nat) (full : Bool) : State :=
  { s with mem := { s.mem with fe := grans.foldl (fun m g => SMap.set false m g full) s.mem.fe } }

/-- An engine write to an on-chip granule or to a word of one (R41, R81, R100): the granule is FULL after it in a scratchpad, and poisoned data stays so. -/
def State.chipGranule (s : State) (keys : List Nat) (bs : List Byte) (bad : Bool) : State :=
  let s := s.performBytes (keys.zip bs)
  let s := if bad then s.poisonKeys keys else s
  match keys.head? with
  | some k => if keyTag k = 6 then s.setGrans [granuleOf k] true else s
  | none => s

/-- An on-chip store of the active lanes outside regions, as one ST operation. -/
def chipStoreOp (s : State) (sh : Shape) (i : XF) (sp n : Nat) (disp : Int) (align : Nat) (data : Crew → Bool → Acc → Acc)
    (val : Crew → Bool → Nat → Nat) (after : State → Acc → State) : Out :=
  outsideRegions s i fun s => guarded s sh i fun x c act =>
    let h := c.inHandler x.lanes
    let f : MemForm := { sp := sp, size := 4, disp := disp }
    let addr := memAddr c h i f
    let lanes := (memLanes i.sd act).filter fun l => !s.protectedCrew x.crew || decide (l % 2 = 0)
    if c.queue.isSome then .error (illegal illUse act)
    else if act = 0 then .ok (s.advance x)
    else if State.acqPending c act || !c.clsRoom 1 then .error .hold
    else if storeMismatch s x act addr (val c h) then .ok (s.mismatch x)
    else
      let r := lanes.map fun l => (l, s.place x.crew l sp (addr l) n .store)
      let bad := misFirst align addr lanes (r.filterMap fun p => match p.2 with
        | .error m => some (p.1, addr p.1, m)
        | .ok _ => none)
      let accs := r.filterMap fun p => match p.2 with
        | .ok q => some (data c h { lane := p.1, space := sp, addr := addr p.1, keys := s.placeKeys q n, target := (q.scr.map (·.1)).getD 0,
                                    gran := match q.scr with
                                      | some (core, prt) => s.scrKey core prt (q.base - q.base % 16)
                                      | none => 0 })
        | .error _ => none
      if !bad.isEmpty then s.missed x bad else .ok (((s.popped x sh i act).chipStores x act accs after).advance x)

def execStfe (i : XF) (s : State) : Out :=
  chipStoreOp s (Instr.stfe i).shape i i.space (sizeBytes i.vN) i.w2.toInt (sizeBytes i.vN) (fun c h a => withData c h i i.vN a)
    (fun c h l => storeData c h i i.vN l) fun s a => s.setGrans [a.gran] true

/-- FESET and FECLR: `n` granules from each active lane's address; data is untouched (R265). -/
def feRange (s : State) (sh : Shape) (i : XF) (full : Bool) : Out :=
  let n := i.b.toNat + 1
  chipStoreOp s sh i (i.ownN + 1) (16 * n) i.w2.toInt 16 (fun _ _ a => a) (fun _ _ _ => 0) fun s a =>
    s.setGrans ((List.range n).map fun j => a.keys.getD (16 * j) 0) full

def execFeset (i : XF) (s : State) : Out := feRange s (Instr.feset i).shape i true
def execFeclr (i : XF) (s : State) : Out := feRange s (Instr.feclr i).shape i false

/-! ## The checks of a `.g` store (R261, R376) -/

/-- The store no longer counts towards the hold of its threads. -/
def Crew.unskid (c : Crew) (op : Nat) : Crew :=
  { c with threads := c.threads.map fun (l, t) => (l, { t with skid := t.skid.filter fun p => !decide (p.1 = op) }) }

/-- STORE_CHECKS_PASS (R261): every lane's checks have completed without fault. -/
def execStoreChecksPass (crew op : Nat) (s : State) : Out :=
  match (s.crew crew).findOp op with
  | none => .next s
  | some o =>
    if o.checked ∨ o.bad ≠ 0 then .next s
    else .next (s.modCrew crew fun c => (c.unskid op).modOp op fun o => { o with checked := true })

/-- A failed check in a thread that issued its store in a handler is unhandled at once (R261, R374). -/
def State.unhandledStore (s : State) (k : Nat) (m : Lanes) (detail : Nat) : State :=
  let c := s.crew k
  let s := match c.launch, trapCause clsStorefault detail with
    | some d, some cause => s.breach d cause detail (coreOf k)
    | _, _ => s
  s.unhandled k m

/-- STORE_CHECK_FAIL (R261, R376, R429): the failing lanes are not performed; a record enters the queue unless every one has ended or the
store was a handler's. -/
def execStoreCheckFail (crew op : Nat) (s : State) : Out :=
  match (s.crew crew).findOp op with
  | none => .next s
  | some o =>
    if o.checked ∨ o.bad = 0 then .next s
    else
      let c := s.crew crew
      let s := s.setCrew crew { ((c.unskid op).modOp op fun o => { o with checked := true }) with seq := c.seq + 1 }
      let liveM := o.bad &&& c.live
      let detail := o.err.getD 0
      if liveM = 0 then .next s
      else if o.masked then .next (s.unhandledStore crew liveM detail)
      else
        let r : SfRec := { mask := o.bad, addr := BitVec.ofNat 64 o.badAddr, trec := o.trec, spc := o.pc, slot := slotOf crew, detail := detail,
                           seq := c.seq }
        .next ((s.modQuad (quadOf crew) fun q => { q with sfq := q.sfq ++ [r] }).trimSfq crew)

/-! ## At the home (R66, R69, R97, R404) -/

/-- The access number `k` of an operation. -/
def Crew.accOf (c : Crew) (op k : Nat) : Option (Op × Acc) :=
  match c.findOp op with
  | none => none
  | some o => ((o.accs.drop k).head?).map fun a => (o, a)

def State.launchNo (s : State) (k : Nat) : Nat := ((s.crew k).launch).getD 0

/-- STORE_AT_HOME (R66): the home accepts a store and assigns its WCT, or a host port sends it on. It waits behind earlier accesses of the
holder to the sector, a COMMIT's lock, and 2,048 pending stores. -/
def execStoreAtHome (crew op k : Nat) (s : State) : Out :=
  let c := s.crew crew
  match c.accOf op k with
  | none => .next s
  | some (o, a) =>
    let sec := Acc.sector a
    let key := a.keys.headD 0
    if o.kind ≠ .store ∨ a.space ≠ 0 ∨ a.stage ≠ 0 ∨ !o.checked ∨ s.locked sec ∨ !s.inTurn crew o k sec ∨ c.frozen then .next s
    else if !s.inGrants (s.crewPart crew) key then .next (s.freezeCrew crew)
    else if 2 ≤ a.loc ∧ a.loc ≤ 3 then
      .next ((s.snapshot (s.launchNo crew) key).modCrew crew fun c => c.modOp op fun o => o.setAcc k { a with stage := 1 })
    else if 2048 ≤ s.pendCount (homeDie key) then .next s
    else
      let bs := if a.nib = 0 then [] else a.keys.zip a.data
      let masks := if a.nib = 3 then [] else a.keys.map fun key => (key, a.nib)
      let r := s.acceptStore (s.holderOf crew) (s.crewPart crew) (s.launchNo crew) sec bs masks
      .next (r.1.modCrew crew fun c => c.modOp op fun o => o.setAcc k { a with stage := 1, wct := r.2 })

/-- PENDING_STORE_PERFORMED (R66): the stores of a sector whose WCT has come are performed. -/
def execPendingStorePerformed (sector : Nat) (s : State) : Out :=
  if (s.pendOf sector).any fun p => decide (p.wct ≤ s.now) then .next (s.performSector sector) else .next s

/-- PORT_STORE_REPORT (R69, R97): a host port reports a store performed; its WCT is module time. -/
def execPortStoreReport (crew op k : Nat) (s : State) : Out :=
  match (s.crew crew).accOf op k with
  | none => .next s
  | some (o, a) =>
    if o.kind ≠ .store ∨ a.loc < 2 ∨ 3 < a.loc ∨ a.stage ≠ 1 then .next s
    else
      let s := (s.storeHere a).noteRegionWct crew a.region s.now
      .next (s.modCrew crew fun c =>
        (c.modOp op fun o => o.setAcc k { a with stage := 2, wct := s.now }).mapLanes (s.pairLanes crew a.lane) fun _ t => { t with wctlast := max t.wctlast s.now })

/-- STORE_ACK (R70): a store's or an atomic's WCT returns to its thread. -/
def execStoreAck (crew op k : Nat) (s : State) : Out :=
  match (s.crew crew).accOf op k with
  | none => .next s
  | some (o, a) =>
    if (o.kind ≠ .store ∧ o.kind ≠ .atomic) ∨ a.stage ≠ 1 ∨ (2 ≤ a.loc ∧ a.loc ≤ 3) then .next s
    else
      let s := if a.space = 0 then s.noteRegionWct crew a.region a.wct else s
      .next (s.modCrew crew fun c =>
        (c.modOp op fun o => o.setAcc k { a with stage := 2 }).mapLanes (s.pairLanes crew a.lane) fun _ t => { t with wctlast := max t.wctlast a.wct })

/-- ST_RETIRE (R78): every access has been acknowledged, the checks are done and, for `.g`, module time has passed each WCT. -/
def execStRetire (crew op : Nat) (s : State) : Out :=
  match (s.crew crew).findOp op with
  | none => .next s
  | some o =>
    if (o.kind ≠ .store ∧ o.kind ≠ .atomic ∧ o.kind ≠ .push) ∨ !o.checked ∨ (o.kind = .atomic ∧ !o.dests.isEmpty ∧ o.extra = 0)
        ∨ o.accs.any fun a => decide (a.stage < 2) || (decide (a.space = 0) && decide (s.now ≤ a.wct)) then .next s
    else .next ((s.modCrew crew fun c => c.modOp op fun o => { o with done := true }).retire crew)

end Sys2Proof.Machine
end

