-- ==== Sys2Proof/Machine/Atomic.lean ====
section
/-! DEFINITION. Atomic.lean: ATOM, CAS and FATOM (R40, R79, R80, R268), performed at a bank or at home, and the return of their prior
values. -/

namespace Sys2Proof.Machine

/-- The sum of two values of a format in RNE, subnormals kept, canonical NaN, no flags (R127). -/
def addRne (f : Fmt) (a b : Nat) : Nat := (finish f 0 false false (addFv 0 (f.decode a) (f.decode b))).1

/-- The sum of the halves of two words in BF16. -/
def addBf16x2 (a b : Nat) : Nat := addRne fmtBf16 (a % 65536) (b % 65536) + addRne fmtBf16 (a / 65536) (b / 65536) * 65536

/-- The new value of an atomic on `n` bits. `op`: the ATOM variant, 16 for CAS, 32 plus the FATOM variant; `c` is CAS's new value. -/
def atomNew (op n old b c : Nat) : Nat :=
  match op with
  | 0 => (old + b) % 2 ^ n
  | 1 => if sval n old ≤ sval n b then old else b
  | 2 => if sval n b ≤ sval n old then old else b
  | 3 => min old b
  | 4 => max old b
  | 5 => Nat.land old b
  | 6 => Nat.lor old b
  | 7 => Nat.xor old b
  | 8 => b
  | 9 => if b ≤ old then 0 else old + 1
  | 10 => if old = 0 ∨ b < old then b else old - 1
  | 16 => if old = b then c else old
  | 32 => addRne fmtF32 old b
  | 33 => addBf16x2 old b
  | 34 => (fminmax false 0 0 old b).1
  | _ => (fminmax true 0 0 old b).1

/-- What an atomic computes from poisoned data is poisoned; an exchange writes data that is not (R53). -/
def keepsPoison (op : Nat) : Bool := decide (op ≠ 8)

/-- An operand of an operation for a lane. -/
def laneVal (l : List (Nat × DWord)) (lane : Nat) : Nat := ((l.find? fun p => decide (p.1 = lane)).map (·.2.toNat)).getD 0

/-- The bytes that an atomic leaves, given the bytes it finds. -/
def atomBytes (o : Op) (a : Acc) (old : List Byte) : List Byte :=
  let n := a.keys.length
  leBytes n (atomNew o.fmt (8 * n) (leNat old) (laneVal o.b a.lane) (laneVal o.cval a.lane))

/-- An atomic performed at its bank (R40, R69). -/
def State.atomHere (s : State) (o : Op) (a : Acc) : State × Acc :=
  let old := a.keys.map s.mem.byte
  let pois := s.poisonWords a.keys
  let bad := a.keys.filter s.poisoned
  let s' := s.performBytes (a.keys.zip (atomBytes o a old))
  (if keepsPoison o.fmt then s'.poisonKeys bad else s', { a with data := old, pois := pois, stage := 1, wct := s.now })

/-- The atomics of the active lanes (R268). `code`: the operation of `atomNew`. -/
def atomic (s : State) (sh : Shape) (i : XF) (code : Nat) (wide : Bool) : Out :=
  outsideRegions s i fun s => guarded s sh i fun x c act =>
    let k := x.crew
    let h := c.inHandler x.lanes
    let sp := bits i.wN 2 0
    let n := if wide then 8 else 4
    let f : MemForm := { sp := sp, size := if wide then 5 else 4, disp := 0 }
    let addr := memAddr c h i f
    let b := fun l => if wide then c.rdW h i.sb i.b.toNat l else (c.rdV h i.qp i.sb i.b.toNat l).setWidth 64
    let cv := fun l => if code ≠ 16 then 0#64 else if wide then c.rdW h i.sc i.c.toNat l else (c.rdV h i.qp i.sc i.c.toNat l).setWidth 64
    let lanes := (memLanes (sh.uniform i) act).filter fun l => !s.protectedCrew k || decide (l % 2 = 0)
    if c.queue.isSome && decide (sp ≠ 0) then .error (illegal illUse act)
    else if act = 0 then .ok (s.advance x)
    else if State.acqPending c act || !c.clsRoom 1 then .error .hold
    else if bitOf i.wN 4 && (c.openChecks act || (lanesOf act).any fun l => !s.fenceOk k l (bits i.wN 6 5)) then .error .hold
    else if s.protectedCrew k && State.pairsDiffer act (fun l => [addr l, (b l).toNat, (cv l).toNat]) then .ok (s.mismatch x)
    else
      let r := s.accesses k sp n .atom addr lanes
      if !r.2.isEmpty then s.missed x r.2
      else
        let vals := lanes.map fun l => (l, b l)
        let cvals := lanes.map fun l => (l, cv l)
        let (c, dests) := if i.o1 then ((s.popped x sh i act).crew k, []) else ((s.popped x sh i act).crew k).destinations sh i x.pc act <|
          if i.sd then sizeDests f.size true i.d.toNat 0 else (lanesOf act).flatMap fun l => sizeDests f.size false i.d.toNat l
        let o : Op := { id := 0, kind := .atomic, cls := 1, pc := x.pc, lanes := act, dests := dests, fmt := code, d := i.d.toNat, sd := i.sd,
                        w := wide, b := vals, cval := cvals, acq := bitOf i.wN 3, issued := s.ctr, masked := h }
        let s := (if sp = 0 then s.translated k (r.1.map (·.addr)) else s).setCrew k c
        let (s, accs) := r.1.foldl (fun st a =>
          if sp = 0 then (st.1.invalL1 (coreOf k) (st.1.crewPart k) (Acc.sector a), st.2 ++ [a])
          else
            let p := st.1.atomHere o a
            (p.1, st.2 ++ [p.2])) (s, [])
        let c := (s.crew k).addOp { o with accs := accs }
        .ok ((s.setCrew k (c.markEmpty (c.realDests h dests))).advance x)

def execAtom (i : XF) (s : State) : Out := atomic s (Instr.atom i).shape i i.vN i.o0
def execCas (i : XF) (s : State) : Out := atomic s (Instr.cas i).shape i 16 i.o0
def execFatom (i : XF) (s : State) : Out := atomic s (Instr.fatom i).shape i (32 + i.vN) false

/-- ATOMIC_AT_HOME (R67, R79): one access to the sector, after every store accepted before it, pending or performed. -/
def execAtomicAtHome (crew op k : Nat) (s : State) : Out :=
  let c := s.crew crew
  match c.accOf op k with
  | none => .next s
  | some (o, a) =>
    let sec := Acc.sector a
    let key := a.keys.headD 0
    if o.kind ≠ .atomic ∨ a.space ≠ 0 ∨ a.stage ≠ 0 ∨ s.locked sec ∨ !s.inTurn crew o k sec ∨ c.frozen then .next s
    else if !s.inGrants (s.crewPart crew) key then .next (s.freezeCrew crew)
    else if 2048 ≤ s.pendCount (homeDie key) then .next s
    else
      let v := s.homeView 0 sec true
      let old := a.keys.map v.mem.byte
      let r := s.acceptStore (s.holderOf crew) (s.crewPart crew) (s.launchNo crew) sec (a.keys.zip (atomBytes o a old))
      let bad := a.keys.filter v.poisoned
      let s := if keepsPoison o.fmt then r.1.poisonKeys bad else r.1
      .next (s.modCrew crew fun c => c.modOp op fun o => o.setAcc k { a with data := old, pois := v.poisonWords a.keys, stage := 1, wct := r.2 })

/-! ## Long-latency results (R145, R217, R249, R268) -/

/-- The writes of an atomic's prior values: in a protected launch to both lanes of each pair (R154). -/
def atomWrites (c : Crew) (prot : Bool) (o : Op) : Crew :=
  o.accs.foldl (fun c a =>
    let go := fun c l => c.fillAll o.masked (leNat a.data) a.pois (laneDests o.dests (if o.w then 5 else 4) o.sd o.d l)
    if o.sd then go c 0
    else if prot then go (go c a.lane) (a.lane + 1)
    else go c a.lane) c

/-- LONG_LATENCY_RESULT: the result of an SFU operation, a division, a pop or another long-latency instruction is written and its registers
are FULL; an atomic's values come once every lane's has returned. -/
def execLongLatencyResult (crew op : Nat) (s : State) : Out :=
  match (s.crew crew).findOp op with
  | none => .next s
  | some o =>
    if o.kind = .longLat ∨ o.kind = .pop then
      .next ((s.modCrew crew fun c => (c.applyWrites o.masked o.writes).modOp op fun o => { o with done := true }).retire crew)
    else if o.kind = .atomic ∧ o.extra = 0 ∧ !o.dests.isEmpty ∧ o.accs.all (fun a => decide (1 ≤ a.stage)) then
      .next (s.modCrew crew fun c => (atomWrites c (s.protectedCrew crew) o).modOp op fun o => { o with extra := 1 })
    else .next s

end Sys2Proof.Machine
end

