-- ==== Sys2Proof/Machine/Int.lean ====
section
/-! DEFINITION. Int.lean: the integer instructions (11 R210 to R220) and the moves (R213, R214). -/

namespace Sys2Proof.Machine

/-! ## Operations at width n on numbers below 2^n -/

def bitsOf (w : Bool) : Nat := if w then 64 else 32

/-- Signed saturation to n bits (R212). -/
def satS (n : Nat) (r : Int) : Nat :=
  let hi : Int := (2 : Int) ^ (n - 1) - 1
  let lo : Int := -((2 : Int) ^ (n - 1))
  wrapInt n (if r < lo then lo else if hi < r then hi else r)

/-- Unsigned saturation to n bits (R212). -/
def satU (n : Nat) (r : Int) : Nat :=
  if r < 0 then 0 else if (2 : Int) ^ n - 1 < r then 2 ^ n - 1 else r.toNat

/-- The operands read signed or unsigned, an exact operation, and the result wrapped or saturated (R210, R212). -/
def intOp (n : Nat) (sat uns : Bool) (f : Int → Int → Int) (a b : Nat) : Nat :=
  let rd := fun x : Nat => if sat && uns then (x : Int) else sval n x
  let r := f (rd a) (rd b)
  if !sat then wrapInt n r else if uns then satU n r else satS n r

/-- SHL: zeros enter; 0 when the count reaches n (R212). -/
def shlOp (n a c : Nat) : Nat := if n ≤ c then 0 else (a * 2 ^ c) % 2 ^ n
/-- SHR (R212). -/
def shrOp (n a c : Nat) : Nat := if n ≤ c then 0 else a / 2 ^ c
/-- SRA: copies of the sign enter (R212). -/
def sraOp (n a c : Nat) : Nat := wrapInt n (sval n a / (2 : Int) ^ (if n ≤ c then n else c))
/-- ROTL by c mod n (R216). -/
def rotlOp (n a c : Nat) : Nat := (a * 2 ^ (c % n)) % 2 ^ n + a / 2 ^ (n - c % n)

/-- IDIV and IREM (R217): truncation towards zero; division by zero gives all ones and the dividend. -/
def idivOp (n : Nat) (uns : Bool) (a b : Nat) : Nat :=
  if b = 0 then 2 ^ n - 1
  else if uns then a / b else wrapInt n ((sval n a).tdiv (sval n b))
def iremOp (n : Nat) (uns : Bool) (a b : Nat) : Nat :=
  if b = 0 then a
  else if uns then a % b else wrapInt n ((sval n a).tmod (sval n b))

/-- The number of leading zeros (R216). -/
def clzOp (n a : Nat) : Nat := n - bitLen a
/-- The number of set bits. -/
def popcOp (n a : Nat) : Nat := ((List.range n).filter fun i => bitOf a i).length
/-- Bit i moved to bit n - 1 - i. -/
def brevOp (n a : Nat) : Nat := (List.range n).foldl (fun r i => if bitOf a i then r + 2 ^ (n - 1 - i) else r) 0

/-- BFX (R218). -/
def bfxOp (n : Nat) (sgn : Bool) (a pos len : Nat) : Nat :=
  let p := min pos n
  let l := min len (n - p)
  if l = 0 then 0
  else
    let f := a / 2 ^ p % 2 ^ l
    if sgn then wrapInt n (sval l f) else f

/-- BFI (R218). -/
def bfiOp (n a b pos len : Nat) : Nat :=
  let p := min pos n
  let l := min len (n - p)
  if l = 0 then a else a - (a / 2 ^ p % 2 ^ l) * 2 ^ p + (b % 2 ^ l) * 2 ^ p

/-- The comparison of an ICMP variant (R219). -/
def icmpOp (n v a b : Nat) : Bool :=
  match v with
  | 0 => a = b
  | 1 => a ≠ b
  | 2 => sval n a < sval n b
  | 3 => sval n a ≤ sval n b
  | 4 => sval n b < sval n a
  | 5 => sval n b ≤ sval n a
  | 6 => a < b
  | 7 => a ≤ b
  | 8 => b < a
  | _ => b ≤ a

/-! ## The two-operand instructions -/

/-- A B-form with v operands, which runs as its X-form under p7 (R192, R193). -/
def intB (s : State) (sh : Shape) (d a b : BitVec 8) (f : Nat → Nat → Nat) : Out :=
  let i := XF.ofB d a b
  lanewise s sh i false false fun c h l => f (c.rdV h false false a.toNat l).toNat (c.rdV h false false b.toNat l).toNat

/-- An X-form with A and B at width W. -/
def intX (s : State) (sh : Shape) (i : XF) (f : Nat → Nat → Nat → Nat) : Out :=
  lanewise s sh i i.o0 false fun c h l => f (bitsOf i.o0) (c.rdN h i.qp i.o0 i.sa i.a.toNat l) (c.opB h i i.o0 l)

/-- An X-form whose B operand is a count: a v or s register read unsigned, or word 2 (R210, R212). -/
def countX (s : State) (sh : Shape) (i : XF) (f : Nat → Nat → Nat → Nat) : Out :=
  lanewise s sh i i.o0 false fun c h l =>
    f (bitsOf i.o0) (c.rdN h i.qp i.o0 i.sa i.a.toNat l) (if i.imm then i.wN else (c.rdV h i.qp i.sb i.b.toNat l).toNat)

/-- An X-form with one source A. -/
def intX1 (s : State) (sh : Shape) (i : XF) (wd long : Bool) (f : Nat → Nat → Nat) : Out :=
  lanewise s sh i wd long fun c h l => f (bitsOf i.o0) (c.rdN h i.qp i.o0 i.sa i.a.toNat l)

def execIadd (d a b : BitVec 8) (s : State) : Out := intB s (Instr.iadd d a b).shape d a b (intOp 32 false false (· + ·))
def execIaddX (x : XF) (s : State) : Out :=
  intX s (Instr.iaddX x).shape x fun n => intOp n x.o1 (x.c.getLsbD 1) (· + ·)
def execIsub (d a b : BitVec 8) (s : State) : Out := intB s (Instr.isub d a b).shape d a b (intOp 32 false false (· - ·))
def execIsubX (x : XF) (s : State) : Out :=
  intX s (Instr.isubX x).shape x fun n => intOp n x.o1 (x.c.getLsbD 1) (· - ·)
def execImul (d a b : BitVec 8) (s : State) : Out := intB s (Instr.imul d a b).shape d a b (intOp 32 false false (· * ·))
def execImulX (x : XF) (s : State) : Out :=
  intX s (Instr.imulX x).shape x fun n => intOp n x.o1 (x.c.getLsbD 1) (· * ·)
def execAnd (d a b : BitVec 8) (s : State) : Out := intB s (Instr.and d a b).shape d a b (· &&& ·)
def execAndX (x : XF) (s : State) : Out := intX s (Instr.andX x).shape x fun _ => (· &&& ·)
def execOr (d a b : BitVec 8) (s : State) : Out := intB s (Instr.or d a b).shape d a b (· ||| ·)
def execOrX (x : XF) (s : State) : Out := intX s (Instr.orX x).shape x fun _ => (· ||| ·)
def execXor (d a b : BitVec 8) (s : State) : Out := intB s (Instr.xor d a b).shape d a b (· ^^^ ·)
def execXorX (x : XF) (s : State) : Out := intX s (Instr.xorX x).shape x fun _ => (· ^^^ ·)
def execShl (d a b : BitVec 8) (s : State) : Out := intB s (Instr.shl d a b).shape d a b (shlOp 32)
def execShlX (x : XF) (s : State) : Out := countX s (Instr.shlX x).shape x shlOp
def execShr (d a b : BitVec 8) (s : State) : Out := intB s (Instr.shr d a b).shape d a b (shrOp 32)
def execShrX (x : XF) (s : State) : Out := countX s (Instr.shrX x).shape x shrOp
def execSra (d a b : BitVec 8) (s : State) : Out := intB s (Instr.sra d a b).shape d a b (sraOp 32)
def execSraX (x : XF) (s : State) : Out := countX s (Instr.sraX x).shape x sraOp

/-- R212, OPC 0x0A in B-form: B is a signed 8-bit immediate. -/
def execIaddImm (d a b : BitVec 8) (s : State) : Out :=
  lanewise s (Instr.iaddImm d a b).shape (XF.ofB d a b) false false fun c h l =>
    wrapInt 32 (((c.rdV h false false a.toNat l).toNat : Int) + b.toInt)

/-- R212, OPC 0x0A in X-form: word 2 is a signed 32-bit immediate. -/
def execIaddImmX (x : XF) (s : State) : Out :=
  lanewise s (Instr.iaddImmX x).shape x x.o0 false fun c h l =>
    intOp (bitsOf x.o0) x.o1 (x.c.getLsbD 1) (· + ·) (c.rdN h x.qp x.o0 x.sa x.a.toNat l) (wrapInt (bitsOf x.o0) x.w2.toInt)

/-! ## Moves (R213, R214) -/

def execMov (d a : BitVec 8) (s : State) : Out :=
  lanewise s (Instr.mov d a).shape (XF.ofB d a 0) false false fun c h l => (c.rdV h false false a.toNat l).toNat

/-- With SD = 1 and a v source the s register takes the value of the lowest-numbered active lane (R213). -/
def execMovX (x : XF) (s : State) : Out :=
  lanewise s (Instr.movX x).shape x x.o0 false fun c h l => c.rdN h x.qp x.o0 x.sa x.a.toNat l

def execMovi (d : BitVec 8) (imm : BitVec 16) (s : State) : Out :=
  lanewise s (Instr.movi d imm).shape (XF.ofB d 0 0) false false fun _ _ _ => wrapInt 32 imm.toInt

def execMoviX (x : XF) (s : State) : Out := lanewise s (Instr.moviX x).shape x false false fun _ _ _ => x.wN

def execMoviB64 (d : BitVec 8) (lit : BitVec 64) (s : State) : Out :=
  lanewise s (Instr.moviB64 d lit).shape (XF.ofB d 0 0) true false fun _ _ _ => lit.toNat

def execMoviB64X (x : XF) (lit : BitVec 64) (s : State) : Out :=
  lanewise s (Instr.moviB64X x lit).shape x true false fun _ _ _ => lit.toNat

/-! ## The INT group (R216 to R220) -/

/-- R216: bits 2n-1:n of the exact product, signed, unsigned, or signed by unsigned. -/
def execImulh (x : XF) (s : State) : Out :=
  intX s (Instr.imulh x).shape x fun n a b =>
    let a' : Int := if x.vN = 1 then (a : Int) else sval n a
    let b' : Int := if x.vN = 0 then sval n b else (b : Int)
    wrapInt n (a' * b' / (2 : Int) ^ n)

/-- R216: A times B plus C, wrapped or saturated as R212. -/
def execImad (x : XF) (s : State) : Out :=
  lanewise s (Instr.imad x).shape x x.o0 false fun c h l =>
    let n := bitsOf x.o0
    let rd := fun v : Nat => if x.vN = 2 then (v : Int) else sval n v
    let r := rd (c.rdN h x.qp x.o0 x.sa x.a.toNat l) * rd (c.rdN h x.qp x.o0 x.sb x.b.toNat l)
      + rd (c.rdN h x.qp x.o0 x.sc x.c.toNat l)
    if x.vN = 0 then wrapInt n r else if x.vN = 1 then satS n r else satU n r

/-- R217: long-latency. -/
def execIdiv (x : XF) (s : State) : Out :=
  lanewise s (Instr.idiv x).shape x x.o0 true fun c h l =>
    idivOp (bitsOf x.o0) (decide (x.vN = 1)) (c.rdN h x.qp x.o0 x.sa x.a.toNat l) (c.opB h x x.o0 l)
def execIrem (x : XF) (s : State) : Out :=
  lanewise s (Instr.irem x).shape x x.o0 true fun c h l =>
    iremOp (bitsOf x.o0) (decide (x.vN = 1)) (c.rdN h x.qp x.o0 x.sa x.a.toNat l) (c.opB h x x.o0 l)

def execImin (x : XF) (s : State) : Out :=
  intX s (Instr.imin x).shape x fun n a b => if (if x.vN = 1 then decide (b < a) else decide (sval n b < sval n a)) then b else a
def execImax (x : XF) (s : State) : Out :=
  intX s (Instr.imax x).shape x fun n a b => if (if x.vN = 1 then decide (a < b) else decide (sval n a < sval n b)) then b else a
def execIabs (x : XF) (s : State) : Out :=
  intX1 s (Instr.iabs x).shape x x.o0 false fun n a =>
    let r : Int := (sval n a).natAbs
    if x.vN = 1 then satS n r else wrapInt n r
def execIneg (x : XF) (s : State) : Out :=
  intX1 s (Instr.ineg x).shape x x.o0 false fun n a => if x.vN = 1 then satS n (-(sval n a)) else wrapInt n (-(sval n a))
def execAndn (x : XF) (s : State) : Out := intX s (Instr.andn x).shape x fun n a b => a &&& (2 ^ n - 1 - b)
def execNot (x : XF) (s : State) : Out := intX1 s (Instr.not x).shape x x.o0 false fun n a => 2 ^ n - 1 - a
def execRotl (x : XF) (s : State) : Out := countX s (Instr.rotl x).shape x rotlOp
def execClz (x : XF) (s : State) : Out := intX1 s (Instr.clz x).shape x false false clzOp
def execPopc (x : XF) (s : State) : Out := intX1 s (Instr.popc x).shape x false false popcOp
def execBrev (x : XF) (s : State) : Out := intX1 s (Instr.brev x).shape x x.o0 false brevOp

/-- The position and length of BFX and BFI: C bits 7:0 and 15:8, or word 2 (R218). -/
def fieldPos (c : Crew) (h : Bool) (x : XF) (inC : Bool) (l : Nat) : Nat × Nat :=
  let v := if inC then (c.rdV h x.qp x.sc x.c.toNat l).toNat else x.wN
  (bits v 7 0, bits v 15 8)

def execBfx (x : XF) (s : State) : Out :=
  lanewise s (Instr.bfx x).shape x x.o0 false fun c h l =>
    let f := fieldPos c h x (decide (x.vN < 2)) l
    bfxOp (bitsOf x.o0) (decide (x.vN % 2 = 1)) (c.rdN h x.qp x.o0 x.sa x.a.toNat l) f.1 f.2
def execBfi (x : XF) (s : State) : Out :=
  lanewise s (Instr.bfi x).shape x x.o0 false fun c h l =>
    let f := fieldPos c h x (decide (x.vN = 0)) l
    bfiOp (bitsOf x.o0) (c.rdN h x.qp x.o0 x.sa x.a.toNat l) (if x.vN = 0 then c.rdN h x.qp x.o0 x.sb x.b.toNat l else c.opB h x x.o0 l) f.1 f.2

/-- R216: A where the predicate that C names is true, else B. -/
def execSel (x : XF) (s : State) : Out :=
  lanewise s (Instr.sel x).shape x x.o0 false fun c h l =>
    if (c.thread l).pred x.c.toNat then c.rdN h x.qp x.o0 x.sa x.a.toNat l else c.rdN h x.qp x.o0 x.sb x.b.toNat l

/-- R219. -/
def execIcmp (x : XF) (s : State) : Out :=
  lanewiseP s (Instr.icmp x).shape x fun c h l =>
    icmpOp (bitsOf x.o0) x.vN (c.rdN h x.qp x.o0 x.sa x.a.toNat l) (c.opB h x x.o0 l)

/-- R220. -/
def execLea (x : XF) (s : State) : Out :=
  lanewise s (Instr.lea x).shape x true false fun c h l =>
    let b := BitVec.ofNat 32 (c.opB h x false l)
    let e : Int := if x.vN = 0 then b.toInt else (b.toNat : Int)
    wrapInt 64 (((c.rdW h x.sa x.a.toNat l).toNat : Int) + e * (2 : Int) ^ (bits x.wN 3 0))

/-- R220: the four byte products, signed, unsigned, or signed by unsigned. -/
def execIdot4 (x : XF) (s : State) : Out :=
  lanewise s (Instr.idot4 x).shape x false false fun c h l =>
    let a := (c.rdV h x.qp x.sa x.a.toNat l).toNat
    let b := (c.rdV h x.qp x.sb x.b.toNat l).toNat
    let k := (c.rdV h x.qp x.sc x.c.toNat l).toNat
    let byte := fun (sgn : Bool) (v e : Nat) => if sgn then sval 8 (v / 256 ^ e) else ((v / 256 ^ e % 256 : Nat) : Int)
    let p := fun e => byte (decide (x.vN ≠ 1)) a e * byte (decide (x.vN = 0)) b e
    wrapInt 32 ((k : Int) + p 0 + p 1 + p 2 + p 3)

end Sys2Proof.Machine
end

