-- ==== Sys2Proof/Machine/Sync.lean ====
section
/-! DEFINITION. Sync.lean: fences, drains and waits (R72, R93, R262, R263, R269, R270), block barriers (R271), the instructions of arrival
and slot barriers (R115 to R119, R272), and the events that end waits (R267). -/

namespace Sys2Proof.Machine

/-! ## Waits -/

def State.finishWait (s : State) (k : Nat) (m : Lanes) (val : Option Word) : State := s.modCrew k fun c => c.finishAll m val

/-- The group waits as one; `act` were active. -/
def State.park (s : State) (x : Ctx) (act : Lanes) (sh : Shape) (i : XF) (tmo : Nat) (f : Nat → WaitKind) : State :=
  s.waitFor x x.lanes fun l => { kind := f l, deadline := if tmo = 0 then none else some (s.now + 2 ^ (tmo + 3)), lanes := act, d := waitDest sh i, sd := i.sd }

/-- A status word is written to D, the same in every active lane (R267). -/
def State.answer (s : State) (x : Ctx) (sh : Shape) (i : XF) (act : Lanes) (w : Word) : Except Stop State :=
  .ok (writeD s x sh i act false false fun _ => w.toNat)

/-- The deadline of a timeout has come. -/
def Blocked.due (b : Blocked) (now : Nat) : Bool :=
  match b.deadline with
  | some t => decide (t ≤ now)
  | none => false

/-! ## FENCE and SDRAIN (R72, R262, R263) -/

/-- A wait without a timeout and without a result: it completes at once where its condition holds. A pending store fault is taken first
(R261, R262). -/
def stallUntil (s : State) (sh : Shape) (i : XF) (kind : WaitKind) (ok : State → Nat → Nat → Bool) : Out :=
  outsideRegions s i fun s => guarded s sh i fun x c act =>
    if c.openChecks act then .error .hold
    else if (lanesOf act).all fun l => ok s x.crew l then .ok (s.advance x)
    else .ok (s.park x act sh XF.zero 0 fun _ => kind)

def execFence (scope : BitVec 2) (s : State) : Out :=
  stallUntil s (Instr.fence scope).shape .zero (.fence scope.toNat) fun s k l => s.fenceOk k l scope.toNat
def execFenceX (i : XF) (s : State) : Out :=
  stallUntil s (Instr.fenceX i).shape i (.fence (i.d.toNat % 4)) fun s k l => s.fenceOk k l (i.d.toNat % 4)
def execSdrain (i : XF) (s : State) : Out := stallUntil s (Instr.sdrain i).shape i .sdrain fun s k l => s.drained k l

/-! ## WAITC (R95, R112, R270) -/

def execWaitc (i : XF) (s : State) : Out :=
  outsideRegions s i fun s => guarded s (Instr.waitc i).shape i fun x c act =>
    let tmo := bits i.cN 4 0
    if act = 0 then .ok (s.advance x)
    else if c.outstanding i.vN ≤ i.wN then s.answer x (Instr.waitc i).shape i act (statusWord 0 0 stOk)
    else if tmo = 0 then s.answer x (Instr.waitc i).shape i act (statusWord 0 0 stTimeout)
    else .ok (s.park x act (Instr.waitc i).shape i tmo fun _ => .waitc i.vN i.wN c.nextOp)

/-! ## Block barriers (R271) -/

def State.barEnt (s : State) (bk id : Nat) : Option BarEnt := (s.core (s.block bk).core).bars.find? fun e => decide (e.block = bk ∧ e.id = id)

def State.setBar (s : State) (bk : Nat) (e : BarEnt) : State :=
  s.modCore (s.block bk).core fun c => { c with bars := (c.bars.filter fun o => !decide (o.block = bk ∧ o.id = e.id)) ++ [e] }

/-- The threads of a crew that stand at a BAR naming `id`. -/
def Crew.atBar (c : Crew) (id : Nat) : Lanes :=
  c.threads.foldl (fun m p => match p.2.blocked with
    | some b => (match b.kind with
      | .bar j => if p.2.live ∧ j = id then m ||| oneLane p.1 else m
      | _ => m)
    | none => m) 0

/-- The crews of a mask, by their index in the block, and every thread that stands at the barrier, complete with a status. -/
def State.barRelease (s : State) (bk id : Nat) (mask : BitVec 16) (gen st : Nat) : State :=
  (s.block bk).crews.foldl (fun s k =>
    if mask.getLsbD (s.crew k).idx then
      s.modCrew k fun c => { (c.finishAll (c.atBar id) (some (statusWord gen 0 st))) with barAt := none }
    else s) s

/-- A crew arrives once every live thread of it stands at the BAR and has met a `.c` FENCE; with COUNT arrivals the barrier releases. -/
def State.barArrive (s : State) (k id : Nat) : State :=
  let c := s.crew k
  let bk := c.block
  match s.barEnt bk id with
  | none => s
  | some e =>
    if e.state ≠ 1 ∨ e.mask.getLsbD c.idx ∨ c.live &&& ~~~c.atBar id ≠ 0 ∨ c.live = 0 then s
    else if !(lanesOf c.live).all (fun l => s.fenceOk k l 0) then s
    else
      let mask := e.mask ||| (1#16 <<< c.idx)
      let n := ((List.range 16).filter mask.getLsbD).length
      if n < e.count then s.setBar bk { e with mask := mask }
      else
        let gen := (e.gen + 1) % 65536
        (s.setBar bk { e with mask := 0, gen := gen }).barRelease bk id mask gen stOk

/-- A thread that stands at a BAR: on a KILLED barrier it completes, else its crew arrives where it can. The threads of a crew that has not arrived
are not released with the others (R271). -/
def State.barSettle (s : State) (k lane id : Nat) : State :=
  match s.barEnt (s.crew k).block id with
  | none => s
  | some e =>
    let m := (s.crew k).waitMates lane
    if e.state = 2 then s.finishWait k m (some (statusWord e.gen 0 stKilled))
    else s.barArrive k id

/-- A BAR's timeout: the crew's arrival is withdrawn and its threads complete. -/
def State.barTimeout (s : State) (k id : Nat) : State :=
  let c := s.crew k
  match s.barEnt c.block id with
  | none => s
  | some e =>
    (s.setBar c.block { e with mask := e.mask &&& ~~~(1#16 <<< c.idx) }).modCrew k fun c =>
      { (c.finishAll (c.atBar id) (some (statusWord e.gen 0 stTimeout))) with barAt := none }

def execBar (i : XF) (s : State) : Out :=
  outsideRegions s i fun s => guarded s (Instr.bar i).shape i fun x c act =>
    let id := bits i.wN 4 0
    let tmo := bits i.cN 4 0
    if act = 0 then .ok (s.advance x)
    else match s.barEnt c.block id with
      | none => s.answer x (Instr.bar i).shape i act (statusWord 0 0 stForm)
      | some e =>
        if e.state = 0 then s.answer x (Instr.bar i).shape i act (statusWord e.gen 0 stForm)
        else if e.state = 2 then s.answer x (Instr.bar i).shape i act (statusWord e.gen 0 stKilled)
        else
          let t0 := if c.atBar id = 0 then s.now else c.barAt.getD s.now
          let wait := fun _ : Nat => ({ kind := .bar id, deadline := some (t0 + 2 ^ (tmo + 3)), lanes := act, d := waitDest (Instr.bar i).shape i, sd := i.sd } : Blocked)
          let s := ((s.waitFor x x.lanes wait).modCrew x.crew fun c => { c with barAt := some t0 }).barArrive x.crew id
          .ok (if tmo = 0 ∧ (s.crew x.crew).atBar id ≠ 0 then s.barTimeout x.crew id else s)

def execBarinit (i : XF) (s : State) : Out :=
  outsideRegions s i fun s => guarded s (Instr.barinit i).shape i fun x c act =>
    let id := bits i.wN 4 0
    let count := bits i.wN 12 8
    if act = 0 then .ok (s.advance x)
    else
      let old := s.barEnt c.block id
      let e := old.getD { block := c.block, id := id }
      if old.isNone ∧ 32 ≤ (s.core (coreOf x.crew)).bars.length then s.answer x (Instr.barinit i).shape i act (statusWord 0 0 stFull)
      else if e.mask ≠ 0 then s.answer x (Instr.barinit i).shape i act (statusWord e.gen 0 stBusy)
      else if count = 0 ∨ 16 < count then s.answer x (Instr.barinit i).shape i act (statusWord e.gen 0 stForm)
      else
        let gen := (e.gen + 1) % 65536
        (s.setBar c.block { e with state := 1, count := count, gen := gen, mask := 0 }).answer x (Instr.barinit i).shape i act (statusWord gen 0 stOk)

def execBarkill (i : XF) (s : State) : Out :=
  outsideRegions s i fun s => guarded s (Instr.barkill i).shape i fun x c act =>
    let id := bits i.wN 4 0
    if act = 0 then .ok (s.advance x)
    else match s.barEnt c.block id with
      | none => s.answer x (Instr.barkill i).shape i act (statusWord 0 0 stForm)
      | some e =>
        ((s.setBar c.block { e with state := 2, mask := 0 }).barRelease c.block id 0xFFFF#16 e.gen stKilled).answer x (Instr.barkill i).shape i act
          (statusWord e.gen 0 stOk)

/-! ## Waits on arrival and slot barriers (R117, R123) -/

namespace State

/-- The status of a wait that found `cond`. -/
def abStatus (s : State) (r : AbRef) (h cond none : Nat) : Word :=
  let hdr := s.abHdr h false r
  statusWord hdr.gen hdr.err (match cond with
    | 1 => stOk
    | 2 => stError
    | 3 => stKilled
    | _ => none)

/-- A waiting thread's ABWAIT ends where its condition holds, with its group; `late`: it has timed out. -/
def abSettle (s : State) (k lane : Nat) (late : Bool) : State :=
  let c := s.crew k
  match (c.thread lane).blocked with
  | none => s
  | some b =>
    match b.kind with
    | .abwait sp addr all first mask =>
      let r := s.abRefOf k sp addr
      let h := s.holderOf k
      let cond := s.abCond h r (State.abChunks all first (s.abHdr h false r).nchunk mask)
      if (cond = 0 && !late) || !s.abReady r none then s
      else
        let m := c.waitMates lane
        let w := s.abStatus r h cond stTimeout
        ((s.finishWait k m (some w)).abWaiters k r (m &&& b.lanes) true).abTidy r
    | _ => s

/-- The waiters of the crews look again after an object has changed (R115, R117). -/
def abWake (s : State) : State :=
  s.ex.crews.foldl (fun s p => p.2.threads.foldl (fun s t => if t.2.blocked.isSome then s.abSettle p.1 t.1 false else s) s) s

end State

/-! ## The instructions of arrival barriers (R272) -/

/-- The space of the OWN code: 0 `.g`, 1 `.c`, 2 `.x`, 3 a slot. -/
def abSpace (own : Nat) : Nat := if own < 2 then own else own + 1

/-- The address, or the slot number, of the lowest active lane. -/
def abAddr (c : Crew) (h : Bool) (i : XF) (act : Lanes) : Nat :=
  match lowLane act with
  | none => 0
  | some l => c.rdN h i.qp (decide (i.ownN = 0)) i.sa i.a.toNat l

/-- Why a crew may not reach the bytes of an object: the detail of the fault (R114, R272). -/
def State.abFault (s : State) (k sp addr n : Nat) : Option Nat :=
  match s.rangeFault k sp addr n .barrier with
  | some f => some f
  | none =>
    if sp ≠ 0 then none
    else match s.place k 0 0 addr 1 .barrier with
      | .ok p => if p.loc = 2 ∨ p.loc = 3 then some badAtom else none
      | .error (.fault f) => some f
      | .error _ => none

/-- The instruction waits: a COMMIT holds a sector of the object, accesses of the holder to one are on their way, or the homes do not take the update of
its first `n` bytes (R68, R75, R90). -/
def State.abBusy (s : State) (k : Nat) (r : AbRef) (n : Nat := 64) : Bool :=
  let hdr := s.abHdr 0 true r
  let blocks := fun (n : Nat) => s.abSectors r ((List.range (n / 64)).map (64 * ·))
  (blocks (max n (abBytes hdr.nchunk hdr.ncont))).any (fun sec =>
      s.locked sec || s.onTheWay (coreOf k) (s.crewPart k) sec (fun _ _ _ => true) false)
    || !s.homeTakes (blocks n)

/-- The slots of a crew's pan: none on a core that its launch was not granted, where it has no pan (R121, R129). -/
def State.nslot (s : State) (k : Nat) : Nat :=
  match (s.crew k).launch with
  | some d => if (s.launch d).q.quads.any fun q => decide (q / 4 = coreOf k) then bits (s.launch d).q.pan.toNat 6 0 else 0
  | none => 0

/-- What the instructions of an object share: a slot must exist, the bytes of the header, the bitmap and the counters must be reachable,
and a misaligned object has no effect. `f` has the object. -/
def abInstr (s : State) (sh : Shape) (i : XF) (f : State → Ctx → Crew → Lanes → AbRef → Except Stop State) : Out :=
  outsideRegions s i fun s => guarded s sh i fun x c act =>
    let h := c.inHandler x.lanes
    let sp := abSpace i.ownN
    let addr := abAddr c h i act
    let low := (lowLane act).getD 0
    if act = 0 then .ok (s.advance x)
    else if State.acqPending c act then .error .hold
    else if sp = 4 then
      (if s.nslot x.crew ≤ addr then .error (illegal illUse act) else f s x c act (s.abRefOf x.crew 4 addr))
    else match s.abFault x.crew sp addr 64 with
      | some d => .error (.trap ⟨clsMemfault, d, oneLane low, addr⟩)
      | none =>
        let r := s.abRefOf x.crew sp addr
        let hdr := s.abHdr 0 true r
        if addr % 64 ≠ 0 then s.answer x sh i act (statusWord 0 0 stForm)
        else match s.abFault x.crew sp addr (abBytes hdr.nchunk hdr.ncont) with
          | some d => .error (.trap ⟨clsMemfault, d, oneLane low, addr⟩)
          | none => if s.abBusy x.crew r then .error .hold else f s x c act r

/-- The chunk mask of the lowest active lane. -/
def abMask (c : Crew) (h : Bool) (i : XF) (act : Lanes) : DWord := c.rdW h i.sb i.b.toNat ((lowLane act).getD 0)

/-- A named chunk lies outside the object. -/
def abBeyond (all : Bool) (first nchunk : Nat) (mask : DWord) : Bool := !all && (State.abChunks false first nchunk mask).any fun k => decide (nchunk ≤ k)

def execAbwait (i : XF) (s : State) : Out :=
  abInstr s (Instr.abwait i).shape i fun s x c act r =>
    let hd := c.inHandler x.lanes
    let h := s.holderOf x.crew
    let all := decide (i.vN = 1)
    let mask := if all then 0 else abMask c hd i act
    let first := bits i.wN 11 0
    let n := (s.abHdr h false r).nchunk
    let tmo := bits i.cN 4 0
    let cond := s.abCond h r (State.abChunks all first n mask)
    if abBeyond all first n mask then s.answer x (Instr.abwait i).shape i act (s.abStatus r h 0 stForm)
    else if cond ≠ 0 ∨ tmo = 0 then s.answer x (Instr.abwait i).shape i act (s.abStatus r h cond stTimeout)
    else
      let s := (s.popped x (Instr.abwait i).shape i act).park x act (Instr.abwait i).shape i tmo fun _ => .abwait (abSpace i.ownN) (abAddr c hd i act) all first mask
      .ok (s.abWaiters x.crew r act false)

def execAbtest (i : XF) (s : State) : Out :=
  abInstr s (Instr.abtest i).shape i fun s x c act r =>
    let h := s.holderOf x.crew
    let all := decide (i.vN = 1)
    let mask := if all then 0 else abMask c (c.inHandler x.lanes) i act
    let first := bits i.wN 11 0
    let n := (s.abHdr h false r).nchunk
    let cond := s.abCond h r (State.abChunks all first n mask)
    s.answer x (Instr.abtest i).shape i act (s.abStatus r h (if abBeyond all first n mask then 0 else cond) (if abBeyond all first n mask then stForm else stNotyet))

/-- A slot is freed by force, after the event whose zeroing is under way (R125): its waiters are woken with error, and its barrier is IDLE once no put holds
a reference. -/
def State.slotForce (s : State) (core key : Nat) : State :=
  let s := s.slotReplies core key
  let p := s.slot core key
  if p.state = 0 then s
  else
    let p := { p with abState := abKilled, tdone := if p.abState = abArmed then s.now else p.tdone, cause := 4, state := 0, ports := 0 }
    let s := (s.setSlot core key p).abWake
    if p.refs = 0 then s.setSlot core key { s.slot core key with abState := abIdle } else s

/-- BARKILL.ab (R118, R125). R118 sets the object KILLED; R115's table has no row for an object that is IDLE, and there nothing changes and the status is OK,
as for one that is KILLED already (log entry 218). -/
def execBarkillAb (i : XF) (s : State) : Out :=
  abInstr s (Instr.barkillAb i).shape i fun s x _ act r =>
    let hdr := s.abHdr 0 true r
    let done := fun (s : State) => s.answer x (Instr.barkillAb i).shape i act (statusWord hdr.gen hdr.err stOk)
    if r.sp = 4 then done (s.slotForce r.core r.addr)
    else if hdr.state = abArmed ∨ hdr.state = abComplete ∨ hdr.state = abFailed then
      done (((s.abPutHdr x.crew act r { hdr with state := abKilled, tdone := if hdr.state = abArmed then s.now else hdr.tdone }).abTidy r).abWake)
    else done s

/-- A free entry of the core's 64, not counting the one that stands for this object (R119). -/
def State.abFree (s : State) (core : Nat) (keep : Option Nat) : Option Nat :=
  (List.range 64).find? fun j => decide (some j = keep) || (SMap.find? (s.core core).ab j).isNone

/-- The object is armed by threads `m`: its header, bitmap and counters (R115). -/
def State.abArm (s : State) (k : Nat) (m : Lanes) (r : AbRef) (old : AbHdr) (home nchunk ncont : Nat) : State :=
  let h : AbHdr := { home := home, tdone := 0, late := 0, done := 0, refs := 0, gen := (old.gen + 1) % 65536, state := abArmed, nchunk := nchunk,
                     ncont := ncont, err := 0, waiters := 0 }
  s.abPutBy k m r ((0, h.encode) :: (List.range ((abBytes nchunk ncont - 64) / 64)).map fun j => (64 + 64 * j, 0))

/-- ABINIT (R115, R119, R120, R272). -/
def execAbinit (i : XF) (s : State) : Out :=
  outsideRegions s i fun s => guarded s (Instr.abinit i).shape i fun x c act =>
    let hd := c.inHandler x.lanes
    let k := x.crew
    let core := coreOf k
    let sp := abSpace i.ownN
    let addr := abAddr c hd i act
    let low := (lowLane act).getD 0
    let nchunk := bits i.wN 12 0
    let ncont := bits i.wN 16 13
    let home := if sp = 1 then (c.rdW hd i.sb i.b.toNat low).toNat else 0
    let form := decide (nchunk = 0) || decide (4096 < nchunk) || decide (ncont = 0)
    let n := if form then 64 else abBytes nchunk ncont
    if act = 0 then .ok (s.advance x)
    else if State.acqPending c act then .error .hold
    else match s.abFault k sp addr n with
      | some d => .error (.trap ⟨clsMemfault, d, oneLane low, addr⟩)
      | none =>
        match if sp = 1 && decide (home ≠ 0) then s.abFault k 0 home n else none with
        | some d => .error (.trap ⟨clsMemfault, d, oneLane low, home⟩)
        | none =>
          let r := s.abRefOf k sp addr
          let old := s.abHdr 0 true r
          if form || decide (addr % 64 ≠ 0) || (decide (sp = 1) && (decide (home = 0) || decide (home % 64 ≠ 0))) then
            s.answer x (Instr.abinit i).shape i act (statusWord old.gen 0 stForm)
          else if s.abBusy k r n then .error .hold
          else if 0 < old.waiters ∨ 0 < old.refs then s.answer x (Instr.abinit i).shape i act (statusWord old.gen old.err stBusy)
          else
            let gen := (old.gen + 1) % 65536
            let ok := fun (s : State) => s.answer x (Instr.abinit i).shape i act (statusWord gen 0 stOk)
            if sp ≠ 1 then ok (s.abArm k act r old home nchunk ncont)
            else match s.abFree core (if r.sp = 1 then some r.addr else none) with
              | none => s.answer x (Instr.abinit i).shape i act (statusWord old.gen old.err stFull)
              | some j =>
                let b := s.block c.block
                let homed := decide (r.sp = 0)
                let s := if homed then s.abArm k act r old home nchunk ncont else s
                let s := s.modBlock c.block fun b => { b with homed := b.homed.filter fun p => !decide (p.1 = addr) }
                let e : AbEnt := { key := b.scrBase.toNat + addr, prt := s.crewPart k, home := home, launch := c.launch.getD 0 }
                let s := s.modCore core fun c => { c with ab := SMap.put (if r.sp = 1 then SMap.erase c.ab r.addr else c.ab) j e }
                ok (s.abArm k act ⟨1, j, c.launch.getD 0, core, s.crewPart k⟩ old home nchunk ncont)

/-! ## WAITAD (R93, R269) -/

def execWaitad (i : XF) (s : State) : Out :=
  outsideRegions s i fun s => guarded s (Instr.waitad i).shape i fun x c act =>
    let h := c.inHandler x.lanes
    let k := x.crew
    let sp := i.ownN
    let f : MemForm := { sp := sp, size := 4, disp := i.w2.toInt }
    let tmo := bits i.cN 4 0
    if c.queue.isSome && decide (sp ≠ 0) then .error (illegal illUse act)
    else if act = 0 then .ok (s.advance x)
    else if State.acqPending c act then .error .hold
    else
      let r := s.accesses k sp 4 .load (memAddr c h i f) (lanesOf act)
      if !r.2.isEmpty then s.missed x r.2
      else
        let s := if sp = 0 then s.translated k (r.1.map (·.addr)) else s
        let wait := fun l : Nat => ({ kind := .waitad sp (memAddr c h i f l) i.vN (c.rdV h i.qp i.sb i.b.toNat l) (bits i.cN 7 5),
                                      deadline := some (if tmo = 0 then s.now else s.now + 2 ^ (tmo + 3)), lanes := act, d := waitDest (Instr.waitad i).shape i, sd := i.sd } : Blocked)
        let s := (s.popped x (Instr.waitad i).shape i act).waitFor x x.lanes wait
        let dests : List (Option Nat × Nat) := if 256 ≤ waitDest (Instr.waitad i).shape i then [] else if i.sd then [(none, i.d.toNat)] else (lanesOf act).map fun l => (some l, i.d.toNat)
        .ok (s.modCrew k fun c => c.markEmpty (c.realDests h dests))

/-- A lane's read at home, or at its bank, with no lease: the word and its poison; none while it may not be made. -/
def State.waitadRead (s : State) (k lane sp addr : Nat) : Option (Word × Bool) :=
  match s.access k lane sp addr 4 .load with
  | .error _ => none
  | .ok a =>
    let sec := Acc.sector a
    if sp ≠ 0 ∨ (a.loc = 2 ∨ a.loc = 3) then some (BitVec.ofNat 32 (leNat (a.keys.map s.mem.byte)), a.keys.any s.poisoned)
    else if s.locked sec || s.commitHolds (coreOf k) (s.crewPart k) sec || s.onTheWay (coreOf k) (s.crewPart k) sec (fun _ _ _ => true) true then none
    else
      let v := s.homeView (s.holderOf k) sec false
      some (BitVec.ofNat 32 (leNat (a.keys.map v.mem.byte)), a.keys.any v.poisoned)

/-- The group of a WAITAD proceeds once every active lane of it is done. -/
def State.waitadEnd (s : State) (k lane : Nat) : State :=
  s.modCrew k fun c =>
    let m := c.waitMates lane
    let open' := (lanesOf m).any fun l => match (c.thread l).blocked with
      | some b => hasLane b.lanes l && b.fin.isNone
      | none => false
    if open' then c
    else (lanesOf m).foldl (fun c l =>
      match (c.thread l).blocked with
      | none => c
      | some b =>
        let c := if !hasLane b.lanes l ∨ (b.sd = false ∧ 256 ≤ b.d) then c else c.fill (c.thread l).tmaskM (if b.sd then none else some l, b.d) b.last b.pois
        let pk := match b.kind with
          | .waitad _ _ _ _ pk => pk
          | _ => 7
        c.mapLanes (oneLane l) fun _ t => if hasLane b.lanes l then (t.wrPred pk (b.fin = some true)).unblock else t.unblock) (c.pushWaited m (fun _ b => b.last) (·.pois))

/-- WAITAD_REREAD (R93, R117): a read returns; the lane is done when the condition holds, or when its time is over. A waiter on an arrival
barrier looks at it again. -/
def execWaitadReread (crew lane : Nat) (s : State) : Out :=
  match ((s.crew crew).thread lane).blocked with
  | none => .next s
  | some b =>
    match b.kind with
    | .abwait _ _ _ _ _ => .next (s.abSettle crew lane false)
    | .waitad sp addr cc v _ =>
      if b.fin.isSome || !hasLane b.lanes lane then .next s
      else match s.waitadRead crew lane sp addr with
        | none => .next s
        | some (w, bad) =>
          let ok := icmpOp 32 cc w.toNat v.toNat
          let b := { b with last := w, pois := bad, seen := true, fin := if ok then some true else if b.due s.now then some false else none }
          .next ((s.modCrew crew fun c => c.mapLanes (oneLane lane) fun _ t => { t with blocked := some b }).waitadEnd crew lane)
    | _ => .next s

/-! ## The ends of waits -/

/-- FENCE_RELEASE (R72, R262, R271): a fence's or a drain's conditions have come to hold for every active lane of its group, or those of the
`.c` fence at a BAR. -/
def execFenceRelease (crew lane : Nat) (s : State) : Out :=
  let c := s.crew crew
  match if 3 ≤ (s.block c.block).stop then none else (c.thread lane).blocked with
  | none => .next s
  | some b =>
    let m := c.waitMates lane
    match b.kind with
    | .fence scope => .next (if (lanesOf (m &&& b.lanes)).all fun l => s.fenceOk crew l scope then s.finishWait crew m none else s)
    | .sdrain => .next (if (lanesOf (m &&& b.lanes)).all fun l => s.drained crew l then s.finishWait crew m none else s)
    | .bar id => .next (s.barSettle crew lane id)
    | _ => .next s

/-- The LDFE lanes of a crew whose timeout has come read 0 (R264). -/
def State.ldfeExpire (s : State) (k lane : Nat) : State :=
  s.modCrew k fun c => { c with ops := c.ops.map fun o =>
    if o.kind = .ldfe && (match o.deadline with
        | some t => decide (t ≤ s.now)
        | none => false) then
      { o with accs := o.accs.map fun a => if a.lane = lane ∧ a.stage = 0 then a.expire else a }
    else o }

/-- The group of a SLEEP wakes once the time of each of its active lanes has come (R325). -/
def State.sleepEnd (s : State) (k lane : Nat) : State :=
  let c := s.crew k
  match (c.thread lane).blocked with
  | none => s
  | some b =>
    let m := c.waitMates lane
    let due := (lanesOf (m &&& b.lanes)).all fun l => match (c.thread l).blocked with
      | some b => b.due s.now
      | none => true
    if b.kind = .sleep && due then s.finishWait k m none else s

/-- TIMEOUT_EXPIRY (R267): a wait whose time is over completes with TIMEOUT; where it can complete otherwise in the same step it does
(R271). -/
def execTimeoutExpiry (crew lane : Nat) (s : State) : Out :=
  let s := s.ldfeExpire crew lane
  let c := s.crew crew
  match if 3 ≤ (s.block c.block).stop then none else (c.thread lane).blocked with
  | none => .next s
  | some b =>
    if !b.due s.now then .next s
    else
      let m := c.waitMates lane
      match b.kind with
      | .waitc cls n _ =>
        let st := if c.outstanding cls ≤ n then (if b.last = 0 then stOk else stError) else stTimeout
        .next (s.finishWait crew m (some (statusWord 0 0 st)))
      | .bar id =>
        let s := s.barSettle crew lane id
        .next (if ((s.crew crew).thread lane).blocked = some b then s.barTimeout crew id else s)
      | .abwait _ _ _ _ _ => .next (s.abSettle crew lane true)
      | .sleep => .next (s.sleepEnd crew lane)
      | .waitad _ _ _ _ _ =>
        if b.seen && b.fin.isNone then
          .next ((s.modCrew crew fun c => c.mapLanes (oneLane lane) fun _ t => { t with blocked := some { b with fin := some false } }).waitadEnd crew lane)
        else .next s
      | _ => .next s

end Sys2Proof.Machine
end

