-- ==== Sys2Proof/Machine/Narrow.lean ====
section
/-! DEFINITION. Narrow.lean: quantising, expanding, packing (12 R251, R252, R255). CBLD and CTLD are in Mem.lean. -/

namespace Sys2Proof.Machine

/-- Breakpoint i of a curve slot of a quadrant: what CTLD wrote, else the curve of block start (R184). -/
def curveAt (q : Quad) (slot i : Nat) : Nat :=
  match SMap.find? q.curves (slot * 17 + i) with
  | some w => w.toNat
  | none => idCurve i

/-- Entry k of a codebook slot of a quadrant (R183). -/
def bookAt (q : Quad) (slot k : Nat) : Nat := (SMap.get 0 q.books (slot * 16 + k)).toNat

/-- A register with byte `i` replaced. -/
def putByte (d i v : Nat) : Nat := d - d / 256 ^ i % 256 * 256 ^ i + v % 256 * 256 ^ i

def execQnt (i : XF) (s : State) : Out :=
  fpLanes s (Instr.qnt i).shape i false fun x c h l =>
    let q := s.quad (quadOf x.crew)
    let a := fmtF32.decodeIn (fmFtzi x.fmode) (c.rdV h i.qp i.sa i.a.toNat l).toNat
    let d := (c.rdV h i.qp i.sd i.d.toNat l).toNat
    let byte := bits i.wN 1 0
    if i.vN = 0 then
      let b := fmtF32.decodeIn (fmFtzi x.fmode) (c.rdV h i.qp i.sb i.b.toNat l).toNat
      let nv := flagIf (a.isSnan || b.isSnan) flNV
      let r := match mulFv a b with
        | none => (0, flNV)
        | some v => toInt 8 true (fmRm x.fmode) v
      (putByte d byte r.1, r.2 ||| nv)
    else
      let r := compandC8 (curveAt q (bits i.wN 3 2)) (fmRm x.fmode) a
      (putByte d byte (wrapInt 8 r.1), r.2)

def execDqnt (i : XF) (s : State) : Out :=
  fpLanes s (Instr.dqnt i).shape i false fun x c h l =>
    let q := s.quad (quadOf x.crew)
    let a := (c.rdV h i.qp i.sa i.a.toNat l).toNat
    let byte := a / 256 ^ bits i.wN 1 0 % 256
    match i.vN with
    | 0 => (expandC8 (curveAt q (bits i.wN 3 2)) byte, 0)
    | 1 =>
      let b := fmtF32.decodeIn (fmFtzi x.fmode) (c.rdV h i.qp i.sb i.b.toNat l).toNat
      let k := sval 8 byte
      finish fmtF32 (fmRm x.fmode) (fmFtzo x.fmode) b.isSnan (mulFv (.fin (decide (k < 0)) k.natAbs 0) b)
    | _ => (bookAt q (bits i.wN 7 4) (a / 16 ^ bits i.wN 2 0 % 16), 0)

/-- PACK's result (R255). -/
def packRes (v a b d : Nat) : Nat :=
  match v with
  | 0 => b % 65536 * 65536 + a % 65536
  | 1 => b % 256 * 256 + a % 256
  | 2 => (b % 256 * 256 + a % 256) * 65536 + d % 65536
  | _ => (List.range 8).foldl (fun r e => r + (if e < 4 then a / 256 ^ e else b / 256 ^ (e - 4)) % 16 * 16 ^ e) 0

def execPack (i : XF) (s : State) : Out :=
  lanewise s (Instr.pack i).shape i false false fun c h l =>
    packRes i.vN (c.rdV h i.qp i.sa i.a.toNat l).toNat (c.rdV h i.qp i.sb i.b.toNat l).toNat (c.rdV h i.qp i.sd i.d.toNat l).toNat

def execUnpk (i : XF) (s : State) : Out :=
  lanewise s (Instr.unpk i).shape i false false fun c h l =>
    let w := 16 / 2 ^ i.vN
    let e := (c.rdV h i.qp i.sa i.a.toNat l).toNat / 2 ^ (w * bits i.wN 2 0) % 2 ^ w
    if i.o0 then wrapInt 32 (sval w e) else e

end Sys2Proof.Machine
end

