-- ==== Sys2Proof/Machine/Matrix.lean ====
section
/-! DEFINITION. Matrix.lean: the matrix unit's arithmetic (R188 to R190), what its operations read and write (R46, R199, R282, R291 to
R298), and their failures (R290). -/

namespace Sys2Proof.Machine

/-! ## Elements -/

/-- Element `k` of a row of bytes (R174, R282). -/
def mxElem (f : Nat) (row : List Byte) (k : Nat) : Nat :=
  let at' := fun i => (row.getD i 0).toNat
  if f < 2 then at' (2 * k) + 256 * at' (2 * k + 1)
  else if f = 2 then at' (k / 2) / 16 ^ (k % 2) % 16
  else at' k

/-- The pattern that an element stands for: CB4 and C8 expand to BF16 through a slot of the quadrant (R183, R185). -/
def mxExpand (q : Quad) (f slot raw : Nat) : Nat :=
  if f = 2 then bookAt q slot raw else if f = 3 then expandC8 (curveAt q slot) raw else raw

/-- The value of a pattern. -/
def mxValue (f x : Nat) : Fv :=
  match f with
  | 1 => fmtF16.decode x
  | 4 => fmtE4m3.decode x
  | 5 => fmtE5m2.decode x
  | _ => fmtBf16.decode x

/-! ## Products (R188, R189) -/

/-- A row of A: the pattern of each k; none where a block is skipped, whose products count as +0 (R296). -/
abbrev ARow := List (Option Nat)

/-- The product of an element of A and one of B. -/
def mxProduct (af bf : Nat) (a : ARow) (e : Nat × BitVec 16) : Option Fv :=
  match a.getD e.1 none with
  | none => some (.fin false 0 0)
  | some x => mulFv (mxValue af x) (mxValue bf e.2.toNat)

/-- The exact sum of products, rounded once to FP32; skipped positions are products of +0. -/
def groupSum (terms : List (Option Fv)) : Nat :=
  let terms := if terms.length < 16 then some (.fin false 0 0) :: terms else terms
  match terms with
  | [] => 0
  | t :: rest => f32Of (rest.foldl (fun a b => a.bind fun x => b.bind fun y => addFv 0 x y) t)

/-- An accumulator element with the products of one row and one column added, group by group. -/
def mxAccum (af bf depth acc : Nat) (a : ARow) (col : List (Nat × BitVec 16)) : Nat :=
  (List.range (depth / 16)).foldl (fun acc g =>
    f32Add acc (groupSum ((col.filter fun e => decide (e.1 / 16 = g)).map (mxProduct af bf a)))) acc

/-- An INT8 accumulator element: one exact sum, saturated. -/
def mxAccumI8 (acc : Nat) (a : ARow) (col : List (Nat × BitVec 16)) : Nat :=
  let sum := col.foldl (fun (n : Int) e => n + (match a.getD e.1 none with
    | some x => sval 8 x * sval 8 e.2.toNat
    | none => 0)) 0
  let r := sval 32 acc + sum
  wrapInt 32 (if r < -2147483648 then -2147483648 else if 2147483647 < r then 2147483647 else r)

/-- One element of the destination. -/
def mxCell (af : Nat) (b : BBuf) (acc : Nat) (a : ARow) (j : Nat) : Nat :=
  let col := b.vals.getD j []
  if af = 6 then mxAccumI8 acc a col else mxAccum af b.fmt b.k acc a col

namespace State

/-! ## Accumulator tiles (R46) -/

def tileKeys (quad m i j : Nat) : List Nat := (List.range 4).map fun n => tileKey quad m (256 * i + 4 * j + n)

def tileWord (s : State) (quad m i j : Nat) : Nat := leNat ((tileKeys quad m i j).map s.mem.byte)

/-- A word of some rows of a tile is poisoned. -/
def tilePois (s : State) (quad m row0 n : Nat) : Bool :=
  (List.range n).any fun i => (List.range 64).any fun j => s.anyPoisoned (tileKey quad m (256 * (row0 + i) + 4 * j)) 4

/-- Writes rows of a tile from `row0` on. -/
def putRows (s : State) (quad m row0 : Nat) (rows : List (List Nat)) : State :=
  let cells := ((List.range rows.length).zip rows).flatMap fun r =>
    ((List.range r.2.length).zip r.2).flatMap fun c => (tileKeys quad m (row0 + r.1) c.1).zip (leBytes 4 c.2)
  s.performBytes cells

/-- Rows of a tile with the products of rows of A against B added. -/
def macRows (s : State) (quad m row0 af : Nat) (b : BBuf) (rows : List ARow) : State :=
  s.putRows quad m row0 (((List.range rows.length).zip rows).map fun r =>
    (List.range 64).map fun j => mxCell af b (s.tileWord quad m (row0 + r.1) j) r.2 j)

/-! ## Operands in memory -/

/-- Bytes that the unit reads for a crew and whether one is poisoned, or the detail of R31. -/
def mxBytes (s : State) (k sp addr n : Nat) : Except Nat (List Byte × Bool) :=
  match s.place k 0 sp (addr % 2 ^ 32) n .load with
  | .ok p =>
    let keys := s.placeKeys p n
    .ok (keys.map s.mem.byte, keys.any s.poisoned)
  | .error (.fault d) => .error d
  | .error _ => .error badWindow

/-- What an operation of a crew finds in memory when it starts. -/
def mxFetch (s : State) (k sp addr n : Nat) : Fetched :=
  match s.mxBytes k sp addr n with
  | .ok (bs, bad) => { bytes := bs, bad := bad }
  | .error d => { err := some d }

/-- What an operation reads at its start, before anything else: the unfold descriptor (R295) or SCAC's scales (R298). -/
def mxPre (s : State) (o : MxOp) : Fetched :=
  match o.instr with
  | .mma i => if bits i.cN 6 5 = 1 then s.mxFetch o.crew 1 o.b 16 else {}
  | .scac i => s.mxFetch o.crew (i.ownN + 1) o.a 512
  | _ => {}

/-- `n` rows of bytes at a pitch. -/
def mxRows (s : State) (k sp base pitch len : Nat) : Nat → Except Nat (List (List Byte) × Bool)
  | 0 => .ok ([], false)
  | n + 1 =>
    match s.mxBytes k sp base len with
    | .error d => .error d
    | .ok (row, bad) =>
      match mxRows s k sp (base + pitch) pitch len n with
      | .error d => .error d
      | .ok (rows, bad') => .ok (row :: rows, bad || bad')

/-- The first range of some rows that a crew may not read: the detail and the address (R283). -/
def rowsFault (s : State) (k sp base pitch len : Nat) (nd : Need) : Nat → Option (Nat × Nat)
  | 0 => none
  | n + 1 =>
    match s.rangeFault k sp (base % 2 ^ 32) len nd with
    | some d => some (d, base % 2 ^ 32)
    | none => rowsFault s k sp (base + pitch) pitch len nd n

end State

/-! ## B (R291 to R293) -/

/-- One step of the `.sps` generator. -/
def spsNext (x : Nat) : Nat :=
  let x := Nat.xor x (x * 2 ^ 13 % 2 ^ 32)
  let x := Nat.xor x (x / 2 ^ 17)
  Nat.xor x (x * 2 ^ 5 % 2 ^ 32)

def spsPair (n : Nat) : Nat × Nat :=
  match n with
  | 0 => (0, 1) | 1 => (0, 2) | 2 => (0, 3) | 3 => (1, 2) | 4 => (1, 3) | _ => (2, 3)

/-- The pairs of `n` draws. -/
def spsDraws (x : Nat) : Nat → List (Nat × Nat)
  | 0 => []
  | n + 1 => spsPair (spsNext x % 6) :: spsDraws (spsNext x) n

/-- The pair of group `g` that a metadata word of a column holds (R292). -/
def spiPair (word g : Nat) : Nat × Nat := (bits word (4 * g + 1) (4 * g), bits word (4 * g + 3) (4 * g + 2))

/-- The logical row of stored row `r`, by the pair of its group. -/
def logicalRow (pair : Nat × Nat) (r : Nat) : Nat := 4 * (r / 2) + (if r % 2 = 0 then pair.1 else pair.2)

/-- The buffer of stored rows: `pos` gives the logical row of stored row `r` of column `j`. -/
def makeB (q : Quad) (f spm slot : Nat) (rows : List (List Byte)) (bad : Bool) (pos : Nat → Nat → Nat) : BBuf :=
  { fmt := f, spm := spm, slot := slot, k := mxDepth f * (if spm = 0 then 1 else 2), bad := bad,
    vals := (List.range 64).map fun j => (List.range rows.length).map fun r =>
      (pos j r, BitVec.ofNat 16 (mxExpand q f slot (mxElem f (rows.getD r []) j))) }

/-- Failures after posting (R290). -/
def mxForm : Nat := 0x21
def mxOperand : Nat := 0x22
def mxShared : Nat := 0x23

/-- The trap class of a failure. -/
def mxClass (d : Nat) : Nat := if d = mxOperand ∨ d = mxShared then clsPoison else clsEngine

/-- A stored B tile read for a crew: dense, by metadata of `.spi`, or behind a `.sps` header. -/
def State.readB (s : State) (quad k sp addr pitch f spm slot : Nat) (metad : List Nat) : Except Nat BBuf :=
  let q := s.quad quad
  let n := mxDepth f
  let g := n / 2
  let hdr := if spm = 2 then s.mxBytes k sp addr 64 else .ok ([], false)
  match hdr with
  | .error d => .error d
  | .ok (h, badH) =>
    let seed := leNat (h.take 4)
    if spm = 2 ∧ (seed = 0 ∨ (h.drop 4).any (· ≠ 0)) then .error mxForm
    else match s.mxRows k sp (if spm = 2 then addr + 64 else addr) pitch (bRowBytes f) n with
      | .error d => .error d
      | .ok (rows, bad) =>
        let draws := if spm = 2 then spsDraws seed (64 * g) else []
        .ok (makeB q f spm slot rows (bad || badH) fun j r =>
          if spm = 0 then r
          else logicalRow (if spm = 1 then spiPair (metad.getD j 0) (r / 2) else draws.getD (j * g + r / 2) (0, 1)) r)

/-! ## A (R294 to R296) -/

/-- Rows of A as they stand. -/
def plainA (q : Quad) (f slot depth : Nat) (rows : List (List Byte)) : List ARow :=
  rows.map fun row => (List.range depth).map fun k => some (mxExpand q f slot (mxElem f row k))

/-- The unfold descriptor (R295). -/
structure Unfold where
  ow : Nat
  ch : Nat
  w  : Nat
  h  : Nat
  kh : Nat
  kw : Nat
  sh : Nat
  sw : Nat
  dh : Nat
  dw : Nat
  pt : Nat
  pl : Nat
  ok : Bool
  deriving DecidableEq, Repr

def unfoldOf (v : Nat) : Unfold :=
  { ow := bits v 127 112, ch := bits v 111 96, w := bits v 95 80, h := bits v 79 64, kh := bits v 63 60, kw := bits v 59 56, sh := bits v 55 52,
    sw := bits v 51 48, dh := bits v 47 44, dw := bits v 43 40, pt := bits v 39 36, pl := bits v 35 32,
    ok := decide (bits v 31 0 = 0) && [bits v 79 64, bits v 95 80, bits v 111 96, bits v 127 112, bits v 63 60, bits v 59 56, bits v 55 52,
      bits v 51 48, bits v 47 44, bits v 43 40].all (· ≠ 0) }

/-- The offset in elements of element (i, k), none where it reads +0 (R295). -/
def unfoldAt (u : Unfold) (p0 kc0 i k : Nat) : Option Nat :=
  let p := p0 + i
  let x := kc0 + k
  let c := x % u.ch
  let t := x / u.ch
  let kh := t / u.kw
  let h : Int := (p / u.ow * u.sh + kh * u.dh : Nat) - (u.pt : Int)
  let w : Int := (p % u.ow * u.sw + t % u.kw * u.dw : Nat) - (u.pl : Int)
  if u.kh ≤ kh ∨ h < 0 ∨ (u.h : Int) ≤ h ∨ w < 0 ∨ (u.w : Int) ≤ w then none else some ((h.toNat * u.w + w.toNat) * u.ch + c)

/-- Element (i, k) of a triangular view of a row: none in a skipped block, the fill above the diagonal (R296). -/
def triElem (diag : Int) (fill i k : Nat) (x : Option Nat) : Option Nat :=
  if ((i / 16 * 16 + 15 : Nat) : Int) + diag < ((k / 16 * 16 : Nat) : Int) then none
  else if (i : Int) + diag < (k : Int) then some fill
  else x

/-- A block of 16 rows and 16 columns that a triangular view skips is not read. -/
def triSkips (diag : Int) (i k : Nat) : Bool := decide (((i / 16 * 16 + 15 : Nat) : Int) + diag < ((k / 16 * 16 : Nat) : Int))

/-- Elements read one by one for a crew, each at its own address; none reads nothing and is +0 or skipped. -/
def State.mxScatter (s : State) (k sp n : Nat) : List (Option Nat) → Except Nat (List (Option Nat) × Bool)
  | [] => .ok ([], false)
  | none :: rest =>
    match s.mxScatter k sp n rest with
    | .error d => .error d
    | .ok (xs, bad) => .ok (none :: xs, bad)
  | some a :: rest =>
    match s.mxBytes k sp a n, s.mxScatter k sp n rest with
    | .error d, _ => .error d
    | _, .error d => .error d
    | .ok (bs, b1), .ok (xs, b2) => .ok (some (leNat bs) :: xs, b1 || b2)

/-- Rows of elements read one by one. -/
def State.mxScatterRows (s : State) (k sp n : Nat) : List (List (Option Nat)) → Except Nat (List (List (Option Nat)) × Bool)
  | [] => .ok ([], false)
  | r :: rest =>
    match s.mxScatter k sp n r, s.mxScatterRows k sp n rest with
    | .error d, _ => .error d
    | _, .error d => .error d
    | .ok (x, b1), .ok (xs, b2) => .ok (x :: xs, b1 || b2)

/-- The A operand of an MMA for a buffer of depth `depth`: its rows and whether an element is poisoned. `a`, `b`: the values of its address
registers; `pre`: the unfold descriptor, read when the operation started. -/
def State.readA (s : State) (quad k : Nat) (i : XF) (a b depth : Nat) (pre : Fetched) : Except Nat (List ARow × Bool) :=
  let q := s.quad quad
  let f := i.vN
  let w2 := i.wN
  let len := depth * mxBits f / 8
  let e := mxBits f / 8
  match bits i.cN 6 5 with
  | 0 =>
    match s.mxRows k (i.ownN + 1) (a + 64 * bits w2 31 20) (16 * bits w2 6 0) len (bits w2 19 13 + 1) with
    | .error d => .error d
    | .ok (rows, bad) => .ok (plainA q f (bits i.b.toNat 3 0) depth rows, bad)
  | 1 =>
    match pre.err with
    | some d => .error d
    | none =>
      let u := unfoldOf (leNat pre.bytes)
      if !u.ok then .error mxForm
      else
        let offs := (List.range 64).map fun r => (List.range depth).map fun c =>
          (unfoldAt u (bits w2 31 16) (bits w2 15 0) r c).map fun o => a + o * e
        match s.mxScatterRows k 1 e offs with
        | .error d => .error d
        | .ok (rows, bad) => .ok (rows.map fun r => r.map fun x => some (x.getD 0), bad || pre.bad)
  | _ =>
    let diag := sval 7 (bits w2 12 6)
    let base := a + 64 * bits w2 31 20
    let pitch := 16 * bits w2 5 0
    let fill := b % 2 ^ mxBits f
    let offs := (List.range (bits w2 19 13 + 1)).map fun r => (List.range depth).map fun c =>
      if triSkips diag r c then none else some (base + pitch * r + c * e)
    match s.mxScatterRows k (i.ownN + 1) e offs with
    | .error d => .error d
    | .ok (rows, bad) =>
      .ok (((List.range rows.length).zip rows).map fun r => ((List.range r.2.length).zip r.2).map fun c => triElem diag fill r.1 c.1 c.2, bad)

/-! ## Effects (R290, R294 to R298) -/

/-- MSTA's granules: each one an engine write; a poisoned word makes its granule poisoned (R290, R297). -/
def State.storeTile (s : State) (quad m : Nat) (keys : List Nat) : State :=
  (List.range 1024).foldl (fun s g =>
    let src := (List.range 16).map fun n => tileKey quad m (16 * g + n)
    s.chipGranule ((keys.drop (16 * g)).take 16) (src.map s.mem.byte) (src.any s.poisoned)) s

/-- SCAC (R190): every element of D from S, row scales and column scales. -/
def State.scale (s : State) (quad d src : Nat) (sc : List Nat) : State :=
  s.putRows quad d 0 ((List.range 64).map fun i => (List.range 64).map fun j =>
    let f := f32Mul (sc.getD i 0) (sc.getD (64 + j) 0)
    let a := f32Mul (s.tileWord quad src i j) f
    if d = src then a else f32Add (s.tileWord quad d i j) a)

/-- The words of some bytes. -/
def wordsIn (bs : List Byte) (n : Nat) : List Nat := (List.range n).map fun i => leNat ((bs.drop (4 * i)).take 4)

/-- What an operation that the unit has performed leaves, or the detail with which it fails, having written nothing (R290). `pre`: what
it read at its start. -/
def State.mxEffect (s : State) (quad : Nat) (o : MxOp) (pre : Fetched) : State × Option Nat :=
  let fail := fun d : Nat => (s, some d)
  match o.instr with
  | .mldb i =>
    (match s.readB quad o.crew (i.ownN + 1) (o.a + 64 * bits i.wN 31 20) (16 * bits i.wN 6 0) i.vN (bits i.b.toNat 5 4) (bits i.b.toNat 3 0)
        o.metad with
      | .error d => fail d
      | .ok b => if b.bad then fail mxOperand else (s.modQuad quad fun q => { q with buf := some b }, none))
  | .mma i =>
    (match (s.quad quad).buf with
      | none => fail mxForm
      | some b =>
        if fmtFamily b.fmt ≠ fmtFamily i.vN ∨ decide (b.spm ≠ 0) ≠ bitOf i.cN 7 then fail mxForm
        else match s.readA quad o.crew i o.a o.b b.k pre with
          | .error d => fail d
          | .ok (rows, bad) =>
            if bad || s.tilePois quad (bits i.d.toNat 3 0) 0 rows.length then fail mxOperand
            else (s.macRows quad (bits i.d.toNat 3 0) 0 i.vN b rows, none))
  | .mzero i => (s.putRows quad i.d.toNat 0 ((List.range 64).map fun _ => List.replicate 64 0), none)
  | .mlda i =>
    (match s.mxBytes o.crew (i.ownN + 1) o.a 16384 with
      | .error d => fail d
      | .ok (bs, bad) =>
        if bad then fail mxOperand
        else (s.performBytes (((List.range 16384).map fun n => tileKey quad i.d.toNat n).zip bs), none))
  | .msta i =>
    (match s.place o.crew 0 (i.ownN + 1) (o.a % 2 ^ 32) 16384 .store with
      | .ok p => (s.storeTile quad i.d.toNat (s.placeKeys p 16384), none)
      | .error (.fault d) => fail d
      | .error _ => fail badWindow)
  | .scac i =>
    (match pre.err with
      | some d => fail d
      | none =>
        if pre.bad || s.tilePois quad i.b.toNat 0 64 || (decide (i.b ≠ i.d) && s.tilePois quad i.d.toNat 0 64) then fail mxOperand
        else (s.scale quad i.d.toNat i.b.toNat (wordsIn pre.bytes 128), none))
  | _ => (s, none)

end Sys2Proof.Machine
end

