-- ==== Sys2Proof/Machine/MatrixOps.lean ====
section
/-! DEFINITION. MatrixOps.lean: the MATRIX group and SIGN at issue (R281 to R287, R299, R300), convergence registers, the matrix queue, the
windrow (R301 to R306), the events of the unit, CBLD and CTLD (R187, R254). -/

namespace Sys2Proof.Machine

/-! ## The windrow (R301 to R303) -/

/-- The destination tile of an operation, and the tiles that it reads or writes. -/
def mxTile (o : MxOp) : Nat := o.instr.xf.d.toNat % 16

def mxTiles (o : MxOp) : List Nat :=
  match o.instr with
  | .mldb _ => []
  | .scac i => [i.d.toNat, i.b.toNat]
  | _ => [mxTile o]

def isMmaw (o : MxOp) : Bool :=
  match o.instr with
  | .mmaw _ => true
  | _ => false

def isMma (o : MxOp) : Bool :=
  match o.instr with
  | .mma _ => true
  | _ => false

/-- The rows of a contribution. -/
def wRows (i : XF) : Nat := if bitOf i.wN 21 then 16 else 8

/-- The key of a contribution (R301): where its B lies, its formats, and its slot and quadrant where B expands through a slot. -/
def State.wKey (s : State) (quad : Nat) (o : MxOp) : List Nat :=
  let i := o.instr.xf
  let bf := bits i.wN 31 28
  let loc := match s.place o.crew 0 (bits i.cN 6 5 + 1) (o.b % 2 ^ 32) 1 .load with
    | .ok p => (match p.scr with
      | some (core, _) => [0, core, p.base]
      | none => [1, 0, p.base])
    | .error _ => []
  s.crewPart o.crew :: loc ++ [bf, bits i.wN 27 26, i.vN] ++ (if bf = 2 ∨ bf = 3 then [bits i.wN 25 22, quad] else [])

/-- An entry's deadline: the earliest of its contributors' (R302). -/
def wDeadline (e : WEnt) : Nat := e.contribs.foldl (fun m c => min m c.deadline) (2 ^ 64)

def isOpen (e : WEnt) : Bool := e.fired.isNone

/-- The unit on which an entry runs: that of the first contributor that remains in it (R303). -/
def wUnit (e : WEnt) : Nat := (e.contribs.head?.map (·.quad)).getD 0

namespace State

def wEnt (s : State) (core e : Nat) : Option WEnt := SMap.find? (s.core core).windrow e
def setWEnt (s : State) (core e : Nat) (w : WEnt) : State := s.modCore core fun c => { c with windrow := SMap.put c.windrow e w }

/-- The entries that a partition holds on a core, and its quota: two for each quadrant it owns. -/
def wHeld (s : State) (core prt : Nat) : Nat := List.length (List.filter (fun p : Nat × WEnt => decide (p.2.part = prt)) (s.core core).windrow)
def wQuota (s : State) (core prt : Nat) : Nat := 2 * (s.quarters core prt).length

/-- The B of an entry as its fire reads it into the windrow buffer: none where it cannot be formed (R293, R305). -/
def wReadB (s : State) (w : WEnt) : Option BBuf :=
  match w.contribs.head? with
  | none => none
  | some c =>
    let i := c.op.instr.xf
    let bf := bits i.wN 31 28
    match s.readB c.quad c.op.crew (bits i.cN 6 5 + 1) c.op.b (bRowBytes bf) bf (bits i.wN 27 26) (bits i.wN 25 22) [] with
    | .ok b => some b
    | .error _ => none

/-- An OPEN entry fires: it reads its B (R305). -/
def wFire (s : State) (core e : Nat) : State :=
  match s.wEnt core e with
  | none => s
  | some w => if w.fired.isSome then s else s.setWEnt core e { w with fired := some s.now, b := s.wReadB w }

/-- A contribution takes the next stacked rows of an OPEN entry, which fires where R303 says so. -/
def wAdd (s : State) (core e : Nat) (w : WEnt) (quad : Nat) (o : MxOp) : State :=
  let i := o.instr.xf
  let c : WContrib := { op := o, quad := quad, rows := wRows i, deadline := s.now + s.clkNs core (bits i.wN 12 0) }
  let w := { w with contribs := w.contribs ++ [c], rows := w.rows + wRows i }
  let s := s.setWEnt core e w
  let urgent := (SMap.get 6 (s.core core).urgent w.part).toNat % 8
  if 64 ≤ w.rows ∨ urgent ≤ o.prio ∨ wDeadline w ≤ s.now then s.wFire core e else s

/-- Step 3 of R302: the contribution opens a FREE entry within its partition's quota, if there is one. -/
def wOpen (s : State) (core quad : Nat) (o : MxOp) : State × Bool :=
  let prt := s.crewPart o.crew
  match (List.range 8).find? fun e => (s.wEnt core e).isNone with
  | some e => if s.wHeld core prt < s.wQuota core prt then (s.wAdd core e { key := s.wKey quad o, part := prt, contribs := [], rows := 0 } quad o, true) else (s, false)
  | none => (s, false)

/-- Steps 1 to 3 of R302: the contribution joins an OPEN entry of its key or opens a FREE one. An entry of its key without room fires. -/
def wJoin (s : State) (core quad : Nat) (o : MxOp) : State × Bool :=
  let key := s.wKey quad o
  let same := List.filter (fun p : Nat × WEnt => isOpen p.2 && decide (p.2.key = key)) (s.core core).windrow
  match same.find? fun p => decide (p.2.rows + wRows o.instr.xf ≤ 64) with
  | some p => (s.wAdd core p.1 p.2 quad o, true)
  | none =>
    let s := match same.head? with
      | some p => s.wFire core p.1
      | none => s
    s.wOpen core quad o

/-- The partition's OPEN entry with the earliest deadline fires (R302 step 4). -/
def wFireEarliest (s : State) (core prt : Nat) : State :=
  let mine := List.filter (fun p : Nat × WEnt => isOpen p.2 && decide (p.2.part = prt)) (s.core core).windrow
  match mine.foldl (fun m p => match m with
    | none => some p
    | some q => if wDeadline p.2 < wDeadline q.2 then some p else some q) (none : Option (Nat × WEnt)) with
  | some p => s.wFire core p.1
  | none => s

/-! ## The matrix queue (R283, R287) -/

/-- An operation enters the matrix queue; a contribution goes to the windrow, and holds a place of the queue while no entry is free. -/
def mxEnter (s : State) (quad : Nat) (o : MxOp) : State :=
  let core := quad / 4
  if isMmaw o then
    let r := s.wJoin core quad o
    if r.2 then r.1
    else (r.1.wFireEarliest core (s.crewPart o.crew)).modQuad quad fun q => { q with mq := q.mq ++ [o] }
  else s.modQuad quad fun q => { q with mq := q.mq ++ [o] }

/-- A dispatch takes its number; it waits behind earlier firings and behind a full queue. -/
def mxDispatch (s : State) (quad : Nat) (o : MxOp) : State :=
  let q := s.quad quad
  let o := { o with seq := q.nextSeq }
  let s := s.modQuad quad fun q => { q with nextSeq := q.nextSeq + 1 }
  if q.fired.isEmpty ∧ q.mq.length < 16 then s.mxEnter quad o else s.modQuad quad fun q => { q with fired := q.fired ++ [o] }

/-- The operations of earlier firings enter the queue as entries free, in firing order. -/
def mxDrain (s : State) (quad : Nat) : State :=
  (s.quad quad).fired.foldl (fun s o =>
    if (s.quad quad).mq.length < 16 ∧ (s.quad quad).fired.head? = some o then
      (s.modQuad quad fun q => { q with fired := q.fired.tail }).mxEnter quad o
    else s) s

/-- The block that an operation belongs to is being halted (R307). -/
def mxHalted (s : State) (o : MxOp) : Bool := decide (3 ≤ (s.block (s.crew o.crew).block).stop) || (s.crew o.crew).frozen

/-- Contributions that wait for an entry each open one, in dispatch order (R302); quadrant by quadrant, the spec giving no order among quadrants
(log entry 234). -/
def wRetry (s : State) (core : Nat) : State :=
  (List.range 4).foldl (fun s j =>
    let quad := core * 4 + j
    let r := ((s.quad quad).mq.filter fun o => isMmaw o && !s.mxHalted o).foldl (fun (st : State × Bool) o =>
      if !st.2 then st
      else
        let r := st.1.wOpen core quad o
        (if r.2 then r.1.modQuad quad fun q => { q with mq := q.mq.filter fun p => !decide (p.seq = o.seq) } else st.1, r.2)) (s, true)
    r.1.mxDrain quad) s

/-! ## Readiness and choice (R287, R304, R306) -/

/-- The contributions of a quadrant that the windrow holds: the entry and the contribution. -/
def wOf (s : State) (quad : Nat) : List (Nat × WContrib) :=
  List.flatMap (fun p : Nat × WEnt => (p.2.contribs.filter fun c => decide (c.quad = quad)).map fun c => (p.1, c)) (s.core (quad / 4)).windrow

/-- The contributions of the fires that run on a core's units. -/
def fireRows (s : State) (core : Nat) : List WRow := (List.range 4).flatMap fun j => (s.quad (core * 4 + j)).running.flatMap (·.rows)

/-- Some operation of the quadrant dispatched before `seq` has still to reach tile `t`; contributions of entry `e` are not counted. -/
def tileBusy (s : State) (quad t seq : Nat) (e : Option Nat) : Bool :=
  let q := s.quad quad
  let hits := fun (o : MxOp) => decide (o.seq < seq) && (mxTiles o).contains t
  q.mq.any hits || q.fired.any hits || (q.running.any fun r => match r.op with
    | some o => hits o
    | none => false)
    || ((s.wOf quad).any fun p => decide (some p.1 ≠ e) && decide (p.2.op.seq < seq) && decide (mxTile p.2.op = t))
    || (s.fireRows (quad / 4)).any fun r => decide (r.quad = quad) && decide (r.op.seq < seq) && decide (mxTile r.op = t)

/-- The operation that the unit would start from its queue: the first that does not wait for a windrow entry. -/
def mxHead (s : State) (quad : Nat) : Option MxOp := (s.quad quad).mq.find? fun o => !isMmaw o

def headReady (s : State) (quad : Nat) (o : MxOp) : Bool := !s.mxHalted o && (mxTiles o).all fun t => !s.tileBusy quad t o.seq none

def fireReady (s : State) (e : Nat) (w : WEnt) : Bool :=
  w.fired.isSome && w.arrived && w.contribs.all fun c => !s.tileBusy c.quad (mxTile c.op) c.op.seq (some e)

/-- Marks since when each candidate of a core could have started. -/
def mxStamp (s : State) (core : Nat) : State :=
  let s := (List.range 4).foldl (fun s j =>
    let quad := core * 4 + j
    match s.mxHead quad with
    | some o =>
      if o.ready.isNone && s.headReady quad o then
        s.modQuad quad fun q => { q with mq := q.mq.map fun p => if p.seq = o.seq then { p with ready := some s.now } else p }
      else s
    | none => s) s
  (s.core core).windrow.foldl (fun s p => if p.2.ready.isNone && s.fireReady p.1 p.2 then s.setWEnt core p.1 { p.2 with ready := some s.now } else s) s

/-- The effective priority of a candidate (R304). -/
def effPrio (s : State) (core prio since : Nat) : Nat := min 7 (prio + (s.now - since) / max 1 (s.clkNs core 1024))

end State

/-- What a free unit would start: an operation of its queue, or a fired entry. -/
inductive MxPick where
  | op (o : MxOp)
  | fire (e : Nat)
  deriving DecidableEq, Repr

/-- It occupies the array, and needs a start grant (R288, R433). -/
def MxPick.big : MxPick → Bool
  | .fire _ => true
  | .op o => isMma o

namespace State

/-- The ready candidate with the highest effective priority, then the one that became ready first, then the queue's head. -/
def mxPick (s : State) (quad : Nat) : Option MxPick :=
  let core := quad / 4
  let local' := match s.mxHead quad with
    | some o => if s.headReady quad o then [(s.effPrio core o.prio (o.ready.getD s.now), o.ready.getD s.now, MxPick.op o)] else []
    | none => []
  let fires := List.filterMap (fun p : Nat × WEnt =>
    if decide (wUnit p.2 = quad) && s.fireReady p.1 p.2 then
      some (s.effPrio core (p.2.contribs.foldl (fun m c => max m c.op.prio) 0) (p.2.ready.getD s.now), p.2.ready.getD s.now, MxPick.fire p.1)
    else none) (s.core core).windrow
  ((local' ++ fires).foldl (fun (m : Option (Nat × Nat × MxPick)) c => match m with
    | none => some c
    | some b => if b.1 < c.1 ∨ (b.1 = c.1 ∧ c.2.1 < b.2.1) then some c else some b) none).map (·.2.2)

/-- The unit must ask the slew limiter: an MMA or a fire on a unit idle for 8 clk or more (R288); ballast yields to it (R326). -/
def mustAsk (s : State) (quad : Nat) (p : MxPick) : Bool :=
  let q := s.quad quad
  let warm := q.ramp || match q.ballast with
    | some b => b.on && decide (s.now < b.endAt)
    | none => false
  p.big && !warm && match q.drew with
    | none => true
    | some t => decide (t + s.clkNs (quad / 4) 8 ≤ s.now)

/-- A contributor's rows of A as its fire reads them, or its failure (R305). -/
def wReadA (s : State) (depth : Nat) (c : WContrib) : WRow :=
  let i := c.op.instr.xf
  let r : WRow := { op := c.op, quad := c.quad, a := [], err := none }
  match s.mxRows c.op.crew (i.ownN + 1) c.op.a (16 * bits i.wN 17 13) (depth * mxBits i.vN / 8) c.rows with
  | .error d => { r with err := some d }
  | .ok (rows, bad) => if bad then { r with err := some mxOperand } else { r with a := plainA (s.quad c.quad) i.vN 0 depth rows }

/-- Poison in a contributor's rows counts one event of the unit that marked it (R432). -/
def wCount (depth : Nat) (s : State) (c : WContrib) : State :=
  let i := c.op.instr.xf
  let keys := (List.range c.rows).flatMap fun r =>
    match s.place c.op.crew 0 (i.ownN + 1) ((c.op.a + r * (16 * bits i.wN 17 13)) % 2 ^ 32) (depth * mxBits i.vN / 8) .load with
    | .ok p => s.placeKeys p (depth * mxBits i.vN / 8)
    | .error _ => []
  match (keys.find? s.poisoned).bind markUnit with
  | some u => s.countUnit u
  | none => s

/-- A fire starts on its unit: it reads every contributor's A and frees its entry (R302, R305), which contributions that wait may open. A is read at
the start: the spec says only that it is read while the fire occupies the unit (log entry 235). -/
def wStart (s : State) (core quad e : Nat) (w : WEnt) : State :=
  let depth := (w.b.map (·.k)).getD 0
  let rows := w.contribs.map (s.wReadA depth)
  let s := w.contribs.foldl (wCount depth) s
  let s := s.modCore core fun c => { c with windrow := SMap.erase c.windrow e }
  (s.modQuad quad fun q => { q with running := [{ op := none, fire := some e, start := s.now, b := w.b, rows := rows }] }).wRetry core

/-- The unit starts what it has chosen; another operation may be ready from then on. -/
def mxStart (s : State) (quad : Nat) (p : MxPick) : State :=
  let s := s.meterBallast quad
  let core := quad / 4
  let cl := s.cluster (clusterOf core)
  let s := if p.big then s.setCluster (clusterOf core) { cl with reqs := cl.reqs.filter fun r => !decide (r.2.1 * 4 + r.2.2 = quad) } else s
  let clear := fun (q : Quad) => if p.big then { q with asked := none, choice := none, choiceFire := none } else q
  let s := s.modQuad quad clear
  let s := match p with
    | .op o =>
      (s.modQuad quad fun q => { q with
        mq := q.mq.filter fun r => !decide (r.seq = o.seq)
        running := [{ op := some o, fire := none, start := s.now, pre := s.mxPre o }] }).mxDrain quad
    | .fire e => (match s.wEnt core e with
      | some w => s.wStart core quad e w
      | none => s)
  s.mxStamp core

/-- The choice that a unit keeps while it waits for its grant. -/
def mxChosen (q : Quad) : Option MxPick :=
  match q.choice, q.choiceFire with
  | some o, _ => some (.op o)
  | none, some e => some (.fire e)
  | none, none => none

/-- The unit asks for a start grant, unless its ballast has asked already, and keeps its choice (R288, R326). -/
def mxAsk (s : State) (quad : Nat) (p : MxPick) : State :=
  let core := quad / 4
  let cl := s.cluster (clusterOf core)
  let s := if (s.quad quad).asked.isSome then s
    else s.setCluster (clusterOf core) { cl with reqs := cl.reqs ++ [(s.now, core, quad % 4)] }
  s.modQuad quad fun q => { q with
    asked := some s.now
    choice := match p with
      | .op o => some o
      | .fire _ => none
    choiceFire := match p with
      | .fire e => some e
      | .op _ => none }

/-! ## Convergence registers (R284 to R286) -/

def cv (s : State) (quad n : Nat) : Cv := SMap.get {} (s.quad quad).cvs n
def setCv (s : State) (quad n : Nat) (c : Cv) : State := s.modQuad quad fun q => { q with cvs := SMap.set {} q.cvs n c }

/-- The firing rule of R285, at most as often as operations are posted. -/
def cvFire (s : State) (quad n : Nat) : Nat → State
  | 0 => s
  | k + 1 =>
    let c := s.cv quad n
    match c.posted with
    | [] => s
    | o :: rest =>
      if c.count ≤ c.signed then
        ((s.setCv quad n { c with posted := rest, signed := c.signed - c.count, gen := (c.gen + 1) % 128 }).mxDispatch quad o).cvFire quad n k
      else s

end State

/-! ## At issue -/

/-- A matrix operation that has failed its own checks: the trap's class, detail and address, and the lanes that take it; 0 for all that are active. -/
abbrev MxBad := Option (Nat × Nat × Nat × Lanes)

/-- The group is not the whole crew, or the operation would be posted on a disarmed register (R283, R285). -/
def mxUse (s : State) (f : XF) (x : Ctx) (c : Crew) : Option Nat :=
  detailIf (notWhole x c || (!bitOf f.cN 4 && decide ((s.cv (quadOf x.crew) (bits f.cN 3 0)).count = 0))) illUse

/-- A store, an atomic or a push of the crew, issued before operation `bound`, has still to be performed at its bank in `.c`, `.k` or `.x` (R283,
R286). -/
def Crew.chipOpen (c : Crew) (bound : Nat) : Bool :=
  c.ops.any fun o => decide (o.id < bound) && (decide (o.kind = .store) || decide (o.kind = .atomic) || decide (o.kind = .push))
    && o.accs.any fun a => decide (a.space ≠ 0) && decide (a.stage = 0)

/-- What every counted MATRIX instruction does (R283): it is performed once for the crew, after the crew's earlier stores on chip; `check` finds a
precise failure; the operation is dispatched, or posted on its convergence register (R285). -/
def mxInstr (s : State) (i : Instr) (check : Nat → Nat → Nat → MxBad) (meta' : Nat → List Nat) (wait : Nat → Bool) : Out :=
  let sh := i.shape
  let f := i.xf
  outsideRegions s f fun s => guardedFirst (mxUse s f) s sh f fun x c act =>
    let k := x.crew
    let quad := quadOf k
    let h := c.inHandler x.lanes
    let a := (c.rdS h f.a.toNat).toNat
    let b := if f.sb then (c.rdS h f.b.toNat).toNat else 0
    let direct := bitOf f.cN 4
    let n := bits f.cN 3 0
    let cv := s.cv quad n
    if c.chipOpen c.nextOp then .error .hold
    else match check k a b with
      | some (cls, d, addr, ls) => .error (.trap ⟨cls, d, if ls = 0 then act else ls, addr⟩)
      | none =>
        if wait k || !c.clsRoom 3 then .error .hold
        else if direct && (decide (16 ≤ (s.quad quad).mq.length) || !(s.quad quad).fired.isEmpty) then .error .hold
        else if !direct && decide (4 ≤ cv.posted.length) then .error .hold
        else
          let o : MxOp := { crew := k, op := c.nextOp, instr := i, a := a, b := b, metad := meta' k, prio := c.prio }
          let s := s.modCrew k fun c => c.addOp { id := 0, kind := .matrix, cls := 3, pc := x.pc, lanes := act, issued := s.ctr }
          let s := if direct then s.mxDispatch quad o else (s.setCv quad n { cv with posted := cv.posted ++ [o] }).cvFire quad n 5
          .ok ((s.mxStamp (quad / 4)).advance x)

def noMeta (_ : Nat) : List Nat := []
def noWait (_ : Nat) : Bool := false

/-- A range of a crew that must be reachable; `al`: its alignment. -/
def State.mxRange (s : State) (k sp addr n al : Nat) (nd : Need) : MxBad :=
  if addr % al ≠ 0 then some (clsMemfault, badZerobits, addr, 0)
  else (s.rangeFault k sp (addr % 2 ^ 32) n nd).map fun d => (clsMemfault, d, addr % 2 ^ 32, 0)

def State.mxRowsRange (s : State) (k sp base pitch len n : Nat) : MxBad :=
  (s.rowsFault k sp base pitch len .load n).map fun r => (clsMemfault, r.1, r.2, 0)

/-! ### `.spi` metadata (R292) -/

/-- The words of a column: the lanes that supply them and the registers. -/
def spiSource (f v sel j w : Nat) : Nat × Nat :=
  let wc := mxDepth f / 2 / 8
  (j / 2 ^ sel, v + wc * (j % 2 ^ sel) + w)

/-- Every lane and register that the metadata of `.spi` names. -/
def spiNames (f v sel : Nat) : List (Nat × Nat) :=
  (List.range 64).flatMap fun j => (List.range (mxDepth f / 2 / 8)).map (spiSource f v sel j)

/-- The metadata words of the 64 columns. -/
def spiMeta (c : Crew) (f v sel : Nat) : List Nat :=
  (List.range 64).map fun j => (List.range (mxDepth f / 2 / 8)).foldl (fun n w =>
    let p := spiSource f v sel j w
    n + ((c.thread p.1).rd p.2).toNat * 2 ^ (32 * w)) 0

/-- The registers that an MLDB takes metadata from. -/
def mldbNames (i : XF) : List (Nat × Nat) := if bits i.b.toNat 5 4 = 1 then spiNames i.vN i.d.toNat (bits i.b.toNat 7 6) else []

/-- What stops an MLDB whose base register holds `a` (R291 to R293). A poisoned register traps the lanes that supply it. -/
def mldbCheck (i : XF) (s : State) (k a : Nat) : MxBad :=
  let spm := bits i.b.toNat 5 4
  let c := s.crew k
  let base := a + 64 * bits i.wN 31 20
  let names := mldbNames i
  if spm = 1 ∧ i.d.toNat % 4 ≠ 0 then some (clsIllegal, illRegister, 0, 0)
  else if names.any fun p => decide (c.nregs ≤ p.2) then some (clsIllegal, illRegister, 0, 0)
  else if names.any fun p => !(c.thread p.1).live then some (clsIllegal, illUse, 0, 0)
  else if names.any fun p => (c.thread p.1).vE.getLsbD p.2 then none
  else if names.any fun p => (c.thread p.1).vP.getLsbD p.2 then
    some (clsPoison, 0x24, 0, laneSet fun l => names.any fun p => decide (p.1 = l) && (c.thread l).vP.getLsbD p.2)
  else match if spm = 2 then s.mxRange k (i.ownN + 1) base 64 1 .load else none with
    | some r => some r
    | none => s.mxRowsRange k (i.ownN + 1) (if spm = 2 then base + 64 else base) (16 * bits i.wN 6 0) (bRowBytes i.vN) (mxDepth i.vN)

def mldbMeta (i : XF) (s : State) (k : Nat) : List Nat :=
  if bits i.b.toNat 5 4 = 1 then spiMeta (s.crew k) i.vN i.d.toNat (bits i.b.toNat 7 6) else []

/-- A register that an MLDB takes metadata from is EMPTY. -/
def mldbWait (i : XF) (s : State) (k : Nat) : Bool := (mldbNames i).any fun p => ((s.crew k).thread p.1).vE.getLsbD p.2

def execMldb (i : XF) (s : State) : Out := mxInstr s (.mldb i) (fun k a _ => mldbCheck i s k a) (mldbMeta i s) (mldbWait i s)

/-- What stops an MMA whose A and B fields' registers hold `a` and `b` (R294 to R296). -/
def mmaCheck (i : XF) (s : State) (k a b : Nat) : MxBad :=
  let depth := mxDepth i.vN * if bitOf i.cN 7 then 2 else 1
  match bits i.cN 6 5 with
  | 0 => s.mxRowsRange k (i.ownN + 1) (a + 64 * bits i.wN 31 20) (16 * bits i.wN 6 0) (depth * mxBits i.vN / 8) (bits i.wN 19 13 + 1)
  | 1 =>
    (match s.mxRange k 1 b 16 16 .load with
      | some r => some r
      | none =>
        let u := match s.mxBytes k 1 b 16 with
          | .ok (ds, _) => unfoldOf (leNat ds)
          | .error _ => unfoldOf 0
        let n := u.h * u.w * u.ch * (mxBits i.vN / 8)
        if n = 0 then none else s.mxRange k 1 a n 1 .load)
  | _ =>
    let diag := sval 7 (bits i.wN 12 6)
    let base := a + 64 * bits i.wN 31 20
    (List.range (bits i.wN 19 13 + 1)).findSome? fun r =>
      let n := ((List.range depth).filter fun c => !triSkips diag r c).length
      if n = 0 then none else s.mxRange k (i.ownN + 1) (base + 16 * bits i.wN 5 0 * r) (n * (mxBits i.vN / 8)) 1 .load

def execMma (i : XF) (s : State) : Out := mxInstr s (.mma i) (mmaCheck i s) noMeta noWait

/-- What stops an MMAW whose B register holds `b`: its B matrix lies out of reach (R300). -/
def mmawCheck (i : XF) (s : State) (k b : Nat) : MxBad :=
  let bf := bits i.wN 31 28
  s.mxRange k (bits i.cN 6 5 + 1) b (bRowBytes bf * mxDepth bf + (if bits i.wN 27 26 = 2 then 64 else 0)) 1 .load

def execMmaw (i : XF) (s : State) : Out := mxInstr s (.mmaw i) (fun k _ b => mmawCheck i s k b) noMeta noWait

def execMzero (i : XF) (s : State) : Out := mxInstr s (.mzero i) (fun _ _ _ => none) noMeta noWait
def execMsta (i : XF) (s : State) : Out := mxInstr s (.msta i) (fun k a _ => s.mxRange k (i.ownN + 1) a 16384 64 .store) noMeta noWait
def execMlda (i : XF) (s : State) : Out := mxInstr s (.mlda i) (fun k a _ => s.mxRange k (i.ownN + 1) a 16384 64 .load) noMeta noWait
def execScac (i : XF) (s : State) : Out := mxInstr s (.scac i) (fun k a _ => s.mxRange k (i.ownN + 1) a 512 64 .load) noMeta noWait

/-- CVSET (R284): performed once for the crew, and not counted. -/
def execCvset (i : XF) (s : State) : Out :=
  outsideRegions s i fun s => guarded s (Instr.cvset i).shape i fun x c act =>
    let quad := quadOf x.crew
    let cv := s.cv quad i.d.toNat
    if c.live &&& ~~~x.lanes ≠ 0 then .error (illegal illUse act)
    else if c.chipOpen c.nextOp then .error .hold
    else if cv.signed ≠ 0 ∨ !cv.posted.isEmpty then .error (illegal illUse act)
    else .ok ((s.setCv quad i.d.toNat { cv with count := i.wN }).advance x)

/-- MSTAT (R299). -/
def execMstat (i : XF) (s : State) : Out :=
  outsideRegions s i fun s => guarded s (Instr.mstat i).shape i fun x _ act =>
    let quad := quadOf x.crew
    let q := s.quad quad
    let v :=
      if i.vN = 0 then
        let cv := s.cv quad (bits i.cN 3 0)
        cv.posted.length % 8 * 2 ^ 29 + cv.gen % 128 * 2 ^ 22 + cv.signed % 2048 * 2 ^ 11 + cv.count % 2048
      else
        q.mq.length % 32 * 2 ^ 27
          + (match q.buf with
            | none => 0xF * 2 ^ 23
            | some b => b.fmt % 16 * 2 ^ 23 + b.spm % 4 * 2 ^ 21 + b.slot % 16 * 2 ^ 17)
          + s.wHeld (quad / 4) (s.crewPart x.crew) % 16 * 2 ^ 13
    if act = 0 then .ok (s.advance x) else .ok (writeD s x (Instr.mstat i).shape i act false false fun _ => v)

/-! ### SIGN (R286) -/

/-- The signatures of an issue: one for each active thread, one for each pair of a protected launch. -/
def signCount (prot : Bool) (act : Lanes) : Nat :=
  ((lanesOf act).filter fun l => !prot || decide (l % 2 = 0) || !hasLane act (l - 1)).length

def sign (s : State) (sh : Shape) (i : XF) (n : Nat) : Out :=
  outsideRegions s i fun s => guarded s sh i fun x c act =>
    let quad := quadOf x.crew
    let cv := s.cv quad n
    let k := signCount (s.protectedCrew x.crew) act
    let owed := (s.residents quad).foldl (fun t p => t + (p.2.signs.filter fun e => decide (e.1 = n)).foldl (fun t e => t + e.2.1) 0) 0
    if act = 0 then .ok (s.advance x)
    else if cv.count = 0 ∨ 2047 < cv.signed + owed + k then .error (illegal illUse act)
    else .ok ((s.setCrew x.crew { c with signs := c.signs ++ [(n, k, c.nextOp)] }).advance x)

def execSign (n : BitVec 4) (s : State) : Out := sign s (Instr.sign n).shape .zero n.toNat
def execSignX (i : XF) (s : State) : Out := sign s (Instr.signX i).shape i (i.d.toNat % 16)

/-- SIGNATURE_COUNT (R285, R286): the signatures of a SIGN count once the signer's earlier stores and atomics on chip are performed. -/
def execSignatureCount (crew idx : Nat) (s : State) : Out :=
  match SMap.find? s.ex.crews crew with
  | none => .next s
  | some c =>
    match (c.signs.drop idx).head? with
    | none => .next s
    | some (n, k, bound) =>
      if c.chipOpen bound then .next s
      else
        let quad := quadOf crew
        let cv := s.cv quad n
        let s := s.setCrew crew { c with signs := c.signs.take idx ++ c.signs.drop (idx + 1) }
        .next ((((s.setCv quad n { cv with signed := cv.signed + k }).cvFire quad n 5).mxStamp (quad / 4)).reap crew)

/-! ## The events of the unit -/

/-- A matrix operation retires from MX, with the error that R290 names. -/
def State.mxDone (s : State) (o : MxOp) (err : Option Nat) : State :=
  match SMap.find? s.ex.crews o.crew with
  | none => s
  | some c =>
    (s.setCrew o.crew (c.modOp o.op fun p => { p with done := true, err := err, errCls := match err with
      | some d => mxClass d
      | none => noTrap })).retire o.crew

/-- MATRIX_OP_START (R287, R288, R304): a free unit starts what it may, or asks the slew limiter first. -/
def execMatrixOpStart (core quad : Nat) (s : State) : Out :=
  let k := core * 4 + quad
  let q := s.quad k
  if !q.running.isEmpty then .next s
  else if (State.mxChosen q).isSome then .next s
  else match s.mxPick k with
    | none => .next s
    | some p => .next (if s.mustAsk k p then s.mxAsk k p else s.mxStart k p)

/-- MATRIX_OP_COMPLETE (R95, R288, R290): the operation that occupies the unit has its effect and retires. -/
def execMatrixOpComplete (core quad : Nat) (s : State) : Out :=
  let k := core * 4 + quad
  match (s.quad k).running with
  | [r] =>
    (match r.op with
      | none => .next s
      | some o =>
        let e := (s.meterBallast k).mxEffect k o r.pre
        let s := e.1.modQuad k fun q => { q with running := [], drew := if isMma o then some s.now else q.drew }
        .next ((s.mxDone o e.2).mxStamp core))
  | _ => .next s

/-- WINDROW_DEADLINE_FIRE (R303). -/
def execWindrowDeadlineFire (core entry : Nat) (s : State) : Out :=
  match s.wEnt core entry with
  | none => .next s
  | some w => .next (if isOpen w ∧ wDeadline w ≤ s.now then s.wFire core entry else s)

/-- WINDROW_B_ARRIVED (R304, R305): the MLDB latency of a fired entry's B is over; the entry may start. -/
def execWindrowBArrived (core entry : Nat) (s : State) : Out :=
  match s.wEnt core entry with
  | none => .next s
  | some w => if w.fired.isNone ∨ w.arrived then .next s else .next ((s.setWEnt core entry { w with arrived := true }).mxStamp core)

/-- A contributor of a fire that is complete: its rows are added to its tile, or its MMAW retires with its own error. A B that could not be formed
fails every contributor with MX_FORM, a poisoned one with SHARED_B (R290, R305, R306). -/
def State.wFireOne (s : State) (b : Option BBuf) (c : WRow) : State :=
  match b with
  | none => s.mxDone c.op (some mxForm)
  | some b =>
    if b.bad then s.mxDone c.op (some mxShared)
    else match c.err with
      | some d => s.mxDone c.op (some d)
      | none =>
        let i := c.op.instr.xf
        let row := 8 * bits i.wN 20 18
        if s.tilePois c.quad (mxTile c.op) row (wRows i) then s.mxDone c.op (some mxOperand)
        else (s.macRows c.quad (mxTile c.op) row i.vN b c.a).mxDone c.op none

/-- A fire is complete: its unit is free, and each contributor has its own end. -/
def State.wFireEnd (s : State) (core quad : Nat) (r : Running) : State :=
  let s := (s.meterBallast quad).modQuad quad fun q => { q with running := [], drew := some s.now }
  (r.rows.foldl (fun (s : State) c => s.wFireOne r.b c) s).mxStamp core

/-- The unit of a core that has run a fire of entry `entry` the longest. -/
def State.fireOf (s : State) (core entry : Nat) : Option (Nat × Running) :=
  (((List.range 4).map (core * 4 + ·)).flatMap fun k => ((s.quad k).running.filter fun r => decide (r.fire = some entry)).map fun r => (k, r)).foldl
    (fun m p => match m with
      | none => some p
      | some q => if p.2.start < q.2.start then some p else some q) none

/-- WINDROW_FIRE_COMPLETE (R305, R306). -/
def execWindrowFireComplete (core entry : Nat) (s : State) : Out :=
  match s.fireOf core entry with
  | none => .next s
  | some p => .next (s.wFireEnd core p.1 p.2)

/-! ## CBLD and CTLD (R184, R187, R254) -/

/-- The operation reads an operand through a slot of its quadrant: the format (2 CB4, 3 C8) and the slot. -/
def mxSlots (o : MxOp) : List (Nat × Nat) :=
  match o.instr with
  | .mldb i => [(i.vN, bits i.b.toNat 3 0)]
  | .mma i => if bits i.cN 6 5 = 0 then [(i.vN, bits i.b.toNat 3 0)] else []
  | .mmaw i => [(bits i.wN 31 28, bits i.wN 25 22)]
  | _ => []

/-- Some operation of the quadrant has still to read an operand through the slot (R187); an entry that has fired has read its B. -/
def State.slotInUse (s : State) (quad f n : Nat) : Bool :=
  let q := s.quad quad
  let uses := fun (o : MxOp) => (mxSlots o).contains (f, n)
  q.mq.any uses || q.fired.any uses || (q.running.any fun r => match r.op with
    | some o => uses o
    | none => false)
    || (q.cvs.any fun p => p.2.posted.any uses)
    || List.any (s.core (quad / 4)).windrow fun p => isOpen p.2 && p.2.contribs.any fun c => decide (c.quad = quad) && uses c.op

/-- The space of the OWN code of CBLD and CTLD. -/
def tableSpace (own : Nat) : Nat := if own = 0 then 1 else if own = 1 then 3 else 0

/-- Reads the `n` bytes of a table as a load of the group does, 16 at a time: none while the home may not be read. -/
def State.readTable (s : State) (k : Nat) (x : Ctx) (accs : List Acc) : Option (State × List Byte × Bool) :=
  let f : MemForm := { sp := 0, size := 6, disp := 0 }
  let busy := accs.any fun a => decide (a.space = 0) && (s.locked (Acc.sector a) || s.commitHolds (coreOf k) (s.crewPart k) (Acc.sector a)
    || s.onTheWay (coreOf k) (s.crewPart k) (Acc.sector a) (fun _ _ _ => true) false)
  if busy then none
  else
    let o : Op := { id := 0, kind := .load, cls := 0, pc := x.pc, lanes := 0 }
    let r := accs.foldl (fun (st : State × List Acc) a =>
      if a.space ≠ 0 then (st.1, st.2 ++ [st.1.readHere a])
      else if a.loc = 2 ∨ a.loc = 3 then (st.1, st.2 ++ [st.1.readHost a])
      else
        let p := st.1.tryL1 k f a
        let p := if p.2.stage = 1 then p else p.1.fillAt k o a
        (p.1, st.2 ++ [p.2])) (s, [])
    some (r.1, r.2.flatMap (·.data), r.2.any fun a => a.pois ≠ 0)

/-- What CBLD and CTLD share: one read for the quadrant, then the slot. A table that is not valid traps ARITH with detail bit 4 and leaves FFLAGS as it is:
R184 gives the trap alone, R256 lists NV under the flags of CTLD (log entry 228). -/
def loadTable (s : State) (sh : Shape) (i : XF) (n al f : Nat) (ok : List Byte → Bool) (put : Quad → List Byte → Quad) : Out :=
  outsideRegions s i fun s => guarded s sh i fun x c act =>
    let k := x.crew
    let h := c.inHandler x.lanes
    let sp := tableSpace i.ownN
    let m : MemForm := { sp := sp, size := 6, disp := i.w2.toInt }
    let low := (lowLane act).getD 0
    let addr := if sp = 0 then wrapInt 64 ((c.rdW h true i.a.toNat low).toNat + m.disp) else wrapInt 32 ((c.rdS h i.a.toNat).toNat + m.disp)
    let accs := (List.range (n / 16)).map fun j => s.access k low sp (addr + 16 * j) 16 .load
    let bad := accs.findSome? fun a => match a with
      | .error (.fault d) => some d
      | .error _ => some badForced
      | .ok _ => none
    let good := accs.filterMap fun a => match a with
      | .ok a => some a
      | .error _ => none
    if addr % al ≠ 0 then .error (.trap ⟨clsMemfault, badZerobits, act, addr⟩)
    else match bad with
      | some d => .error (.trap ⟨clsMemfault, d, act, addr⟩)
      | none =>
        if State.acqPending c act || s.slotInUse (quadOf k) f i.d.toNat then .error .hold
        else match s.readTable k x good with
          | none => .error .hold
          | some (s, bs, pois) =>
            if pois then .error (.trapIn s ⟨clsPoison, 0x24, act, 0⟩)
            else if !ok bs then .error (.trapIn s ⟨clsArith, 0x10, act, 0⟩)
            else .ok ((s.modQuad (quadOf k) fun q => put q bs).advance x)

def execCbld (i : XF) (s : State) : Out :=
  loadTable s (Instr.cbld i).shape i 32 32 2 (fun _ => true) fun q bs =>
    { q with books := (List.range 16).foldl (fun m e => SMap.set 0 m (i.d.toNat * 16 + e) (BitVec.ofNat 16 (leNat ((bs.drop (2 * e)).take 2)))) q.books }

def execCtld (i : XF) (s : State) : Out :=
  loadTable s (Instr.ctld i).shape i 80 16 3 (fun bs => curveValid fun b => leNat ((bs.drop (4 * b)).take 4)) fun q bs =>
    { q with curves := (List.range 17).foldl (fun m b => SMap.put m (i.d.toNat * 17 + b) (BitVec.ofNat 32 (leNat ((bs.drop (4 * b)).take 4)))) q.curves }

end Sys2Proof.Machine
end

