-- ==== Sys2Proof/Machine/System.lean ====
section
/-! DEFINITION. System.lean: the CSRs (R319 to R322), MODE, TIME, ENRG, SLEEP (R323 to R325), BLST (R326, R433), TRAP, TRET and BKPT (R327), and
the queue profile's QUOTE, ACCEPT, DECLINE and HALT at issue (R328, R329). -/

namespace Sys2Proof.Machine

/-! ## The CSRs (R319 to R321) -/

/-- The identity CSRs (R140): LANEID is the pair number in a protected launch. -/
def State.identity (s : State) (k l n : Nat) : Nat :=
  let c := s.crew k
  let b := s.block c.block
  match n with
  | 0 => if s.protectedCrew k then l / 2 else l
  | 1 => quadOf k % 4
  | 2 => c.idx
  | 3 => coreOf k
  | 4 => clusterOf (coreOf k)
  | 5 => dieOf (coreOf k)
  | 6 => b.blockId
  | _ => b.tile.toNat

/-- What a lane reads in a CSR. -/
def State.csrRead (s : State) (k l n : Nat) : Nat :=
  let c := s.crew k
  let t := c.thread l
  let b := s.block c.block
  match n with
  | 0x10 => c.tvec.toNat
  | 0x11 => t.tcause.toNat
  | 0x12 => t.tpc.toNat
  | 0x13 => t.trecEntry.toNat * 2 ^ 32 + t.trecCount.toNat
  | 0x14 => b2n t.tmaskM
  | 0x20 => c.fmode.toNat
  | 0x21 => t.fflags.toNat
  | 0x22 => t.repcnt.toNat
  | 0x28 => t.spec.toNat
  | 0x30 => t.wctlast
  | 0x31 => c.ocnt
  | 0x32 => c.errstat.toNat
  | 0x38 => b.scrBase.toNat
  | 0x39 => b.scrLimit.toNat
  | 0x3A => c.slice.toNat
  | 0x40 => match c.launch with
    | some d => (s.launch d).q.qid.toNat
    | none => 0
  | 0x41 => match c.launch with
    | some d => (s.launch d).deadline.toNat
    | none => 0
  | _ => s.identity k l n

/-- The bits of an RW CSR that a write changes. -/
def csrMask (n : Nat) : Nat :=
  match n with
  | 0x10 => 0xFFFFFC01
  | 0x11 => 0xF80000FF
  | 0x12 => 0xFFFFFFFC
  | 0x14 => 1
  | 0x20 => 0x1F1F
  | 0x21 => 0x1F
  | 0x22 => 0x8007FFFF
  | _ => 0

/-- The CSR is held per crew. -/
def csrPerCrew (n : Nat) : Bool := decide (n = 0x10) || decide (n = 0x20) || decide (n = 0x31) || decide (n = 0x32)

/-- A thread's CSR takes a value. -/
def Thread.setCsr (t : Thread) (n v : Nat) : Thread :=
  match n with
  | 0x11 => { t with tcause := BitVec.ofNat 32 v }
  | 0x12 => { t with tpc := BitVec.ofNat 32 v }
  | 0x14 => { t with tmaskM := decide (v % 2 = 1) }
  | 0x21 => { t with fflags := BitVec.ofNat 5 v }
  | 0x22 => { t with repcnt := BitVec.ofNat 32 v }
  | _ => t

/-- ERRSTAT with the W1C bits of `v` cleared; with the last of them CLASS and DETAIL (R113, R322). -/
def errstatClear (e : Word) (v : Nat) : Word :=
  let e := e &&& ~~~(BitVec.ofNat 32 (v % 64))
  if e &&& 0x3F#32 = 0 then 0 else e

/-- A crew's CSR takes a value. -/
def Crew.setCsr (c : Crew) (n v : Nat) : Crew :=
  match n with
  | 0x10 => { c with tvec := BitVec.ofNat 32 v }
  | 0x20 => { c with fmode := BitVec.ofNat 13 v }
  | _ => c

/-- How an instruction changes a CSR: from its value and the source (R322). -/
inductive CsrOp where
  | write
  | set
  | clear
  deriving DecidableEq, Repr

def CsrOp.apply (o : CsrOp) (old v : Nat) : Nat :=
  match o with
  | .write => v
  | .set => Nat.lor old v
  | .clear => Nat.land old (2 ^ 32 - 1 - v % 2 ^ 32)

/-- The new value of a CSR: the writable bits of the result, the others as they stand. -/
def csrNew (n : Nat) (o : CsrOp) (old v : Nat) : Nat := Nat.land (o.apply old v % 2 ^ 32) (csrMask n)

def execCsrr (i : XF) (s : State) : Out :=
  match s.cur with
  | none => .fault .noIssuingGroup
  | some x =>
    let n := i.a.toNat
    lanewise s (Instr.csrr i).shape i (csrWide n) false fun _ _ l => s.csrRead x.crew l n

/-- CSRW, CSRS and CSRC: a thread's CSR in every active lane; a crew's once, from the lowest active lane. -/
def csrChange (s : State) (sh : Shape) (i : XF) (o : CsrOp) : Out :=
  let n := i.d.toNat
  outsideRegions s i fun s => guarded s sh i fun x c act =>
    let h := c.inHandler x.lanes
    let src := fun l => if i.imm then i.w2.toNat else c.rdN h i.qp (csrWide n) i.sa i.a.toNat l
    let c' := if act = 0 then c else c.pop (popPorts sh i) act
    let c' :=
      if csrPerCrew n then
        match lowLane act with
        | none => c'
        | some l =>
          if n = 0x32 then { c' with errstat := errstatClear c.errstat (src l) }
          else c'.setCsr n (csrNew n o (s.csrRead x.crew l n) (src l))
      else c'.mapLanes act fun l t => t.setCsr n (csrNew n o (s.csrRead x.crew l n) (src l))
    .ok ((s.setCrew x.crew c').advance x)

def execCsrw (i : XF) (s : State) : Out := csrChange s (Instr.csrw i).shape i .write
def execCsrs (i : XF) (s : State) : Out := csrChange s (Instr.csrs i).shape i .set
def execCsrc (i : XF) (s : State) : Out := csrChange s (Instr.csrc i).shape i .clear

/-- MODE (R323). -/
def execMode (i : XF) (s : State) : Out :=
  guarded s (Instr.mode i).shape i fun x c _ =>
    let mask := i.w2.extractLsb' 16 13 &&& 0x1F1F#13
    let v := i.w2.extractLsb' 0 13
    .ok ((s.setCrew x.crew { c with fmode := (c.fmode &&& ~~~mask) ||| (v &&& mask) }).advance x)

/-! ## Time, energy, sleep (R324, R325) -/

def execTime (i : XF) (s : State) : Out := lanewise s (Instr.time i).shape i true false fun _ _ _ => s.now

/-- The launch's meter on the issuing cluster, or its energy bound in nJ. -/
def State.energyOf (s : State) (k v : Nat) : Nat :=
  match (s.crew k).launch with
  | none => 0
  | some d => if v = 0 then SMap.get 0 (s.launch d).meters (clusterOf (coreOf k)) else (s.launch d).q.ebound * 1000

def execEnrg (i : XF) (s : State) : Out :=
  match s.cur with
  | none => .fault .noIssuingGroup
  | some x => lanewise s (Instr.enrg i).shape i true false fun _ _ _ => s.energyOf x.crew i.vN

def execSleep (i : XF) (s : State) : Out :=
  guarded s (Instr.sleep i).shape i fun x c act =>
    let h := c.inHandler x.lanes
    let tmo := bits i.cN 4 0
    let late := if tmo = 0 then s.now else s.now + 2 ^ (tmo + 3)
    let wake := fun l => if i.vN = 0 then s.now + i.wN else min late (c.rdW h i.sa i.a.toNat l).toNat
    if (lanesOf act).all fun l => decide (wake l ≤ s.now) then .ok (s.advance x)
    else .ok (s.waitFor x x.lanes fun l => { kind := .sleep, deadline := some (wake l), lanes := act })

/-- SLEEP_WAKE (R325, R434): the group wakes once the time of every active lane has come. -/
def execSleepWake (crew lane : Nat) (s : State) : Out := .next (s.sleepEnd crew lane)

/-! ## Ballast (R326, R433) -/

/-- The unit draws current other than by ramp ballast (R397, R433): it occupies its array, ended less than 8 clk ago, or runs BLST
ballast. -/
def State.draws (s : State) (quad : Nat) : Bool :=
  let q := s.quad quad
  (q.running.any fun r => r.fire.isSome || match r.op with
    | some o => (match o.instr with
      | .mma _ => true
      | _ => false)
    | none => false)
  || (match q.drew with
    | some t => decide (s.now < t + s.clkNs (quad / 4) 8)
    | none => false)
  || (match q.ballast with
    | some b => b.on && decide (s.now < b.endAt)
    | none => false)

/-- Two crews belong to the same block. -/
def State.sameBlock (s : State) (k j : Nat) : Bool := decide ((s.crew k).launch = (s.crew j).launch) && decide ((s.crew k).block = (s.crew j).block)

/-- BLST.on: the ballast runs at once on a unit that draws, joins a grant that its block's operation waits for, or asks for its own. -/
def State.ballastOn (s : State) (k level dur : Nat) : State :=
  let quad := quadOf k
  let core := coreOf k
  let q := s.quad quad
  let b : Ballast := { level := level, endAt := s.now + s.clkNs core (16 * dur), crew := k, on := s.draws quad || q.ramp, since := s.now }
  let s := (s.meterBallast quad).modQuad quad fun q => { q with ballast := some b }
  if b.on || q.asked.isSome then s
  else
    let cl := s.cluster (clusterOf core)
    (s.setCluster (clusterOf core) { cl with reqs := cl.reqs ++ [(s.now, core, quad % 4)] }).modQuad quad fun q => { q with asked := some s.now }

/-- Ballast ends; a grant that only it waited for is no longer asked for. -/
def State.ballastOff (s : State) (quad : Nat) : State :=
  let s := s.meterBallast quad
  let q := s.quad quad
  let alone := q.asked.isSome && q.choice.isNone && q.choiceFire.isNone
  let cl := s.cluster (clusterOf (quad / 4))
  let s := if alone then s.setCluster (clusterOf (quad / 4)) { cl with reqs := cl.reqs.filter fun r => !decide (r.2.1 * 4 + r.2.2 = quad) } else s
  s.modQuad quad fun q => { q with ballast := none, asked := if alone then none else q.asked }

def execBlst (i : XF) (s : State) : Out :=
  guarded s (Instr.blst i).shape i fun x _ _ =>
    let quad := quadOf x.crew
    let s :=
      if i.vN = 0 then s.ballastOn x.crew (bits i.wN 20 16) (bits i.wN 15 0)
      else match (s.quad quad).ballast with
        | some b => if s.sameBlock x.crew b.crew then s.ballastOff quad else s
        | none => s
    .ok (s.advance x)

/-- BALLAST_END (R326): the duration of a unit's ballast is over. -/
def execBallastEnd (core quad : Nat) (s : State) : Out :=
  match (s.quad (core * 4 + quad)).ballast with
  | some b => .next (if b.endAt ≤ s.now then s.ballastOff (core * 4 + quad) else s)
  | none => .next s

/-! ## TRAP, BKPT, TRET (R327, R277) -/

/-- TRAP and BKPT raise their trap in every active lane. -/
def softTrap (s : State) (sh : Shape) (i : XF) (cls : Nat) : Out :=
  outsideRegions s i fun s => guarded s sh i fun x _ act =>
    if act = 0 then .ok (s.advance x) else .error (.trap ⟨cls, i.wN % 256, act, 0⟩)

def execTrap (i : XF) (s : State) : Out := softTrap s (Instr.trap i).shape i clsSyscall
def execBkpt (i : XF) (s : State) : Out := softTrap s (Instr.bkpt i).shape i clsBreak

/-- The lanes return from their handler: to their TPC, or into the wait that a store fault interrupted (R261). In a launch that has
failed they end instead (R407). -/
def execTret (i : XF) (s : State) : Out :=
  guarded s (Instr.tret i).shape i fun x c act =>
    let out := laneSet fun l => hasLane act l && !(c.thread l).tmaskM
    let failed := match c.launch with
      | some d => (s.launch d).failed
      | none => false
    if out ≠ 0 then .error (illegal illUse out)
    else
      let gone := laneSet fun l => hasLane act l && match (c.thread l).resume with
        | some b => decide (BitVec.ofNat 32 b.pc ≠ (c.thread l).tpc)
        | none => false
      let s := (s.abLeave x.crew gone).modCrew x.crew fun c => c.mapLanes act fun _ t =>
        match t.resume with
        | some b => if BitVec.ofNat 32 b.pc = t.tpc then { t with tmaskM := false, resume := none, blocked := some b, pc := b.pc }
          else { t with tmaskM := false, resume := none, pc := t.tpc.toNat }
        | none => { t with tmaskM := false, pc := t.tpc.toNat }
      let s := s.setPc x (x.lanes &&& ~~~act) x.next
      .ok (if failed then (s.endLanes x.crew act).reap x.crew else s)

/-! ## The queue profile (R328, R329) -/

/-- The checks of a QUOTE's request and record against the queue's footprint (R328): the detail of a failure and its address. -/
def State.quoteCheck (s : State) (k req rec : Nat) : Option (Nat × Nat) :=
  match (s.crew k).queue with
  | none => none
  | some qi =>
    let q : Quote := { regions := (s.queue qi).regions }
    let check := fun (va n : Nat) (nd : Need) =>
      if !canonical va then some badNoncanon
      else if va % 64 ≠ 0 then some badZerobits
      else match State.regionOf q va n with
        | none => some badFootprint
        | some (_, r) => if State.granted r nd then none else some badRights
    match check req 64 .load with
    | some d => some (d, req)
    | none => (check rec 64 .store).map fun d => (d, rec)

/-- What QUOTE, ACCEPT and DECLINE share: D is EMPTY until the front end answers. `kind`: 0, 1, 2. -/
def frontInstr (s : State) (sh : Shape) (i : XF) (kind : Nat) (check : Nat → Nat → Nat → Option (Nat × Nat)) : Out :=
  guarded s sh i fun x c act =>
    let h := c.inHandler x.lanes
    let low := (lowLane x.lanes).getD 0
    let a := (c.rdW h true i.a.toNat low).toNat
    let b := if kind = 0 then (c.rdW h true i.b.toNat low).toNat else 0
    if c.queue.isNone then .error (illegal illUse act)
    else match check x.crew a b with
      | some (d, addr) => .error (.trap ⟨clsMemfault, d, act, addr⟩)
      | none =>
        let (c, dests) := c.destinations sh i x.pc act (if i.sd then [(none, i.d.toNat)] else (lanesOf act).map fun l => (some l, i.d.toNat))
        let c := c.addOp { id := 0, kind := .quote, cls := 6, pc := x.pc, lanes := act, dests := dests, fmt := kind, d := i.d.toNat, sd := i.sd, masked := h,
                           issued := s.ctr }
        let r : FrontReq := { id := c.nextOp - 1, crew := x.crew, op := c.nextOp - 1, lane := low, kind := kind,
                              qid := if kind = 0 then 0 else BitVec.ofNat 64 a, req := if kind = 0 then a else 0, recVa := b, time := s.now }
        let s := s.setCrew x.crew (c.markEmpty (c.realDests h dests))
        .ok ({ s with fr := { s.fr with reqs := s.fr.reqs ++ [r] } }.advance x)

def execQuote (i : XF) (s : State) : Out := frontInstr s (Instr.quote i).shape i 0 s.quoteCheck
def execAccept (i : XF) (s : State) : Out := frontInstr s (Instr.accept i).shape i 1 fun _ _ _ => none
def execDecline (i : XF) (s : State) : Out := frontInstr s (Instr.decline i).shape i 2 fun _ _ _ => none

/-- HALT (R329, R355): the packet ends with status HALT, and its queue halts with the code. -/
def execHalt (i : XF) (s : State) : Out :=
  guarded s (Instr.halt i).shape i fun x c act =>
    match c.queue with
    | none => .error (illegal illUse act)
    | some qi =>
      let s := s.modQueue qi fun q => { q with halting := some (0x01, i.wN % 65536) }
      .ok ((s.endLanes x.crew c.live).reap x.crew)

end Sys2Proof.Machine
end

