-- ==== Sys2Proof/Machine/Engines.lean ====
section
/-! DEFINITION. Engines.lean: copies and chains (R94, R98 to R107, R310, R311): their checks, transfers, chunks and records. -/

namespace Sys2Proof.Machine

/-! ## Whom an engine works for -/

namespace State

/-- The crew of a key, in its slot or in a saved block, whose keys begin at 2^20 (R381, R384). -/
def anyCrew (s : State) (k : Nat) : Option Crew :=
  match SMap.find? s.ex.crews k with
  | some c => some c
  | none => s.fr.saved.findSome? fun b => (b.crews.find? fun p => decide (p.1 = k)).map (·.2)

/-- Operations of a crew in a saved block retire into the saved counters, error bits and trap records. -/
def restRetire (c : Crew) : Crew :=
  let r := retireList [] c.ops
  r.2.foldl retireErr { c with ops := r.1 }

/-- Changes a crew, in its slot or in a saved block; its finished operations retire. -/
def onCrew (s : State) (k : Nat) (f : Crew → Crew) : State :=
  match SMap.find? s.ex.crews k with
  | some c => (s.setCrew k (f c)).retire k
  | none => { s with fr := { s.fr with saved := s.fr.saved.map fun b =>
      { b with crews := b.crews.map fun p => if p.1 = k then (p.1, restRetire (f p.2)) else p } } }

/-- An operation of a crew has had all its effects and retires in its turn, with an error or without (R95, R107, R113). A replayable launch that has consumed
poison so is due to be replayed (R406). -/
def opDone (s : State) (k op : Nat) (err : Option Nat) (cls : Nat) : State :=
  let s := match (s.anyCrew k).bind (·.launch) with
    | some d => if err.isSome && decide (cls = clsPoison) && (s.launch d).replayable then s.due [.launchReplay d 0x23] else s
    | none => s
  s.onCrew k fun c => c.modOp op fun o => { o with done := true, err := err, errCls := cls }

/-- The context of a crew's commands. -/
def engCtx (s : State) (k : Nat) : EngCtx :=
  let c := s.crew k
  let b := s.block c.block
  ⟨c.launch.getD 0, coreOf k, s.crewPart k, b.scrBase.toNat, b.scrLimit.toNat⟩

/-- A view of the state in which a crew of the context stands on its core, for checks that name a crew; and that crew. -/
def engView (s : State) (e : EngCtx) : State × Nat :=
  let k := (e.core * 4 + (s.quarters e.core e.prt).headD 0) * 16
  let b : Block := { launch := e.launch, core := e.core, scrBase := BitVec.ofNat 32 e.base, scrLimit := BitVec.ofNat 32 e.limit }
  ((s.setCrew k { launch := some e.launch, block := 2 ^ 40 }).setBlock (2 ^ 40) b, k)

/-- The memory key of a byte that an engine reaches; spaces 0 `.g`, 1 `.c`, 2 `.k`, 3 `.x`. -/
def engKey (s : State) (e : EngCtx) (sp addr : Nat) : Option Nat :=
  match sp with
  | 0 => s.pinKey e.launch (dieOf e.core) addr
  | 1 => some (s.scrKey e.core e.prt (e.base + addr))
  | 2 =>
    let m := e.core / 8 * 8 + bits addr 24 22
    some (s.scrKey m e.prt ((spanOf (s.launch e.launch) m).1 + bits addr 21 0))
  | _ => some (s.xKey e.prt (bits addr 27 26) (bits addr 25 0))

/-- The keys of `n` bytes; none where a byte has no translation. -/
def engKeys (s : State) (e : EngCtx) (sp addr n : Nat) : Option (List Nat) := (List.range n).mapM fun i => s.engKey e sp (addr + i)

/-- An engine read: what stands at the bank or at the home, with no lease (R61), and whether a byte is poisoned. -/
def engRead (s : State) (keys : List Nat) : List Byte × Bool :=
  let v := match keys with
    | k :: _ => if keyTag k < 6 then s.homeView 0 (sectorOf k) false else s
    | [] => s
  (keys.map v.mem.byte, keys.any v.poisoned)

/-- The bytes at an address are served by an L2 (R51): HBM, and host memory whose leaf makes it cacheable. -/
def engCached (s : State) (e : EngCtx) (va key : Nat) : Bool :=
  decide (keyTag key = 1) || (decide (keyTag key ≤ 3) && (s.pinOf e.launch (dieOf e.core) va).toOption.any fun t => decide (t.loc = 1))

/-- What an engine's read of some bytes leaves: a `.g` address passes the L1 data TLB of the core (R21), where the engine is a core's, and its sector is in
its L2, used last (R51). -/
def engFetch (s : State) (e : EngCtx) (sp va : Nat) (keys : List Nat) (gather : Bool := false) : State :=
  if sp ≠ 0 then s
  else
    let s := match gather, s.pinOf e.launch (dieOf e.core) va with
      | false, .ok t => s.useData e.core t
      | _, _ => s
    if s.engCached e va (keys.headD 0) then s.residentL2 e.prt (sectorOf (keys.headD 0)) else s

/-- What an engine has just written is poison (R100): the HBM controller records the sector (R408); behind a host port the units are marked as
they are performed. -/
def engPoison (s : State) (keys : List Nat) (wct : Nat) : State :=
  let k := keys.headD 0
  if keyTag k = 1 then s.recordPoison (sectorOf k)
  else if wct ≤ s.now then s.poisonKeys keys
  else { s with coh := { s.coh with pend := s.coh.pend.map fun p => if p.bytes.map (·.1) = keys ∧ p.wct = wct then { p with bad := true } else p } }

/-- An engine write of a granule or a part of one (R81, R100): its WCT. -/
def engWrite (s : State) (e : EngCtx) (va : Nat) (keys : List Nat) (bs : List Byte) (bad : Bool) : State × Nat :=
  match keys with
  | [] => (s, s.now)
  | k :: _ =>
    if 6 ≤ keyTag k then (s.chipGranule keys bs bad, s.now)
    else
      let r := if s.engCached e va k then
          s.acceptStore 0 e.prt e.launch (sectorOf k) (keys.zip bs)
        else ((s.snapshot e.launch k).performBytes (keys.zip bs), s.now)
      let r := if !bad then r else (r.1.engPoison keys r.2, r.2)
      (r.1.noteWct e.launch e.core va r.2, r.2)

/-- An access of an engine at these keys must wait: a COMMIT holds the sector, or the home holds 2,048 pending stores (R68, R90). -/
def engBlocked (s : State) (keys : List Nat) (write : Bool) : Bool :=
  match keys with
  | [] => false
  | k :: _ => decide (keyTag k < 6) && (s.locked (sectorOf k) || (write && decide (2048 ≤ s.pendCount (homeDie k))))

/-- Every load, and every acquire, of some lanes among the operations before number `op` has returned its value (R74, R94). -/
def loadsDone (c : Crew) (op : Nat) (m : Lanes) : Bool :=
  !acqPending { c with ops := c.ops.filter fun o => decide (o.id < op) } m
    && c.ops.all fun o => decide (op ≤ o.id) || (decide (o.kind ≠ .load) && decide (o.kind ≠ .ldfe)) || decide (o.lanes &&& m = 0)
      || o.accs.all fun a => decide (2 ≤ a.stage)

/-- The conditions of R94 for a command of a crew: every earlier load of its threads has returned. -/
def engReady (s : State) (k op : Nat) : Bool :=
  match s.anyCrew k with
  | none => true
  | some c => loadsDone c op (match c.findOp op with
    | some o => o.lanes
    | none => c.live)

/-- The conditions of R94 for a stream: every load that its crew issued before the QBIND has returned. -/
def streamReady (c : Crew) (st : Stream) : Bool := loadsDone c st.bound (BitVec.allOnes 64)

end State

/-! ## The fields of a transfer record (R103) -/

def badForm : Nat := 0x11
def badEngine : Nat := 0x10
def badState : Nat := 0x12
def badRange : Nat := 0x13
def badIndex : Nat := 0x14

/-- A signed 32-bit field. -/
def strideOf (v hi lo : Nat) : Int := sval 32 (bits v hi lo)

/-- The copy that 512 bits describe. -/
def copyOf (v num crew op pc : Nat) (e : EngCtx) : CopyCmd :=
  { num := num, crew := crew, op := op, pc := pc, ctx := e, ssp := bits v 63 61, dsp := bits v 60 58, src := bits v 447 384, dst := bits v 383 320,
    ssy := strideOf v 319 288, dsy := strideOf v 287 256, ssz := strideOf v 255 224, dsz := strideOf v 223 192, xb := bits v 127 108,
    ny := bits v 107 96, nz := bits v 95 84, chb := bits v 83 72, ord := bitOf v 1 }

/-- The barrier address of a record and its space code. -/
def recBar (v : Nat) : Nat := bits v 191 128
def recBarSp (v : Nat) : Nat := bits v 57 55

/-- RECORD_FORM (R101, R103, R105): reserved bits or codes, a misaligned field, XB = 0; `chain`: NEXT counts. An on-chip SRC, DST or BAR with bits 63:32
nonzero is of this kind, and no address fault ZEROBITS (R31), of which R103 does not speak: the model's choice, log entry 219. -/
def copyFormBad (v : Nat) (chain : Bool) : Bool :=
  let wide := fun hi lo sp => decide (sp ≠ 0) && decide (2 ^ 32 ≤ bits v hi lo)
  decide (bits v 71 64 ≠ 0) || decide (bits v 54 16 ≠ 0) || decide (bits v 7 2 ≠ 0) || decide (3 < bits v 63 61) || decide (3 < bits v 60 58)
    || decide (3 < recBarSp v) || decide (recBarSp v = 2) || decide (bits v 127 108 = 0) || decide (bits v 127 108 % 16 ≠ 0)
    || decide (bits v 447 384 % 16 ≠ 0) || decide (bits v 383 320 % 16 ≠ 0) || decide (bits v 319 288 % 16 ≠ 0) || decide (bits v 287 256 % 16 ≠ 0)
    || decide (bits v 255 224 % 16 ≠ 0) || decide (bits v 223 192 % 16 ≠ 0) || decide (recBar v % 64 ≠ 0) || wide 447 384 (bits v 63 61)
    || wide 383 320 (bits v 60 58) || wide 191 128 (recBarSp v) || (chain && decide (bits v 511 448 % 64 ≠ 0))

namespace CopyCmd

/-- The bytes that it moves, and its chunks. -/
def total (c : CopyCmd) : Nat := c.xb * (c.ny + 1) * (c.nz + 1)
def chunkCount (c : CopyCmd) : Nat := cdiv c.total 512

/-- The addresses of output byte `b` (R101). -/
def at' (c : CopyCmd) (sp base : Nat) (sy sz : Int) (b : Nat) : Nat :=
  let row := b / c.xb
  wrapInt (if sp = 0 then 64 else 32) ((base : Int) + (row / (c.ny + 1) : Nat) * sz + (row % (c.ny + 1) : Nat) * sy + (b % c.xb : Nat))
def srcAt (c : CopyCmd) (b : Nat) : Nat := c.at' c.ssp c.src c.ssy c.ssz b
def dstAt (c : CopyCmd) (b : Nat) : Nat := c.at' c.dsp c.dst c.dsy c.dsz b

end CopyCmd

namespace State

/-- The first of `n` rows, from row `i` on, that a crew may not reach: the detail and the address. -/
def rowsBad (s : State) (k sp len : Nat) (nd : Need) (at' : Nat → Nat) : Nat → Nat → Option (Nat × Nat)
  | _, 0 => none
  | i, n + 1 =>
    match s.rangeFault k sp (at' (i * len)) len nd with
    | some d => some (d, at' (i * len))
    | none => rowsBad s k sp len nd at' (i + 1) n

/-- The address fault of a copy's source, or of its destination (R105): the detail, the address and the ERR bit (R106). -/
def copyFault (s : State) (k : Nat) (c : CopyCmd) : Option (Nat × Nat × Nat) :=
  let rows := (c.ny + 1) * (c.nz + 1)
  match s.rowsBad k c.ssp c.xb .engRead c.srcAt 0 rows with
  | some p => some (p.1, p.2, errSrcf)
  | none => (s.rowsBad k c.dsp c.xb .engWrite c.dstAt 0 rows).map fun p => (p.1, p.2, errDstf)

/-- The address fault of a barrier that a command names: its header, then its bitmap and counters. -/
def barFault (s : State) (k sp addr : Nat) : Option Nat :=
  match s.abFault k sp addr 64 with
  | some d => some d
  | none =>
    let h := s.abHdr 0 true (s.abRefOf k sp addr)
    s.abFault k sp addr (abBytes h.nchunk h.ncont)

/-- A command takes its reference on the barrier it names (R115): a `.c` object through its entry alone (R119). -/
def barTake (s : State) (r : AbRef) (last : Nat) : Except Nat (State × Nat) := if r.sp = 2 then .error badState else s.abTake r last

/-- A channel of a core. -/
def chan (s : State) (core ch : Nat) : Channel := SMap.get {} (s.core core).chans ch
def setChan (s : State) (core ch : Nat) (c : Channel) : State := s.modCore core fun k => { k with chans := SMap.put k.chans ch c }

end State

/-- The number that the registers of an s image hold. -/
def imageOf (c : Crew) (h : Bool) (k n : Nat) : Nat := ((List.range n).map fun j => (c.rdS h (k + j)).toNat * 2 ^ (32 * j)).foldl (· + ·) 0

/-- COPY (R310): the checks at issue, the reference, the place in the channel's queue. R207 sends a launch's engine write into its own code image to
ENGINE; for an inline command, whose ranges are checked when it issues, R31 and R310 say MEMFAULT, which is what it takes (log entry 233). -/
def execCopy (i : XF) (s : State) : Out :=
  outsideRegions s i fun s => guarded s (Instr.copy i).shape i fun x c act =>
    let k := x.crew
    let core := coreOf k
    let ch := bits i.wN 2 0
    let v := imageOf c (c.inHandler x.lanes) i.a.toNat 16
    let q := s.chan core ch
    let cmd := copyOf v (s.core core).nextCmd k c.nextOp x.pc (s.engCtx k)
    let bar := recBar v
    let eng := fun d => Except.error (Stop.trap ⟨clsEngine, d, act, 0⟩)
    if q.owner.toNat ≠ 128 + s.crewPart k then eng badEngine
    else if copyFormBad v false || !bitOf v 0 then eng badForm
    else match s.copyFault k cmd with
      | some (d, addr, _) => .error (.trap ⟨clsMemfault, d, act, addr⟩)
      | none =>
        match if bar = 0 then none else s.barFault k (recBarSp v) bar with
        | some d => .error (.trap ⟨clsMemfault, d, act, bar⟩)
        | none =>
          let r := s.abRefOf k (recBarSp v) bar
          let put := fun (s : State) (cmd : CopyCmd) =>
            let s := s.modCrew k fun c => c.addOp { id := 0, kind := .copy, cls := 2, pc := x.pc, lanes := x.lanes, issued := s.ctr, errCls := clsEngine }
            let s := s.modCore core fun c => { c with nextCmd := c.nextCmd + 1 }
            (s.setChan core ch { q with queue := q.queue ++ [cmd] }).advance x
          if bar ≠ 0 ∧ s.abBusy k r then .error .hold
          else if !c.clsRoom 2 ∨ 16 ≤ q.queue.length then
            (if bar = 0 then .error .hold else match s.barTake r (cmd.chb + cmd.chunkCount - 1) with
              | .error d => eng d
              | .ok _ => .error .hold)
          else if bar = 0 then .ok (put s cmd)
          else match s.barTake r (cmd.chb + cmd.chunkCount - 1) with
            | .error d => eng d
            | .ok (s, gen) => .ok (put s { cmd with bar := some r, gen := gen })

/-- CHAIN (R102, R311). -/
def execChain (i : XF) (s : State) : Out :=
  outsideRegions s i fun s => guarded s (Instr.chain i).shape i fun x c act =>
    let k := x.crew
    let core := coreOf k
    let h := c.inHandler x.lanes
    let ch := bits i.wN 2 0
    let sp := i.ownN
    let addr := if sp = 0 then (c.rdW h true i.a.toNat 0).toNat else (c.rdS h i.a.toNat).toNat
    let q := s.chan core ch
    let nd : Need := if sp = 0 then { r := true, w := true, e := true } else {}
    let running := match q.chain with
      | some n => !n.parked
      | none => false
    if q.owner.toNat ≠ 128 + s.crewPart k then .error (.trap ⟨clsEngine, badEngine, act, 0⟩)
    else if addr % 64 ≠ 0 then .error (.trap ⟨clsMemfault, badZerobits, act, addr⟩)
    else match s.rangeFault k sp addr 64 nd with
      | some d => .error (.trap ⟨clsMemfault, d, act, addr⟩)
      | none =>
        if running then s.answer x (Instr.chain i).shape i act (statusWord 0 0 stBusy)
        else if !c.clsRoom 2 then .error .hold
        else
          let n : Chain := { sp := sp, addr := addr, crew := k, op := c.nextOp, pc := x.pc, ctx := s.engCtx k }
          let s := s.modCrew k fun c => c.addOp { id := 0, kind := .chain, cls := 2, pc := x.pc, lanes := x.lanes, issued := s.ctr, errCls := clsEngine }
          let left := q.chain.toList.filter (·.rest)
          (s.setChan core ch { q with chain := some n, ending := q.ending ++ left }).answer x (Instr.chain i).shape i act (statusWord 0 0 stOk)

namespace State

/-! ## Ends of commands and records (R95, R104, R105) -/

/-- A command has nothing left to do: all its transfers have started and every chunk is complete. -/
def cmdIdle (s : State) (core : Nat) (c : CopyCmd) : Bool := (s.core core).transfers.all fun t => decide (t.cmd ≠ c.num)

/-- The home, or the bank, of a record takes the write that closes it now (R68, R90). -/
def recordOpen (s : State) (c : CopyCmd) : Bool :=
  match c.record with
  | none => true
  | some (sp, addr) => match s.engKeys c.ctx sp addr 8 with
    | none => true
    | some keys => !s.engBlocked keys true

/-- STAT and OWN = 0 go to a retired record, one 64-bit write (R104). -/
def closeRecord (s : State) (c : CopyCmd) : State :=
  match c.record with
  | none => s
  | some (sp, addr) =>
    match s.engKeys c.ctx sp addr 8 with
    | none => s
    | some keys =>
      let v := leNat (s.engRead keys).1
      let v := v - bits v 15 8 * 2 ^ 8 - v % 2 + (c.fail.getD 0) * 2 ^ 8
      (s.engWrite c.ctx addr keys (leBytes 8 v) false).1

/-- Retires the finished records of chains in chain order: a record that is not first among its chain's waits, as does one whose home does not take the
write. -/
def closeRecords (s : State) : List (Nat × Nat) → List CopyCmd → State × List CopyCmd
  | _, [] => (s, [])
  | held, c :: rest =>
    if c.record.isNone then
      let r := closeRecords s held rest
      (r.1, c :: r.2)
    else if c.finished && !held.contains (c.crew, c.op) && s.recordOpen c then closeRecords (s.closeRecord c) held rest
    else
      let r := closeRecords s ((c.crew, c.op) :: held) rest
      (r.1, c :: r.2)

/-- What has come to its end on a channel: commands give up their references and inline copies retire; records retire in order; chains that
the channel no longer follows retire with their last record. -/
def settleChan (s : State) (core ch : Nat) : State :=
  let isOver := fun (s : State) (c : CopyCmd) => !c.finished && s.cmdIdle core c
  let s := (s.chan core ch).live.foldl (fun s c =>
    if isOver s c then
      let s := match c.bar with
        | some r => s.abSend r 2 0 0
        | none => s
      if c.record.isSome then s else s.opDone c.crew c.op c.fail clsEngine
    else s) s
  let q := s.chan core ch
  let live := (q.live.map fun c => if s.cmdIdle core c then { c with finished := true } else c).filter fun c => c.record.isSome || !c.finished
  let r := closeRecords s [] live
  let s := r.1.setChan core ch { q with live := r.2 }
  let busy := fun (n : Chain) => (r.2 ++ q.cur.toList).any fun c => decide (c.crew = n.crew ∧ c.op = n.op) && c.record.isSome
  let gone := q.ending.filter fun n => !busy n
  let s := gone.foldl (fun s n => s.opDone n.crew n.op (n.fail.map (·.1)) ((n.fail.map (·.2)).getD clsEngine)) s
  s.setChan core ch { s.chan core ch with ending := q.ending.filter busy }

/-! ## Transfers (R99, R100) -/

/-- What the inline stream, and the chain stream, of a channel could start a transfer of. -/
def inlineHead (s : State) (q : Channel) : Option CopyCmd :=
  match q.queue.head? with
  | some c => if s.engReady c.crew c.op then some c else none
  | none => none

def recordHead (s : State) (q : Channel) : Option CopyCmd :=
  match q.cur with
  | some c =>
    let earlier := q.live.any fun o => decide (o.crew = c.crew ∧ o.op = c.op) && o.record.isSome
    if s.engReady c.crew c.op && !(c.ord && earlier) then some c else none
  | none => none

/-- The command that a channel serves next: the two streams in turn. -/
def chanNext (s : State) (q : Channel) : Option (CopyCmd × Bool) :=
  match s.inlineHead q, s.recordHead q with
  | some a, some b => some (if q.last then (a, false) else (b, true))
  | some a, none => some (a, false)
  | none, some b => some (b, true)
  | none, none => none

/-- The next channel in round robin that has work. -/
def nextChan (s : State) (core : Nat) : Option Nat :=
  ((List.range 8).map fun j => ((s.core core).rrChan + 1 + j) % 8).find? fun ch =>
    let q := s.chan core ch
    !q.frozen && (s.chanNext q).isSome

/-- The granules that a transfer reads and writes, from output byte `b` on: their addresses and their keys. -/
def granules (s : State) (c : CopyCmd) (b n : Nat) : List ((Nat × Nat) × Option (List Nat) × Option (List Nat)) :=
  (List.range (n / 16)).map fun j =>
    let o := b + 16 * j
    ((c.srcAt o, c.dstAt o), s.engKeys c.ctx c.ssp (c.srcAt o) 16, s.engKeys c.ctx c.dsp (c.dstAt o) 16)

/-- A source granule: where the copy has already overwritten it, either its old bytes or what the copy wrote (R101). Log entry 6. -/
def copyRead (s : State) (c : CopyCmd) (keys : List Nat) : List Byte × Bool :=
  match c.overlap.find? fun o => decide (some o.1 = keys.head?) with
  | some o => if Config.freeOverlap s.ctr c.num then s.engRead keys else o.2
  | none => s.engRead keys

/-- Moves one granule: the state, the bytes overwritten so far and the latest WCT. -/
def moveGranule (c : CopyCmd) (st : State × List (Nat × List Byte × Bool) × Nat) (at' : Nat × Nat) (src dk : List Nat) :
    State × List (Nat × List Byte × Bool) × Nat :=
  let s := st.1.engFetch c.ctx c.ssp at'.1 src
  let d := s.copyRead { c with overlap := st.2.1 } src
  let key := dk.headD 0
  let old := s.engRead dk
  let overlap := if keyTag key = keyTag (src.headD 0) ∧ !(st.2.1.any fun o => decide (o.1 = key)) then st.2.1 ++ [(key, old)] else st.2.1
  let r := s.engWrite c.ctx at'.2 dk d.1 d.2
  (r.1, overlap, max st.2.2 r.2)

/-- A command of a channel fails after its start: no transfer of it starts any more (R28, R106). -/
def cmdFail (s : State) (core ch : Nat) (c : CopyCmd) (isRec : Bool) (d bit : Nat) : State :=
  let s := match c.bar with
    | some r => (s.abSend r 1 bit 0).abWake
    | none => s
  let c := { c with fail := some d, next := c.total }
  let q := s.chan core ch
  let q := if isRec then
      let mine := fun (n : Chain) => decide (n.crew = c.crew ∧ n.op = c.op)
      let stop := (q.chain.toList.filter mine)
      { q with cur := none, live := q.live ++ [c], chain := if stop.isEmpty then q.chain else none,
               ending := (q.ending ++ stop).map fun n => if mine n then { n with fail := some (d, clsEngine) } else n }
    else { q with queue := q.queue.tail, live := q.live ++ [c] }
  (s.setChan core ch q).settleChan core ch

/-- The master has broken isolation: the channel and its launch are frozen (R390). -/
def freezeChan (s : State) (core ch launch : Nat) : State :=
  (s.setChan core ch { s.chan core ch with frozen := true }).freezeLaunch launch core

/-- A channel starts a transfer of the command: it reads its source and writes its destination, once the homes take all its writes (R68, R90). An entry of
the inline queue is free once the last transfer of its command has started: R99 does not say when, log entry 220. -/
def startTransfer (s : State) (core ch : Nat) (c : CopyCmd) (isRec : Bool) : State :=
  let b := c.next
  let n := min (512 - b % 512) (c.total - b)
  let gs := s.granules c b n
  if (gs.any fun g => g.2.1.isNone || g.2.2.isNone) && c.bar.any fun r => !s.abHomed r && !s.homeTakes (s.abSectors r [0, 0]) then s
  else if gs.any fun g => g.2.1.isNone then s.cmdFail core ch c isRec badForced errSrcf
  else if gs.any fun g => g.2.2.isNone then s.cmdFail core ch c isRec badForced errDstf
  else
    let ks := gs.map fun g => (g.1, g.2.1.getD [], g.2.2.getD [])
    if (ks.any fun g => s.engBlocked g.2.1 false) || !s.homeTakes (((ks.map fun g => g.2.2.headD 0).filter fun k => decide (keyTag k < 6)).map sectorOf) then s
    else if ks.any fun g => !s.inGrants c.ctx.prt (g.2.1.headD 0) || !s.inGrants c.ctx.prt (g.2.2.headD 0) then s.freezeChan core ch c.ctx.launch
    else
      let r := ks.foldl (fun st g => moveGranule c st g.1 g.2.1 g.2.2) (s, c.overlap, s.now)
      let t : Transfer := { id := (s.core core).nextCmd, cmd := c.num, ch := ch, chunk := c.chb + b / 512, wct := r.2.2 }
      let s := r.1.modCore core fun k => { k with transfers := k.transfers ++ [t], nextCmd := k.nextCmd + 1, rrChan := ch }
      let c : CopyCmd := { c with next := b + n, overlap := r.2.1 }
      let q := s.chan core ch
      let q := { q with last := isRec }
      let all := decide (c.total ≤ c.next)
      s.setChan core ch (if isRec then (if all then { q with cur := none, live := q.live ++ [c] } else { q with cur := some c })
        else if all then { q with queue := q.queue.tail, live := q.live ++ [c] } else { q with queue := c :: q.queue.tail })

end State

/-- TRANSFER_COMPLETE (R100): the writes of a transfer are acknowledged. -/
def execTransferComplete (core transfer : Nat) (s : State) : Out :=
  .next (s.modCore core fun k => { k with transfers := k.transfers.map fun t => if t.id = transfer then { t with done := true } else t })

namespace State

/-- A copy of a channel by its number. -/
def cmdOf (q : Channel) (num : Nat) : Option CopyCmd := (q.queue ++ q.cur.toList ++ q.live).find? fun c => decide (c.num = num)

/-- The object takes no update of this kind now; what a HOMED entry forwards waits elsewhere. -/
def barLocked (s : State) (r : AbRef) (chunk : Option Nat) : Bool := !s.abHomed r && !s.abReady r chunk

/-- A chunk of a copy is complete: it contributes to the barrier, once the writes are acknowledged and their WCT has passed (R82, R116). -/
def chunkDone (s : State) (core cmd chunk : Nat) : State :=
  match (s.core core).transfers.find? fun t => decide (t.cmd = cmd ∧ t.chunk = chunk) with
  | none => s
  | some t =>
    if !t.done || decide (s.now ≤ t.wct) then s
    else
      let bar := (cmdOf (s.chan core t.ch) cmd).bind fun c => c.bar.map fun r => (r, c.gen)
      if bar.any fun p => s.barLocked p.1 (some chunk) then s
      else
        let s := s.modCore core fun k => { k with transfers := k.transfers.filter fun u => !decide (u.id = t.id) }
        let s := match bar with
          | some (r, gen) => (s.abSend r 0 chunk gen).abWake
          | none => s
        s.settleChan core t.ch

/-! ## Chain records (R104, R105) -/

/-- The chain stops at a record that failed: STAT is written in its turn, the barrier told, and the chain's operation ends with the error. -/
def recordFail (s : State) (core ch : Nat) (n : Chain) (c : CopyCmd) (d cls : Nat) (bit : Option (AbRef × Nat)) (stat : Bool) : State :=
  let s := match bit with
    | some (r, b) => (s.abSend r 1 b 0).abWake
    | none => s
  let q := s.chan core ch
  let c := { c with fail := some d, bar := none, next := c.total, finished := true }
  let q := { q with chain := none, live := if stat then q.live ++ [c] else q.live, ending := q.ending ++ [{ n with fail := some (d, cls) }] }
  (s.setChan core ch q).settleChan core ch

/-- The engine takes a record that passes its checks; at NEXT = 0 it stops following the chain. -/
def recordTake (s : State) (core ch : Nat) (n : Chain) (c : CopyCmd) (next : Nat) : State :=
  let q := s.chan core ch
  let s := s.modCore core fun k => { k with nextCmd := k.nextCmd + 1 }
  s.setChan core ch (if next = 0 then { q with cur := some c, chain := none, ending := q.ending ++ [n] }
    else { q with cur := some c, chain := some { n with addr := next } })

/-- The block of a chain's crew is stopped or at rest, and the record names its window: the channel parks there (R381). -/
def restParks (s : State) (n : Chain) (v : Nat) : Bool :=
  (decide (2 ^ 20 ≤ n.crew) || decide (3 ≤ (s.block (s.crew n.crew).block).stop)) && (decide (n.sp = 1) || decide (bits v 63 61 = 1) || decide (bits v 60 58 = 1) || (decide (recBar v ≠ 0) && decide (recBarSp v = 1)))

end State

/-- CHAIN_RECORD_READ (R102 to R105): the channel reads the record that its chain has come to, once every transfer of the record before has
started. OWN is read first, and nothing else of a record whose OWN is 0, whatever its other bytes are (R104). -/
def execChainRecordRead (core ch : Nat) (s : State) : Out :=
  let q := s.chan core ch
  match q.chain with
  | none => .next s
  | some n =>
    if n.parked || q.cur.isSome || q.frozen || !s.engReady n.crew n.op then .next s
    else
      let num := (s.core core).nextCmd
      let view := s.engView n.ctx
      let nd : Need := if n.sp = 0 then { r := true, w := true, e := true } else {}
      let blank : CopyCmd := copyOf 0 num n.crew n.op n.pc n.ctx
      match view.1.rangeFault view.2 n.sp n.addr 64 nd with
      | some d => .next (s.recordFail core ch n blank d clsEngine none false)
      | none =>
        match s.engKeys n.ctx n.sp n.addr 64 with
        | none => .next (s.recordFail core ch n blank badForced clsEngine none false)
        | some keys =>
          let view := ((view.1.engFetch n.ctx n.sp n.addr keys), view.2)
          let s := s.engFetch n.ctx n.sp n.addr keys
          let rd := s.engRead keys
          let v := leNat rd.1
          let c := { copyOf v num n.crew n.op n.pc n.ctx with record := some (n.sp, n.addr) }
          let bar := recBar v
          let r := { view.1.abRefOf view.2 (recBarSp v) bar with core := core }
          let known := decide (bar ≠ 0) && decide (recBarSp v < 4) && decide (recBarSp v ≠ 2) && decide (bar % 64 = 0)
            && (view.1.barFault view.2 (recBarSp v) bar).isNone && decide (r.sp ≠ 2)
          let tell := fun b => if known then some (r, b) else none
          if s.engBlocked keys false || (known && s.barLocked r none) then .next s
          else if (s.engRead (keys.take 1)).2 then .next (s.recordFail core ch n c 0x24 clsPoison none true)
          else if !bitOf v 0 then
            .next ((s.setChan core ch { q with chain := some { n with parked := true }, ending := q.ending ++ [n] }).settleChan core ch)
          else if rd.2 then .next (s.recordFail core ch n c 0x24 clsPoison none true)
          else if s.restParks n v then .next (s.setChan core ch { q with chain := some { n with parked := true, rest := true } })
          else if copyFormBad v true then .next (s.recordFail core ch n c badForm clsEngine (tell errForm) true)
          else match view.1.copyFault view.2 c with
            | some (d, _, b) => .next (s.recordFail core ch n c d clsEngine (tell b) true)
            | none =>
              if bar = 0 then .next (s.recordTake core ch n c (bits v 511 448))
              else match view.1.barFault view.2 (recBarSp v) bar with
                | some d => .next (s.recordFail core ch n c d clsEngine none true)
                | none =>
                  match s.barTake r (c.chb + c.chunkCount - 1) with
                  | .error d => .next (s.recordFail core ch n c d clsEngine (if d = badRange then some (r, errRange) else none) true)
                  | .ok (s', gen) => .next (s'.recordTake core ch n { c with bar := some r, gen := gen } (bits v 511 448))

/-- HOMED_CONTRIBUTION (R120): the oldest contribution, failure or end of a reference that a HOMED entry has forwarded is performed on the
home image. -/
def execHomedContribution (core entry : Nat) (s : State) : Out :=
  match SMap.find? (s.core core).ab entry with
  | none => .next s
  | some e =>
    match e.fwd with
    | [] => .next s
    | x :: rest =>
      let r : AbRef := ⟨1, entry, e.launch, core, e.prt⟩
      if !s.abReady r (if x.1 = 0 then some x.2.1 else none) then .next s
      else
        let s := s.modCore core fun c => { c with ab := SMap.put c.ab entry { e with fwd := rest } }
        .next (s.abApply r x).abWake

end Sys2Proof.Machine
end

