-- ==== Sys2Proof/Machine/Streams.lean ====
section
/-! DEFINITION. Streams.lean: gathers (R108, R109, R312) and the load and store streams of the queue ports (R110, R111, R313, R314). -/

namespace Sys2Proof.Machine

/-! ## GATHER -/

namespace GatherCmd

/-- Where row `i` of the output goes, the table row it takes, and its chunks (R101, R108). -/
def dstRow (g : GatherCmd) (i : Nat) : Nat := wrapInt 32 ((g.dst : Int) + (i * g.len : Nat))
def tblRow (g : GatherCmd) (j : Nat) : Nat := wrapInt (if g.tsp = 0 then 64 else 32) ((g.tbl : Int) + (j * g.len : Nat))
def total (g : GatherCmd) : Nat := g.n * g.len
def chunkCount (g : GatherCmd) : Nat := cdiv g.total 512

/-- The rows that have bytes in chunk `k` of the output. -/
def rowsOf (g : GatherCmd) (k : Nat) : List Nat :=
  (List.range g.n).filter fun i => decide (i * g.len < 512 * (k + 1)) && decide (512 * k < (i + 1) * g.len)

/-- Every row of a chunk is written and the latest of their WCTs has passed. -/
def chunkReady (g : GatherCmd) (k now : Nat) : Bool :=
  (g.rowsOf k).all fun i => g.rows.any fun r => decide (r.1 = i) && decide (r.2 < now)

end GatherCmd

/-- The gather that an s image describes (R312). -/
def gatherOf (v len num crew op pc : Nat) (e : EngCtx) : GatherCmd :=
  { num := num, crew := crew, op := op, pc := pc, ctx := e, tsp := if bitOf v 16 then 3 else 0, tbl := bits v 255 192, idx := bits v 63 32,
    n := bits v 11 0 + 1, nrows := bits v 95 64, len := len, dsp := bits v 15 15 + 1, dst := bits v 127 96, chb := bits v 31 20 }

/-- RECORD_FORM of a gather (R312): a reserved field or code, a misaligned field, NROWS = 0. -/
def gatherFormBad (v : Nat) : Bool :=
  decide (bits v 14 12 ≠ 0) || decide (3 < bits v 19 17) || decide (bits v 19 17 = 2) || decide (bits v 95 64 = 0) || decide (bits v 63 32 % 4 ≠ 0)
    || decide (bits v 127 96 % 16 ≠ 0) || decide (bits v 255 192 % 16 ≠ 0) || (bitOf v 16 && decide (bits v 255 224 ≠ 0))
    || decide (bits v 191 128 % 64 ≠ 0) || (decide (bits v 19 17 ≠ 0) && decide (bits v 191 160 ≠ 0))

namespace State

/-- A partition's gather engines on a die, and the one with the fewest commands. -/
def gathersOf (s : State) (die prt : Nat) : List Nat := ((List.range 8).map (die * 8 + ·)).filter fun g => decide ((s.gather g).owner.toNat = 128 + prt)

def shortest (s : State) : List Nat → Option Nat
  | [] => none
  | g :: rest =>
    match shortest s rest with
    | none => some g
    | some h => if (s.gather g).queue.length ≤ (s.gather h).queue.length then some g else some h

/-- The address fault of a gather: its index list, its table range, its destination. -/
def gatherFault (s : State) (k : Nat) (g : GatherCmd) : Option (Nat × Nat) :=
  match s.rangeFault k 1 g.idx (4 * g.n) {} with
  | some d => some (d, g.idx)
  | none =>
    match s.rangeFault k g.tsp g.tbl (g.nrows * g.len) .engRead with
    | some d => some (d, g.tbl)
    | none => (s.rangeFault k g.dsp g.dst (g.n * g.len) .engWrite).map fun d => (d, g.dst)

end State

/-- GATHER (R108, R312). R207 sends a launch's engine write into its own code image to
ENGINE; for an inline command, whose ranges are checked when it issues, R31 and R310 say MEMFAULT, which is what it takes (log entry 233). -/
def execGather (i : XF) (s : State) : Out :=
  outsideRegions s i fun s => guarded s (Instr.gather i).shape i fun x c act =>
    let k := x.crew
    let v := imageOf c (c.inHandler x.lanes) i.a.toNat 8
    let engines := s.gathersOf (dieOf (coreOf k)) (s.crewPart k)
    let bar := bits v 191 128
    let bsp := bits v 19 17
    let eng := fun d => Except.error (Stop.trap ⟨clsEngine, d, act, 0⟩)
    match s.shortest engines with
    | none => eng badEngine
    | some e =>
      let cmd := gatherOf v (16 * (i.wN % 256 + 1)) (s.gather e).nextCmd k c.nextOp x.pc (s.engCtx k)
      if gatherFormBad v then eng badForm
      else match s.gatherFault k cmd with
        | some (d, addr) => .error (.trap ⟨clsMemfault, d, act, addr⟩)
        | none =>
          match if bar = 0 then none else s.barFault k bsp bar with
          | some d => .error (.trap ⟨clsMemfault, d, act, bar⟩)
          | none =>
            let r := s.abRefOf k bsp bar
            let put := fun (s : State) (cmd : GatherCmd) =>
              let s := s.modCrew k fun c => c.addOp { id := 0, kind := .gather, cls := 4, pc := x.pc, lanes := x.lanes, issued := s.ctr, errCls := clsEngine }
              let g := s.gather e
              (s.setGather e { g with queue := g.queue ++ [cmd], nextCmd := g.nextCmd + 1 }).advance x
            if bar ≠ 0 ∧ s.abBusy k r then .error .hold
            else match if bar = 0 then Except.ok (s, 0) else s.barTake r (cmd.chb + cmd.chunkCount - 1) with
              | .error d => eng d
              | .ok (s', gen) =>
                if !c.clsRoom 4 ∨ 32 ≤ (s.gather e).queue.length then .error .hold
                else .ok (put s' { cmd with bar := if bar = 0 then none else some r, gen := gen })

namespace State

/-- A gather has nothing left to do (R95, R109): every row before a bad index is written and the latest of their WCTs has passed, and every chunk whose
rows are all written has contributed. -/
def gatherDone (c : GatherCmd) (now : Nat) : Bool :=
  let written := fun i => c.rows.any fun r => decide (r.1 = i)
  c.started && (List.range (min c.n c.stop)).all written && c.rows.all (fun r => decide (r.2 < now))
    && (List.range c.chunkCount).all fun k => !(c.rowsOf k).all written || c.chunks.contains (c.chb + k)

/-- A gather that has nothing left to do gives up its reference and retires. -/
def settleGather (s : State) (e : Nat) : State :=
  let g := s.gather e
  match g.queue.find? fun c => gatherDone c s.now with
  | none => s
  | some c =>
    let s := s.setGather e { g with queue := g.queue.filter fun o => !decide (o.num = c.num) }
    let s := match c.bar with
      | some r => s.abSend r 2 0 0
      | none => s
    s.opDone c.crew c.op (c.fail.map (·.1)) ((c.fail.map (·.2)).getD clsEngine)

/-- Changes a gather of an engine. -/
def modGather (s : State) (e num : Nat) (f : GatherCmd → GatherCmd) : State :=
  let g := s.gather e
  s.setGather e { g with queue := g.queue.map fun c => if c.num = num then f c else c }

/-- The gather that an engine works on: its oldest that has started, else the one it starts next. -/
def gatherNow (s : State) (e : Nat) : Option GatherCmd := (s.gather e).queue.find? (·.started)

/-- A gather fails: the barrier is told (R106). -/
def gatherFail (s : State) (e : Nat) (c : GatherCmd) (d cls : Nat) (bit : Option Nat) : State :=
  let s := match c.bar, bit with
    | some r, some b => (s.abSend r 1 b 0).abWake
    | _, _ => s
  s.modGather e c.num fun c => { c with fail := some (d, cls) }

/-- Starts a gather: the index list is read once; from the first index of NROWS or more on nothing is fetched (R109). -/
def gatherBegin (s : State) (e : Nat) (c : GatherCmd) : State :=
  let rd := (List.range c.n).map fun j => match s.engKeys c.ctx 1 (c.idx + 4 * j) 4 with
    | some keys =>
      let r := s.engRead keys
      (leNat r.1, r.2)
    | none => (0, false)
  let list := rd.map (·.1)
  let bad := ((List.range c.n).zip list).find? fun p => decide (c.nrows ≤ p.2)
  let s := s.modGather e c.num fun c => { c with started := true, list := list, stop := (bad.map (·.1)).getD c.n }
  if rd.any (·.2) then (s.modGather e c.num fun c => { c with stop := 0 }).gatherFail e c 0x24 clsPoison none
  else if bad.isSome then s.gatherFail e c badIndex clsEngine (some errIndex)
  else s

end State

/-- GATHER_START (R94, R109): the engine takes its next command, once the one it works on has retired. -/
def execGatherStart (die engine : Nat) (s : State) : Out :=
  let e := die * 8 + engine
  if (s.gatherNow e).isSome then .next (s.settleGather e)
  else match (s.gather e).queue.head? with
    | none => .next s
    | some c => if s.engReady c.crew c.op then .next ((s.gatherBegin e c).settleGather e) else .next s

namespace State

/-- Writes row `i` of a gather, granule by granule. -/
def gatherRow (s : State) (e : Nat) (c : GatherCmd) (i : Nat) : State :=
  let gs := (List.range (c.len / 16)).map fun j =>
    ((c.tblRow (c.list.getD i 0) + 16 * j, c.dstRow i + 16 * j), s.engKeys c.ctx c.tsp (c.tblRow (c.list.getD i 0) + 16 * j) 16, s.engKeys c.ctx c.dsp (c.dstRow i + 16 * j) 16)
  if gs.any fun g => g.2.1.isNone ∨ g.2.2.isNone then
    (s.modGather e c.num fun c => { c with stop := 0 }).gatherFail e c badForced clsEngine (some errSrcf)
  else
    let ks := gs.map fun g => (g.1, g.2.1.getD [], g.2.2.getD [])
    if ks.any fun g => s.engBlocked g.2.1 false then s
    else if ks.any fun g => !s.inGrants c.ctx.prt (g.2.1.headD 0) then s.freezeLaunch c.ctx.launch c.ctx.core
    else
      let s := ks.foldl (fun s g =>
        let s := s.engFetch c.ctx c.tsp g.1.1 g.2.1 true
        let d := s.engRead g.2.1
        (s.engWrite c.ctx g.1.2 g.2.2 d.1 d.2).1) s
      s.modGather e c.num fun c => { c with rows := c.rows ++ [(i, s.now)] }

/-- A chunk of a gather is complete. -/
def gatherChunk (s : State) (e num chunk : Nat) : State :=
  match (s.gather e).queue.find? fun c => decide (c.num = num) with
  | none => s
  | some c =>
    if chunk < c.chb ∨ c.chb + c.chunkCount ≤ chunk ∨ c.chunks.contains chunk ∨ !c.chunkReady (chunk - c.chb) s.now then s
    else if c.bar.any fun r => s.barLocked r (some chunk) then s
    else
      let s := s.modGather e num fun c => { c with chunks := c.chunks ++ [chunk] }
      let s := match c.bar with
        | some r => (s.abSend r 0 chunk c.gen).abWake
        | none => s
      s.settleGather e

end State

/-- GATHER_ROW_COMPLETE (R109): a fetched row has been written. -/
def execGatherRowComplete (die engine row : Nat) (s : State) : Out :=
  let e := die * 8 + engine
  match s.gatherNow e with
  | none => .next s
  | some c =>
    if min c.n c.stop ≤ row ∨ c.rows.any (fun r => decide (r.1 = row)) ∨ (s.launch c.ctx.launch).frozen then .next s
    else .next ((s.gatherRow e c row).settleGather e)

/-- CHUNK_COMPLETE (R82, R116): of a core's copy, or of the gather of engine `core - 256`, numbered over the dies. -/
def execChunkComplete (core cmd chunk : Nat) (s : State) : Out :=
  .next (if 256 ≤ core then s.gatherChunk (core - 256) cmd chunk else s.chunkDone core cmd chunk)

/-! ## Streams -/

/-- The lowest and the highest offset that `n` steps of a signed size reach. -/
def reach (step : Int) (n : Nat) : Int × Int :=
  let t := step * ((n - 1 : Nat) : Int)
  (min 0 t, max 0 t)

/-- The range that a stream's elements touch in all 64 lanes: its first address and its length (R110). -/
def Stream.range (st : Stream) : Nat × Nat :=
  let a := reach st.step st.count
  let b := reach st.stride 64
  (wrapInt (if st.space = 0 then 64 else 32) ((st.base : Int) + a.1 + b.1), (a.2 + b.2 - a.1 - b.1 + 4).toNat)

/-- The group is not the whole crew, the crew holds fewer than 256 registers, or the port is bound (R313). -/
def qbindUse (i : XF) (x : Ctx) (c : Crew) : Option Nat :=
  detailIf (notWhole x c || decide (c.nregs < 256) || (SMap.find? c.streams i.d.toNat).isSome) illUse

/-- QBIND (R110, R313). R207 sends a launch's engine write into its own code image to
ENGINE; for an inline command, whose ranges are checked when it issues, R31 and R310 say MEMFAULT, which is what it takes (log entry 233). -/
def execQbind (i : XF) (s : State) : Out :=
  outsideRegions s i fun s => guardedFirst (qbindUse i) s (Instr.qbind i).shape i fun x c act =>
    let k := x.crew
    let h := c.inHandler x.lanes
    let port := i.d.toNat
    let rd := fun j => c.rdS h (i.a.toNat + j)
    let sp := bits i.wN 2 0
    let st : Stream := { space := sp, base := (if sp = 0 then (rd 1 ++ rd 0).toNat else (rd 0).toNat), count := (rd 2).toNat, step := (rd 3).toInt,
                         stride := (rd 4).toInt, bound := c.nextOp, pc := x.pc, prot := s.protectedCrew k }
    if st.count = 0 ∨ 65536 < st.count then .error (illegal illUse act)
    else if (decide (sp ≠ 0) && decide (rd 1 ≠ 0)) || decide (st.step % 4 ≠ 0) || decide (st.stride % 4 ≠ 0) then
      .error (.trap ⟨clsEngine, badForm, act, 0⟩)
    else if st.base % 4 ≠ 0 then .error (.trap ⟨clsMemfault, badZerobits, act, st.base⟩)
    else match s.rangeFault k sp st.range.1 st.range.2 (if port < 4 then .engRead else .engWrite) with
      | some d => .error (.trap ⟨clsMemfault, d, act, st.range.1⟩)
      | none => .ok ((s.setCrew k { c with streams := SMap.put c.streams port st }).advance x)

/-- The pushes of a port that have not retired from ST. -/
def Crew.openPushes (c : Crew) (port : Nat) : Bool := c.ops.any fun o => decide (o.kind = .push) && decide (o.extra = port)

/-- What QUNB and QFLUSH share: the whole crew, and a bound port. -/
def streamInstr (s : State) (sh : Shape) (i : XF) (f : State → Ctx → Crew → Nat → Stream → Except Stop State) : Out :=
  outsideRegions s i fun s => guarded s sh i fun x c act =>
    if c.live &&& ~~~x.lanes ≠ 0 then .error (illegal illUse act)
    else match SMap.find? c.streams i.d.toNat with
      | none => .error (illegal illUse act)
      | some st => f s x c i.d.toNat st

/-- QUNB (R314): once every push has been sent; the register behind the port then holds 0 and is FULL in every lane. -/
def execQunb (i : XF) (s : State) : Out :=
  streamInstr s (Instr.qunb i).shape i fun s x c port st =>
    if !st.queued.isEmpty then .error .hold
    else
      let c := { c with streams := SMap.erase c.streams port }
      .ok ((s.setCrew x.crew (c.mapLanes (BitVec.allOnes 64) fun _ t => t.wr (248 + port) 0)).advance x)

/-- QFLUSH (R314). -/
def execQflush (i : XF) (s : State) : Out :=
  streamInstr s (Instr.qflush i).shape i fun s x c port st =>
    if port < 4 then
      .ok ((s.setCrew x.crew { c with streams := SMap.put c.streams port { st with fetched := [], bound := c.nextOp } }).advance x)
    else if c.openPushes port then .error .hold
    else .ok (s.advance x)

namespace State

/-- A stream that a QBIND at `pc` bound meets an address it cannot reach any more: an asynchronous ENGINE trap of the crew (R28, R107). -/
def streamFail (s : State) (k d pc : Nat) : State :=
  s.modCrew k fun c =>
    if c.async.any fun a => decide (a.cls = clsEngine ∧ a.detail = d ∧ a.pc = pc) then c
    else { c with async := c.async ++ [{ cls := clsEngine, detail := d, pc := pc, seq := c.seq }], seq := c.seq + 1 }

end State

/-- STREAM_PREFETCH_READ (R94, R111): the next element of a lane, at most 16 ahead of its pops. -/
def execStreamPrefetchRead (crew port lane : Nat) (s : State) : Out :=
  match SMap.find? s.ex.crews crew with
  | none => .next s
  | some c =>
    match SMap.find? c.streams port with
    | none => .next s
    | some st =>
      let ahead := SMap.get [] st.fetched lane
      let j := SMap.get 0 st.pos lane + ahead.length
      if 4 ≤ port ∨ 16 ≤ ahead.length ∨ st.count ≤ j ∨ !hasLane c.live lane ∨ c.frozen ∨ !State.streamReady c st then .next s
      else match s.engKeys (s.engCtx crew) st.space (st.addr lane j) 4 with
        | none => .next (s.streamFail crew badForced st.pc)
        | some keys =>
          if s.engBlocked keys false then .next s
          else if !s.inGrants (s.crewPart crew) (keys.headD 0) then .next (s.freezeCrew crew)
          else
            let s := s.engFetch (s.engCtx crew) st.space (st.addr lane j) keys
            let d := s.engRead keys
            let w := (BitVec.ofNat 32 (leNat d.1), d.2)
            .next (s.setCrew crew { c with streams := SMap.put c.streams port { st with fetched := SMap.set [] st.fetched lane (ahead ++ [w]) } })

namespace State

/-- An element of a push has been sent: it leaves the queue, and its access has the engine write's keys and WCT, which returns to its thread (R70); of a
protected pair both lanes' do. `bad`: it was not, since its address cannot be reached any more (R28). -/
def pushSent (s : State) (k port op : Nat) (m : Lanes) (keys : List Nat) (wct : Nat) (bad : Bool) : State :=
  s.modCrew k fun c =>
    let st := c.stream port
    let c := { c with streams := SMap.put c.streams port { st with queued := st.queued.filter fun q => !(decide (q.2.2.2 = op) && hasLane m q.1) } }
    (c.modOp op fun o => { o with
      accs := o.accs.map fun a => if hasLane m a.lane then { a with keys := keys, stage := 2, wct := wct } else a
      err := if bad then some badForced else o.err
      errCls := clsEngine }).mapLanes m fun _ t => { t with wctlast := max t.wctlast wct }

/-- A push may be sent: what R94 asks of the stream holds, and no earlier acquire of the lanes is open (R74). -/
def pushReady (c : Crew) (st : Stream) (op : Nat) (m : Lanes) : Bool :=
  streamReady c st && !acqPending { c with ops := c.ops.filter fun o => decide (o.id < op) } m

end State

/-- STREAM_PUSH_WRITE (R94, R111): the oldest element pushed by a lane is sent once its value has come; its ST operation then waits for its WCT (R78). In a
protected launch the two lanes of a pair are compared then, and the even lane's element is written (R154, R403). -/
def execStreamPushWrite (crew port lane : Nat) (s : State) : Out :=
  match SMap.find? s.ex.crews crew with
  | none => .next s
  | some c =>
    match SMap.find? c.streams port with
    | none => .next s
    | some st =>
      match st.queued.find? fun q => decide (q.1 = lane) with
      | none => .next s
      | some (l, j, w, op) =>
        let m := s.pairLanes crew l
        let accs := ((c.findOp op).map fun o => o.accs.filter fun a => hasLane m a.lane).getD []
        let pair := (st.queued.filter fun q => hasLane m q.1 && decide (q.2.2.2 = op)).map fun q => (q.1, q.2.2.1)
        if c.frozen ∨ !accs.all (·.found) ∨ !State.pushReady c st op m then .next s
        else if st.prot = true ∧ pair ≠ [(l - l % 2, w), (l - l % 2 + 1, w)] then .next (s.mismatchCrew crew)
        else
          let e := s.engCtx crew
          match s.engKeys e st.space (st.addr l j) 4 with
          | none => .next (s.pushSent crew port op m [] 0 true)
          | some keys =>
            if s.engBlocked keys true then .next s
            else if !s.inGrants e.prt (keys.headD 0) then .next (s.freezeCrew crew)
            else
              let s := s.engFetch e st.space (st.addr l j) keys
              let r := s.engWrite e (st.addr l j) keys (leBytes 4 w.toNat) (accs.any fun a => decide (a.pois ≠ 0))
              .next (r.1.pushSent crew port op m keys r.2 false)

end Sys2Proof.Machine
end

