-- ==== Sys2Proof/Machine/Pan.lean ====
section
/-! DEFINITION. Pan.lean: landing pans (R121 to R130, R316 to R318): routes, reservations, puts, slots, and the Celore ports they travel
over (R131 to R137). -/

namespace Sys2Proof.Machine

/-! ## Routes (R134, R135) -/

/-- Walks the symbols of a segment from a core's column and row with a heading (0 north, 1 east, 2 south, 3 west): where it ends, none when
it leaves the mesh or goes on after its end. -/
def walkSeg (x y h : Nat) : List Nat → Option (Nat × Nat)
  | [] => some (x, y)
  | t :: rest =>
    if t = 3 then (if rest.all (· = 3) then some (x, y) else none)
    else
      let h := if t = 1 then (h + 3) % 4 else if t = 2 then (h + 1) % 4 else h
      match h with
      | 0 => if y = 0 then none else walkSeg x (y - 1) h rest
      | 1 => if 7 ≤ x then none else walkSeg (x + 1) y h rest
      | 2 => if 4 ≤ y then none else walkSeg x (y + 1) h rest
      | _ => if x = 0 then none else walkSeg (x - 1) y h rest

/-- The twelve symbols of a segment field. -/
def segSyms (v : Nat) : List Nat := (List.range 12).map fun i => bits v (2 * i + 1) (2 * i)

/-- The core at which a Celore port attaches. -/
def portCore (p : Nat) : Nat := 40 * (p / 6) + (if p % 6 < 3 then 0 else 32) + [1, 4, 6].getD (p % 3) 0

/-- The core on the port's die at which a segment from a core ends. -/
def segEnd (core h seg : Nat) : Option Nat :=
  (walkSeg (core % 8) (core % 40 / 8) h (segSyms seg)).map fun p => core / 40 * 40 + p.2 * 8 + p.1

/-- The mark of a route that the loader found no port for (R136). -/
def unroutable (lit hdr : Nat) : Bool := decide (lit = 0) && decide (hdr = 1)

namespace Port

/-- The fields of the peer table entry (R133). -/
def pmod (p : Port) : Nat := bits p.peer.toNat 63 48
def valid (p : Port) : Bool := bitOf p.peer.toNat 42
def flight (p : Port) : Nat := bits p.peer.toNat 41 26

end Port

namespace State

/-- ROUTE (R130, R133, R135): the exit port has no peer or another one, or segment 1 does not end where it attaches. -/
def routeBad (s : State) (core lit hdr : Nat) : Bool :=
  let exit := bits hdr 5 1
  let p := s.port exit
  decide (24 ≤ exit) || decide (exit / 6 ≠ dieOf core) || !p.valid || decide (bits lit 63 48 ≠ p.pmod)
    || decide (segEnd core (bits hdr 7 6) (bits lit 23 0) ≠ some (portCore exit))

/-! ## The sender's side -/

/-- The sender table entry of a route, a slot and a generation, for a launch. -/
def sendEnt (s : State) (core d lit hdr slot gen : Nat) : Option (Nat × SendEnt) :=
  List.find? (fun p : Nat × SendEnt => decide (p.2.lit.toNat = lit) && decide (p.2.hdr.toNat = hdr) && decide (p.2.slot = slot)
    && decide (p.2.gen = gen) && decide (p.2.launch = d)) (s.core core).sender

/-- Entries held, and reservations that may still need one. -/
def senderHeld (s : State) (core : Nat) : Nat :=
  let c := s.core core
  c.sender.length + (List.filter (fun p : Nat × PanReq => !p.2.isPut && !p.2.answered) c.panReqs).length

def modReq (s : State) (core idx : Nat) (f : PanReq → PanReq) : State :=
  s.modCore core fun c => { c with panReqs := match SMap.find? c.panReqs idx with
    | some r => SMap.put c.panReqs idx (f r)
    | none => c.panReqs }

/-- The bytes of a put as the engine reads them, a byte after another. -/
def putData (s : State) (r : PanReq) : List Nat :=
  (List.range (512 * (bits r.w2.toNat 15 12 + 1))).map fun i => match s.engKey r.ctx 1 (r.arg + i) with
    | some k => (s.mem.byte k).toNat
    | none => 0

/-- Sends a reservation or a put into its port: its numbers, then a put's data. -/
def sendReq (s : State) (core idx : Nat) (r : PanReq) : State :=
  let s := s.modReq core idx fun r => { r with sent := true }
  if r.isPut then s.send 7 ([r.port, core, idx, r.lit.toNat, r.w2.toNat, r.pos] ++ s.putData r)
  else s.send 6 [r.port, core, idx, r.lit.toNat, r.w2.toNat, r.arg, r.pos]

/-- Sends what waits on a core and can leave: reservations on VC0, puts on VC2 in issue order on each port once they may start (R94, R128). -/
def sendPans (s : State) (core : Nat) : State :=
  ((s.core core).panReqs.foldl (fun (st : State × List Nat) p =>
    let r := p.2
    if r.sent || r.answered then st
    else if r.isPut then
      if st.2.contains r.port then st
      else if s.portOpen r.port 2 && s.engReady r.crew r.op then (st.1.sendReq core p.1 r, st.2) else (st.1, r.port :: st.2)
    else if s.portOpen r.port 0 then (st.1.sendReq core p.1 r, st.2) else st) (s, [])).1

/-- A crew's operation in the ops of that crew, while it has not retired. -/
def opOpen (s : State) (k op : Nat) : Bool := ((s.anyCrew k).bind fun c => c.findOp op).isSome

/-- A put that ended its reservation, or failed, frees the entry that it used: one, of several that are alike (R126). -/
def freeEntry (sender : SMap SendEnt) (r : PanReq) : SMap SendEnt :=
  match if r.isPut && bitOf r.w2.toNat 11 then List.find? (fun e : Nat × SendEnt =>
      decide (e.2.lit = r.lit) && decide (e.2.hdr.toNat = bits r.w2.toNat 31 24) && decide (e.2.slot = bits r.w2.toNat 23 18)
        && decide (e.2.gen = bits r.pos 31 16) && decide (e.2.launch = r.ctx.launch)) sender else none with
  | some e => SMap.erase sender e.1
  | none => sender

/-- Requests whose operations have retired go, and with them the entries that they free. -/
def settlePan (s : State) (core : Nat) : State :=
  let gone := List.filter (fun p : Nat × PanReq => p.2.answered && !s.opOpen p.2.crew p.2.op) (s.core core).panReqs
  s.modCore core fun c =>
    { c with
      panReqs := List.filter (fun p : Nat × PanReq => !gone.any fun g => decide (g.1 = p.1)) c.panReqs
      sender := gone.foldl (fun m g => freeEntry m g.2) c.sender }

/-- A request has its answer. A reservation writes its four registers; an operation with an error raises ENGINE at its retirement (R107, R129,
R130, R316). A put's error frees its entry as FIN does. -/
def answerReq (s : State) (core idx : Nat) (r : PanReq) (regs : List Nat) (err : Option Nat) : State :=
  let s := s.modReq core idx fun r => { r with answered := true, w2 := if err.isSome then r.w2 ||| 0x800#32 else r.w2 }
  let fill := fun (c : Crew) => match c.findOp r.op with
    | none => c
    | some o => ((List.range o.dests.length).zip o.dests).foldl (fun c p => c.fill o.masked p.2 (BitVec.ofNat 32 (regs.getD p.1 0)) false) c
  ((s.onCrew r.crew fill).opDone r.crew r.op err clsEngine).settlePan core

end State

/-! ## PANRSV and PANPUT at issue -/

/-- The fields of word 2 that PANRSV and PANPUT share: header, slot, mode. -/
def panHdr (w : Nat) : Nat := bits w 31 24
def panSlot (w : Nat) : Nat := bits w 23 18
def panMode (w : Nat) : Nat := bits w 17 16

def badPanForm : Nat := 0x16
def badRoute : Nat := 0x17
def badPanRange : Nat := 0x18
def badPanMode : Nat := 0x19
def badPanGen : Nat := 0x1A
def badLink : Nat := 0x1B

/-- PAN_FORM of a reservation (R316): a reserved field, a value out of range, NCONT other than 1 with `.put`. -/
def rsvFormBad (w prm : Nat) : Bool :=
  let ncont := bits w 15 12
  bitOf w 24 || decide (panMode w = 3) || decide (ncont = 0) || (decide (panMode w = 0) && decide (ncont ≠ 1)) || decide (bits w 11 1 ≠ 0)
    || decide (bits prm 31 16 = 0) || decide (bits prm 15 12 ≠ 0) || decide (bits prm 11 0 = 0) || decide (2048 < bits prm 11 0)

/-- PAN_FORM of a put (R317). -/
def putFormBad (w src pos : Nat) : Bool :=
  bitOf w 24 || decide (panMode w = 3) || decide (bits w 10 0 ≠ 0) || decide (src % 512 ≠ 0) || decide (bits pos 15 11 ≠ 0)

/-- Enters a PN operation and its request. -/
def State.panIssue (s : State) (x : Ctx) (isPut : Bool) (i : XF) (lit : DWord) (arg pos : Nat) (dests : List (Option Nat × Nat)) : State :=
  let k := x.crew
  let core := coreOf k
  let c := s.crew k
  let h := c.inHandler x.lanes
  let idx := (s.core core).nextCmd
  let r : PanReq := { crew := k, op := c.nextOp, isPut := isPut, ctx := s.engCtx k, lit := lit, w2 := i.w2, arg := arg, pos := pos,
                      port := bits (panHdr i.wN) 5 1, sentAt := s.now }
  let c := c.addOp { id := 0, kind := if isPut then .panput else .panrsv, cls := 5, pc := x.pc, lanes := x.lanes, dests := dests, d := i.d.toNat, sd := true,
                     masked := h, issued := s.ctr, errCls := clsEngine }
  let s := s.setCrew k (c.markEmpty (c.realDests h dests))
  s.modCore core fun c => { c with panReqs := SMap.put c.panReqs idx r, nextCmd := c.nextCmd + 1 }

/-- PANRSV (R126, R130, R316). -/
def execPanrsv (i : XF) (lit : BitVec 64) (s : State) : Out :=
  outsideRegions s i fun s => guarded s (Instr.panrsv i lit).shape i fun x c act =>
    let k := x.crew
    let core := coreOf k
    let h := c.inHandler x.lanes
    let key := (c.rdS h i.a.toNat).toNat
    let prm := (c.rdS h i.b.toNat).toNat
    let hdr := panHdr i.wN
    let eng := fun d => Except.error (Stop.trap ⟨clsEngine, d, act, 0⟩)
    let dests : List (Option Nat × Nat) := (List.range 4).map fun j => (none, i.d.toNat + j)
    if unroutable lit.toNat hdr then eng badLink
    else if rsvFormBad i.wN prm then eng badPanForm
    else if bits hdr 5 1 < 24 ∧ (s.port (bits hdr 5 1)).owner.toNat ≠ 128 + s.crewPart k then eng badEngine
    else if s.routeBad core lit.toNat hdr then eng badRoute
    else if 32 ≤ s.senderHeld core then
      let ws := (List.range 4).map fun j => (⟨none, i.d.toNat + j, if j = 0 then statusWord 0 0 stFull else 0⟩ : RegWrite)
      .ok ((s.setCrew k (c.applyWrites h ws)).advance x)
    else if !c.clsRoom 5 then .error .hold
    else
      let idx := (s.core core).nextCmd
      let down := (s.port (bits hdr 5 1)).down
      let s := s.panIssue x false i lit key prm dests
      let s := match SMap.find? (s.core core).panReqs idx with
        | some r => if down then (s.breach r.ctx.launch 0x24 r.port 255).answerReq core idx r [] (some badLink) else s.sendPans core
        | none => s
      .ok (s.advance x)

/-- PANPUT (R126, R127, R130, R317). Where several checks fail, the spec does not say which the put reports: it is the first of the route that leads nowhere,
PAN_FORM, the source range, the exit port, segment 1, the sender table entry, the MODE (log entry 222). -/
def execPanput (i : XF) (lit : BitVec 64) (s : State) : Out :=
  outsideRegions s i fun s => guarded s (Instr.panput i lit).shape i fun x c act =>
    let k := x.crew
    let core := coreOf k
    let h := c.inHandler x.lanes
    let src := (c.rdS h i.a.toNat).toNat
    let pos := (c.rdS h i.b.toNat).toNat
    let w := i.wN
    let hdr := panHdr w
    let eng := fun d => Except.error (Stop.trap ⟨clsEngine, d, act, 0⟩)
    if unroutable lit.toNat hdr then eng badLink
    else if putFormBad w src pos then eng badPanForm
    else match s.rangeFault k 1 src (512 * (bits w 15 12 + 1)) {} with
      | some d => .error (.trap ⟨clsMemfault, d, act, src⟩)
      | none =>
        if bits hdr 5 1 < 24 ∧ (s.port (bits hdr 5 1)).owner.toNat ≠ 128 + s.crewPart k then eng badEngine
        else if s.routeBad core lit.toNat hdr then eng badRoute
        else match s.sendEnt core (c.launch.getD 0) lit.toNat hdr (panSlot w) (bits pos 31 16) with
          | none => eng badPanGen
          | some (_, e) =>
            if e.mode ≠ panMode w then eng badPanMode
            else if !c.clsRoom 5 then .error .hold
            else .ok (((s.panIssue x true i lit src pos []).sendPans core).advance x)

/-! ## Slots (R123 to R125) -/

namespace State

/-- A slot's reference as a barrier. -/
def slotRef (core key : Nat) : AbRef := ⟨4, key, key / 64, core, 0⟩

/-- A RESERVED or FILLING slot fails: its cause, and the ERR bit of its barrier, whose waiters look again. -/
def slotFail (s : State) (core key cause bit : Nat) : State :=
  let p := s.slot core key
  if p.state ≠ 1 ∧ p.state ≠ 2 then s
  else
    let h := (slotHdr p).fail s.now bit
    (s.setSlot core key { withHdr p h with state := 4, cause := cause }).abWake

/-- The launch's context leaves the core: what its pan has not completed fails (R125). -/
def panStop (s : State) (d core : Nat) : State :=
  ((s.core core).pan.map (·.1)).foldl (fun s key => if key / 64 = d then s.slotFail core key 3 errStopped else s) s

/-- The launch's context is on the core: it runs, and none of its blocks there is saved. -/
def panHere (s : State) (d core : Nat) : Bool :=
  let l := s.launch d
  decide (l.phase = 1) && decide (0 < bits l.q.pan.toNat 6 0) && (l.q.spans.any fun p => decide (p.1 = core))
    && !s.fr.saved.any fun b => decide (b.block.launch = d) && decide (b.block.core = core)

/-- The launches that have a pan on the core. -/
def panLaunches (s : State) (core : Nat) : List Nat := (s.fr.launches.map (·.1)).filter fun d => s.panHere d core

/-- The share index of a slot's bytes and the partition of its launch on the core (R122). -/
def slotBase (s : State) (core key : Nat) : Nat :=
  let l := s.launch (key / 64)
  (spanOf l core).1 + key % 64 * (bits l.q.pan.toNat 23 12) * 512

def launchPart (s : State) (d core : Nat) : Nat := s.partOf ((grantedOn (s.launch d) core).headD 0)

/-- A FREE slot is reserved: its barrier is armed, its chunks hold zeros and their granules are EMPTY. -/
def slotReserve (s : State) (core key mode ncont nchunk dur smod score port : Nat) : State :=
  let p := s.slot core key
  let p : PanSlot :=
    { expiry := BitVec.ofNat 64 (s.now + 1000 * dur), gen := p.gen + 1, smod := BitVec.ofNat 16 smod, score := BitVec.ofNat 8 score,
      ports := 1#24 <<< port, state := 1, mode := mode, ncont := ncont, joined := 1, nchunk := nchunk, port := port, abState := abArmed, refs := p.refs,
      waiters := p.waiters, owed := [(port, smod, score)] }
  let base := s.slotBase core key
  let prt := s.launchPart (key / 64) core
  let s := (List.range (32 * nchunk)).foldl (fun s g =>
    (s.performBytes ((s.scrKeys core prt (base + 16 * g) 16).map fun k => (k, 0))).setFe core prt (base + 16 * g) false) s
  s.setSlot core key p

end State

/-- TRANSFER_START (R94, R99, R100): the channel whose turn it is starts one transfer, while fewer than 128 are in flight on the core; channel
8 stands for the puts and reservations that wait for a port (R94, R127, R132). -/
def execTransferStart (core ch : Nat) (s : State) : Out :=
  if ch = 8 then .next (s.sendPans core)
  else
    let s := if (s.chan core ch).live.any fun c => c.finished && c.record.isSome then s.settleChan core ch else s
    if 128 ≤ (s.core core).transfers.length ∨ s.nextChan core ≠ some ch then .next s
    else match s.chanNext (s.chan core ch) with
      | none => .next s
      | some (c, isRec) => .next (s.startTransfer core ch c isRec)

namespace State

/-- The heading with which a segment 2 starts at the attachment core of a port: opposite to the port's facing (R135). -/
def arrivalHeading (p : Nat) : Nat := if p % 6 < 3 then 2 else 0

/-- The core at which segment 2 of a route ends that has come in through a port; none where it is malformed (R135). -/
def arrivalCore (port seg2 : Nat) : Option Nat := segEnd (portCore port) (arrivalHeading port) seg2

/-- The flits of a virtual channel's receive buffer, and the count at which STOP is sent (R131). -/
def recvSize (vc : Nat) : Nat := if vc = 2 then 256 else 32
def stopAt (vc : Nat) : Nat := if vc = 2 then 192 else 24

/-- How many flits stand in a port's receive buffer of a virtual channel: free, since the spec does not say when a flit leaves it (log entry 223). -/
def recvFill (s : State) (p vc : Nat) : Nat := Config.freePick s.ctr (100 + p * 4 + vc) % (recvSize vc + 1)

/-- The receive buffer of a virtual channel reaches its stop threshold, and STOP is sent; below half of it GO is (R132). -/
def flowControl (s : State) (p vc : Nat) : State :=
  let q := s.port p
  let n := s.recvFill p vc
  if stopAt vc ≤ n ∧ q.told.getLsbD vc = false then (s.setPort p { q with told := q.told ||| (1#4 <<< vc) }).send 10 [p, vc, 1]
  else if n < stopAt vc / 2 ∧ q.told.getLsbD vc = true then (s.setPort p { q with told := q.told &&& ~~~(1#4 <<< vc) }).send 10 [p, vc, 0]
  else s

/-- The receive buffers on whose channels STOP stands drain. -/
def drainBuffers (s : State) : State :=
  (s.pl.ports.filter fun p => decide (p.2.told ≠ 0)).foldl (fun s p => (List.range 4).foldl (fun s vc => if p.2.told.getLsbD vc then s.flowControl p.1 vc else s) s) s

/-- Nothing comes in through a port: it is DOWN, and what was on its way is lost, or it retrains, which holds its traffic (R132, R137). -/
def portShut (s : State) (p : Nat) : Bool := decide (24 ≤ p) || (s.port p).down || (s.port p).retrain

end State

/-- PANRSV_ARRIVAL (R125, R130, R135): at the pan of the key on the core where the route's segment 2 ends, in the order of arrival. -/
def execPanrsvArrival (seg2 port slot mode ncont nchunk : Nat) (key : BitVec 32) (durUs smod score : Nat) (join : Bool) (s : State) : Out :=
  if s.portShut port then .next s
  else
  let s := s.flowControl port 0
  let refuse := fun st => Host.Outcome.next (s.panReply port smod score slot st 0 0)
  match State.arrivalCore port seg2 with
  | none => refuse badRoute
  | some core =>
  match (s.panLaunches core).find? fun d => decide (bits (s.launch d).q.pan.toNat 63 32 = key.toNat) with
    | none => refuse stDenied
    | some d =>
      let pan := (s.launch d).q.pan.toNat
      let k := State.slotKey d slot
      let p := s.slot core k
      if bits pan 6 0 ≤ slot ∨ nchunk = 0 ∨ bits pan 23 12 < nchunk ∨ 3 ≤ mode ∨ ncont = 0 ∨ 15 < ncont ∨ (mode = 0 ∧ ncont ≠ 1) ∨ durUs = 0 then
        refuse stDenied
      else if p.state = 0 then
        if join then refuse stBusy else .next (s.slotReserve core k mode ncont nchunk durUs smod score port)
      else if join ∧ (p.state = 1 ∨ p.state = 2) ∧ p.mode = mode ∧ p.ncont = ncont ∧ p.joined < p.ncont then
        let p := { p with joined := p.joined + 1, ports := p.ports ||| (1#24 <<< port) }
        if p.owed.isEmpty then .next ((s.setSlot core k p).panReply port smod score slot stOk p.gen.toNat p.expiry.toNat)
        else .next (s.setSlot core k { p with owed := p.owed ++ [(port, smod, score)] })
      else refuse stBusy

/-- SLOT_ZEROING_DONE (R125): the replies that waited for the zeroing of a slot leave. -/
def execSlotZeroingDone (core slot : Nat) (s : State) : Out := .next (s.slotReplies core slot)

/-- SLOT_EXPIRY (R125). -/
def execSlotExpiry (core slot : Nat) (s : State) : Out :=
  .next (if (s.slot core slot).expiry.toNat ≤ s.now then s.slotFail core slot 2 errStopped else s)

namespace State

/-- What a granule holds after one of a put arrives (R127). -/
def reduceGranule (mode : Nat) (old new : List Byte) : List Byte :=
  let part := fun (bs : List Byte) (n i : Nat) => leNat ((bs.drop (n * i)).take n)
  match mode with
  | 0 => new
  | 1 => (List.range 4).flatMap fun i => leBytes 4 (addRne fmtF32 (part old 4 i) (part new 4 i))
  | _ => (List.range 8).flatMap fun i => leBytes 2 (addRne fmtBf16 (part old 2 i) (part new 2 i))

/-- One chunk of an accepted put: its granules, then its contribution. -/
def putChunk (s : State) (core key gen chunk : Nat) (data : List Byte) : State :=
  let mode := (s.slot core key).mode
  let base := s.slotBase core key + 512 * chunk
  let prt := s.launchPart (key / 64) core
  let s := (List.range 32).foldl (fun s g =>
    let keys := s.scrKeys core prt (base + 16 * g) 16
    s.chipGranule keys (reduceGranule mode (keys.map s.mem.byte) ((data.drop (16 * g)).take 16)) (decide (mode ≠ 0) && keys.any s.poisoned)) s
  s.abContribute (slotRef core key) chunk gen

/-- The state of a slot after contributions to its barrier (R125). -/
def slotSync (s : State) (core key : Nat) : State :=
  let p := s.slot core key
  let p := { p with state := if p.abState = abComplete ∧ p.state < 3 then 3 else if p.abState = abFailed ∧ p.state < 4 then 4 else max p.state 2
                    cause := if p.abState = abFailed ∧ p.state < 4 then 5 else p.cause }
  s.setSlot core key p

/-- Why a put is refused by the slot it names (R127, R130), 0 when it is accepted. GEN is tested first: a put with an old GEN to a slot that is FREE or FAILED,
for which R137 allows PAN_GEN or PAN_RELEASED, gets PAN_GEN (log entry 224). -/
def putCause (p : PanSlot) (gen mode off n : Nat) : Nat :=
  if p.gen.toNat ≠ gen then badPanGen
  else match p.state with
    | 0 => 0x1E
    | 3 => badPanRange
    | 4 => [badPanRange, badLink, 0x1D, 0x1C, 0x1E, badPanRange].getD p.cause badPanRange
    | _ => if p.mode ≠ mode then badPanMode else if p.nchunk < off + n then badPanRange else 0

end State

/-- PANPUT_ARRIVAL (R127, R128): the put is accepted and performed, or refused with its cause; the acknowledgement leaves. Log entry 12 says
how the pan is found. -/
def execPanputArrival (seg2 port slot gen mode off n : Nat) (data : List (BitVec 8)) (s : State) : Out :=
  let ack := fun (s : State) c => Host.Outcome.next (s.sendReply port 9 [port, slot, gen, off, n, c])
  if n = 0 ∨ 16 < n ∨ data.length ≠ 512 * n ∨ s.portShut port then .next s
  else
  let s := s.flowControl port 2
  match State.arrivalCore port seg2 with
  | none => ack s badRoute
  | some core =>
    let pans := (s.panLaunches core).filter fun d => decide (slot < bits (s.launch d).q.pan.toNat 6 0)
    let fits := fun d => let p := s.slot core (State.slotKey d slot); decide (p.gen.toNat = gen) && p.ports.getLsbD port
    match (pans.find? fits).orElse fun _ => pans.head? with
    | none => ack s 0x1C
    | some d =>
      let key := State.slotKey d slot
      let c := State.putCause (s.slot core key) gen mode off n
      if c ≠ 0 then ack s c
      else
        let s := s.setSlot core key { s.slot core key with refs := (s.slot core key).refs + 1 }
        let s := (List.range n).foldl (fun s j => s.putChunk core key gen (off + j) ((data.drop (512 * j)).take 512)) s
        let s := s.setSlot core key { s.slot core key with refs := (s.slot core key).refs - 1 }
        let s := (s.slotSync core key).abWake
        ack s (if (s.slot core key).cause = 5 then badPanRange else 0)

/-- PANRSV_REPLY (R126, R129, R316): on OK the sender table entry is made before the registers fill. A reply that comes too late is
discarded (R133); nothing comes in through a port that retrains. -/
def execPanrsvReply (core idx st gen expiry : Nat) (s : State) : Out :=
  match SMap.find? (s.core core).panReqs idx with
  | none => .next s
  | some r =>
    if r.isPut || r.answered || !r.sent || s.portShut r.port then .next s
    else if badPanForm ≤ st then .next (s.answerReq core idx r [] (some st))
    else if st ≠ stOk then .next (s.answerReq core idx r [(statusWord 0 0 st).toNat] none)
    else
      let w := r.w2.toNat
      let e : SendEnt := { lit := r.lit, hdr := BitVec.ofNat 8 (panHdr w), slot := panSlot w, gen := gen % 65536, mode := panMode w, port := r.port,
                           launch := r.ctx.launch }
      let free := (List.range 32).find? fun j => (SMap.find? (s.core core).sender j).isNone
      let s := s.modCore core fun c => { c with sender := match free with
        | some j => SMap.put c.sender j e
        | none => c.sender }
      .next (s.answerReq core idx r [(statusWord gen 0 stOk).toNat, 0, expiry % 2 ^ 32, expiry / 2 ^ 32 % 2 ^ 32] none)

/-- PANPUT_ACK (R126, R129, R130). -/
def execPanputAck (core idx cause : Nat) (s : State) : Out :=
  match SMap.find? (s.core core).panReqs idx with
  | none => .next s
  | some r =>
    if !r.isPut || r.answered || !r.sent || s.portShut r.port then .next s
    else .next ((if cause = badLink then s.breach r.ctx.launch 0x24 r.port 255 else s).answerReq core idx r []
      (if cause = 0 then none else some cause))

/-- PAN_RESPONSE_TIMEOUT (R133). -/
def execPanResponseTimeout (core idx : Nat) (s : State) : Out :=
  match SMap.find? (s.core core).panReqs idx with
  | none => .next s
  | some r =>
    if r.answered ∨ s.now < r.sentAt + 2 * (s.port r.port).flight + 4000000 then .next s
    else .next (s.answerReq core idx r [] (some 0x1F))

/-! ## PANREL and PANQRY (R125, R318) -/

/-- PANREL's rows of the slot table: the status, and the pan after it. -/
def State.slotRelease (s : State) (core key : Nat) (force : Bool) : State × Nat :=
  let p := s.slot core key
  if force then (s.slotForce core key, stOk)
  else if 0 < p.refs ∨ p.state = 1 ∨ p.state = 2 then (s, stBusy)
  else if p.state = 0 then (s, stOk)
  else (s.setSlot core key { p with state := 0, abState := abIdle, ports := 0 }, stOk)

/-- What PANREL and PANQRY share: the slot of the issuing launch's own pan. -/
def ownSlot (s : State) (sh : Shape) (i : XF) (f : State → Ctx → Crew → Lanes → Nat → Nat → Except Stop State) : Out :=
  outsideRegions s i fun s => guarded s sh i fun x c act =>
    let slot := bits i.wN 5 0
    if act = 0 then .ok (s.advance x)
    else if s.nslot x.crew ≤ slot then .error (illegal illUse act)
    else f s x c act (coreOf x.crew) (State.slotKey (c.launch.getD 0) slot)

def execPanrel (i : XF) (s : State) : Out :=
  ownSlot s (Instr.panrel i).shape i fun s x _ act core key =>
    let r := s.slotRelease core key (decide (i.vN = 1))
    r.1.answer x (Instr.panrel i).shape i act (statusWord (s.slot core key).gen.toNat 0 r.2)

/-- The 192 bits of a slot record (R124). -/
def PanSlot.record (p : PanSlot) (slot : Nat) : Nat :=
  p.expiry.toNat * 2 ^ 128 + p.gen.toNat * 2 ^ 112 + p.smod.toNat * 2 ^ 96 + p.score.toNat * 2 ^ 88 + p.ports.toNat * 2 ^ 64 + p.state % 8 * 2 ^ 61
    + p.cause % 8 * 2 ^ 58 + p.mode % 4 * 2 ^ 56 + p.ncont % 16 * 2 ^ 52 + p.joined % 16 * 2 ^ 48 + p.nchunk % 4096 * 2 ^ 36 + slot % 64 * 2 ^ 30
    + p.port % 32 * 2 ^ 25

def execPanqry (i : XF) (s : State) : Out :=
  ownSlot s (Instr.panqry i).shape i fun s x c act core key =>
    let v := (s.slot core key).record (key % 64)
    let regs := fun (l : Option Nat) => (List.range 6).map fun j => (⟨l, i.d.toNat + j, BitVec.ofNat 32 (v / 2 ^ (32 * j))⟩ : RegWrite)
    let ws := if i.sd then regs none else (lanesOf act).flatMap fun l => regs (some l)
    .ok ((s.setCrew x.crew (c.applyWrites (c.inHandler x.lanes) ws)).advance x)

/-! ## Celore ports (R131 to R133, R137) -/

namespace State

def modPort (s : State) (p : Nat) (f : Port → Port) : State := s.setPort p (f (s.port p))

/-- Some slot, until its release, or some sender entry is held through the port (R124, R133). -/
def portHeld (s : State) (p : Nat) : Bool :=
  s.ex.cores.any fun c => (c.2.pan.any fun e => decide (e.2.state ≠ 0) && e.2.ports.getLsbD p)
    || c.2.sender.any fun e => decide (e.2.port = p)

/-- The launches with slots, entries or operations on a port: their pan traffic. -/
def portUsers (s : State) (p : Nat) : List Nat :=
  (s.ex.cores.flatMap fun c =>
    ((List.filter (fun e : Nat × PanSlot => (decide (e.2.state = 1) || decide (e.2.state = 2)) && e.2.ports.getLsbD p) c.2.pan).map fun e => e.1 / 64)
      ++ ((List.filter (fun e : Nat × SendEnt => decide (e.2.port = p)) c.2.sender).map fun e => e.2.launch)
      ++ ((List.filter (fun e : Nat × PanReq => decide (e.2.port = p) && !e.2.answered) c.2.panReqs).map fun e => e.2.ctx.launch)).eraseDups

/-- The port is DOWN (R137): what it carried is lost. Slots reserved through it fail, entries are freed, operations retire with PAN_LINK, and
each launch concerned has one MACHINE breach with the port's number. -/
def doPortDown (s : State) (p : Nat) : State :=
  let cores := s.ex.cores
  let slots := cores.flatMap fun c =>
    (List.filter (fun e : Nat × PanSlot => (decide (e.2.state = 1) || decide (e.2.state = 2)) && e.2.ports.getLsbD p) c.2.pan).map fun e => (c.1, e.1)
  let reqs := cores.flatMap fun c =>
    (List.filter (fun e : Nat × PanReq => decide (e.2.port = p) && !e.2.answered) c.2.panReqs).map fun e => (c.1, e.1, e.2)
  let users := s.portUsers p
  let s := s.modPort p fun q => { q with down := true, retrain := false, told := 0, vc1 := [] }
  let s := { s with pl := { s.pl with mgmt := { s.pl.mgmt with routesOld := true } } }
  let s := slots.foldl (fun s e => s.slotFail e.1 e.2 1 errLink) s
  let s := { s with ex := { s.ex with cores := s.ex.cores.map fun c =>
    (c.1, { c.2 with sender := List.filter (fun e : Nat × SendEnt => !decide (e.2.port = p)) c.2.sender }) } }
  let s := reqs.foldl (fun s e => s.answerReq e.1 e.2.1 e.2.2 [] (some badLink)) s
  users.foldl (fun s d => s.breach d 0x24 p 255) s

/-- A retrain starts, a MACHINE event of each launch whose pan traffic it holds (R132, R346); the fourth within a second takes the port DOWN. -/
def doRetrain (s : State) (p : Nat) : State :=
  let q := s.port p
  let recent := (q.retrains.filter fun t => decide (s.now < t + 1000000000)) ++ [s.now]
  if q.down || q.retrain then s
  else if 4 ≤ recent.length then (s.modPort p fun q => { q with retrains := recent }).doPortDown p
  else (s.portUsers p).foldl (fun s d => s.breach d 0x24 p 255) (s.modPort p fun q => { q with retrain := true, retrains := recent, replays := [] })

end State

def execPortDown (port : Nat) (s : State) : Out := .next (if 24 ≤ port ∨ (s.port port).down then s else s.doPortDown port)

/-- PORT_RETRAIN (R132). -/
def execPortRetrain (port : Nat) (s : State) : Out := .next (if 24 ≤ port then s else s.doRetrain port)

/-- PORT_RETRAIN_COMPLETE (R132): traffic goes on, or the port goes DOWN. -/
def execPortRetrainComplete (port : Nat) (ok : Bool) (s : State) : Out :=
  .next (if !(s.port port).retrain then s else if ok then (s.modPort port fun q => { q with retrain := false }).releaseVc1 port else s.doPortDown port)

/-- FLIT_CRC_FAIL (R132): a replay, which loses nothing; 16 of them within 10 µs start a retrain. -/
def execFlitCrcFail (port : Nat) (s : State) : Out :=
  let q := s.port port
  let recent := (q.replays.filter fun t => decide (s.now < t + 10000)) ++ [s.now]
  if 24 ≤ port ∨ q.down ∨ q.retrain then .next s
  else
    let s := s.modPort port fun q => { q with replays := recent }
    .next (if 16 ≤ recent.length then s.doRetrain port else s)

/-- CELORE_STOP and CELORE_GO (R132). -/
def execCeloreStop (port vc : Nat) (s : State) : Out :=
  .next (if 24 ≤ port ∨ 4 ≤ vc then s else s.modPort port fun q => { q with stopped := q.stopped ||| (1#4 <<< vc) })

def execCeloreGo (port vc : Nat) (s : State) : Out :=
  .next (if 24 ≤ port ∨ 4 ≤ vc then s else (s.modPort port fun q => { q with stopped := q.stopped &&& ~~~(1#4 <<< vc) }).releaseVc1 port)

/-- PORT_TRAINING (R133): FLIGHT is half the round trip, rounded up to 10 ns. -/
def execPortTraining (port pmod pport roundTrip : Nat) (s : State) : Out :=
  let f := min 65535 (cdiv roundTrip 20 * 10)
  if 24 ≤ port then .next s
  else .next (s.modPort port fun q =>
    { q with peer := BitVec.ofNat 64 (pmod % 65536 * 2 ^ 48 + pport % 32 * 2 ^ 43 + 2 ^ 42 + f * 2 ^ 26), measured := f, down := false, retrain := false,
             stopped := 0, told := 0, vc1 := [], replays := [], retrains := [] })

/-- PEER_TABLE_WRITE (R133): refused while the port is held, and below the measured FLIGHT. -/
def execPeerTableWrite (port : Nat) (value : BitVec 64) (s : State) : Out :=
  .next (if 24 ≤ port ∨ s.portHeld port ∨ bits value.toNat 41 26 < (s.port port).measured then s
    else s.modPort port fun q => { q with peer := value &&& 0xFFFFFFFFFC000000#64 })

end Sys2Proof.Machine
end

