-- ==== Sys2Proof/Machine/Assay.lean ====
section
/-! DEFINITION. Assay.lean: the assay (R206, R208, R209, R330, R334 to R339, R426, R435): what each instruction is charged, and the
walk over the paths of one crew. Energies are in tenths of a pJ, currents in 1/160 A. -/

namespace Sys2Proof.Machine

/-! ## What one instruction is charged (R208, R209, R435) -/

/-- What the charges depend on: the class's figures of R336 and the denominator of its shares, whether a region maps
host or peer memory (`hosty`) or local HBM (`near`), whether `.x` is charged as another die's, whether the launch is protected, the start-grant wait of R337, the crews that take turns, FLIGHT by port, the spaces bound to
queue ports, the granted cores, and those on the crew's die. -/
structure AssayEnv where
  load   : Nat := 2000
  acc    : Nat := 1600
  host   : Nat := 6000
  share  : Nat := 16
  hosty  : Bool := false
  near   : Bool := true
  far    : Bool := false
  prot   : Bool := false
  ramp   : Nat := 60
  turns  : Nat := 1
  flight : SMap Nat := []
  ports  : SMap Nat := []
  cores  : Nat := 1
  dieCores : Nat := 1
  deriving DecidableEq, Repr

/-- The figures of a reservation class (R336). -/
def AssayEnv.ofClass (rclass : Nat) : AssayEnv :=
  match rclass with
  | 0 => { load := 2000, acc := 1600, host := 6000, share := 16 }
  | 1 => { load := 1200, acc := 1000, host := 4000, share := 8 }
  | 2 => { load := 800, acc := 700, host := 3000, share := 4 }
  | _ => { load := 600, acc := 500, host := 2500, share := 2 }

/-- An assay line: issue, latency in clk and in ns, energy per active lane and per operation, the bound that it leaves remembered,
the current, whether the path is raised to its remembered bounds there. -/
structure Charge where
  n     : Nat := 1
  clk   : Nat := 0
  ns    : Nat := 0
  lane  : Nat := 0
  op    : Nat := 0
  bound : Option (Nat × Nat) := none
  amps  : Nat := 0
  raises : Bool := false
  deriving DecidableEq, Repr

/-! The energy classes of R208. -/
def e0 : Nat := 4
def e1 : Nat := 12
def e2 : Nat := 25
def e3 : Nat := 60
def e4 : Nat := 40
def e5 : Nat := 300
def e6 : Nat := 1800

/-- The ns of a timeout code (R267). -/
def timeoutNs (k : Nat) : Nat := if k = 0 then 0 else 2 ^ (k + 3)

namespace AssayEnv

/-- The load figure for `.g` (R336): the larger of those of the footprint's memories. -/
def gLoad (e : AssayEnv) : Nat := max (if e.hosty then e.host else 0) (if e.near then e.load else 0)

/-- The bound of a `.g` store at a fence or WAITC (R336): the larger of those of the footprint's memories. -/
def gStore (e : AssayEnv) : Nat := max (if e.hosty then e.host else 0) (if e.near then e.acc + 4100 else 0)

/-- Extra passes of a `.c` or `.k` access (R435). -/
def passes (oneWord : Bool) : Nat := if oneWord then 0 else 63

/-- The latency of a load (R259): spaces 0 `.g`, 1 `.c`, 2 `.k`, 3 `.x`, 4 `.l`. -/
def loadFig (e : AssayEnv) (sp : Nat) (oneWord : Bool) : Nat × Nat :=
  match sp with
  | 0 => (0, e.gLoad)
  | 1 => (12 + passes oneWord, 0)
  | 2 => (44 + passes oneWord, 0)
  | 3 => (if e.far then 260 else 120, 0)
  | _ => (4, 0)

/-- The latency of an atomic (R268). -/
def atomFig (e : AssayEnv) (sp : Nat) (oneWord : Bool) : Nat × Nat :=
  match sp with
  | 0 => (0, e.gLoad)
  | 1 => (16 + passes oneWord, 0)
  | 2 => (48 + passes oneWord, 0)
  | _ => (if e.far then 264 else 124, 0)

/-- The bound of a store (R336, R435). -/
def storeFig (e : AssayEnv) (sp : Nat) (oneWord : Bool) : Nat × Nat := if sp = 0 then (0, e.gStore) else e.loadFig sp oneWord

/-- The energy of an access (R259). -/
def accE (sp words : Nat) : Nat :=
  match sp with
  | 0 => e5 + e6
  | 1 => e4 * words
  | 2 => 2 * e4 * words
  | 3 => e5
  | _ => e4 * words

def loadC (e : AssayEnv) (sp words : Nat) (oneWord : Bool) : Charge :=
  { clk := (e.loadFig sp oneWord).1, ns := (e.loadFig sp oneWord).2, lane := accE sp words }

def storeC (e : AssayEnv) (sp words : Nat) (oneWord : Bool) : Charge :=
  { bound := some (e.storeFig sp oneWord), lane := accE sp words }

/-- The bound of a FENCE (R263), by scope. -/
def fenceNs (e : AssayEnv) (scope : Nat) : Nat := if scope = 0 then 0 else e.acc + 4100 + (if scope = 3 then e.host else 0)

/-- The wait that `.rel` adds (R73): the fence of its scope. -/
def relNs (e : AssayEnv) (rel : Bool) (scope : Nat) : Nat := if rel then e.fenceNs scope else 0

/-- FENCE (R263), by scope: the thread's loads are charged where they stand, and a core store at most its 75 clk. Log entry 125. -/
def fenceC (e : AssayEnv) (scope : Nat) : Charge := { clk := if scope = 0 then (e.storeFig 1 false).1 else 0, ns := e.fenceNs scope, op := e0 }

/-- The latency that an operand's space adds to a matrix operation (R288): 0 `.c`, 1 `.k`, 2 `.x`. -/
def mxSpace (e : AssayEnv) (sp : Nat) : Nat :=
  match sp with
  | 0 => 0
  | 1 => 32
  | _ => if e.far then 248 else 108

/-- A side that the footprint allows: 0 local HBM, 1 host or peer memory, 3 `.x`, else a scratchpad. -/
def side (e : AssayEnv) (x : Nat) : Nat :=
  match x with
  | 0 => if e.near then 0 else 1
  | 1 => if e.hosty then 1 else 0
  | 3 => 3
  | _ => 2

/-- The bound of a copy of `b` bytes in ns (R435), by its sides. -/
def copyNs (e : AssayEnv) (b src dst : Nat) : Nat :=
  let rd := match src with | 0 => e.load | 1 => e.host | _ => 200
  let wr := match dst with | 0 => e.acc + 4100 | 1 => e.host | _ => 200
  let at1 := fun side => match side with
    | 0 => cdiv (b * e.share * e.dieCores) 8400
    | 1 => cdiv (b * e.share * e.cores) 128
    | _ => cdiv (b * 100) 16896
  rd + wr + max (at1 src) (at1 dst)

/-- The energy of moving `b` bytes (R310). -/
def copyE (b src dst : Nat) : Nat :=
  let side := fun x => match x with | 0 => e5 + e6 | 1 | 3 => e5 | _ => 16 * e4
  cdiv b 64 * (side src + side dst)

/-- Mesh hops of a segment (R135): the symbols before its first end symbol. -/
def hops (seg : Nat) : Nat := ((segSyms seg).takeWhile (· ≠ 3)).length

/-- The bound of a pan operation without zeroing or link time (R435). -/
def panFig (e : AssayEnv) (lit : DWord) (w2 : Word) : Nat × Nat :=
  (4 * (hops (bits lit.toNat 23 0) + hops (bits lit.toNat 47 24)), 2 * SMap.get 0 e.flight (bits w2.toNat 29 25) + 180)

end AssayEnv

/-- The energy of an MMA of 64 rows (R289), by A's format; a sparse B adds 2 nJ. -/
def mmaE (fmt : Nat) (sparse : Bool) : Nat :=
  (match fmt with
    | 0 => 290000
    | 1 => 290000
    | 2 => 310000
    | 3 => 310000
    | 4 => 330000
    | 5 => 330000
    | _ => 240000) + if sparse then 20000 else 0

/-- The energy of an MLDB (R289) from space 0 `.c`, 1 `.k`, 2 `.x`; `more`: CB4, C8 or `.sps`. -/
def mldbE (sp : Nat) (more : Bool) : Nat := 16000 + 8000 * sp + (if more then 6000 else 0)

def alu (lat e : Nat) : Charge := { clk := lat, lane := e }

/-- An integer operation of latency `lat` and `k` charges of E1; W = 1 adds `more` clk and doubles the charges (R212, R216, R217). -/
def intC (x : XF) (lat k more : Nat) : Charge := alu (lat + (if x.o0 then more else 0)) (e1 * k * (if x.o0 then 2 else 1))

def sfuC (lat : Nat) : Charge := { n := 4, clk := lat, lane := e3 }

/-- Words moved by an access of size variant `v` (R258). -/
def sizeWords (v : Nat) : Nat := if v = 5 then 2 else if v = 6 then 4 else 1

/-- Energy of a look at a barrier (R272): E4 in `.c` or a slot, E5 otherwise. -/
def abE (x : XF) : Nat := if x.ownN = 1 ∨ x.ownN = 3 then e4 else e5

/-- What an instruction of a kernel, at `pc`, is charged by its own assay line. -/
def lineOf (e : AssayEnv) (pc : Nat) : Instr → Charge
  | .nop | .nopX _ => {}
  | .iadd _ _ _ | .isub _ _ _ | .and _ _ _ | .or _ _ _ | .xor _ _ _ | .shl _ _ _ | .shr _ _ _ | .sra _ _ _ | .iaddImm _ _ _ => alu 4 e1
  | .imul _ _ _ => alu 6 (2 * e1)
  | .iaddX x | .isubX x | .andX x | .orX x | .xorX x | .shlX x | .shrX x | .sraX x | .iaddImmX x | .imin x | .imax x | .iabs x | .ineg x
  | .andn x | .not x | .rotl x | .clz x | .popc x | .brev x | .bfx x | .bfi x | .sel x | .icmp x => intC x 4 1 2
  | .imulX x | .imulh x | .imad x => intC x 6 2 2
  | .lea _ => alu 6 e1
  | .idot4 _ => alu 6 (2 * e1)
  | .idiv x | .irem x => intC x 36 8 32
  | .mov _ _ | .movX _ | .movi _ _ | .moviX _ | .moviB64 _ _ | .moviB64X _ _ | .pand _ | .por _ | .pxor _ | .pnot _ | .pmov _
  | .fabs _ | .fneg _ | .pack _ | .unpk _ => alu 2 e0
  | .fadd _ _ _ | .faddX _ | .fmul _ _ _ | .fmulX _ | .fsub _ _ _ | .fsubX _ | .fcvt _ => alu 6 e2
  | .ffma _ _ _ | .ffmaX _ => alu 6 (2 * e2)
  | .fmin _ | .fmax _ | .fcmp _ | .frnd _ => alu 4 e2
  | .fclass _ => alu 4 e0
  | .frcp _ | .frsq _ => sfuC 20
  | .fexp2 _ | .flog2 _ => sfuC 24
  | .fsqrt _ => sfuC 28
  | .fsin _ | .fcos _ | .ftanh _ => sfuC 32
  | .qnt x => if x.vN = 1 then alu 14 (3 * e2) else alu 6 e2
  | .dqnt x => if x.vN = 0 then alu 8 (2 * e2) else if x.vN = 1 then alu 6 e2 else alu 4 e0
  | .cbld x => { clk := if x.ownN = 2 then 0 else (e.loadFig (if x.ownN = 0 then 1 else 3) true).1,
                 ns := if x.ownN = 2 then e.gLoad else 0, op := if x.ownN = 0 then 8 * e4 else e5 }
  | .ctld x => { clk := if x.ownN = 2 then 0 else (e.loadFig (if x.ownN = 0 then 1 else 3) true).1,
                 ns := if x.ownN = 2 then e.gLoad else 0, op := if x.ownN = 0 then 20 * e4 else 2 * e5 }
  | .ldCB32 _ _ _ => e.loadC 1 1 false
  | .ldCB32X x => e.loadC 1 1 x.sa
  | .stCB32 _ _ _ => e.storeC 1 1 false
  | .stCB32X x => e.storeC 1 1 x.sa
  | .ldGB32 _ _ _ | .ldGB32X _ => e.loadC 0 1 true
  | .stGB32 _ _ _ | .stGB32X _ => e.storeC 0 1 true
  | .ld x => e.loadC x.space (sizeWords x.vN) x.sa
  | .st x => { e.storeC x.space (sizeWords x.vN) x.sa with ns := e.relNs (bitOf x.b.toNat 5) (bits x.b.toNat 7 6) }
  | .ldfe x => { e.loadC x.space (sizeWords x.vN) x.sa with
      ns := if x.o0 then timeoutNs (bits x.b.toNat 7 3) else 0, lane := e4 * sizeWords x.vN }
  | .stfe x => { e.storeC x.space (sizeWords x.vN) x.sa with lane := e4 * sizeWords x.vN }
  | .feset x | .feclr x => { bound := some (e.loadFig (if x.o0 then 2 else 1) x.sa), lane := e4 * (x.b.toNat + 1) }
  | .pref _ => { lane := e5 + e6 }
  | .atom x | .cas x => { clk := (e.atomFig (bits x.wN 2 0) x.sa).1, ns := (e.atomFig (bits x.wN 2 0) x.sa).2 + e.relNs (bitOf x.wN 4) (bits x.wN 6 5),
                          lane := e1 + (if bits x.wN 2 0 = 0 then e5 + e6 else e4) }
  | .fatom x => { clk := (e.atomFig (bits x.wN 2 0) x.sa).1, ns := (e.atomFig (bits x.wN 2 0) x.sa).2 + e.relNs (bitOf x.wN 4) (bits x.wN 6 5),
                  lane := e2 + (if bits x.wN 2 0 = 0 then e5 + e6 else e4) }
  | .sdrain _ => { ns := e.acc, op := e0 }
  | .fence scope => e.fenceC scope.toNat
  | .fenceX x => e.fenceC (x.d.toNat % 4)
  | .waitad x => { ns := timeoutNs (bits x.cN 4 0), lane := if x.ownN = 1 ∨ x.ownN = 2 then e4 else e5 }
  | .waitc x => { ns := timeoutNs (bits x.cN 4 0), op := e0, raises := true }
  | .bar x => { ns := timeoutNs (bits x.cN 4 0), op := e0 }
  | .barinit _ | .barkill _ => { op := e0 }
  | .barkillAb x | .abinit x | .abtest x => { op := abE x }
  | .abwait x => { ns := timeoutNs (bits x.cN 4 0), op := abE x, raises := true }
  | .shf _ => alu 6 e0
  | .vote _ | .ballot _ => alu 4 e0
  | .redux _ => alu 10 e1
  | .bra _ | .braX _ | .brc _ _ _ | .brcX _ | .loop _ _ | .loopX _ | .endl _ _ _ | .join _ | .next _ | .jtab _ | .call _ | .ret _ | .abort _
  | .trap _ | .tret _ | .bkpt _ => alu 0 e0
  | .region => alu 40 e0
  | .exit | .exitX _ => { lane := e0, raises := true }
  | .sign _ | .signX _ | .tkill _ | .cvset _ | .mode _ | .qbind _ => { op := e0 }
  | .qunb _ | .qflush _ => { op := e0, ns := e.gStore }
  | .yield x => alu x.wN e0
  | .tryRegion x => alu 0 (e0 * (16 * bits x.cN 3 0))
  | .commit _ => { ns := e.gLoad + 800, op := e5 }
  | .copy _ =>
    let f := Config.freeBytes pc
    { bound := some (0, e.copyNs f.1 (e.side f.2.2.1) (e.side f.2.2.2)), op := AssayEnv.copyE f.1 (e.side f.2.2.1) (e.side f.2.2.2) }
  | .chain _ =>
    let f := Config.freeBytes pc
    { clk := 12, bound := some (0, (f.2.1 + 1) * e.copyNs f.1 (e.side f.2.2.1) (e.side f.2.2.2)),
      op := e4 + (f.2.1 + 1) * AssayEnv.copyE f.1 (e.side f.2.2.1) (e.side f.2.2.2) }
  | .gather x =>
    let f := Config.freeBytes pc
    let rows := f.2.1 % 4096 + 1
    let len := 16 * (bits x.wN 7 0 + 1)
    let src := if f.2.2.1 = 3 then 3 else e.side (f.2.2.1 % 2)
    { bound := some (0, e.copyNs (rows * len) src 2 + 200), op := rows * (AssayEnv.copyE len src 2 + e4) }
  | .panrsv x lit => { n := 3, bound := some ((e.panFig lit x.w2).1 + 256, (e.panFig lit x.w2).2), op := e5 }
  | .panput x lit =>
    let k := bits x.wN 15 12 + 1
    { n := 3, bound := some ((e.panFig lit x.w2).1, (e.panFig lit x.w2).2 + cdiv (k * 576 * e.share) 448),
      op := k * ((if bits x.wN 17 16 = 0 then 2 else 3) * 128 * e4 + 9 * e5) }
  | .panrel _ | .panqry _ => alu 12 e0
  | .mldb x => { clk := 16 + 30 + e.mxSpace x.ownN, amps := 96,
                 op := mldbE x.ownN (decide (x.vN = 2) || decide (x.vN = 3) || decide (bits x.b.toNat 5 4 = 2)) }
  | .mma x => { clk := 64 + 96 + e.mxSpace x.ownN + e.ramp, amps := 464,
                op := cdiv (mmaE x.vN (bitOf x.cN 7) * (if bits x.cN 6 5 = 1 then 64 else bits x.wN 19 13 + 1)) 64 }
  | .mmaw x => { clk := bits x.wN 12 0 + 30 + e.mxSpace (bits x.cN 6 5) + 96 + e.mxSpace x.ownN + 1664, amps := 464,
                 op := cdiv (mmaE x.vN (decide (bits x.wN 27 26 = 2)) * wRows x) 64 + mldbE (bits x.cN 6 5) (decide (bits x.wN 31 28 = 2) || decide (bits x.wN 31 28 = 3)
                   || decide (bits x.wN 27 26 = 2)) }
  | .mzero _ => { clk := 10, amps := 96, op := 3000 }
  | .msta x | .mlda x => { clk := 80 + e.mxSpace x.ownN, amps := 96, op := if x.ownN = 0 then 22000 else 40000 }
  | .scac x => { clk := 44 + e.mxSpace x.ownN, amps := 96, op := 11000 }
  | .mstat _ | .time _ | .enrg _ => alu 4 e0
  | .csrr x => if csrPerCrew x.a.toNat then { clk := 4, op := e0 } else alu 4 e0
  | .csrw x | .csrs x | .csrc x => if csrPerCrew x.d.toNat then { clk := 4, op := e0 } else alu 4 e0
  | .quote _ | .accept _ | .decline _ => { op := e5 }
  | .halt _ => alu 0 e0
  | .sleep x => { ns := if x.vN = 0 then x.wN else timeoutNs (bits x.cN 4 0), lane := e0 }
  | .blst x => if x.vN = 0 then
      { clk := e.ramp, op := bits x.wN 20 16 * 4530 * bits x.wN 15 0, amps := 29 * bits x.wN 20 16 }
    else {}
  | _ => {}

/-- The accesses of queue ports (R313): a pop is charged as a load of the port's space, a push as a store. -/
def portCharges (e : AssayEnv) (i : Instr) : List Charge :=
  let x := i.xf
  ((operands i.shape x).filter fun o => o.port x.qp).map fun o =>
    let sp := SMap.get 0 e.ports (o.n - 248)
    if o.fld.isDest then e.storeC sp 1 false else e.loadC sp 1 false

/-- The lanes that classes are charged for: one if uniform, else 64 (R208, R338). -/
def chargedLanes (i : Instr) : Nat := if i.shape.uniform i.xf then 1 else 64

/-! ## Paths (R335) -/

/-- One path, or the largest of several: clk and ns summed apart, energy, the largest matrix or ballast current, the multiplier, the ends of
the remembered bounds with the newest first, how often it was raised, the charges evaluated, the issues it may make, `over`: more than 2^24. -/
structure Path where
  clk    : Nat := 0
  ns     : Nat := 0
  energy : Nat := 0
  amps   : Nat := 0
  mult   : Nat := 1
  rem    : List (Nat × Nat) := []
  raised : Nat := 0
  visits : Nat := 0
  issues : Nat := 0
  beyond   : Bool := false
  deriving DecidableEq, Repr

/-- Time at the assured clock of 2.64 GHz, in 1/66 ns. -/
def timeOf (p : Nat × Nat) : Nat := 25 * p.1 + 66 * p.2

namespace Path

/-- The path is raised to the end of every remembered bound; clk and ns are raised apart, as they are summed apart. -/
def raise (p : Path) : Path :=
  { p with
    clk := p.rem.foldl (fun m r => max m r.1) p.clk
    ns := p.rem.foldl (fun m r => max m r.2) p.ns
    rem := []
    raised := p.raised + 1 }

/-- Adds one charge: its issue multiplied by the groups and the crews that take turns, its latency, its bound from the clk it was
charged. -/
def add (p : Path) (e : AssayEnv) (c : Charge) (lanes : Nat) : Path :=
  let clk := p.clk + p.mult * e.turns * c.n
  let p := { p with
    clk := clk + c.clk
    ns := p.ns + c.ns
    energy := p.energy + c.lane * lanes + c.op
    amps := max p.amps c.amps
    rem := match c.bound with | some b => (clk + b.1, p.ns + c.ns + b.2) :: p.rem | none => p.rem }
  if c.raises then p.raise else p

/-- A transfer to a new PC (R222). -/
def hop (p : Path) : Path := { p with clk := p.clk + 4 }

/-- The bounds that `q` remembers beyond those of `base`, from which it set out. -/
def newRem (base q : Path) : List (Nat × Nat) := if q.raised = base.raised then q.rem.take (q.rem.length - base.rem.length) else q.rem

/-- The largest of two paths that set out from `base`: time and energy each at its maximum. -/
def larger (base a b : Path) : Path :=
  let t := if timeOf (a.clk, a.ns) < timeOf (b.clk, b.ns) then b else a
  { t with
    energy := max a.energy b.energy
    amps := max a.amps b.amps
    mult := max a.mult b.mult
    rem := newRem base a ++ newRem base b ++ (if a.raised = base.raised ∨ b.raised = base.raised then base.rem else [])
    raised := max a.raised b.raised
    visits := max a.visits b.visits
    issues := max a.issues b.issues
    beyond := a.beyond || b.beyond }

/-- `k` further trips like the one from `a` to `b`. -/
def more (a b : Path) (k : Nat) : Path :=
  let dc := b.clk - a.clk
  let dn := b.ns - a.ns
  let fresh := newRem a b
  { b with
    clk := b.clk + k * dc
    ns := b.ns + k * dn
    energy := b.energy + k * (b.energy - a.energy)
    issues := b.issues + k * (b.issues - a.issues)
    rem := fresh.map (fun r => (r.1 + k * dc, r.2 + k * dn)) ++ b.rem.drop fresh.length }

end Path

/-! ## Where control goes -/

/-- Control after an instruction: on in sequence, to a PC, out of the walk, back to the CALL, the arms of a split (with whether the arm is
a transfer), the largest of several paths, a loop with its trips and its ENDL, a call with its depth, a call or a return of some lanes, a repeat of the next instruction. -/
inductive Flow where
  | seq | stop | ret
  | jump (t : Nat)
  | arms (l : List (Nat × Bool))
  | largest (l : List (Nat × Bool))
  | loop (m e : Nat)
  | call (t d : Nat)
  | callSome (t d : Nat)
  | retSome
  | rep (count : Nat)
  deriving DecidableEq, Repr

/-- The predicate field always holds: p7, not negated. -/
def always (x : XF) : Bool := decide (x.pix = 7) && !x.pneg

def jtabArms (pc n : Nat) : List (Nat × Bool) := (List.range (n + 1)).map fun k => (pc + 12 + 4 * k, true)

def flowOf (pc next : Nat) : Instr → Flow
  | .bra off => .jump (offWords pc off.toInt)
  | .braX x => if always x then .jump (offBytes pc x.w2) else .arms [(offBytes pc x.w2, true), (next, false)]
  | .brc k neg off => if k = 7 && !neg then .jump (offWords pc off.toInt) else .arms [(offWords pc off.toInt, true), (next, false)]
  | .brcX x => .arms [(offBytes pc x.w2, true), (next, false)]
  | .jtab x => if x.sa then .largest (jtabArms pc x.wN) else .arms (jtabArms pc x.wN)
  | .loop m off => .loop (m.toNat + 1) (pc + 4 * off.toNat)
  | .loopX x => .loop (x.wN + 1) (pc + 4 * (x.d.toNat * 65536 + x.a.toNat * 256 + x.b.toNat))
  | .call x => if always x then .call (offBytes pc x.w2) (bits x.cN 5 0) else .callSome (offBytes pc x.w2) (bits x.cN 5 0)
  | .ret x => if always x then .ret else .retSome
  | .exit | .halt _ | .tret _ => .stop
  | .exitX x => if always x then .stop else .seq
  | .rep count _ _ _ _ | .repX count _ _ _ _ => .rep count.toNat
  | _ => .seq

/-- A waiting point of R144 for the lanes that split at a PC from `lo` to `hi`: a JOIN waits only for the fork it names. -/
def isWaitPoint (lo hi pc : Nat) : Instr → Bool
  | .join off => decide (lo ≤ offWords pc off.toInt) && decide (offWords pc off.toInt ≤ hi)
  | .region | .next _ | .bar _ | .abwait _ | .waitad _ => true
  | .ldfe x => x.o0
  | _ => false

/-- The instructions of an image: PC, instruction and its words, in order. -/
abbrev Listing := List (Nat × Instr × Nat)

def Listing.fetch (l : Listing) (pc : Nat) : Option (Instr × Nat) := (List.find? (fun p => decide (p.1 = pc)) l).map (·.2)

/-- The mark for the return point of the present call. -/
def retMark : Nat := 2 ^ 33

/-- The waiting points that every path from a PC reaches; `ended` (where there is none): every path ends without reaching any. -/
structure Reach where
  pts : List Nat := []
  ended : Bool := false
  deriving DecidableEq, Repr

namespace Reach

/-- What both of two arms reach; an arm that ends before any waiting point counts as arrived wherever the other goes (R144). -/
def meet (a b : Reach) : Reach :=
  if a.pts.isEmpty && a.ended then b
  else if b.pts.isEmpty && b.ended then a
  else { pts := a.pts.filter fun p => b.pts.contains p, ended := false }

/-- The reach from a PC, given the reach of the PCs after it; beyond `hi` the lanes have left the loop. -/
def at' (tbl : List (Nat × Reach)) (stop : Nat) (hi : Option Nat) (pc : Nat) : Reach :=
  if pc = stop then { pts := [stop], ended := true }
  else if hi.any (fun h => decide (h < pc)) then { ended := true }
  else ((List.find? (fun p => decide (p.1 = pc)) tbl).map (·.2)).getD { ended := true }

def meetAll (l : List Reach) : Reach := l.foldl meet { ended := true }

/-- The reach of every instruction of a listing for a split at a PC from `lo` to `up`. -/
def table (lst : Listing) (lo up stop : Nat) (hi : Option Nat) : List (Nat × Reach) :=
  lst.foldr (fun p tbl =>
    let pc := p.1
    let next := pc + 4 * p.2.2
    let there := at' tbl stop hi
    let on := match flowOf pc next p.2.1 with
      | .stop => { ended := true }
      | .ret => { pts := [retMark], ended := true }
      | .jump t => there t
      | .arms l | .largest l => meetAll (l.map fun a => there a.1)
      | .loop _ e => there (e + 4)
      | .retSome => meet { pts := [retMark], ended := true } (there next)
      | .call _ _ | .callSome _ _ | .seq | .rep _ => there next
    let on := if isWaitPoint lo up pc p.2.1 then { on with pts := pc :: on.pts } else on
    (pc, on) :: tbl) []

/-- The first waiting point that every arm reaches. -/
def first (lst : Listing) (lo up stop : Nat) (hi : Option Nat) (arms : List Nat) : Option Nat :=
  let tbl := table (lst.filter fun p => decide (lo < p.1)) lo up stop hi
  let r := meetAll (arms.map (at' tbl stop hi))
  r.pts.foldl (fun b p => match b with | none => some p | some q => some (min p q)) none

end Reach

/-! ## The walk (R335, R426) -/

/-- The image under assay. -/
structure Assayed where
  env : AssayEnv
  lst : Listing
  deriving DecidableEq, Repr

/-- Charges the instruction at `pc`: its line, at least the issue its length takes (R209), and its queue ports. -/
def Assayed.charge (a : Assayed) (pc : Nat) (i : Instr) (words : Nat) (p : Path) : Path :=
  let c := lineOf a.env pc i
  let p := { p with visits := p.visits + 1, issues := p.issues + p.mult }
  let p := p.add a.env { c with n := max c.n (cdiv words 2) } (chargedLanes i)
  (portCharges a.env i).foldl (fun p c => p.add a.env { c with n := 0 } 64) p

/-- Charges the target of a REP `n` times (R236). -/
def Assayed.chargeRep (a : Assayed) (pc : Nat) (i : Instr) (words : Nat) : Nat → Path → Path
  | 0, p => p
  | n + 1, p => a.chargeRep pc i words n (a.charge pc i words p)

/-- The cap of the multiplier: 64 groups, 32 of a protected launch. -/
def Assayed.cap (a : Assayed) : Nat := if a.env.prot then 32 else 64

/-- Walks from `pc` to `stop`, the end of the path, or the first PC beyond `hi`, the loop's end; answers the path and the PCs at
which lanes have left the loop. -/
def walkCode (a : Assayed) : Nat → Nat → Nat → Option Nat → Nat → Path → Path × List Nat
  | 0, _, _, _, _, p => ({ p with beyond := true }, [])
  | n + 1, pc, stop, hi, depth, p =>
    if pc = stop then (p, [])
    else if hi.any (fun h => decide (h < pc)) then (p, [pc])
    else if p.beyond || decide (2 ^ 24 < p.visits) then ({ p with beyond := true }, [])
    else
      match a.lst.fetch pc with
      | none => (p, [])
      | some (i, words) =>
        let next := pc + 4 * words
        let p := a.charge pc i words p
        /- The arms, each from its own start, one after the other up to the first waiting point that all reach; where there is none, to
        their ends, with the multiplier doubled. -/
        let split := fun (lo : Nat) (arms : List (Nat × (Path → Path))) (p : Path) =>
          let one := fun (inner : Nat) (p : Path) => arms.foldl (fun (acc : Path × List Nat) arm =>
            let q := walkCode a n arm.1 inner hi depth (arm.2 acc.1)
            (q.1, acc.2 ++ q.2)) (p, [])
          match Reach.first a.lst lo pc stop hi (arms.map (·.1)) with
          | some c =>
            let inner := if c = stop ∨ c = retMark then stop else c
            let r := one inner p
            if inner = stop then r
            else
              let q := walkCode a n c stop hi depth r.1
              (q.1, r.2 ++ q.2)
          | none => one stop { p with mult := min a.cap (2 * p.mult) }
        let into := fun (l : List (Nat × Bool)) => l.map fun arm => (arm.1, fun (p : Path) => if arm.2 then p.hop else p)
        /- The callee, with the transfers to it and back. -/
        let callee := fun (t : Nat) (p : Path) => (walkCode a n t retMark none (depth + 1) p.hop).1.hop
        match flowOf pc next i with
        | .stop | .ret => (p, [])
        | .seq => walkCode a n next stop hi depth p
        | .jump t => walkCode a n t stop hi depth p.hop
        | .arms l => split pc (into l) p
        | .largest l =>
          let r := (into l).foldl (fun (acc : Option Path × List Nat × Nat) arm =>
            let q := walkCode a n arm.1 stop hi depth { (arm.2 p) with visits := acc.2.2 }
            (some (match acc.1 with | none => q.1 | some b => Path.larger p b q.1), acc.2.1 ++ q.2, q.1.visits)) (none, [], p.visits)
          ({ (r.1.getD p) with visits := r.2.2 }, r.2.1)
        | .retSome => walkCode a n next stop hi depth p.hop
        | .rep count =>
          match a.lst.fetch next with
          | none => (p, [])
          | some (t, tw) => walkCode a n (next + 4 * tw) stop hi depth (a.chargeRep next t tw (count + 1) p)
        | .call t d =>
          walkCode a n next stop hi depth (if d ≤ depth then p else callee t p)
        | .callSome t d =>
          if d ≤ depth then walkCode a n next stop hi depth p else split pc [(next, callee t), (next, id)] p
        | .loop m e =>
          let trip := fun (p : Path) =>
            let r := walkCode a n next e (some e) depth p
            match a.lst.fetch e with
            | some (.endl k neg cnt, w) => (a.charge e (.endl k neg cnt) w r.1, r.2)
            | _ => r
          let t1 := trip p
          /- Trips until one leaves the multiplier as it finds it; those after it cost what it costs. A body counts once (R334). -/
          let body := ((List.range 8).foldl (fun (acc : Path × Nat) _ =>
            if acc.2 = 0 ∨ acc.1.beyond then acc
            else
              let t := (trip { acc.1.hop with visits := p.visits }).1
              let t := { t with visits := t1.1.visits }
              if t.mult = acc.1.mult then (Path.more acc.1 t (acc.2 - 1), 0) else (t, acc.2 - 1)) (t1.1, m - 1)).1
          let out := t1.2.foldl (fun l x => if l.contains x then l else l ++ [x]) [e + 4]
          match out with
          | [c] => walkCode a n c stop hi depth body
          | _ => split pc (into (out.map fun t => (t, false))) body

/-- The path of one crew from the entry to its end (R335), its open bounds included; `beyond`: more than 2^24 charges (R334). -/
def Assayed.path (a : Assayed) : Path :=
  let p := (walkCode a (2 ^ 26) 0 retMark none 0 {}).1.raise
  { p with beyond := p.beyond || decide (2 ^ 24 < p.visits) }

/-! ## The code rules (R206, R330, R334) -/

/-- Whether an instruction stands in the queue profile (R330). -/
def queuePermits : Instr → Bool
  | .fadd _ _ _ | .faddX _ | .fmul _ _ _ | .fmulX _ | .ffma _ _ _ | .ffmaX _ | .fsub _ _ _ | .fsubX _ | .ldCB32 _ _ _ | .ldCB32X _
  | .stCB32 _ _ _ | .stCB32X _ | .sign _ | .signX _ | .next _ => false
  | .fmin _ | .fmax _ | .fabs _ | .fneg _ | .fcmp _ | .fclass _ | .frnd _ | .fcvt _ | .frcp _ | .frsq _ | .fsqrt _ | .fexp2 _
  | .flog2 _ | .fsin _ | .fcos _ | .ftanh _ | .qnt _ | .dqnt _ | .cbld _ | .ctld _ | .pack _ | .unpk _ => false
  | .mldb _ | .mma _ | .mmaw _ | .mzero _ | .msta _ | .mlda _ | .scac _ | .cvset _ | .mstat _ => false
  | .panrsv _ _ | .panput _ _ | .panrel _ | .panqry _ | .copy _ | .chain _ | .gather _ | .qbind _ | .qunb _ | .qflush _ => false
  | .tkill _ | .yield _ | .tryRegion _ | .commit _ | .abort _ => false
  | .ld x | .st x => decide (x.space = 0) || decide (4 ≤ x.space)
  | .ldfe _ | .stfe _ | .feset _ | .feclr _ | .fatom _ => false
  | .atom x | .cas x => decide (bits x.wN 2 0 = 0)
  | .bar _ | .barinit _ | .barkill _ | .barkillAb _ | .abinit _ | .abwait _ | .abtest _ => false
  | .waitad x => decide (x.ownN = 0)
  | .waitc x => decide (x.vN ≤ 1)
  | .csrr x => queueCsr x.a.toNat
  | .csrw x | .csrs x | .csrc x => queueCsr x.d.toNat
  | .mode _ | .enrg _ | .blst _ => false
  | _ => true
where
  queueCsr (n : Nat) : Bool := [0x10, 0x11, 0x12, 0x14, 0x21, 0x22, 0x30].contains n

/-- The four instructions of the queue profile alone (R330). -/
def queueOnly : Instr → Bool
  | .quote _ | .accept _ | .decline _ | .halt _ => true
  | _ => false

/-- The words of the chain that do not decode, and the chain's length (R206). -/
def listing (code : List Word) : Listing :=
  (chainOf code).filterMap fun pc =>
    match decode (wordsAt code pc) with
    | .ok i w => some (pc, i, w)
    | .bad _ => none

/-- The static targets of an instruction (R206). -/
def targetsOf (pc next : Nat) (i : Instr) : List Nat :=
  match flowOf pc next i, i with
  | .jump t, _ => [t]
  | .arms ((t, true) :: _), .braX _ | .arms ((t, true) :: _), .brc _ _ _ | .arms ((t, true) :: _), .brcX _ => [t]
  | .arms l, _ | .largest l, _ => l.map (·.1)
  | .loop _ e, _ => [e]
  | .call t _, _ | .callSome t _, _ => [t]
  | _, _ => []

/-- The registers that an instruction names lie in the crew's (R205, REGISTER). -/
def namesFit (i : Instr) (nregs : Nat) : Bool := (operands i.shape i.xf).all fun o => !o.fld.beyond o.sel i.xf.qp nregs o.n

/-- An instruction that raises REGISTER or FIELD by a check of its own that the launch decides: TRY's register count (R276), SHF across the pairs of a
protected launch (R154), the metadata registers of an MLDB (R292). -/
def ownDetail (nregs : Nat) (prot : Bool) : Instr → Bool
  | .tryRegion x => decide (nregs < 16 * x.cN)
  | .shf x => prot && decide (32 < 2 ^ (bits x.cN 3 1 + 1))
  | .mldb x => (decide (bits x.b.toNat 5 4 = 1) && decide (x.d.toNat % 4 ≠ 0)) || (mldbNames x).any fun p => decide (nregs ≤ p.2)
  | _ => false

/-- ILLEGAL_CODE (R206, R330): an instruction that raises a detail from 0x01 to 0x0A, a word left over, a target that is no start, an
instruction outside the profile, a JTAB word that is no B-form BRA. -/
def illegalCode (code : List Word) (nregs : Nat) (queueProfile prot : Bool) : Bool :=
  let starts := chainOf code
  let lst := listing code
  decide (lst.length ≠ starts.length)
    || (lst.map fun p => p.2.2).foldl (· + ·) 0 != code.length
    || lst.any fun p =>
      let next := p.1 + 4 * p.2.2
      !namesFit p.2.1 nregs || ownDetail nregs prot p.2.1
        || (match p.2.1 with
            | .rep c d a b e => (repDetail (fetch code next) (repPlan c d a b e) nregs).isSome
            | .repX c d a b e => (repDetail (fetch code next) (repPlan c d a b e) nregs).isSome
            | .jtab x => !braTable code (p.1 + 12) x.wN
            | _ => false)
        || (targetsOf p.1 next p.2.1).any (fun t => !starts.contains t)
        || (if queueProfile then !queuePermits p.2.1 else queueOnly p.2.1)

/-- A BRA, BRC or JTAB entry whose target is not later than its own PC (R222, R334). -/
def backward (lst : Listing) : Bool :=
  lst.any fun p =>
    match p.2.1 with
    | .bra _ | .braX _ | .brc _ _ _ | .brcX _ => (targetsOf p.1 (p.1 + 4 * p.2.2) p.2.1).any fun t => decide (t ≤ p.1)
    | _ => false

/-- The spaces that the image binds to queue ports: the one with the largest figures where it binds several (R313, R435). -/
def boundSpaces (lst : Listing) : SMap Nat :=
  lst.foldl (fun m p =>
    match p.2.1 with
    | .qbind x =>
      let sp := bits x.wN 2 0
      let rank : Nat → Nat := fun k => match k with | 0 => 4 | 3 => 3 | 2 => 2 | _ => 1
      match SMap.find? m (x.d.toNat % 8) with
      | some old => if rank old < rank sp then SMap.put m (x.d.toNat % 8) sp else m
      | none => SMap.put m (x.d.toNat % 8) sp
    | _ => m) []

/-- What the assay of an image finds: a status of R341 other than 0, or the path of one crew. -/
def assayCode (e : AssayEnv) (code : List Word) (nregs : Nat) : Except Nat Path :=
  let lst := listing code
  if illegalCode code nregs false e.prot then .error 0x10
  else if backward lst then .error 0x11
  else
    let p := Assayed.path ⟨{ e with ports := boundSpaces lst }, lst⟩
    if p.beyond then .error 0x11 else .ok p

/-- A path's time in ns, clk at the assured clock (R337). -/
def Path.time (p : Path) : Nat := cdiv (p.clk * 25) 66 + p.ns

/-- The most instructions that a packet of a queue program may issue (R355, R357): none where the code rules refuse it. Its time is bounded by the
figures of class BULK (log entry 125). -/
def assayQueue (code : List Word) (nregs : Nat) : Option Nat :=
  let lst := listing code
  if illegalCode code nregs true false || backward lst then none
  else
    let p := Assayed.path ⟨{}, lst⟩
    if p.beyond || decide (2 ^ 36 < p.time) then none else some p.issues

end Sys2Proof.Machine
end

