-- ==== Sys2Proof/Machine/Walk.lean ====
section
/-! DEFINITION. Walk.lean: page tables and walks (R11 to R16, R24 to R26, R29), the refill of a bad L2 TLB entry (R23), and invalidations (R27,
R28, R416). -/

namespace Sys2Proof.Machine

/-! ## Table entries (R12 to R15) -/

def walkInvalid : Nat := 1
def walkMalformed : Nat := 2
def walkNoroot : Nat := 3

/-- What the entry of a level says of an address: a failure, the next table, or the page. -/
inductive Pte where
  | fail (status : Nat)
  | table (pa : Nat)
  | leaf (t : Xlate)
  deriving DecidableEq, Repr

/-- The index of an address at a level. -/
def vaIdx (va level : Nat) : Nat := bits va (20 + 9 * level) (12 + 9 * level)

/-- Log2 of the page that a leaf of a level maps. -/
def leafSize (level : Nat) : Nat := 12 + 9 * level

/-- Bits 63, 59:52, 11:10 and 3:2, which are reserved. -/
def pteReserved (e : Nat) : Bool := bitOf e 63 || decide (bits e 59 52 ≠ 0) || decide (bits e 11 10 ≠ 0) || decide (bits e 3 2 ≠ 0)

/-- The physical address field. -/
def ptePa (e : Nat) : Nat := bits e 51 12 * 4096

/-- The fields that all the entries of a run share: R, W, X, LOC and PORT. -/
def pteAttr (e : Nat) : Nat := bits e 6 4 + bits e 62 60 * 8

/-- A run of 16 leaves is well formed (R13). -/
def runOk (es : List Nat) (size : Nat) : Bool :=
  let base := ptePa (es.headD 0)
  decide (base % 2 ^ (size + 4) = 0) && ((List.range es.length).zip es).all fun p =>
    bitOf p.2 0 && bitOf p.2 1 && bitOf p.2 9 && decide (pteAttr p.2 = pteAttr (es.headD 0)) && decide (ptePa p.2 = base + p.1 * 2 ^ size)

namespace State

/-- An entry read at home with no lease (R26); where no HBM is, a read finds 0 (log entry 209). -/
def pteAt (s : State) (pa : Nat) : Nat :=
  let key := memKey 1 pa
  if inHbm pa then leNat ((s.homeView 0 (sectorOf key) false).mem.read key 8) else 0

/-- The host port of a leaf is trained as CXL 3.1 (R29). -/
def cxlPort (s : State) (port : Nat) : Bool := decide ((SMap.get {} s.pl.hosts port).mode = 2)

/-- The addresses of the entries that make a page's leaf: one, or the 16 of its run. -/
def leafEntries (va level table : Nat) (run : Bool) : List Nat :=
  let idx := vaIdx va level
  if run then (List.range 16).map fun j => table + 8 * (idx / 16 * 16 + j) else [table + 8 * idx]

/-- The entry of an address in the table of a level (R13 to R15, R29). -/
def readPte (s : State) (asid va level table : Nat) : Pte :=
  let e := s.pteAt (table + 8 * vaIdx va level)
  let size := leafSize level
  if !bitOf e 0 then .fail walkInvalid
  else if pteReserved e then .fail walkMalformed
  else if bitOf e 1 then
    let loc := bits e 62 61
    let port := bits e 60 60
    let run := bitOf e 9
    let z := if run then size + 4 else size
    if 3 ≤ level ∨ ptePa e % 2 ^ size ≠ 0 ∨ (loc ≠ 0 ∧ !s.cxlPort port) then .fail walkMalformed
    else if run && !runOk ((leafEntries va level table true).map s.pteAt) size then .fail walkMalformed
    else .leaf { asid := asid, va := va / 2 ^ z * 2 ^ z, size := z, pa := ptePa e / 2 ^ z * 2 ^ z, loc := loc, port := port, r := bitOf e 4, w := bitOf e 5,
                 x := bitOf e 6 }
  else if level = 0 ∨ bitOf e 9 ∨ bits e 8 4 ≠ 0 then .fail walkMalformed
  else .table (ptePa e)

/-- The level-4 table of an ASID (R11, R15). -/
def rootOf (s : State) (asid : Nat) : Except Nat Nat :=
  let r := (SMap.get 0 s.tr.roots asid).toNat
  if !bitOf r 0 then .error walkNoroot
  else if bits r 63 52 ≠ 0 ∨ bits r 11 1 ≠ 0 then .error walkMalformed
  else .ok (ptePa r)

/-- A whole walk from a table of a level on, as acceptance makes it (R19): its leaf, with the level and the table that hold it. -/
def walkFrom (s : State) (asid va table : Nat) : Nat → Except Nat (Xlate × Nat × Nat)
  | 0 =>
    match s.readPte asid va 0 table with
    | .leaf t => .ok (t, 0, table)
    | .fail e => .error e
    | .table _ => .error walkMalformed
  | n + 1 =>
    match s.readPte asid va (n + 1) table with
    | .leaf t => .ok (t, n + 1, table)
    | .fail e => .error e
    | .table pa => walkFrom s asid va pa n

def walkNow (s : State) (asid va : Nat) : Except Nat (Xlate × Nat × Nat) :=
  match s.rootOf asid with
  | .error e => .error e
  | .ok t => s.walkFrom asid va t 4

/-- Sets A, and D for a page that a W region pins, in every entry of a page's leaf, as an update at its home (R16). -/
def markPte (s : State) (prt va level table : Nat) (run dirty : Bool) : State :=
  (leafEntries va level table run).foldl (fun s pa =>
    let key := memKey 1 pa
    let e := leNat ((s.homeView 0 (sectorOf key) true).mem.read key 8)
    let e' := Nat.lor e (if dirty then 0x180 else 0x80)
    if e' = e then s else (s.acceptStore 0 prt 0 (sectorOf key) (((List.range 8).map (key + ·)).zip (leBytes 8 e'))).1) s

/-! ## The walker pool (R24, R25) -/

/-- The indices of two addresses agree from level 4 down to a level; at level 0 their entries lie in one 64-byte line. -/
def sameDown (a b level : Nat) : Bool :=
  (List.range 5).all fun j => decide (j < level) || (if j = 0 then decide (vaIdx a 0 / 8 = vaIdx b 0 / 8) else decide (vaIdx a j = vaIdx b j))

/-- The deepest table that the walk cache holds for an address, with its level; entries are (ASID, level, address, table). -/
def walkCached (w : WalkPool) (asid va : Nat) : Option (Nat × Nat) :=
  [1, 2, 3, 4].findSome? fun l => (w.cache.find? fun e => decide (e.1 = asid) && decide (e.2.1 = l) &&
    (List.range 5).all fun j => decide (j < l) || decide (vaIdx e.2.2.1 j = vaIdx va j)).map fun e => (l - 1, e.2.2.2)

/-- The ends of some requests. -/
def endWalks (w : WalkPool) (rs : List WalkReq) (f : WalkReq → WalkEnd) : WalkPool := { w with ends := w.ends ++ rs.map f }

/-- How many walkers are at work. -/
def busyWalkers (w : WalkPool) : Nat := (w.walks.filter (·.running)).length

/-- A request joins a walk in progress whose indices it shares down to the level that walk has reached. -/
def joinWalk (w : WalkPool) (r : WalkReq) : Option WalkPool :=
  (w.walks.find? fun k => decide (k.req.asid = r.asid) && !k.discard && sameDown k.req.va r.va k.level).map fun k =>
    { w with walks := w.walks.map fun o => if o.id = k.id then { o with followers := o.followers ++ [r] } else o }

/-- A request joins a walk in progress, or leads one while a walker is free; none when it must wait. -/
def takeWalk (s : State) (w : WalkPool) (r : WalkReq) : Option WalkPool :=
  match joinWalk w r with
  | some w => some w
  | none =>
    if 64 ≤ busyWalkers w then none
    else match s.rootOf r.asid with
      | .error e => some (endWalks w [r] fun r => ⟨r, none, e⟩)
      | .ok root =>
        let at' := (walkCached w r.asid r.va).getD (4, root)
        some { w with walks := w.walks ++ [{ id := w.nextId, req := r, level := at'.1, table := at'.2 }], nextId := w.nextId + 1 }

/-- Free walkers take walks that were split off, then queued requests in order. -/
def feedWalkers (s : State) : Nat → WalkPool → WalkPool
  | 0, w => w
  | n + 1, w =>
    match w.walks.find? fun k => !k.running with
    | some k =>
      if 64 ≤ busyWalkers w then w
      else feedWalkers s n { w with walks := w.walks.map fun o => if o.id = k.id then { o with running := true } else o }
    | none =>
      match w.queue with
      | [] => w
      | r :: rest =>
        match s.takeWalk { w with queue := rest } r with
        | some w => feedWalkers s n w
        | none => w

/-- A walk leaves its walker. -/
def closeWalk (s : State) (die id : Nat) (w : WalkPool) : State := s.setWalk die (s.feedWalkers 640 { w with walks := w.walks.filter fun k => !decide (k.id = id) })

/-- A translation goes to the cluster's L2 TLB that serves the requesters (R21). -/
def installWalk (s : State) (die : Nat) (t : Xlate) : State := s.tlbInstall (queueCluster die) t

end State

/-- WALK_REQUEST (R24, R25): it joins a walk; or, when no other waits, leads one; else it waits in the queue of 512. A full queue stalls its
requester, which asks again. -/
def execWalkRequest (die asid va kind who : Nat) (s : State) : Out :=
  let w := s.walkPool die
  let r : WalkReq := { asid := asid, va := va, kind := kind, who := who }
  match if w.queue.isEmpty then s.takeWalk w r else State.joinWalk w r with
  | some w => .next (s.setWalk die w)
  | none => if 512 ≤ w.queue.length then .next s else .next (s.setWalk die { w with queue := w.queue ++ [r] })

namespace State

/-- A leader reads a table pointer: it goes on, and each follower whose next index differs leads a walk of its own from that table. -/
def walkSplit (s : State) (die : Nat) (w : WalkPool) (k : Walk) (pa : Nat) : State :=
  let l := k.level - 1
  let near := fun (r : WalkReq) => sameDown k.req.va r.va l
  let k' := { k with level := l, table := pa, followers := k.followers.filter near }
  let far := k.followers.filter fun r => !near r
  let w := { w with walks := w.walks.map (fun o => if o.id = k.id then k' else o)
                    cache := (w.cache ++ [(k.req.asid, k.level, k.req.va, pa)]).drop (w.cache.length + 1 - 256) }
  let w := far.foldl (fun (w : WalkPool) r =>
    match w.walks.find? fun o => decide (w.nextId ≤ o.id + far.length) && decide (o.table = pa) && decide (o.level = l) && !o.running && sameDown o.req.va r.va l with
    | some o => { w with walks := w.walks.map fun p => if p.id = o.id then { p with followers := p.followers ++ [r] } else p }
    | none => { w with walks := w.walks ++ [{ id := w.nextId, req := r, level := l, table := pa, running := false }], nextId := w.nextId + 1 }) w
  s.setWalk die (s.feedWalkers 640 w)

/-- A leader reads a leaf: it ends, with every follower in the page or, at level 0, with an entry in the line that was read. -/
def walkLeaf (s : State) (die : Nat) (w : WalkPool) (k : Walk) (t : Xlate) : State :=
  let one := fun (r : WalkReq) => if t.covers r.asid r.va then (⟨r, some t, 0⟩ : WalkEnd)
    else match s.readPte r.asid r.va k.level k.table with
      | .leaf u => ⟨r, some u, 0⟩
      | .fail e => ⟨r, none, e⟩
      | .table _ => ⟨r, none, walkMalformed⟩
  let ends := (k.req :: k.followers).map one
  let s := ends.foldl (fun s e => match e.tr with
    | some u => s.installWalk die u
    | none => s) s
  s.closeWalk die k.id { w with ends := w.ends ++ ends }

end State

/-- WALK_ENTRY_READ (R25, R26): the entry that a leader reads completes, splits or fails its followers. A walk that an invalidation caught ends
with its result discarded (R27). -/
def execWalkEntryRead (die walk : Nat) (s : State) : Out :=
  let w := s.walkPool die
  match w.walks.find? fun k => decide (k.id = walk) with
  | none => .next s
  | some k =>
    let s := s.touchL2 (sectorOf (memKey 1 (k.table + 8 * vaIdx k.req.va k.level)))
    if !k.running then .next s
    else if k.discard then .next (s.closeWalk die k.id w)
    else match s.readPte k.req.asid k.req.va k.level k.table with
      | .fail e => .next (s.closeWalk die k.id (State.endWalks w (k.req :: k.followers) fun r => ⟨r, none, e⟩))
      | .table pa => .next (s.walkSplit die w k pa)
      | .leaf t => .next (s.walkLeaf die w k t)

/-- TLB_PARITY_REFILL (R23): a pinned entry that reads bad is filled from the die's pin record, and counts against the L2 TLB; a MACHINE event
of the launches that pin the page. -/
def execTlbParityRefill (cluster asid va : Nat) (s : State) : Out :=
  let die := cluster / 5
  match List.find? (fun e : Nat × TlbEnt => decide (e.1 / 8192 = cluster) && e.2.pinned && e.2.tr.covers asid va) s.tr.tlb with
  | none => .next s
  | some (k, e) =>
    match (SMap.get [] s.tr.pins die).find? fun p => p.tr.covers asid va && !p.forced with
    | none => .next s
    | some p =>
      let s := { s with tr := { s.tr with tlb := SMap.put s.tr.tlb k { e with tr := p.tr, bad := false } } }
      let s := s.countUnit (State.unitKey 4 cluster)
      .next (p.launches.foldl (fun s d =>
        if (s.launch d).q.quads.any fun q => decide (clusterOf (q / 4) = cluster) then s.breach d 0x27 cluster (s.coreIn d cluster) else s) s)

/-! ## Invalidations (R27, R28, R416) -/

/-- The number of a function: port * 33 plus 0 for the physical one, 1 to 32 for a virtual one. -/
def funcKey (port fn : Nat) : Nat := port * 33 + fn

/-- A page of an ASID matches an invalidation: kind 0 one page, 1 an ASID, 2 all. -/
def invMatches (kind asid va : Nat) (t : Xlate) : Bool :=
  match kind with
  | 0 => t.covers asid va
  | 1 => decide (t.asid = asid)
  | _ => true

namespace State

/-- The ASID of a function's tenant. -/
def funcAsid (s : State) (f : Func) : Nat := bits (s.dcb f.tenant) 109 98

/-- The pin records that an invalidation finds. -/
def invPins (s : State) (kind asid va : Nat) : List Pin := s.tr.pins.flatMap fun p => p.2.filter fun x => !x.forced && invMatches kind asid va x.tr

/-- A walk matches an invalidation: which page it will find is not known before its end, so every walk under the ASID does. -/
def invWalk (kind asid : Nat) (r : WalkReq) : Bool := decide (2 ≤ kind) || decide (r.asid = asid)

/-- An invalidation reaches a page of a quotation's footprint (R343). -/
def invTouches (s : State) (kind asid va : Nat) (q : Quote) : Bool :=
  let page := match s.walkNow asid va with
    | .ok r => (r.1.va, 2 ^ r.1.size)
    | .error _ => (va / 4096 * 4096, 4096)
  decide (2 ≤ kind) || (decide (q.asid = asid) && (decide (kind = 1) || q.regions.any fun r =>
    decide (r.base < page.1 + page.2) && decide (page.1 < r.base + r.len)))

/-- No unpinned entry of an L1 or L2 TLB or of a walk cache, no result and no walk that matches is left (R27); quotations of such pages are marked (R343). -/
def invClear (s : State) (kind asid va : Nat) : State :=
  let tlb := List.filter (fun e : Nat × TlbEnt => e.2.pinned || !invMatches kind asid va e.2.tr) s.tr.tlb
  let walk := s.tr.walk.map fun p => (p.1, { p.2 with
    walks := p.2.walks.map fun k => if invWalk kind asid k.req then { k with discard := true } else k
    cache := p.2.cache.filter fun e => !invWalk kind asid { asid := e.1, va := e.2.2.1, kind := 0, who := 0 }
    ends := p.2.ends.filter fun e => match e.tr with
      | some t => !invMatches kind asid va t
      | none => !invWalk kind asid e.req })
  let quotes := s.fr.quotes.map fun p => (p.1, if s.invTouches kind asid va p.2 then { p.2 with stale := true } else p.2)
  let pinned := fun (t : Xlate) => s.tr.pins.any fun p => p.2.any fun x => decide (x.tr = t) && !x.forced
  ({ s with tr := { s.tr with tlb := tlb, walk := walk }, fr := { s.fr with quotes := quotes } }).dropL1Tlbs fun t => invMatches kind asid va t && !pinned t

/-- A matching walk has not ended yet. -/
def invBusy (s : State) (kind asid : Nat) : Bool :=
  s.tr.walk.any fun p => p.2.walks.any fun k => k.discard && invWalk kind asid k.req

/-- The STATUS of an invalidation: 1 while walks end, 2 while pins defer it, else 0. -/
def invStatus (s : State) (kind asid va : Nat) : Nat :=
  if s.invBusy kind asid then 1 else if (s.invPins kind asid va).isEmpty then 0 else 2

def setInv (s : State) (k : Nat) (f : Func) (kind force va status : Nat) (l : List (Nat × Nat × Nat)) : State :=
  s.setFunc k { f with invcmd := BitVec.ofNat 64 (va / 4096 % 2 ^ 52 * 4096 + kind * 64 + force * 32 + status), invList := l }

/-- A write of INVCMD that is not forced. -/
def doInvalidate (s : State) (port fn kind va : Nat) : State :=
  let k := funcKey port fn
  let f := s.func k
  let asid := s.funcAsid f
  if f.resetting || decide (f.invcmd.toNat % 4 = 1) then s
  else
    let s := s.invClear kind asid va
    let st := s.invStatus kind asid va
    s.setInv k f kind 0 va st (if st = 0 then [] else [(kind, asid, va)])

/-- A write of INVCMD that is refused (R416). -/
def invRefuse (s : State) (port fn kind va : Nat) : State :=
  let k := funcKey port fn
  let f := s.func k
  if f.resetting || decide (f.invcmd.toNat % 4 = 1) then s else s.setInv k f kind 0 va 3 []

end State

def execInvalidatePage (port fn vpn : Nat) (s : State) : Out := .next (s.doInvalidate port fn 0 (vpn * 4096 % 2 ^ 64))
def execInvalidateAsid (port fn : Nat) (s : State) : Out := .next (s.doInvalidate port fn 1 0)
/-- INVALIDATE_ALL_ASIDS: from the physical function alone. -/
def execInvalidateAllAsids (port fn : Nat) (s : State) : Out := .next (if fn = 0 then s.doInvalidate port fn 2 0 else s.invRefuse port fn 2 0)
/-- INVCMD_REFUSED: KIND 3, or KIND 2 from a virtual function. -/
def execInvcmdRefused (port fn kind : Nat) (s : State) : Out :=
  .next (if kind = 3 ∨ (kind = 2 ∧ fn ≠ 0) then s.invRefuse port fn kind 0 else s)

/-- FORCED_INVALIDATION (R28): the pinned entries go at once, and each launch that pins such a page has an OPERATOR breach; it goes on. -/
def execForcedInvalidation (port fn kind vpn : Nat) (s : State) : Out :=
  let k := funcKey port fn
  let f := s.func k
  let asid := s.funcAsid f
  let va := if kind = 0 then vpn * 4096 % 2 ^ 64 else 0
  if kind = 3 ∨ (kind = 2 ∧ fn ≠ 0) then .next (s.invRefuse port fn kind va)
  else if f.resetting || decide (f.invcmd.toNat % 4 = 1) then .next s
  else
    let hit := ((s.invPins kind asid va).flatMap (·.launches)).eraseDups
    let pins := s.tr.pins.map fun p => (p.1, p.2.map fun x => if invMatches kind asid va x.tr then { x with forced := true } else x)
    let tlb := List.filter (fun e : Nat × TlbEnt => !(e.2.pinned && invMatches kind asid va e.2.tr)) s.tr.tlb
    let s := ({ s with tr := { s.tr with pins := pins, tlb := tlb } }).invClear kind asid va
    let st := s.invStatus kind asid va
    let s := s.setInv k f kind 1 va st (if st = 0 then [] else [(kind, asid, va)])
    .next (hit.foldl (fun s d => s.breach d 0x44 0 255) s)

/-- INVALIDATION_COMPLETE (R27, R28): the walks have ended and no pin defers the command any more. -/
def execInvalidationComplete (port fn : Nat) (s : State) : Out :=
  let k := funcKey port fn
  let f := s.func k
  match f.invList with
  | [] => .next s
  | (kind, asid, va) :: _ =>
    let st := s.invStatus kind asid va
    .next (s.setFunc k { f with invcmd := BitVec.ofNat 64 (f.invcmd.toNat - f.invcmd.toNat % 4 + st), invList := if st = 0 then [] else f.invList })

end Sys2Proof.Machine
end

