-- ==== Sys2Proof/Machine/Quote.lean ====
section
/-! DEFINITION. Quote.lean: quote requests (R331 to R341): the checks in their order, the places priced (R343, R365), the bounds (R337 to R339),
the quotation record, and how the front end answers. -/

namespace Sys2Proof.Machine

/-! ## Statuses (R341) -/
def qsQuoted : Nat := 0x00
def qsAccepted : Nat := 0x01
def qsDeclined : Nat := 0x02
def qsExpired : Nat := 0x03
def qsStale : Nat := 0x04
def qsComplete : Nat := 0x05
def qsVoid : Nat := 0x06
def qsFailed : Nat := 0x08
def qsIllegalCode : Nat := 0x10
def qsUnbounded : Nat := 0x11
def qsFootprintForm : Nat := 0x12
def qsFootprintUnmapped : Nat := 0x13
def qsFootprintRights : Nat := 0x14
def qsFootprintTlb : Nat := 0x15
def qsPanForm : Nat := 0x16
def qsPanKey : Nat := 0x17
def qsDomainState : Nat := 0x18
def qsRequestForm : Nat := 0x19
def qsNoResources : Nat := 0x1A
def qsQuota : Nat := 0x1B
def qsCodeSize : Nat := 0x1C
def qsIcache : Nat := 0x1D
def qsUnknownQid : Nat := 0x1E

namespace State

/-! ## What the front end reads and writes -/

/-- The memory key of an address under an ASID, by a whole walk of its own, as acceptance (R19) and the loader make it, or the status of the walk that
fails. -/
def nowKey (s : State) (asid va : Nat) : Except Nat Nat :=
  match s.walkNow asid va with
  | .ok r => .ok (r.1.key va)
  | .error e => .error e

/-- The memory key of an address for the front end of a die, working for `who`: by the die's L2 TLB or its walkers (R24, R33; log entries 11, 30). -/
def feKey (s : State) (die who asid va : Nat) : Except Miss Nat := (s.translateQ die asid va who).map fun t => t.key va

/-- The names under which the front end asks for walks: for a request of a crew, for a queue. -/
def feCrew (k : Nat) : Nat := 2 ^ 31 + k
def feQueue (qi : Nat) : Nat := 2 ^ 32 + qi

/-- The front end lacks a translation: it asks for the walk; a walk that has failed is used up and `failed` tells what comes of it. -/
def feMiss (s : State) (die who : Nat) (m : Miss) (failed : State → Nat → State) : State :=
  match m with
  | .walk asid va => s.askWalk die asid va 2 who
  | .walkFail e => failed (s.dropEnds die who) e
  | .fault _ => s

/-- A byte as a read at home with no lease gives it. -/
def homeByte (s : State) (key : Nat) : Byte := (s.homeView 0 (sectorOf key) false).mem.byte key

/-- `n` bytes from an address on, each at the key that `at'` gives. -/
def feBytes {ε : Type} (s : State) (at' : Nat → Except ε Nat) (va : Nat) : Nat → Except ε (List Byte)
  | 0 => .ok []
  | n + 1 =>
    match at' va with
    | .error e => .error e
    | .ok key =>
      match feBytes s at' (va + 1) n with
      | .error e => .error e
      | .ok bs => .ok (s.homeByte key :: bs)

/-- A little-endian number of `n` bytes. -/
def feNat {ε : Type} (s : State) (at' : Nat → Except ε Nat) (va n : Nat) : Except ε Nat := (s.feBytes at' va n).map leNat

/-- The front end writes at system scope. -/
def feWrite (s : State) (key : Nat) (bs : List Byte) : State := s.performBytes (((List.range bs.length).map (key + ·)).zip bs)

/-- The front end answers a request: the status word fills D (R328). -/
def feAnswer (s : State) (r : FrontReq) (status : Nat) : State :=
  let s := { s with fr := { s.fr with
    reqs := s.fr.reqs.filter fun o => !decide (o.crew = r.crew ∧ o.op = r.op)
    order := s.fr.order.filter fun o => !decide (o.crew = r.crew ∧ o.op = r.op) } }
  match SMap.find? s.ex.crews r.crew with
  | none => s
  | some c =>
    match c.findOp r.op with
    | none => s
    | some o =>
      let c := (o.dests.foldl (fun c d => c.fill o.masked d (BitVec.ofNat 32 (status % 256)) false) c).modOp r.op fun o => { o with done := true }
      (s.setCrew r.crew c).retire r.crew

/-- A request of a lane of a crew, the oldest of its kind. -/
def findReq (s : State) (crew lane kind : Nat) : Option FrontReq :=
  s.fr.reqs.find? fun r => decide (r.crew = crew) && decide (r.lane = lane) && decide (r.kind = kind)

/-! ## The domain tree -/

/-- The budget windows that have ended are closed: L := 0, and Tq falls by what QTMS allows in each (R359). -/
def rollWindows (s : State) : State :=
  let m := s.pl.mgmt
  let n := s.now / 1000000 - m.msWindow
  if n = 0 then s
  else { s with
    pl := { s.pl with mgmt := { m with msWindow := m.msWindow + n } }
    fr := { s.fr with tenants := s.fr.tenants.map fun (p : Nat × Tenant) => (p.1, { p.2 with used := 0, timeNs := p.2.timeNs - n * (1000 * bits (s.dcb p.1) 63 44) }) } }

/-- The nearest node at a level above a DCB, itself included. -/
def atLevel (s : State) (d lvl : Nat) : Option Nat := (s.ancestors 6 d).find? fun a => decide (bits (s.dcb a) 115 113 = lvl)

/-! ## What is free -/

/-- Launches that hold reservations of power: their ACCEPT has taken effect and their completion entry has not been posted; one whose contexts have
all been killed has released them (R401). -/
def inFlight (s : State) : List (Nat × Launch) := List.filter (fun p : Nat × Launch => !(p.2.killed && decide (2 ≤ p.2.phase))) s.fr.launches

/-- The quadrant is reserved by a launch that has not ended (R344). -/
def quadReserved (s : State) (q : Nat) : Bool := List.any s.fr.launches fun p => decide (p.2.phase < 2) && p.2.q.quads.contains q

/-- The quadrants that a partition owns. -/
def ownedQuads (s : State) (p : Nat) : List Nat := (s.ex.quads.filter fun e => decide (e.2.owner.toNat = 128 + p) && decide (e.1 < 640)).map (·.1)

/-- The quadrants of a partition that could be priced. -/
def freeQuads (s : State) (p : Nat) : List Nat := (s.ownedQuads p).filter fun q => !s.quadReserved q && !s.quadOut q

/-- The spans that launches hold on a core for a partition. -/
def heldSpans (s : State) (core prt : Nat) : List (Nat × Nat) :=
  (s.fr.launches.filter fun p => decide (p.2.phase < 2)).filterMap fun p =>
    if p.2.q.quads.any fun q => decide (q / 4 = core) && decide (s.partOf q = prt) then SMap.find? p.2.q.spans core else none

/-- The lowest share index from which `len` bytes are free, if there is one (R365). -/
def fitSpan (held : List (Nat × Nat)) (share len : Nat) : Option Nat :=
  let ok := fun base => decide (base + len ≤ share) && held.all fun h => decide (h.2 = 0) || decide (len = 0) || decide (base + len ≤ h.1) || decide (h.1 + h.2 ≤ base)
  ((0 :: held.map fun h => h.1 + h.2).filter ok).foldl (fun b x => match b with | none => some x | some y => some (min x y)) none

/-- The longest free run of a share: free(c) of R365. -/
def freeRun (held : List (Nat × Nat)) (share : Nat) : Nat :=
  let used := held.filter fun h => decide (0 < h.2)
  (0 :: used.map fun h => h.1 + h.2).foldl (fun best b =>
    if used.any (fun h => decide (h.1 ≤ b) && decide (b < h.1 + h.2)) then best
    else max best ((used.filter fun h => decide (b ≤ h.1)).foldl (fun e h => min e h.1) share - b)) 0

/-- The launches that hold power reservations: those in flight, but for one whose contexts have all been killed (R392, R401). -/
def reserving (s : State) : List (Nat × Launch) :=
  s.inFlight.filter fun p => !p.2.killed || List.any s.ex.blocks fun b => decide (b.2.launch = p.1)

/-- Watts reserved in a partition (R392): `of` gives a launch's PRES there. -/
def reservedWatts (s : State) (prt : Nat) (of : Quote → Nat → Nat) : Nat := s.reserving.foldl (fun n p => n + of p.2.q prt) 0

/-- Current reserved on a cluster, in 1/160 A (R392). -/
def reservedAmps (s : State) (cl : Nat) : Nat := s.reserving.foldl (fun n p => n + SMap.get 0 p.2.q.sums cl) 0

/-- Power rises booked and not yet served, in W (R344, R399). -/
def bookedRise (s : State) : Nat := s.inFlight.foldl (fun n p => if p.2.phase = 0 then n + p.2.q.pres else n) 0

/-- Picks `n` elements of a list, by free choices. -/
def pickFree (ctr : Nat) : Nat → List Nat → List Nat
  | 0, _ => []
  | n + 1, l =>
    match (l.drop (Config.freePick ctr n % max 1 l.length)).head? with
    | none => []
    | some q => q :: pickFree ctr n (l.filter (· ≠ q))

/-- Sorts numbers. -/
def sortNat (l : List Nat) : List Nat := l.foldl (fun acc x => (acc.filter (· ≤ x)) ++ x :: acc.filter (x < ·)) []

end State

/-! ## The request (R331, R332) -/

/-- A footprint record (R17): the region, and whether it is well formed by itself (R18). -/
def fpRecord (r : Nat) : FpRegion × Bool :=
  let base := bits r 63 12 * 4096
  let len := bits r 127 64
  let g : FpRegion := { base := base, len := len, rd := bitOf r 0, w := bitOf r 1, atom := bitOf r 2, eng := bitOf r 3 }
  (g, decide (bits r 11 4 = 0) && decide (len ≠ 0) && decide (len % 4096 = 0) && (g.rd || g.w || g.atom || g.eng)
    && (!g.atom || (g.rd && g.w)) && canonical base && decide (base + len ≤ 2 ^ 64) && canonical (base + len - 1)
    && decide (base / 2 ^ 63 = (base + len - 1) / 2 ^ 63))

/-- No two regions overlap. -/
def disjointRegions : List FpRegion → Bool
  | [] => true
  | r :: rest => rest.all (fun o => decide (r.base + r.len ≤ o.base) || decide (o.base + o.len ≤ r.base)) && disjointRegions rest

/-- A region gives what the kernel declares of it (R165). -/
def coversDecl (have' want : FpRegion) : Bool :=
  decide (want.len ≤ have'.len) && (!want.rd || have'.rd) && (!want.w || have'.w) && (!want.atom || have'.atom) && (!want.eng || have'.eng)

/-- Reserved fields of a kernel record (R331) that are set. -/
def recordBad (k : Nat) : Bool := decide (bits k 71 71 ≠ 0) || decide (bits k 63 0 ≠ 0) || decide (2 ≤ bits k 75 74)

/-- The PAN_FORM conditions that do not depend on a share (R121). -/
def panBad (pan : Nat) : Bool :=
  let ns := bits pan 6 0
  let ch := bits pan 23 12
  decide (64 < ns) || (decide (0 < ns) && decide (ch = 0)) || decide (2048 < ns * ch) || decide (bits pan 31 24 ≠ 0) || decide (bits pan 11 7 ≠ 0)

/-- A request with the kernel record and the image that it names. -/
structure Asked where
  hdr   : Nat
  krec  : Nat
  recs  : List Nat
  decls : List Nat
  code  : List Word
  deriving DecidableEq, Repr

/-- A priced core: its granted quadrants, its slots and its span. -/
structure Placed where
  core  : Nat
  g     : Nat
  slots : Nat
  span  : Nat × Nat
  deriving DecidableEq, Repr

/-- The partitions of a PARTS word. -/
def partsOf (parts : Nat) : List Nat := (List.range 32).filter fun p => bitOf parts p

namespace State

/-- Reads what a request names; `codelen` is bounded before the image is read. -/
def readAsked (s : State) (at' : Nat → Except Miss Nat) (va : Nat) : Except Miss Asked :=
  match s.feNat at' va 64 with
  | .error e => .error e
  | .ok h =>
    match s.feNat at' (bits h 511 448) 32, (List.range (bits h 321 315)).mapM fun i => s.feNat at' (va + 64 + 16 * i) 16 with
    | .ok k, .ok recs =>
      let n := bits k 191 160
      match (List.range (bits k 70 64)).mapM fun i => s.feNat at' (bits h 511 448 + 32 + 16 * i) 16,
          if n % 4 = 0 ∧ n ≤ 131072 then s.feBytes at' (bits k 255 192) n else .ok [] with
      | .ok decls, .ok bs => .ok ⟨h, k, recs, decls, (List.range (bs.length / 4)).map fun i => BitVec.ofNat 32 (leNat ((bs.drop (4 * i)).take 4))⟩
      | .error e, _ => .error e
      | _, .error e => .error e
    | .error e, _ => .error e
    | _, .error e => .error e

/-- The first failing status of R333, the code rules of R334 included, none if there is no failure. The bound of R337 depends on the quadrants priced;
here it is tested for a crew that shares its quadrant with none, on one tile, and `priced` tests it in full (log entry 213). -/
def requestStatus (s : State) (a : Asked) : Option Nat :=
  let h := a.hdr
  let k := a.krec
  let parts := partsOf (bits h 447 416)
  let job := bits h 333 322
  let quads := bits h 351 342
  let regs := a.recs.map fpRecord
  let decls := a.decls.map fun d => (fpRecord d).1
  let pan := bits h 415 352
  let panLen := bits pan 6 0 * bits pan 23 12 * 512
  if !s.dcbActive job || decide (bits (s.dcb job) 115 113 ≠ 3)
      || parts.any (fun p => match s.partDcb p with | some d => !s.dcbActive d | none => true) then some qsDomainState
  else if bits h 274 0 ≠ 0 ∨ parts.isEmpty ∨ quads = 0 ∨ parts.any (fun p => decide ((s.ownedQuads p).length < quads)) ∨ 3 < bits h 341 338
      ∨ bits (s.dcb job) 92 90 < bits h 337 335 ∨ recordBad k then some qsRequestForm
  else if bits k 191 160 < 4 ∨ 131072 < bits k 191 160 ∨ bits k 191 160 % 4 ≠ 0 then some qsCodeSize
  else if bits k 95 84 % 16 ≠ 0 ∨ 2048 < bits k 95 84 ∨ regs.isEmpty ∨ 64 < regs.length ∨ !regs.all (·.2) ∨ !disjointRegions (regs.map (·.1))
      ∨ regs.length < decls.length ∨ !((regs.map (·.1)).zip decls).all (fun p => coversDecl p.1 p.2) then some qsFootprintForm
  else if panBad pan ∨ parts.any (fun p => (s.ownedQuads p).all fun q => decide (s.shareLen (q / 4) p < panLen)) then some qsPanForm
  else if illegalCode a.code (16 * (bits k 79 76 + 1)) false (bitOf h 334) then some qsIllegalCode
  else if backward (listing a.code) then some qsUnbounded
  else
    let p := Assayed.path ⟨{ AssayEnv.ofClass (bits h 341 338) with prot := bitOf h 334, ramp := 0, ports := boundSpaces (listing a.code) }, listing a.code⟩
    if p.beyond || decide (2 ^ 36 < 15100 + p.time) then some qsUnbounded else none

/-! ## Placing (R365) -/

/-- The lists of tiles of `b` slots. -/
def tilesOf (sched nslots ntiles b : Nat) : List Nat :=
  (List.range ntiles).filter fun t =>
    if sched = 0 then decide (t % nslots = b)
    else decide (b * ntiles / nslots ≤ t) && decide (t < (b + 1) * ntiles / nslots)

/-- The cores of a grant with the slots that R365 gives each; none where a pan does not fit. -/
def placeCores (s : State) (quads : List Nat) (q : Quote) : Option (List Placed) :=
  let cores := (quads.map (· / 4)).eraseDups
  let k := min 16 (min (2048 / q.nregs) (if q.slice = 0 then 16 else 2048 / q.slice))
  let pan := panBytes q
  cores.mapM fun c =>
    let mine := quads.filter fun x => decide (x / 4 = c)
    let prt := s.partOf (mine.headD 0)
    let held := s.heldSpans c prt
    let free := freeRun held (s.shareLen c prt)
    if free < pan then none
    else
      let n := mine.length * k / q.crews
      let n := if q.scratch = 0 then n else min n ((free - pan) / q.scratch)
      let n := min n 255
      (fitSpan held (s.shareLen c prt) (pan + n * q.scratch)).map fun base => ⟨c, mine.length, n, (base, pan + n * q.scratch)⟩

/-- The slots of all the cores in order, with their tiles. -/
def slotsFrom (sched ntiles total : Nat) : Nat → List Placed → List SlotEnt
  | _, [] => []
  | b, p :: rest =>
    (List.range p.slots).map (fun i => { core := p.core, slot := i, block := b + i,
                                         tiles := (tilesOf sched total ntiles (b + i)).map fun t => ⟨t, 0, 0, 0⟩ })
      ++ slotsFrom sched ntiles total (b + p.slots) rest

/-! ## Pricing (R336 to R339, R348) -/

/-- The physical 4 KiB frames of a region, as key div 4096, page by page. -/
def framesOf (s : State) (asid : Nat) (r : FpRegion) : List Nat :=
  (List.range (r.len / 4096)).filterMap fun i =>
    match s.nowKey asid (r.base + 4096 * i) with
    | .ok key => some (key / 4096)
    | .error _ => none

/-- A region maps memory outside local HBM, or in it. -/
def regionHosty (r : FpRegion) : Bool := r.frames.any fun f => decide (keyTag (f * 4096) ≠ 1)
def regionNear (r : FpRegion) : Bool := r.frames.any fun f => decide (keyTag (f * 4096) = 1)

/-- The first step of a cluster's ramp table that allows 32 units, from 0 (R337, R397). -/
def rampStep (s : State) (cl : Nat) : Nat :=
  let c := s.cluster cl
  if !c.rampSet then 15
  else ((List.range 16).find? fun j => decide (32 ≤ bits c.ramp.toNat (6 * j + 5) (6 * j))).getD 15

/-- A launch's PRES in a partition: 0.76 V times the sums of its quadrants there (R339, R392). -/
def presIn (s : State) (q : Quote) (prt : Nat) : Nat :=
  let n := (q.quads.filter fun x => decide (s.partOf x = prt)).length
  let total := (q.sums.map (·.2)).foldl (· + ·) 0
  cdiv (19 * (if q.quads.length = 0 then 0 else total * n / q.quads.length)) 4000

/-- The figures under which the path of a crew on a placed core is walked. -/
def envFor (s : State) (q : Quote) (p : Placed) (used : Nat) (cores : List Placed) (uses : Bool) : AssayEnv :=
  let k := min 16 (min (2048 / q.nregs) (if q.slice = 0 then 16 else 2048 / q.slice))
  let prts := partsOf q.parts.toNat
  { AssayEnv.ofClass q.rclass with
    hosty := q.regions.any regionHosty
    near := q.regions.any regionNear || !q.regions.any regionHosty
    far := (List.range 4).any fun d => decide (d ≠ dieOf p.core) && prts.any fun prt => decide ((SMap.get (0, 0) s.pl.xgrants (prt * 4 + d)).2 ≠ 0)
    prot := q.prot
    ramp := 4 * s.rampStep (clusterOf p.core)
    turns := max 1 (min k ((if uses then min 1 used else used) * cdiv q.crews p.g))
    flight := s.pl.ports.map fun e => (e.1, e.2.flight)
    cores := cores.length
    dieCores := (cores.filter fun o => decide (dieOf o.core = dieOf p.core)).length }

/-- T(t) of a crew's path (R337), with the trap allowance of R348. -/
def taskTime (q : Quote) (p : Path) : Nat := cdiv ((p.clk + 24 * q.ntrap) * 25) 66 + p.ns + q.ntrap * q.hallow * 1000

/-- Prices a placed quotation: none where a path is unbounded. -/
def priced (s : State) (q : Quote) (cores : List Placed) (slots : List SlotEnt) : Option Quote :=
  let lst := listing q.code
  let uses := slotUsing q.code
  let paths := cores.map fun p =>
    let used := (slots.filter fun e => decide (e.core = p.core) && !e.tiles.isEmpty).length
    (p, Assayed.path ⟨{ s.envFor q p used cores uses with ports := boundSpaces lst }, lst⟩)
  if paths.any (·.2.beyond) then none
  else
    let pathOn := fun core => (paths.find? fun x => decide (x.1.core = core)).map (·.2) |>.getD {}
    let gOn := fun core => (cores.find? fun x => decide (x.core = core)).map (·.g) |>.getD 1
    let amps := paths.foldl (fun m x => max m x.2.amps) 0
    let fig := AssayEnv.ofClass q.rclass
    let gang := decide (1 < (partsOf q.parts.toNat).length)
    let hostW := q.regions.any fun r => r.w && regionHosty r
    let tbound := 1000 + (if gang then 2000 else 0)
      + slots.foldl (fun m e => max m (e.tiles.length * (10000 + taskTime q (pathOn e.core)))) 0
      + 4100 + (if hostW then fig.host else 0)
    if 2 ^ 36 < tbound then none
    else
      let dyn := slots.foldl (fun n e => n + e.tiles.length * q.crews * (pathOn e.core).energy) 0
      let ebound := cdiv (dyn + 3500 * q.quads.length * tbound) 10000000
      let sums := q.quads.foldl (fun (m : SMap Nat) x => SMap.put m (clusterOf (x / 4)) (SMap.get 0 m (clusterOf (x / 4)) + 240 + amps)) []
      let total := (sums.map (·.2)).foldl (· + ·) 0
      let slots := slots.map fun e =>
        let p := pathOn e.core
        let t := taskTime q p
        let en := min 0xFFFFFFFF (cdiv (q.crews * p.energy + 3500 * min q.crews (gOn e.core) * t) 10000)
        { e with tiles := e.tiles.map fun x => { x with energy := en, ipk := cdiv (240 + amps) 40, time := t } }
      some { q with
        slots := slots
        spans := cores.map fun p => (p.core, p.span)
        tbound := tbound
        ebound := ebound
        sums := sums
        ipeak := (sums.map fun x => cdiv x.2 40).foldl max 0
        pres := cdiv (19 * total) 4000 }

/-- The quotation on the quadrants picked in each partition. -/
def priceOn (s : State) (a : Asked) (qi : Nat) (quads : List (List Nat)) : Except Nat Quote :=
  let h := a.hdr
  let k := a.krec
  let parts := partsOf (bits h 447 416)
  let job := bits h 333 322
  let n := bits h 351 342
  let tenant := (s.atLevel job 2).getD 0
  if quads.any fun l => decide (l.length < n) then .error qsNoResources
  else
    let quads := sortNat quads.flatten
    let jasid := bits (s.dcb job) 109 98
    let regions := a.recs.map fun r => let g := (fpRecord r).1; { g with frames := s.framesOf jasid g }
    let q : Quote :=
      { queue := qi, asid := jasid, job := job, tenant := tenant, parts := BitVec.ofNat 32 (bits h 447 416), nquads := n,
        rclass := bits h 341 338, pclass := bits h 337 335, prot := bitOf h 334,
        hbudget := if bits h 314 299 = 0 then 100 else bits h 314 299, ntrap := bits h 298 291, hallow := bits h 290 275,
        pan := BitVec.ofNat 64 (bits h 415 352), codeVa := bits k 255 192, code := a.code, digest := Config.digest a.code,
        crews := bits k 83 80 + 1, nregs := 16 * (bits k 79 76 + 1), slice := bits k 95 84, scratch := bits k 159 128,
        ntiles := bits k 127 96, sched := bits k 75 74, persist := bitOf k 73, idem := bitOf k 72, regions := regions, quads := quads,
        booked := s.bookedRise, valid := s.now + 5000000 }
    match s.placeCores quads q with
    | none => .error qsNoResources
    | some cores =>
      let total := cores.foldl (fun b p => b + p.slots) 0
      let slots := slotsFrom q.sched q.ntiles total 0 cores
      if total = 0 ∨ cores.any (fun p => decide (4096 < (slots.filter fun e => decide (e.core = p.core)).foldl (fun m e => m + e.tiles.length) 0)) then
        .error qsNoResources
      else match s.priced q cores slots with
        | none => .error qsUnbounded
        | some q =>
          let icl := bits s.pl.mgmt.mpc.toNat 38 31
          let short := parts.any fun p =>
            decide (bits (s.dcb ((s.partDcb p).getD 0)) 88 76 < s.reservedWatts p s.presIn + s.presIn q p)
          let hot := q.sums.any fun x => decide (160 * icl < s.reservedAmps x.1 + x.2)
          if short || hot then .error qsNoResources
          else
            let rlim := bits s.pl.mgmt.mpc.toNat 50 39
            let dies := (cores.map fun p => dieOf p.core).eraseDups
            .ok { q with
              ways := dies.flatMap fun d => parts.map fun p => (d, p, (s.l2Ways d p).length)
              startdly := 2000 + cdiv ((s.bookedRise + q.pres) * 1000000) rlim }

/-- The quotation of a request that passes the checks: a status, or the priced quotation without its number. -/
def price (s : State) (a : Asked) (qi : Nat) : Except Nat Quote :=
  s.priceOn a qi ((partsOf (bits a.hdr 447 416)).map fun p => pickFree s.ctr (bits a.hdr 351 342) (s.freeQuads p))

/-! ## The quotation record (R340) -/

/-- The 64 bytes of a quotation record. -/
def quoteRecord (q : Quote) : Nat :=
  q.qid.toNat * 2 ^ 448 + q.digest.toNat * 2 ^ 384 + (q.tbound % 2 ^ 64) * 2 ^ 320 + (q.valid % 2 ^ 64) * 2 ^ 256 + (q.ebound % 2 ^ 32) * 2 ^ 224
    + (q.ipeak % 65536) * 2 ^ 208 + 2640 * 2 ^ 192 + q.parts.toNat * 2 ^ 160 + (q.nquads % 1024) * 2 ^ 150 + (q.rclass % 16) * 2 ^ 146
    + (q.pclass % 8) * 2 ^ 143 + (q.startdly % 2 ^ 32) * 2 ^ 96 + (q.pres % 65536) * 2 ^ 80 + (q.ntiles % 65536) * 2 ^ 64 + (q.attr % 4) * 2 ^ 8
    + q.status % 256

/-- What the record of a refused request holds beside its status: the spec does not say. -/
def refusedQuote (s : State) (status : Nat) : Quote :=
  let f := fun i => Config.freeValue (s.ctr + i)
  { status := status, qid := f 0, digest := f 1, tbound := (f 2).toNat, valid := (f 3).toNat, ebound := (f 4).toNat, ipeak := (f 5).toNat,
    parts := (f 6).setWidth 32, nquads := (f 7).toNat, rclass := (f 8).toNat, pclass := (f 9).toNat, startdly := (f 10).toNat, pres := (f 11).toNat,
    ntiles := (f 12).toNat }

end State

/-- QUOTE_REQUEST (R333): the front end takes a QUOTE: it checks the request, assays the kernel and writes the record, then answers. It waits for the
walks that it needs; one that fails ends the packet (R33). -/
def execQuoteRequest (crew lane : Nat) (s : State) : Out :=
  match s.findReq crew lane 0 with
  | none => .next s
  | some r =>
    let die := dieOf (coreOf crew)
    let who := State.feCrew crew
    let at' := s.feKey die who (s.crewAsid crew)
    let failed := fun (s : State) e => { s with fr := { s.fr with reqs := s.fr.reqs.filter fun o => !decide (o.crew = crew ∧ o.op = r.op) } }.walkFault crew e
    match s.readAsked at' r.req, at' r.recVa with
    | .error m, _ => .next (s.feMiss die who m failed)
    | _, .error m => .next (s.feMiss die who m failed)
    | .ok a, .ok key =>
      let s := s.dropEnds die who
      let refuse := fun st => (s.feWrite key (leBytes 64 (State.quoteRecord (s.refusedQuote st)))).feAnswer r st
      match s.requestStatus a with
      | some st => .next (refuse st)
      | none =>
        match s.price a (((s.crew crew).queue).getD 0) with
        | .error st => .next (if st = qsNoResources then s.feAnswer r st else refuse st)
        | .ok q =>
          let q := { q with qid := BitVec.ofNat 64 s.fr.nextQid, recVa := key }
          let s := { s with fr := { s.fr with nextQid := s.fr.nextQid + 1, quotes := SMap.put s.fr.quotes s.fr.nextQid q } }
          .next ((s.feWrite key (leBytes 64 (State.quoteRecord q))).feAnswer r qsQuoted)

end Sys2Proof.Machine
end

