-- ==== Sys2Proof/Machine/Route.lean ====
section
/-! DEFINITION. Route.lean: the loader fills the route relocations of kernels from the topology of the module (R136). -/

namespace Sys2Proof.Machine

/-! ## Walking a mesh (R134, R135) -/

/-- The headings of the moves from one place to another: along the row first, east or west, then along the column (R136). -/
def meshMoves (x y tx ty : Nat) : List Nat :=
  List.replicate (tx - x) 1 ++ List.replicate (x - tx) 3 ++ List.replicate (y - ty) 0 ++ List.replicate (ty - y) 2

/-- The symbols of moves, from an initial heading. -/
def symbolsOf (h : Nat) : List Nat → List Nat
  | [] => []
  | m :: rest => (if m = h then 0 else if m = (h + 3) % 4 then 1 else 2) :: symbolsOf m rest

/-- A segment field: its symbols from bit 0 up, and 0b11 in every place after them. -/
def segField (syms : List Nat) : Nat :=
  (List.range 12).foldl (fun n i => n + syms.getD i 3 * 4 ^ i) 0

/-- Column and row of a core on its die. -/
def colOf (core : Nat) : Nat := core % 8
def rowOf (core : Nat) : Nat := core % 40 / 8

namespace State

/-- The lowest-numbered healthy port on a die whose peer is on module `m` and attaches to its die `d`. -/
def routePort (s : State) (die m d : Nat) : Option Nat :=
  ((List.range 6).map (die * 6 + ·)).find? fun p =>
    let e := s.port p
    e.valid && !e.down && decide (e.pmod = m) && decide (bits e.peer.toNat 47 43 / 6 = d)

/-- The literal and header of a route from a core of a die to core `core` of die `d` on module `m`; the mark of R136 where no port leads there. -/
def routeOf (s : State) (die src m d core : Nat) : Nat × Nat :=
  match s.routePort die m d with
  | none => (0, 1)
  | some p =>
    let there := portCore p
    let m1 := meshMoves (colOf src) (rowOf src) (colOf there) (rowOf there)
    let head := m1.headD 0
    let pp := bits (s.port p).peer.toNat 47 43
    let m2 := meshMoves (colOf (portCore pp)) (rowOf (portCore pp)) (colOf core) (rowOf core)
    (m * 2 ^ 48 + segField (symbolsOf (State.arrivalHeading pp) m2) * 2 ^ 24 + segField (symbolsOf head m1), head * 64 + p * 2)

/-- Writes bytes of a kernel's image, one by one through its translation. -/
def loadBytes (s : State) (asid va : Nat) : List Byte → State
  | [] => s
  | b :: rest =>
    match s.nowKey asid va with
    | .error _ => s.loadBytes asid (va + 1) rest
    | .ok key => (s.feWrite key [b]).loadBytes asid (va + 1) rest

/-- Fills one relocation of an image: the header in bits 31:24 of word 2, the literal in the literal words, low half first (R200). -/
def fillRoute (s : State) (die asid code : Nat) (r : Nat × Nat × Nat × Nat × Nat) : State :=
  let rt := s.routeOf die (r.2.1 % 40) r.2.2.1 r.2.2.2.1 (r.2.2.2.2 % 40)
  let s := (s.loadBytes asid (code + r.1 + 11) [BitVec.ofNat 8 rt.2]).loadBytes asid (code + r.1 + 12) (leBytes 8 rt.1)
  if rt = (0, 1) then s.send 12 [136, die, asid, code + r.1] else s

/-- Fills every relocation of a loaded kernel that lies in its image. -/
def fillRoutes (s : State) (k : Loaded) : State :=
  match s.feNat (s.nowKey k.asid) k.record 32 with
  | .error _ => s
  | .ok r => (k.relocs.filter fun x => decide (x.1 + 20 ≤ bits r 191 160)).foldl (fun s x => s.fillRoute k.die k.asid (bits r 255 192) x) s

/-- After a retirement every route of every loaded kernel is filled again. -/
def regenRoutes (s : State) : State :=
  if s.pl.mgmt.routesOld then s.pl.loads.foldl fillRoutes { s with pl := { s.pl with mgmt := { s.pl.mgmt with routesOld := false } } } else s

end State

/-- KERNEL_LOAD (R136): the relocations of the kernel whose record stands at `record` are filled, and kept for a later regeneration. -/
def execKernelLoad (die asid record : Nat) (s : State) : Out :=
  let k : Loaded := ⟨die, asid, record, Config.freeRelocs s.ctr⟩
  let s := s.regenRoutes
  .next ({ s with pl := { s.pl with loads := (s.pl.loads.filter fun (o : Loaded) => !decide (o.die = die ∧ o.asid = asid ∧ o.record = record)) ++ [k] } }.fillRoutes k)

end Sys2Proof.Machine
end

