-- ==== Sys2Proof/Machine/Stop.lean ====
section
/-! DEFINITION. Stop.lean: stopping a block (R380, R381), its matrix work (R307, R308) and engine work (R106, R386), saving and restoring it
(R383 to R385), killing a launch (R386) and replaying one (R405). -/

namespace Sys2Proof.Machine

namespace State

/-! ## What belongs to a block -/

/-- The quadrants on which a block's crews stand, in the order of its crews. -/
def blockHomes (b : Block) : List Nat := (b.crews.map quadOf).eraseDups

/-- The partition of a block. -/
def blockPart (s : State) (b : Block) : Nat := s.partOf (quadOf (b.crews.headD 0))

/-- The keys of the blocks of a launch that stand on their cores; `prt`: on one partition only. -/
def blocksOf (s : State) (d : Nat) (prt : Option Nat) : List Nat :=
  (List.filter (fun p : Nat × Block => decide (p.2.launch = d) && prt.all fun q => decide (s.blockPart p.2 = q)) s.ex.blocks).map (·.1)

/-- The block at a slot of a core, of any launch, that meets a test. -/
def blockAt (s : State) (core slot : Nat) (f : Block → Bool) : Option Nat :=
  (List.find? (fun p : Nat × Block => decide (p.2.core = core ∧ p.2.slot = slot) && f p.2) s.ex.blocks).map (·.1)

/-! ## Matrix work (R307) -/

/-- A windrow entry without the contributions of some crews: their stacked rows stay as rows of no one. -/
def withoutContribs (w : WEnt) (ks : List Nat) : WEnt := { w with contribs := w.contribs.filter fun c => !ks.contains c.op.crew }

/-- Takes the contributions of some crews out of the entries of a core whose fire has not started: they stand, in their order, before the
queued operations of their quadrants. An entry left with none is freed. -/
def withdrawRows (s : State) (core : Nat) (ks : List Nat) : State :=
  let ents := (s.core core).windrow
  let out := (List.flatMap (fun p : Nat × WEnt => p.2.contribs) ents).filter fun c => ks.contains c.op.crew
  let s := ents.foldl (fun s p =>
    let w := withoutContribs p.2 ks
    if w.contribs.length = p.2.contribs.length then s
    else if w.contribs.isEmpty then s.modCore core fun c => { c with windrow := SMap.erase c.windrow p.1 }
    else s.setWEnt core p.1 w) s
  (List.range 4).foldl (fun s j =>
    let quad := core * 4 + j
    let mine := (out.filter fun c => decide (c.quad = quad)).map (·.op)
    let before := fun (a b : MxOp) => decide (a.seq < b.seq)
    let sorted := mine.foldl (fun l o => l.filter (fun x => before x o) ++ o :: l.filter (fun x => !before x o)) []
    if sorted.isEmpty then s else s.modQuad quad fun q => { q with mq := sorted ++ q.mq }) s

/-- A unit no longer waits for a grant for an operation of these crews, or for an entry that is gone or runs on another unit now. -/
def unchoose (s : State) (quad : Nat) (ks : List Nat) : State :=
  let q := s.quad quad
  let gone := q.choice.any (fun o => ks.contains o.crew) || q.choiceFire.any fun e => (s.wEnt (quad / 4) e).all fun w => decide (wUnit w ≠ quad)
  if !gone then s
  else
    let bal := q.ballast.any fun b => !b.on
    let cl := s.cluster (clusterOf (quad / 4))
    let s := if bal then s else s.setCluster (clusterOf (quad / 4)) { cl with reqs := cl.reqs.filter fun r => !decide (r.2.1 * 4 + r.2.2 = quad) }
    s.modQuad quad fun q => { q with choice := none, choiceFire := none, asked := if bal then q.asked else none }

/-- Entries that have become free are opened by contributions that wait, and what has become ready is stamped. -/
def wAgain (s : State) (core : Nat) : State := (s.wRetry core).mxStamp core

/-- Halts the matrix work of some crews of a core. -/
def haltMatrix (s : State) (core : Nat) (ks : List Nat) : State :=
  (List.range 4).foldl (fun s j => s.unchoose (core * 4 + j) ks) (s.withdrawRows core ks)

/-- The matrix operations of some crews that have not started are dropped: each retires. -/
def purgeMatrix (s : State) (core : Nat) (ks : List Nat) : State :=
  ((List.range 4).foldl (fun s j =>
    let quad := core * 4 + j
    let q := s.quad quad
    let mine := fun (o : MxOp) => ks.contains o.crew
    let out := q.mq.filter mine ++ q.fired.filter mine ++ (List.flatMap (fun p : Nat × Cv => p.2.posted) q.cvs).filter mine
    if out.isEmpty then s
    else
      let s := s.modQuad quad fun q =>
        { q with mq := q.mq.filter (!mine ·), fired := q.fired.filter (!mine ·), cvs := q.cvs.map fun p => (p.1, { p.2 with posted := p.2.posted.filter (!mine ·) }) }
      out.foldl (fun s o => s.mxDone o none) s) s).wAgain core

/-! ## Engine work (R106, R381, R386) -/

/-- A copy that a kill or a replay has stopped: no transfer of it starts, its later contributions carry no generation, no record is
closed. -/
def stoppedCopy (c : CopyCmd) : CopyCmd := { c with next := c.total, gen := 2 ^ 16, record := none }

/-- Stops the commands of a channel that work for whom `f` names. -/
def stopChan (s : State) (core ch : Nat) (f : EngCtx → Bool) : State :=
  let q := s.chan core ch
  let mine := fun (c : CopyCmd) => f c.ctx
  let all := q.queue ++ q.cur.toList ++ q.live
  if !(all.any mine || q.chain.any (fun n => f n.ctx) || q.ending.any fun n => f n.ctx) then s
  else
    let s := (all.filter mine).foldl (fun (s : State) c => match c.bar with
      | some r => if c.finished then s else (s.abSend r 1 errStopped 0).abWake
      | none => s) s
    let q := s.chan core ch
    let started := ((q.queue ++ q.cur.toList).filter mine).map stoppedCopy
    let q := { q with
      queue := q.queue.filter (!mine ·)
      cur := q.cur.filter (!mine ·)
      live := (q.live.map fun c => if mine c then stoppedCopy c else c) ++ started
      chain := q.chain.filter fun n => !f n.ctx
      ending := q.ending.filter fun n => !f n.ctx
      frozen := q.frozen && !(all.any mine) }
    (s.setChan core ch q).settleChan core ch

/-- The CHAIN operations of a channel's stopped chains retire. -/
def endChains (s : State) (core ch : Nat) (f : EngCtx → Bool) : State :=
  let q := s.chan core ch
  ((q.chain.toList ++ q.ending).filter fun n => f n.ctx).foldl (fun s n => s.opDone n.crew n.op none noTrap) s

/-- Stops the gathers of an engine: each tells its barrier, the chunks written and not yet contributed count as late, and it retires. -/
def stopGather (s : State) (e : Nat) (f : EngCtx → Bool) : State :=
  let mine := (s.gather e).queue.filter fun c => f c.ctx
  mine.foldl (fun (s : State) c =>
    let s := match c.bar with
      | none => s
      | some r =>
        let s := (s.abSend r 1 errStopped 0).abWake
        let late := (List.range c.chunkCount).filter fun i => (c.rowsOf i).all (fun j => c.rows.any fun w => decide (w.1 = j)) && !c.chunks.contains (c.chb + i)
        (late.foldl (fun (s : State) i => s.abSend r 0 (c.chb + i) (2 ^ 16)) s).abSend r 2 0 0
    let s := s.setGather e { s.gather e with queue := (s.gather e).queue.filter fun o => !decide (o.num = c.num) }
    s.opDone c.crew c.op none noTrap) s

/-- Stops every engine command that works for whom `f` names. -/
def stopEngines (s : State) (f : EngCtx → Bool) : State :=
  let s := (s.ex.cores.map (·.1)).foldl (fun s core => (List.range 8).foldl (fun s ch => (s.endChains core ch f).stopChan core ch f) s) s
  (s.ex.gathers.map (·.1)).foldl (fun s e => s.stopGather e f) s

/-! ## Stopping at an instruction boundary (R380) -/

/-- A thread's wait is withdrawn: it stands at the instruction again. What a COMMIT or an abort has begun runs on; a BAR keeps its arrival and
starts anew at the restore. -/
def withdraw (t : Thread) : Thread :=
  let keep := fun (b : Blocked) => match b.kind with
    | .commit => true
    | .abort => true
    | .bar _ => true
    | _ => false
  let back := fun (b : Blocked) (t : Thread) => match b.kind with
    | .waitad _ _ _ _ _ => if b.sd then t else { t with vE := t.vE &&& ~~~(1#256 <<< b.d) }
    | _ => t
  let t := match t.blocked with
    | some b => if keep b then t else { back b t with blocked := none }
    | none => t
  match t.resume with
  | some b => if keep b then t else { back b t with resume := none }
  | none => t

/-- The s registers that withdrawn WAITADs would have filled are FULL again. -/
def withdrawS (c : Crew) : Crew :=
  let regs := c.threads.filterMap fun p => match p.2.blocked.orElse fun _ => p.2.resume with
    | some b => (match b.kind with
      | .waitad _ _ _ _ _ => if b.sd then some b.d else none
      | _ => none)
    | none => none
  regs.foldl (fun c r => { c with sE := c.sE &&& ~~~(1#64 <<< r) }) c

/-- Nothing of a crew issues again: its open regions abort with PREEMPT, its waits are withdrawn. -/
def stopCrew (s : State) (k : Nat) : State :=
  let s := (lanesOf (s.crew k).live).foldl (fun s l => if ((s.crew k).thread l).specAct then s.beginAbort k l 6 0 0 0 none else s) s
  let s := s.abLeave k (s.crew k).live
  s.modCrew k fun c => (withdrawS c).mapLanes c.live fun _ t => withdraw t

/-- Steps 1 and 3 of R380 for a block; a frozen crew stays as it is (R390). -/
def haltBlock (s : State) (bk : Nat) : State :=
  let b := s.block bk
  (((b.crews.filter fun k => !(s.crew k).frozen).foldl (fun s k => s.stopCrew k) s).haltMatrix b.core b.crews).wAgain b.core

/-- A block begins to stop: 3 to be saved, 4 to be flushed. -/
def stopBlock (s : State) (bk mode : Nat) : State :=
  if 3 ≤ (s.block bk).stop then s
  else (s.modBlock bk fun b => { b with stop := mode, stopAt := s.now }).haltBlock bk

/-- A command of a channel moves bytes of a block's window, or may. -/
def touchesWindow (b : Block) (c : CopyCmd) : Bool :=
  (b.crews.contains c.crew && (decide (c.ssp = 1) || decide (c.dsp = 1))) || (decide (c.ctx.launch = b.launch) && (decide (c.ssp = 2) || decide (c.dsp = 2)))

/-- Some engine work of the launch moves bytes of the block's window (R381). -/
def windowWork (s : State) (b : Block) : Bool :=
  (List.any s.ex.cores fun p => List.any p.2.chans fun q =>
    (q.2.queue ++ q.2.cur.toList ++ q.2.live).any fun c => touchesWindow b c && !c.finished)
  || (List.any s.ex.gathers fun p => p.2.queue.any fun c => b.crews.contains c.crew || (decide (c.ctx.launch = b.launch) && decide (c.dsp = 2)))
  || (List.any (s.core b.core).panReqs fun p => b.crews.contains p.2.crew && !p.2.sent)

/-- Steps 2 to 4 of R380 are over: nothing that a crew issued is open but engine work elsewhere, and matrix work that has not started. -/
def settled (s : State) (bk : Nat) : Bool :=
  let b := s.block bk
  ((b.crews.filter fun k => !(s.crew k).frozen).all fun k =>
    let c := s.crew k
    decide (c.sE = 0) && c.signs.isEmpty
      && (c.threads.all fun p => !p.2.live || (decide (p.2.vE = 0) && !p.2.specAct && match p.2.blocked with
        | some w => (match w.kind with
          | .bar _ => true
          | _ => false)
        | none => true))
      && c.ops.all fun o => decide (o.cls = 2) || decide (o.cls = 3) || decide (o.cls = 4) || decide (o.cls = 5))
  && ((blockHomes b).all fun quad => (s.quad quad).running.all fun r => !(r.op.any fun o => b.crews.contains o.crew))
  && ((s.fireRows b.core).all fun r => !b.crews.contains r.op.crew)
  && !s.windowWork b

/-! ## The image (R120, R384) -/

/-- The share index of a scratchpad key of a partition on a core. -/
def scrIndex (s : State) (core prt key : Nat) : Option Nat :=
  if keyTag key ≠ 6 ∨ keyAddr key / 2 ^ 22 ≠ core then none
  else
    let a := keyAddr key % 2 ^ 22
    let w := a / 4
    let qs := s.quarters core prt
    (qs.findIdx? fun q => decide (q = w / 12288 / 16)).map fun j => (w % 12288 * (16 * qs.length) + 16 * j + w / 12288 % 16) * 4 + a % 4

/-- The window offset of a key, if it lies in the block's window. -/
def windowOffset (s : State) (b : Block) (key : Nat) : Option Nat :=
  (s.scrIndex b.core (s.blockPart b) key).bind fun i =>
    if b.scrBase.toNat ≤ i ∧ i < b.scrLimit.toNat then some (i - b.scrBase.toNat) else none

/-- The offset of a slice key of a block in its image. -/
def sliceOffset (s : State) (b : Block) (key : Nat) : Option Nat :=
  if keyTag key ≠ 8 then none
  else
    let off := keyAddr key % 2048
    let lane := keyAddr key / 2048 % 64
    let quad := keyAddr key / (64 * 2048)
    b.crews.findSome? fun k =>
      let c := s.crew k
      let base := bits c.slice.toNat 10 4 * 16
      if quadOf k = quad ∧ base ≤ off ∧ off < base + bits c.slice.toNat 27 16 then some ((c.idx * 64 + lane) * 2048 + (off - base)) else none

/-- The offset of a tile key in the image of a block whose quadrants are `qs`. -/
def tileOffset (qs : List Nat) (key : Nat) : Option Nat :=
  if keyTag key ≠ 9 then none
  else (qs.findIdx? fun q => decide (q = keyAddr key / 2 ^ 18)).map fun j => j * 2 ^ 18 + keyAddr key % 2 ^ 18

/-- The entries of a sparse list whose keys have an image. -/
def imaged (f : Nat → Option Nat) (l : List Host.Cell) : List Host.Cell := l.filterMap fun p => (f p.1).map fun i => (i, p.2)

/-- Each object of the window that is ARMED or referenced is written to its HOME and its entry becomes HOMED; other entries of the window
are freed (R120). -/
def homeEntries (s : State) (bk : Nat) : State :=
  let b := s.block bk
  let mine := List.filter (fun p : Nat × AbEnt => !p.2.homed && decide (p.2.prt = s.blockPart b) && decide (b.scrBase.toNat ≤ p.2.key ∧ p.2.key < b.scrLimit.toNat))
    (s.core b.core).ab
  mine.foldl (fun (s : State) p =>
    let r : AbRef := ⟨1, p.1, p.2.launch, b.core, p.2.prt⟩
    let h := s.abHdr 0 true r
    if h.state = abArmed ∨ h.refs ≠ 0 then
      let blocks := (List.range (abBytes h.nchunk h.ncont / 64)).map fun i => (64 * i, s.abBlock 0 true r (64 * i))
      let s := s.abWrite ⟨0, p.2.home, p.2.launch, b.core, p.2.prt⟩ blocks
      let s := s.modCore b.core fun c => { c with ab := SMap.put c.ab p.1 { p.2 with homed := true } }
      let off := p.2.key - b.scrBase.toNat
      let s := s.modBlock bk fun b => { b with homed := (b.homed.filter fun e => !decide (e.1 = off)) ++ [(off, p.2.home)] }
      s.abTidy r
    else s.modCore b.core fun c => { c with ab := SMap.erase c.ab p.1 }) s

/-- What engines and pan operations of a core, and the gathers, call a crew changes. -/
def renameCrew (s : State) (f : Nat → Nat) : State :=
  let cmd := fun (c : CopyCmd) => { c with crew := f c.crew }
  let chn := fun (n : Chain) => { n with crew := f n.crew }
  let chan := fun (q : Channel) =>
    { q with queue := q.queue.map cmd, cur := q.cur.map cmd, live := q.live.map cmd, chain := q.chain.map chn, ending := q.ending.map chn }
  { s with ex := { s.ex with
      cores := s.ex.cores.map fun p => (p.1, { p.2 with
        chans := p.2.chans.map fun q => (q.1, chan q.2)
        panReqs := p.2.panReqs.map fun r => (r.1, { r.2 with crew := f r.2.crew }) })
      gathers := s.ex.gathers.map fun p => (p.1, { p.2 with queue := p.2.queue.map fun c => { c with crew := f c.crew } }) } }

/-- A quadrant's matrix state with its crews renamed; what had become ready becomes so afresh. -/
def renameQuad (f : Nat → Nat) (q : Quad) : Quad :=
  let mx := fun (o : MxOp) => { o with crew := f o.crew, ready := none }
  { q with mq := q.mq.map mx, fired := q.fired.map mx, cvs := q.cvs.map fun p => (p.1, { p.2 with posted := p.2.posted.map mx }) }

/-- What a quadrant keeps when a slot-using block leaves it. -/
def leaveQuad (uses : Bool) (ks : List Nat) (q : Quad) : Quad :=
  let q := { q with
    sfq := q.sfq.filter fun r => !ks.any fun k => decide (slotOf k = r.slot)
    ballast := q.ballast.filter fun b => !ks.contains b.crew }
  if uses then { q with mq := [], fired := [], cvs := [], buf := none } else q

/-- Chains whose next record lies in the window, or that a stop has parked, park (R381). -/
def parkChains (s : State) (b : Block) : State :=
  s.modCore b.core fun c => { c with chans := c.chans.map fun q =>
    (q.1, { q.2 with chain := q.2.chain.map fun n => if b.crews.contains n.crew ∧ n.sp = 1 ∧ n.parked = false then { n with parked := true, rest := true } else n }) }

/-- The image of a block is taken and its crews leave their slots (R383, R384). -/
def saveBlock (s : State) (bk : Nat) : State :=
  let s := s.parkChains (s.block bk)
  let s := s.homeEntries bk
  let b := s.block bk
  let prt := s.blockPart b
  let qs := blockHomes b
  let uses := slotUsing (s.launch b.launch).q.code
  let ren := fun k => match b.crews.findIdx? fun j => decide (j = k) with
    | some i => 2 ^ 20 + s.ctr * 16 + i
    | none => k
  let pois := (List.filter (fun p : Nat × Bool => p.2) s.mem.pois).filterMap fun p =>
    match s.windowOffset b p.1, s.sliceOffset b p.1, if uses then tileOffset qs p.1 else none with
    | some i, _, _ => some (0, i)
    | _, some i, _ => some (1, i)
    | _, _, some i => some (2, i)
    | _, _, _ => none
  let sv : Saved :=
    { block := { b with crews := b.crews.map ren }
      crews := b.crews.map fun k => (ren k, (s.crew k).dropFetched)
      window := imaged (s.windowOffset b) s.mem.bytes
      fe := (List.filter (fun p : Nat × Bool => p.2) s.mem.fe).filterMap fun p => s.windowOffset b p.1
      slices := imaged (s.sliceOffset b) s.mem.bytes
      tiles := if uses then imaged (tileOffset qs) s.mem.bytes else []
      pois := pois
      places := b.crews.map fun k => ((s.crew k).idx, (qs.findIdx? fun q => decide (q = quadOf k)).getD 0)
      quads := ((List.range qs.length).zip qs).map fun p => (p.1, renameQuad ren (s.quad p.2))
      bars := (s.core b.core).bars.filter fun e => decide (e.block = bk)
      recs := b.crews.flatMap fun k => ((s.quad (quadOf k)).sfq.filter fun r => decide (r.slot = slotOf k)).map fun r => { r with slot := (s.crew k).idx }
      tenant := (s.launch b.launch).q.tenant
      part := prt }
  let s := s.renameCrew ren
  let s := qs.foldl (fun s q => s.modQuad q (leaveQuad uses (b.crews.filter fun k => decide (quadOf k = q)))) s
  let s := s.modCore b.core fun c => { c with bars := c.bars.filter fun e => !decide (e.block = bk) }
  let s := { s with ex := { s.ex with blocks := SMap.erase s.ex.blocks bk, crews := b.crews.foldl SMap.erase s.ex.crews } }
  { s with fr := { s.fr with saved := s.fr.saved ++ [sv] } }

/-- A stopped block leaves without an image: its slots are freed, its engine work elsewhere runs on (R382). -/
def dropBlock (s : State) (bk : Nat) : State :=
  let b := s.block bk
  let s := s.purgeMatrix b.core b.crews
  let s := { s with coh := { s.coh with locks := s.coh.locks.filter fun e => !b.crews.contains e.crew } }
  let s := (blockHomes b).foldl (fun s q => s.modQuad q (leaveQuad false (b.crews.filter fun k => decide (quadOf k = q)))) s
  s.endBlock bk

end State

/-- BLOCK_STOP_COMPLETE (R380, R390): a stopping block has settled: its pan slots fail, and it is saved, flushed or, in a FROZEN launch, left where it
stands (stop 6). -/
def execBlockStopComplete (core slot : Nat) (s : State) : Out :=
  match s.blockAt core slot fun b => decide (3 ≤ b.stop) && decide (b.stop ≤ 5) with
  | none => .next s
  | some bk =>
    let s := s.haltBlock bk
    if !s.settled bk then .next s
    else
      let b := s.block bk
      let s := s.panStop b.launch core
      .next (if b.stop = 4 then s.dropBlock bk else if b.stop = 5 then s.modBlock bk fun b => { b with stop := 6 } else s.saveBlock bk)

/-- SHADOW_EXCHANGE_DONE (R383): the images of a core are in its shadow slot; a context that was there and is not of the same launch is in
its tenant's spill area. -/
def execShadowExchangeDone (core : Nat) (s : State) : Out :=
  let new := s.fr.saved.filter fun b => decide (b.block.core = core) && b.inShadow.isNone
  match new.head? with
  | none => .next s
  | some n => .next { s with fr := { s.fr with saved := s.fr.saved.map fun b =>
      if b.block.core ≠ core then b
      else if b.inShadow.isNone then { b with inShadow := some 0 }
      else if b.block.launch = n.block.launch then b else { b with inShadow := some 1 } } }

end Sys2Proof.Machine
end

