-- ==== Sys2Proof/Machine/Preempt.lean ====
section
/-! DEFINITION. Preempt.lean: the ladder of a pre-emption (R377 to R382), resuming a tenant (R384, R385), killing (R386, R390) and replaying a
launch (R405). -/

namespace Sys2Proof.Machine

namespace State

/-! ## Requests (R377 to R379) -/

def preemptOf (s : State) (tenant part : Nat) : Option Preempt := s.fr.preempts.find? fun p => decide (p.tenant = tenant ∧ p.part = part)

/-- The tenant of a launch is being pre-empted on a partition: no slot there starts a block. -/
def preempting (s : State) (d part : Nat) : Bool := (s.preemptOf (s.launch d).q.tenant part).isSome

def setPreempt (s : State) (p : Preempt) : State :=
  { s with fr := { s.fr with preempts := s.fr.preempts.map fun o => if o.tenant = p.tenant ∧ o.part = p.part then p else o } }

def dropPreempt (s : State) (tenant part : Nat) : State :=
  { s with fr := { s.fr with preempts := s.fr.preempts.filter fun o => !decide (o.tenant = tenant ∧ o.part = part) } }

/-- The blocks of a tenant's launches that stand on a partition. -/
def tenantBlocks (s : State) (tenant part : Nat) : List Nat :=
  (List.filter (fun p : Nat × Block => decide ((s.launch p.2.launch).q.tenant = tenant) && decide (s.blockPart p.2 = part)) s.ex.blocks).map (·.1)

/-- A partition's power control register: DRAIN 20, HOLD 100 until it is written (R394). -/
def ppcOf (s : State) (p : Nat) : Nat := if (s.part p).ppcSet then (s.part p).ppc.toNat else 0x00140064

/-- T(t) of the tile a block runs; 0 when it runs none. -/
def tileTime (s : State) (b : Block) : Nat :=
  match s.slotEnt b.launch b.home b.slot with
  | none => 0
  | some e => (((e.tiles.drop (if b.persist then b.cursor - 1 else e.cursor)).head?.filter fun t => decide (t.tile = b.tile.toNat)).map (·.time)).getD 0

/-- The choice of R382 for a running block. -/
def rungTwo (s : State) (bk : Nat) : State :=
  let b := s.block bk
  let left := s.tileTime b - (s.now - b.started)
  if left ≤ bits (s.ppcOf (s.blockPart b)) 23 16 * 1000 then s.modBlock bk fun b => { b with stop := 2, stopAt := s.now }
  else (s.noteStopped b.launch).stopBlock bk (if !b.persist && (s.launch b.launch).q.idem then 4 else 3)

/-! ## Restoring (R384, R385) -/

/-- The time-out code of the BAR at a PC. -/
def barTo (code : List Word) (pc : Nat) : Nat :=
  match fetch code pc with
  | .ok (.bar i) _ => bits i.cN 4 0
  | _ => 0

/-- A crew as it comes back: its BARs wait anew, a handler's time and a pending notice are as R385 has them. -/
def wakeCrew (c : Crew) (code : List Word) (now at' base : Nat) : Crew :=
  let bar := c.threads.any fun p => p.2.blocked.isSome
  let c := c.mapLanes c.live fun _ t => { t with blocked := t.blocked.map fun b => { b with deadline := some (now + 2 ^ (barTo code b.pc + 3)) } }
  { c with
    notice := false
    noticeAt := (0, 0)
    age := 0
    barAt := if bar then some now else none
    entryAt := c.entryAt.map fun e => now - (at' - e)
    slice := BitVec.ofNat 32 (bits c.slice.toNat 27 16 * 2 ^ 16 + base) }

/-- Places the crews of an image in the quadrants `qs`, by position: the new crew keys with the saved ones, or none where room is wanting. -/
def placeSaved (s : State) (sv : Saved) (qs : List Nat) : List (Nat × Crew) → Option (List (Nat × Nat) × State)
  | [] => some ([], s)
  | (old, c) :: rest =>
    let quad := qs.getD (((sv.places.find? fun p => decide (p.1 = c.idx)).map (·.2)).getD 0) 0
    match (s.freeSlots quad 16).head?, s.sliceBase quad (bits c.slice.toNat 27 16) with
    | some sl, some base =>
      if 2048 < s.regsHeld quad + c.nregs then none
      else
        let k := quad * 16 + sl
        let s := s.setCrew k (wakeCrew c (s.launch sv.block.launch).q.code s.now sv.block.stopAt base)
        (s.placeSaved sv qs rest).map fun r => ((old, k) :: r.1, r.2)
    | _, _ => none

/-- The windows of the blocks of a partition on a core. -/
def windowsOn (s : State) (core prt : Nat) : List (Nat × Nat) :=
  (List.filter (fun p : Nat × Block => decide (p.2.core = core) && decide (s.blockPart p.2 = prt)) s.ex.blocks).map fun p =>
    (p.2.scrBase.toNat, p.2.scrLimit.toNat - p.2.scrBase.toNat)

/-- Where a window of `len` bytes goes on a core: its own place where that is free, else the lowest free place. -/
def placeWindow (s : State) (sv : Saved) (core len : Nat) : Option Nat :=
  let b := sv.block
  let wins := s.windowsOn core sv.part
  let own := core = b.core && wins.all fun w => decide (w.2 = 0) || decide (w.1 + w.2 ≤ b.scrBase.toNat) || decide (b.scrBase.toNat + len ≤ w.1)
  if own then some b.scrBase.toNat else fitSpan (s.heldSpans core sv.part ++ wins) (s.shareLen core sv.part) len

/-- The quadrants of a core on which a saved block could stand: its partition's, reserved by no other launch, at least as many as it had; for a
slot-using block, none on which another block of the launch has crews (R253). -/
def restoreQuads (s : State) (sv : Saved) (core : Nat) : Option (List Nat) :=
  let d := sv.block.launch
  let uses := slotUsing (s.launch d).q.code
  let free := (s.ownedQuads sv.part).filter fun q => decide (q / 4 = core) && !(uses && (s.residents q).any fun p => p.2.launch.isSome) && !(List.any s.fr.launches fun p => decide (p.1 ≠ d) && decide (p.2.phase < 2) && p.2.q.quads.contains q)
  let mine := free.filter fun q => (s.launch d).q.quads.contains q
  let qs := if sv.quads.length ≤ mine.length then mine else free
  if qs.length < sv.quads.length then none else some (qs.take sv.quads.length)

/-- A chain that a stop has parked goes to the same channel of the new core and starts again there (R381); one that found OWN = 0
stays parked where it is (R102). -/
def moveChains (s : State) (sv : Saved) (core : Nat) (ren : Nat → Nat) (ctx : EngCtx → EngCtx) : State :=
  (List.range 8).foldl (fun (s : State) ch =>
    let q := s.chan sv.block.core ch
    match q.chain with
    | none => s
    | some n =>
      match sv.crews.find? fun p => decide (p.1 = n.crew) with
      | none => s
      | some _ =>
        if !n.rest then s
        else
          let s := s.setChan sv.block.core ch { q with chain := none }
          s.setChan core ch { s.chan core ch with chain := some { n with parked := false, rest := false, crew := ren n.crew, ctx := if n.sp = 1 then ctx n.ctx else n.ctx } }) s

/-- The channels of a core have room for the image's parked chains. -/
def chainsFit (s : State) (sv : Saved) (core : Nat) : Bool :=
  decide (core = sv.block.core) || (List.range 8).all fun ch =>
    match (s.chan sv.block.core ch).chain with
    | none => true
    | some n => !(sv.crews.any fun p => decide (p.1 = n.crew)) || (s.chan core ch).chain.isNone

/-- Restores an image on a core: none where it has no room. -/
def restoreOn (s : State) (sv : Saved) (core : Nat) : Option State :=
  let b := sv.block
  let len := b.scrLimit.toNat - b.scrBase.toNat
  match s.restoreQuads sv core, s.placeWindow sv core len with
  | some qs, some base =>
    if 32 < (s.core core).bars.length + sv.bars.length ∨ !s.chainsFit sv core then none
    else match s.placeSaved sv qs sv.crews with
      | none => none
      | some (ks, s) =>
        let bk := blockKey b.launch b.home b.slot
        let ren := fun k => ((ks.find? fun p => decide (p.1 = k)).map (·.2)).getD k
        let uses := slotUsing (s.launch b.launch).q.code
        let nb : Block := { b with core := core, crews := ks.map (·.2), scrBase := BitVec.ofNat 32 base, scrLimit := BitVec.ofNat 32 (base + len), stop := 0,
                                   started := s.now - (b.stopAt - b.started) }
        let s := (s.setBlock bk nb).renameCrew ren
        let s := s.moveChains sv core ren fun e => { e with core := core, base := base, limit := base + len }
        let s := s.modCore core fun c => { c with bars := c.bars ++ sv.bars }
        let winKey := fun i => s.scrKey core sv.part (base + i)
        let slKey := fun i =>
          let k := (ks.map (·.2)).find? fun k => decide ((s.crew k).idx = i / (64 * 2048))
          sliceKey (quadOf (k.getD 0)) (i / 2048 % 64) (bits (s.crew (k.getD 0)).slice.toNat 10 4 * 16 + i % 2048)
        let tlKey := fun i => tileKey (qs.getD (i / 2 ^ 18) 0) 0 (i % 2 ^ 18)
        let s := { s with mem := (if uses then s.mem.clear (fun key => qs.any fun q => inTiles q key) else s.mem) }
        let m := s.mem.clear fun key => (s.windowOffset nb key).isSome || (s.sliceOffset nb key).isSome
        let m := m.writeAll (sv.window.map (fun p => (winKey p.1, p.2)) ++ sv.slices.map (fun p => (slKey p.1, p.2)) ++ sv.tiles.map (fun p => (tlKey p.1, p.2)))
        let gone := (List.filter (fun p : Nat × Bool => (s.windowOffset nb p.1).isNone) m.fe)
        let m := { m with
          fe := (sv.fe.map winKey).foldl (fun f k => SMap.set false f k true) gone
          pois := (sv.pois.map fun p => if p.1 = 0 then winKey p.2 else if p.1 = 1 then slKey p.2 else tlKey p.2).foldl (fun f k => SMap.set false f (poisonUnit k) true) m.pois }
        let s := { s with mem := m }
        let s := if !uses then s else sv.quads.foldl (fun s p =>
          let q := renameQuad ren p.2
          s.modQuad (qs.getD p.1 0) fun o => { o with books := q.books, curves := q.curves, cvs := q.cvs, nextSeq := q.nextSeq, fired := q.fired, mq := q.mq, buf := q.buf }) s
        let s := sv.recs.foldl (fun s r =>
          match (ks.map (·.2)).find? fun k => decide ((s.crew k).idx = r.slot) with
          | none => s
          | some k => s.modQuad (quadOf k) fun q => { q with sfq := q.sfq ++ [{ r with slot := slotOf k }] }) s
        let s := s.modCore core fun c => { c with sender := (List.filter (fun p : Nat × SendEnt => decide (p.2.launch = b.launch)) (s.core b.core).sender).foldl (fun m p =>
          if (SMap.find? m p.1).isSome then m else SMap.put m p.1 p.2) c.sender }
        some (s.wAgain core)
  | _, _ => none

/-- Puts one element, by a free choice, before the others. -/
def chooseFirst (ctr : Nat) (l : List Nat) : List Nat :=
  match (l.drop (Config.freePick ctr 0 % max 1 l.length)).head? with
  | none => l
  | some x => x :: l.filter (· ≠ x)

/-- Restores an image on some core of its partition in a cluster granted to its launch; it stays at rest when none has room. -/
def restoreSaved (s : State) (sv : Saved) : State :=
  let l := s.launch sv.block.launch
  let cores := (List.range 160).filter fun c => (l.q.quads.any fun q => decide (clusterOf (q / 4) = clusterOf c)) && (s.restoreQuads sv c).isSome
  let rest := { s with fr := { s.fr with saved := s.fr.saved.filter fun o => !decide (o.block.launch = sv.block.launch ∧ o.block.home = sv.block.home ∧ o.block.slot = sv.block.slot) } }
  ((chooseFirst s.ctr cores).findSome? fun c => rest.restoreOn sv c).getD s

/-- Every saved block of a tenant on a partition that can be restored is; an image of a FROZEN launch stays at rest (R151, R390). -/
def resumeAll (s : State) (tenant part : Nat) : State :=
  let mine := s.fr.saved.filter fun b => decide (b.tenant = tenant ∧ b.part = part) && b.inShadow.isSome && !(s.launch b.block.launch).frozen
  mine.foldl (fun s sv =>
    let s := s.restoreSaved sv
    if (s.launch sv.block.launch).preempted && decide (s.dcbState sv.block.launch = 2) then s.setDcbState sv.block.launch 1 else s) s

/-! ## Killing (R386) -/

/-- A killed crew: its threads end; one that was frozen leaves with what it had open. -/
def killCrew (s : State) (k : Nat) : State :=
  let c := s.crew k
  if !c.frozen then s.endCrew k true
  else ((s.endLanes k c.live).modCrew k fun c => { c with ops := [], signs := [], frozen := false }).reap k

/-- Kills the contexts of a launch, on one partition or on all: engine work, matrix work, pan slots, saved images, crews (R386). -/
def killLaunch (s : State) (d : Nat) (prt : Option Nat) : State :=
  match SMap.find? s.fr.launches d with
  | none => s
  | some l =>
    if 2 ≤ l.phase then s
    else
      let s := (s.modLaunch d fun l => { l with killed := true, frozen := false }).setDcbState d 4
      let s := s.stopEngines fun e => decide (e.launch = d) && prt.all fun p => decide (e.prt = p)
      let s := (s.ex.cores.map (·.1)).foldl (fun s c => if prt.all fun p => decide (s.launchPart d c = p) then s.panStop d c else s) s
      let bks := s.blocksOf d prt
      let s := bks.foldl (fun (s : State) bk => let b := s.block bk; (s.haltMatrix b.core b.crews).purgeMatrix b.core b.crews) s
      let dead := s.fr.saved.filter fun b => decide (b.block.launch = d) && prt.all fun p => decide (b.part = p)
      let s := dead.foldl (fun s b => s.modSlot d b.block.home b.block.slot fun e => { e with busy := false }) s
      let s := { s with fr := { s.fr with saved := s.fr.saved.filter fun b => !(decide (b.block.launch = d) && prt.all fun p => decide (b.part = p)) } }
      let s := (bks.flatMap fun bk => (s.block bk).crews).foldl (fun (s : State) k => s.killCrew k) s
      if l.phase = 0 then s.endLaunch d else s.checkLaunch d

/-- The party of a killed launch is OPERATOR, unless a CALLER breach came first (R386). -/
def blameOperator (s : State) (d : Nat) : State :=
  let q := (s.launch d).q.qid.toNat
  s.setStatus q 0x06 (if (s.quote q).attr = 1 then 1 else 3)

/-- A partition still has a block on a cluster. -/
def clusterBusy (s : State) (prt cl : Nat) : Bool :=
  List.any s.ex.blocks fun b => decide (clusterOf b.2.core = cl) && decide (s.blockPart b.2 = prt)

/-- The quadrants of a partition on the clusters where its ballast may run: those granted to its launches, and those of launches that have ended, while
its power still falls (R400). -/
def ballastQuads (s : State) (p : Nat) : List Nat :=
  let cls := s.fr.launches.foldl (fun l x => if x.2.phase < 2 ∧ bitOf x.2.q.parts.toNat p then l ++ x.2.q.quads.map fun q => q / 32 else l) []
  (s.ownedQuads p).filter fun q => cls.contains (q / 32) || (s.part p).clusters.contains (q / 32)

/-- Clusters on which a kill or a fault has left a partition no context come under the management plane's ramp (R401): `gone` are the partition's quadrants
there, of all the `quads` on which its ballast may run. With none left anywhere all its power becomes the operator's ballast, else what ballast runs on
`gone`. -/
def operatorRamp (s : State) (prt : Nat) (gone quads : List Nat) : State :=
  let p := s.part prt
  let n := gone.foldl (fun n q => n + (s.quad q).stall * levelMw) 0
  let moved := if gone.length = quads.length then p.power else min p.ballast n
  let s := gone.foldl (fun (s : State) q => s.modQuad q fun x => { x with stall := 0 }) s
  s.setPart prt { p with
    opBal := p.opBal + moved
    power := p.power - moved
    ballast := if gone.length = quads.length then 0 else p.ballast - moved
    clusters := p.clusters.filter fun cl => !gone.any fun q => decide (q / 32 = cl) }

/-- Rung 3 (R377, R386): the launches of the tenant that still have a block on the partition's cores are killed there. -/
def rungThree (s : State) (tenant part : Nat) : State :=
  let ds := ((s.tenantBlocks tenant part).map fun bk => (s.block bk).launch).eraseDups
  let quads := s.ballastQuads part
  let s := ds.foldl (fun s d => ((s.noteStopped d).blameOperator d).killLaunch d (some part)) s
  if ds.isEmpty then s else s.operatorRamp part (quads.filter fun q => !s.clusterBusy part (q / 32)) quads

/-! ## Replaying (R405) -/

/-- What stands on the cores for a launch goes: its blocks, its engine work, its images; its slots are as at its start. -/
def discardLaunch (s : State) (d : Nat) : State :=
  let s := s.stopEngines fun e => decide (e.launch = d)
  let s := (s.ex.cores.map (·.1)).foldl (fun s c => s.panStop d c) s
  let s : State := (s.blocksOf d none).foldl (fun (s : State) bk =>
    let b := s.block bk
    let s := (s.haltMatrix b.core b.crews).purgeMatrix b.core b.crews
    let s := b.crews.foldl (fun (s : State) k => s.abLeave k (s.crew k).live) s
    let s := s.modCore b.core fun c => { c with bars := c.bars.filter fun e => !decide (e.block = bk) }
    let s := (List.range 4).foldl (fun (s : State) j => s.modQuad (b.core * 4 + j) fun q =>
      { q with running := q.running.map fun (r : Running) => { r with rows := r.rows.filter fun c => !b.crews.contains c.op.crew } }) s
    let s := (blockHomes b).foldl (fun s q => s.modQuad q fun o =>
      let o := leaveQuad false (b.crews.filter fun k => decide (quadOf k = q)) o
      { o with running := o.running.filter fun r => !(r.op.any fun x => b.crews.contains x.crew) }) s
    let s := { s with coh := { s.coh with locks := s.coh.locks.filter fun e => !b.crews.contains e.crew } }
    { s with ex := { s.ex with blocks := SMap.erase s.ex.blocks bk, crews := b.crews.foldl SMap.erase s.ex.crews } }) s
  let s := { s with ex := { s.ex with cores := s.ex.cores.map fun (p : Nat × Core) => (p.1, { p.2 with ab := List.filter (fun e : Nat × AbEnt => !decide (e.2.launch = d)) p.2.ab }) } }
  let s := { s with fr := { s.fr with saved := s.fr.saved.filter fun (b : Saved) => !decide (b.block.launch = d) } }
  s.modLaunch d fun l => { l with q := { l.q with slots := l.q.slots.map fun e => { e with cursor := 0, waiting := none, admitted := false, busy := false } } }

/-- The snapshots of a launch are written back, with the poison that their frames had; its accepted stores are not performed any more, and no L1 keeps a copy of the frames. -/
def writeBack (s : State) (d : Nat) : State :=
  let l := s.launch d
  let inSnap := fun (key : Nat) => decide (keyTag key = 1) && l.snaps.any fun x => decide (x.1 = keyAddr key / 4096)
  let s := { s with coh := { s.coh with
    pend := s.coh.pend.filter fun p => !decide (p.launch = d)
    l1 := List.filter (fun p : Nat × L1Line => !inSnap (p.2.line * 64)) s.coh.l1 } }
  let m := { s.mem with bytes := List.filter (fun p : Host.Cell => !inSnap p.1) s.mem.bytes }
  let m := m.writeAll (l.snaps.flatMap fun x => x.2.2)
  let pois := List.filter (fun p : Nat × Bool => !inSnap p.1) m.pois
  let recs := s.pl.poisRec.map fun (k, l) => (k, l.filter fun sec => !inSnap (sec * 64))
  let s := { s with mem := { m with pois := pois }, pl := { s.pl with poisRec := recs } }
  (l.snapPois.2.foldl (fun s sec => s.recordPoison sec) s).poisonKeys l.snapPois.1

/-- Replays a launch under its quotation: at most twice, and only while it is replayable; else it ends FAILED (R405, R407). -/
def replayLaunch (s : State) (d cause : Nat) : State :=
  match SMap.find? s.fr.launches d with
  | none => s
  | some l =>
    if l.phase ≠ 1 ∨ l.failed ∨ l.killed ∨ l.frozen then s
    else if !l.replayable || decide (2 ≤ l.replays) then s.failLaunch d
    else
      let s := ((s.breach d cause 0 255).discardLaunch d).writeBack d
      s.modLaunch d fun l => { l with replays := l.replays + 1, phase := 0, startAt := s.now }

end State

/-- PREEMPT_REQUEST (R377, R379): rung 1; a crew with V = 0 receives no notice. A request raised again changes nothing. -/
def execPreemptRequest (tenant part : Nat) (s : State) : Out :=
  if (s.preemptOf tenant part).isSome then .next s
  else
    let s := { s with fr := { s.fr with preempts := s.fr.preempts ++ [({ tenant := tenant, part := part, since := s.now } : Preempt)] } }
    .next ((s.tenantBlocks tenant part).foldl (fun (s : State) bk =>
      let s : State := (s.block bk).crews.foldl (fun (s : State) k => s.modCrew k fun (c : Crew) => { c with notice := c.tvec.getLsbD 0 }) s
      (s.modBlock bk fun b => { b with stop := max 1 b.stop }).stepNext bk) s)

/-- PREEMPT_WITHDRAW (R378): blocks that have not stopped run on, without the notice that they have not taken; stopped ones are restored. -/
def execPreemptWithdraw (tenant part : Nat) (s : State) : Out :=
  match s.preemptOf tenant part with
  | none => .next s
  | some _ =>
    let s := (s.dropPreempt tenant part)
    let s := (s.tenantBlocks tenant part).foldl (fun (s : State) bk =>
      let s : State := (s.block bk).crews.foldl (fun (s : State) k => s.modCrew k fun (c : Crew) => { c with notice := false, noticeAt := (0, 0) }) s
      let s := if (s.block bk).stop < 3 then s.modBlock bk fun b => { b with stop := 0 } else s
      s.stepNext bk) s
    .next (s.resumeAll tenant part)

/-- GRACE_TIMER_EXPIRY (R377, R382): rung 2, GRACE times 10 µs after the request. -/
def execGraceTimerExpiry (tenant part : Nat) (s : State) : Out :=
  match s.preemptOf tenant part with
  | none => .next s
  | some p =>
    if p.rung ≠ 1 ∨ s.now < p.since + bits (s.dcb tenant) 43 32 * 10000 then .next s
    else
      let s := s.setPreempt { p with rung := 2 }
      .next ((s.tenantBlocks tenant part).foldl (fun (s : State) bk => if (s.block bk).stop < 2 then s.rungTwo bk else s) s)

/-- DRAIN_TIMER_EXPIRY (R382): a block that still drains DRAIN µs after rung 2 is saved. -/
def execDrainTimerExpiry (core slot : Nat) (s : State) : Out :=
  match s.blockAt core slot fun b => decide (b.stop = 2) with
  | none => .next s
  | some bk =>
    let b := s.block bk
    if s.now < b.stopAt + bits (s.ppcOf (s.blockPart b)) 23 16 * 1000 then .next s
    else .next ((s.noteStopped b.launch).stopBlock bk 3)

/-- KILL_TIMER_EXPIRY (R386): rung 3, KILLT times 100 µs after the request. -/
def execKillTimerExpiry (tenant part : Nat) (s : State) : Out :=
  match s.preemptOf tenant part with
  | none => .next s
  | some p =>
    if 3 ≤ p.rung ∨ s.now < p.since + bits (s.dcb tenant) 31 20 * 100000 then .next s
    else .next ((s.setPreempt { p with rung := 3 }).rungThree tenant part)

/-- TENANT_RESUME (R385): the request is over and saved blocks come back, in free places. -/
def execTenantResume (tenant part : Nat) (s : State) : Out := .next ((s.dropPreempt tenant part).resumeAll tenant part)

/-- FROZEN_CONTEXT_KILL (R390): a FROZEN launch is killed and ends FAILED, with the attribution of R407. -/
def execFrozenContextKill (launch : Nat) (s : State) : Out :=
  match SMap.find? s.fr.launches launch with
  | none => .next s
  | some l => .next (if l.frozen then (s.modLaunch launch fun l => { l with failed := true }).killLaunch launch none else s)

/-- LAUNCH_REPLAY (R405). -/
def execLaunchReplay (launch cause : Nat) (s : State) : Out := .next (s.replayLaunch launch cause)

end Sys2Proof.Machine
end

