-- ==== Sys2Proof/Machine/Accept.lean ====
section
/-! DEFINITION. Accept.lean: answers to quotations (R342), the acceptance order and its edges (R361 to R364), what a successful ACCEPT does
(R19, R343, R344), and the start of launches and blocks (R345, R367, R368). -/

namespace Sys2Proof.Machine

namespace State

/-! ## ACCEPT and DECLINE at the front end (R342) -/

def quoted (s : State) (qid : Nat) : Option Quote := (SMap.find? s.fr.quotes qid).filter fun q => decide (q.status = qsQuoted)

/-- The status with which an answer ends at its arrival; none when it is acted on. -/
def answerStatus (s : State) (qid : Nat) : Option Nat :=
  match s.quoted qid with
  | none => some qsUnknownQid
  | some q => if q.valid ≤ s.now then some qsExpired else none

/-- A quotation takes a status that ends it, its attribution kept. -/
def endQuote (s : State) (qid st : Nat) : State := s.setStatus qid st (s.quote qid).attr

/-- An answer that ends at its arrival. -/
def refuseAnswer (s : State) (r : FrontReq) (st : Nat) : State := (if st = qsExpired then s.endQuote r.qid.toNat st else s).feAnswer r st

/-- An ACCEPT of the quotation waits in the acceptance order. -/
def acceptWaits (s : State) (qid : Nat) : Bool := s.fr.order.any fun o => decide (o.qid.toNat = qid)

/-! ## Edges (R362, R363) -/

/-- The frames of a quotation's regions as they map now. -/
def reframe (s : State) (q : Quote) : List FpRegion := q.regions.map fun r => { r with frames := s.framesOf q.asid r }

/-- Two regions give an edge: a common frame, and one of them grants W or ATOM. -/
def regionsMeet (a b : FpRegion) : Bool := (a.w || a.atom || b.w || b.atom) && a.frames.any fun f => b.frames.contains f

/-- The regions of P that an edge to Q carries. -/
def edgeRegions (p q : List FpRegion) : List Nat :=
  ((List.range p.length).zip p).filterMap fun x => if q.any (regionsMeet x.2) then some x.1 else none

/-- The edges of a launch that comes to the head of the order. -/
def edgesOf (s : State) (qid : Nat) (q : Quote) : List Edge :=
  let mine := s.reframe q
  (List.filter (fun p : Nat × Launch => decide (p.2.q.parts &&& q.parts ≠ 0)) s.fr.launches).filterMap fun p =>
    let rs := edgeRegions p.2.q.regions mine
    if rs.isEmpty then none else some { prod := p.1, cons := qid, regions := rs }

/-- Marks the ACCEPT at the head as compared, with its edges. -/
def compareHead (s : State) (r : FrontReq) (q : Quote) : State :=
  if r.req = 1 then s
  else { s with fr := { s.fr with
    edges := s.fr.edges ++ s.edgesOf r.qid.toNat q
    order := s.fr.order.map fun o => if o.crew = r.crew ∧ o.op = r.op then { o with req := 1 } else o } }

/-- The entries of a queue's completion ring that are neither free nor reserved. -/
def ringFull (s : State) (qi : Nat) : Bool :=
  let q := s.queue qi
  let d := q.desc.toNat
  decide (2 ^ (bits d 234 231 + 1) ≤ (bits d 271 256 + 65536 - bits d 287 272) % 65536 + q.reserved)

/-- The ACCEPT stays where it is (R358, R361, R363). -/
def acceptHeld (s : State) (r : FrontReq) (qi : Nat) : Bool :=
  (s.fr.edges.any fun e => decide (e.cons = r.qid.toNat) && !e.raised) || decide (256 ≤ s.fr.launches.length) || s.ringFull qi

/-! ## Pinning (R16, R19 to R21, R389, R409) -/

/-- A page to be pinned: its translation, the level and the table that hold its leaf, D. -/
structure PinPage where
  tr    : Xlate
  level : Nat
  table : Nat
  dirty : Bool
  deriving DecidableEq, Repr

/-- Adds a page, once. -/
def addPage (p : PinPage) : List PinPage → List PinPage
  | [] => [p]
  | q :: rest => if q.tr.va = p.tr.va ∧ q.tr.size = p.tr.size then { q with dirty := q.dirty || p.dirty } :: rest else q :: addPage p rest

/-- Walks every 4 KiB of a range: the pages, or the status of the walk that fails. -/
def walkRange (s : State) (asid base : Nat) (dirty : Bool) : Nat → List PinPage → Except Nat (List PinPage)
  | 0, l => .ok l
  | n + 1, l =>
    match walkRange s asid base dirty n l with
    | .error e => .error e
    | .ok l =>
      match s.walkNow asid (base + 4096 * n) with
      | .error e => .error e
      | .ok (t, lv, tb) => .ok (addPage ⟨t, lv, tb, dirty⟩ l)

/-- The pages of the regions and of the code image, each with what its leaf must grant. -/
def walkAll (s : State) (q : Quote) : Except Nat (List (List PinPage × Need)) :=
  let code := (q.codeVa / 4096 * 4096, cdiv (q.codeVa % 4096 + 4 * q.code.length) 4096)
  match q.regions.mapM fun r => (s.walkRange q.asid r.base r.w (r.len / 4096) []).map fun l => (l, ({ r := r.rd || r.atom, w := r.w || r.atom } : Need)),
      s.walkRange q.asid code.1 false code.2 [] with
  | .ok rs, .ok c => .ok (rs ++ [(c, {})])
  | .error e, _ => .error e
  | _, .error e => .error e

/-- The pages, each once. -/
def allPages (l : List (List PinPage × Need)) : List PinPage := (l.flatMap (·.1)).foldl (fun acc p => addPage p acc) []

/-- A leaf lacks a right; the last list is the code's. -/
def rightsBad (l : List (List PinPage × Need)) : Bool :=
  (l.dropLast.any fun x => x.1.any fun p => (x.2.r && !p.tr.r) || (x.2.w && !p.tr.w)) || ((l.getLast?.map (·.1)).getD []).any fun p => !p.tr.x

/-- A page lies wholly in a partition's grants (R389). -/
def pageGranted (s : State) (prt : Nat) (t : Xlate) : Bool :=
  decide (t.loc ≠ 0) || (s.inGrants prt (memKey 1 t.pa) && (List.range (2 ^ t.size / 2097152)).all fun i => s.inGrants prt (memKey 1 (t.pa + 2097152 * i)))

/-- A 4 KiB frame that a footprint maps is quarantined (R409). -/
def quarantinedRegion (s : State) (q : Quote) : Bool := (s.reframe q).any fun r => r.frames.any fun f => s.quarantined (f * 4096)

/-- The clusters of a grant, and its dies. -/
def grantClusters (q : Quote) : List Nat := (q.quads.map fun x => x / 32).eraseDups
def grantDies (q : Quote) : List Nat := (q.quads.map fun x => dieOf (x / 4)).eraseDups

/-- The pinned entries of a cluster's L2 TLB. -/
def pinnedIn (s : State) (cl : Nat) : List (Nat × TlbEnt) := List.filter (fun p : Nat × TlbEnt => decide (p.1 / 8192 = cl) && p.2.pinned) s.tr.tlb

/-- The pages that a cluster's TLB does not hold pinned yet. -/
def newPages (s : State) (cl : Nat) (pages : List PinPage) : List PinPage :=
  pages.filter fun p => !(s.pinnedIn cl).any fun e => decide (e.2.tr = p.tr)

/-- The room of R19 and R21: 8,192 pinned entries, 16 in a set. -/
def tlbShort (s : State) (cl : Nat) (pages : List PinPage) : Bool :=
  let new := s.newPages cl pages
  decide (8192 < (s.pinnedIn cl).length + new.length) || (List.range 512).any fun set =>
    decide (16 < ((s.pinnedIn cl).filter fun e => decide (e.1 / 16 % 512 = set)).length
      + (new.filter fun p => decide (tlbSet p.tr.asid p.tr.va p.tr.size = set)).length)

/-- Installs a pinned entry, in a free way or over an unpinned one. -/
def pinTlb (s : State) (cl : Nat) (t : Xlate) : State :=
  if (s.pinnedIn cl).any fun e => decide (e.2.tr = t) then s
  else
    let ks := tlbWays cl (tlbSet t.asid t.va t.size)
    let same := ks.find? fun k => (SMap.find? s.tr.tlb k).any fun e => decide (e.tr.va = t.va ∧ e.tr.size = t.size ∧ e.tr.asid = t.asid)
    let free := ks.find? fun k => (SMap.find? s.tr.tlb k).isNone
    let any := ks.find? fun k => (SMap.find? s.tr.tlb k).any fun e => !e.pinned
    match (same.orElse fun _ => free).orElse fun _ => any with
    | some k => { s with tr := { s.tr with tlb := SMap.put s.tr.tlb k { tr := t, pinned := true } } }
    | none => s

/-- Adds a launch to the pin record of a page on a die. -/
def addPin (l : List Pin) (t : Xlate) (d : Nat) : List Pin :=
  if l.any fun p => decide (p.tr = t) && !p.forced then l.map fun p => if p.tr = t ∧ !p.forced then { p with launches := p.launches ++ [d] } else p
  else l ++ [{ tr := t, launches := [d] }]

/-- Steps 3 to 5 of R19. -/
def pinAll (s : State) (d : Nat) (q : Quote) (pages : List PinPage) : State :=
  let s := pages.foldl (fun (s : State) p => s.markPte (s.partOf (q.quads.headD 0)) p.tr.va p.level p.table (decide (p.tr.size ≠ leafSize p.level)) p.dirty) s
  let s : State := (grantDies q).foldl (fun (s : State) die =>
    let l := pages.foldl (fun l p => addPin l p.tr d) (SMap.get [] s.tr.pins die)
    { s with tr := { s.tr with pins := SMap.put s.tr.pins die l } }) s
  (grantClusters q).foldl (fun (s : State) cl => pages.foldl (fun (s : State) p => s.pinTlb cl p.tr) s) s

/-! ## The tests made when an ACCEPT takes effect (R343, R344, R359) -/

/-- The budgets of the tenant fall short (R359). -/
def quotaShort (s : State) (q : Quote) : Bool :=
  let t := s.tenant q.tenant
  let v := s.dcb q.tenant
  let lp := bits v 75 64
  let qt := bits v 63 44
  (decide (lp ≠ 0) && decide (lp < t.used + 1)) || (decide (qt ≠ 0) && decide (0 < t.timeNs) && decide (1000 * qt < t.timeNs + q.tbound))

/-- What was recorded at QUOTE of a partition no longer stands (R343). -/
def staleOn (s : State) (q : Quote) (prt : Nat) : Bool :=
  let mine := q.quads.filter fun x => decide (s.partOf x = prt)
  (decide (mine.length < q.nquads)) || (mine.any fun x => s.quadReserved x || s.quadOut x)
  || (List.any q.spans fun p => (mine.any fun x => decide (x / 4 = p.1)) && decide (p.2.2 ≠ 0) && (s.heldSpans p.1 prt).any fun h =>
      decide (h.2 ≠ 0) && decide (h.1 < p.2.1 + p.2.2) && decide (p.2.1 < h.1 + h.2))
  || (q.ways.any fun w => decide (w.2.1 = prt) && decide ((s.l2Ways w.1 prt).length < w.2.2))

/-- The rest of R343: the digest, the rises booked ahead, the pages that an invalidation has reached. -/
def staleWhole (s : State) (q : Quote) : Bool :=
  (match s.feBytes (s.nowKey q.asid) q.codeVa (4 * q.code.length) with
    | .error _ => false
    | .ok bs => decide (Config.digest ((List.range q.code.length).map fun i => BitVec.ofNat 32 (leNat ((bs.drop (4 * i)).take 4))) ≠ q.digest))
  || decide (q.booked < s.bookedRise) || (q.stale && decide ((s.reframe q).map (·.frames) ≠ q.regions.map (·.frames)))

/-- The bytes of the images locked on a core (R344). -/
def imageBytes (s : State) (core : Nat) : Nat :=
  s.fr.launches.foldl (fun n p => if p.2.phase < 2 ∧ (p.2.q.quads.any fun x => decide (x / 4 = core)) then n + 4 * p.2.q.code.length else n) 0

/-- A launch that is resident on a granted core has a pan of the same KEY (R121). -/
def panKeyTaken (s : State) (q : Quote) (core : Nat) : Bool :=
  decide (bits q.pan.toNat 6 0 ≠ 0) && List.any s.fr.launches fun p => decide (p.2.phase < 2) && decide (bits p.2.q.pan.toNat 6 0 ≠ 0)
    && decide (bits p.2.q.pan.toNat 63 32 = bits q.pan.toNat 63 32) && p.2.q.quads.any fun x => decide (x / 4 = core)

/-- The share of a die's HBM, and of each of its ports, that a reservation class holds, in sixteenths (R336). -/
def classShare (q : Quote) : Nat := 2 ^ q.rclass

/-- The shares that launches hold on a die (R344). -/
def sharesHeld (s : State) (die : Nat) : Nat :=
  s.fr.launches.foldl (fun n p => if p.2.phase < 2 ∧ (grantDies p.2.q).contains die then n + classShare p.2.q else n) 0

/-- The first step of R344 that fails on a partition. A die's shares are whole at 16 sixteenths (log entry 214). -/
def stepFails (s : State) (q : Quote) (pages : List PinPage) (prt : Nat) : Option Nat :=
  let mine := q.quads.filter fun x => decide (s.partOf x = prt)
  let cores := (mine.map (· / 4)).eraseDups
  if s.staleOn q prt then some qsStale
  else if pages.any fun p => !s.pageGranted prt p.tr then some qsFootprintRights
  else if (mine.map (· / 32)).eraseDups.any fun cl => s.tlbShort cl pages then some qsFootprintTlb
  else if decide (bits (s.dcb ((s.partDcb prt).getD 0)) 88 76 < s.reservedWatts prt s.presIn + s.presIn q prt)
      || (mine.map (· / 32)).eraseDups.any (fun cl => decide (160 * bits s.pl.mgmt.mpc.toNat 38 31 < s.reservedAmps cl + SMap.get 0 q.sums cl))
      || (cores.map dieOf).eraseDups.any (fun die => decide (16 < s.sharesHeld die + classShare q)) then some qsNoResources
  else if cores.any fun c => decide (131072 < s.imageBytes c + 4 * q.code.length) then some qsIcache
  else if cores.any (s.panKeyTaken q) then some qsPanKey
  else none

/-- Why an ACCEPT fails, if it does; else the pages it pins. The partitions are taken in rising order, what R343 recorded of each tested just before
its steps; what concerns the launch as a whole comes before those of the first (R364). -/
def acceptFails (s : State) (q : Quote) : Except Nat (List PinPage) :=
  let prts := partsOf q.parts.toNat
  if !s.dcbActive q.job || prts.any (fun p => !(s.partDcb p).any s.dcbActive) then .error qsDomainState
  else if s.staleWhole q || (prts.head?).any (s.staleOn q) then .error qsStale
  else if s.quotaShort q then .error qsQuota
  else match s.walkAll q with
    | .error _ => .error qsFootprintUnmapped
    | .ok l =>
      if s.quarantinedRegion q then .error qsFootprintUnmapped
      else if rightsBad l then .error qsFootprintRights
      else match prts.findSome? (s.stepFails q (allPages l)) with
        | some st => .error st
        | none => .ok (allPages l)

/-! ## What a successful ACCEPT leaves (R344, R149, R358, R359) -/

/-- The free launch DCBs. -/
def freeDcbs (s : State) : List Nat := ((List.range 4096).drop 1).filter fun d => decide (s.dcbState d = 0) && (SMap.find? s.fr.launches d).isNone

/-- The DCB of a launch (R149, R150). -/
def launchDcb (s : State) (q : Quote) : Nat :=
  let j := s.dcb q.job
  q.job * 2 ^ 116 + 4 * 2 ^ 113 + 1 * 2 ^ 110 + bits j 109 98 * 2 ^ 98 + bits j 97 93 * 2 ^ 93 + q.pclass * 2 ^ 90 + b2n q.prot * 2 ^ 89

/-- When the booked rises ahead are served, and when this launch's ballast reaches HOLD times PRES (R399): the end of its rise, its start. -/
def serveRise (s : State) (q : Quote) : Nat × Nat :=
  let rlim := bits s.pl.mgmt.mpc.toNat 50 39
  let from' := max s.now s.fr.rampEnd
  let hold := (partsOf q.parts.toNat).foldl (fun m p => max m (bits (s.ppcOf p) 6 0)) 0
  (from' + cdiv (q.pres * 1000000) rlim, from' + cdiv (q.pres * hold * 10000) rlim)

/-- A tile's entry of a schedule table (R366). -/
def tileEntry (q : Quote) (e : SlotEnt) (t : TileEnt) (last : Bool) : Nat :=
  t.tile * 2 ^ 96 + t.energy % 2 ^ 32 * 2 ^ 64 + t.ipk % 65536 * 2 ^ 48 + e.slot % 256 * 2 ^ 40 + b2n q.idem * 2 ^ 39 + b2n last * 2 ^ 38

/-- The entries of a core, grouped by slot. -/
def schedEntries (q : Quote) (core : Nat) : List Nat :=
  (q.slots.filter fun e => decide (e.core = core)).flatMap fun e =>
    ((List.range e.tiles.length).zip e.tiles).map fun p => tileEntry q e p.2 (decide (p.1 + 1 = e.tiles.length))

/-- The place of a launch's table on a core, behind those of the launches accepted before; none where the core has no area, or it does not fit in HBM
(log entry 95). -/
def schedPlace (s : State) (own : List (Nat × Nat)) (core len : Nat) : Option (Nat × Nat) :=
  let base := memKey 1 (SMap.get 0 s.pl.mgmt.schedAt core)
  let held := own ++ (List.filter (fun p : Nat × Launch => decide (p.2.phase < 2)) s.fr.launches).flatMap fun p => p.2.tables
  let free := (base :: held.map fun r => r.1 + r.2).filter fun b => decide (base ≤ b) && held.all fun r => decide (b + len ≤ r.1) || decide (r.1 + r.2 ≤ b)
  let at' := free.foldl (fun (m : Option Nat) b => some (min b (m.getD b))) none
  if SMap.get 0 s.pl.mgmt.schedAt core = 0 ∨ len = 0 then none else (at'.filter fun b => inHbmRange (keyAddr b) len).map fun b => (b, len)

/-- Writes the schedule tables of a launch, one for each granted core (R344 step 5, R366), and keeps their places. -/
def writeTables (s : State) (q : Quote) : State × List (Nat × Nat) :=
  ((q.quads.map (· / 4)).eraseDups).foldl (fun (r : State × List (Nat × Nat)) core =>
    let es := schedEntries q core
    match r.1.schedPlace r.2 core (16 * es.length) with
    | none => r
    | some p => (r.1.feWrite p.1 (es.flatMap (leBytes 16)), r.2 ++ [p])) (s, [])

/-- The launch exists: its DCB, its pins, its reservations, its place in the queue's completion ring, the tenant's counters. -/
def enterLaunch (s : State) (r : FrontReq) (qi d : Nat) (q : Quote) (pages : List PinPage) : State :=
  let seq := (s.queue qi).packetSeq
  let rise := s.serveRise q
  let code := ((s.walkRange q.asid (q.codeVa / 4096 * 4096) false (cdiv (q.codeVa % 4096 + 4 * q.code.length) 4096) []).toOption.getD []).map fun p =>
    (p.tr.key p.tr.va, 2 ^ p.tr.size)
  let w := s.writeTables q
  let s := w.1
  let q := { q with regions := s.reframe q, queue := qi, status := qsAccepted }
  let l : Launch := { q := q, dcb := d, seq := seq, accepted := s.now, startAt := rise.2, codePages := code, tables := w.2 }
  let s := (s.setDcb d (s.launchDcb q)).setLaunch d l
  let s := s.pinAll d q pages
  let s := s.modQueue qi fun u => { u with reserved := u.reserved + 1, launches := u.launches ++ [d] }
  let t := s.tenant q.tenant
  let s := s.setTenant q.tenant { t with used := t.used + 1, timeNs := t.timeNs + q.tbound }
  { s with fr := { s.fr with rampEnd := rise.1, edges := s.fr.edges.filter fun e => !decide (e.cons = r.qid.toNat) } }

/-- The head of the acceptance order is tried. An answer later than 100 µs after the last thing it waited for is the firmware's breach (R346, R363; log
entry 201). -/
def tryAccept (s : State) (r : FrontReq) : State :=
  let qid := r.qid.toNat
  let qi := ((s.crew r.crew).queue).getD 0
  match s.quoted qid with
  | none => s.feAnswer r qsUnknownQid
  | some q =>
    let s := s.rollWindows
    let s := s.compareHead r q
    if s.acceptHeld r qi then s
    else
      let drop := fun (s : State) => { s with fr := { s.fr with edges := s.fr.edges.filter fun e => !decide (e.cons = qid) } }
      match s.acceptFails q, (chooseFirst s.ctr s.freeDcbs).head? with
      | .error st, _ => (drop (if st = qsStale then s.endQuote qid st else s)).feAnswer r st
      | .ok _, none => (drop s).feAnswer r qsNoResources
      | .ok pages, some d =>
        let from' := (s.fr.edges.filter fun e => decide (e.cons = qid)).foldl (fun m e => max m e.raisedAt) (max r.time s.fr.roomAt)
        let s := ((s.enterLaunch r qi d q pages).endQuote qid qsAccepted).feAnswer r qsAccepted
        if from' + 100000 < s.now then s.breach d 0x26 0 255 else s

/-! ## Starts (R345, R367, R368, R434) -/

/-- A slot may start a block: it has a tile left, no block, and its launch runs and starts tiles. -/
def slotOpen (s : State) (d : Nat) (e : SlotEnt) : Bool :=
  let l := s.launch d
  decide (l.phase = 1) && !e.busy && decide (e.cursor < e.tiles.length) && l.callerAt.isNone && !l.failed && !l.killed && !l.frozen
    && !s.preempting d (s.partOf ((grantedOn l e.core).headD 0))

/-- The slot's block starts, if its tile is admitted and its crews find room; else the tile waits. -/
def startSlot (s : State) (d : Nat) (e : SlotEnt) : State :=
  if !s.slotOpen d e then s
  else
    let l := s.launch d
    match (e.tiles.drop e.cursor).head? with
    | none => s
    | some t =>
      let s := if l.q.persist then s else s.askTile d e t
      match s.slotEnt d e.core e.slot with
      | none => s
      | some e => if l.q.persist || e.admitted then (s.startBlock d e).getD s else s

/-- A launch starts: DEADLINE once and for all, and the blocks of all its slots. -/
def startLaunch (s : State) (d : Nat) : State :=
  match SMap.find? s.fr.launches d with
  | none => s
  | some l =>
    if l.phase ≠ 0 ∨ s.now < l.startAt ∨ l.frozen then s
    else
      let void := decide ((s.quote l.q.qid.toNat).status = qsVoid)
      let s := s.setLaunch d { l with phase := 1, started := some (l.started.getD s.now), meteredAt := s.now,
                                      deadline := if void then 0 else if l.started.isSome then l.deadline else BitVec.ofNat 64 (s.now + l.q.tbound) }
      (l.q.slots.foldl (fun s e => s.startSlot d e) s).checkLaunch d

/-- The waiting tiles of a launch on its cores ask again at an interval boundary: each is admitted and charged to the new interval. -/
def admitWaiting (s : State) (d : Nat) (e : SlotEnt) : State :=
  match (e.tiles.drop e.cursor).head? with
  | none => s
  | some t => ((s.charge d e.core t.energy).modSlot d e.core e.slot fun e => { e with admitted := true, waiting := none })

end State

/-- ACCEPT_REQUEST (R342): an ACCEPT that is acted on enters the acceptance order. Routes that a retirement has made old are filled again first
(R136). -/
def execAcceptRequest (crew lane : Nat) (s : State) : Out :=
  let s := s.regenRoutes
  match s.findReq crew lane 1 with
  | none => .next s
  | some r =>
    match s.answerStatus r.qid.toNat with
    | some st => .next (s.refuseAnswer r st)
    | none => .next { s with fr := { s.fr with
        reqs := s.fr.reqs.filter fun o => !decide (o.crew = r.crew ∧ o.op = r.op)
        order := s.fr.order ++ [{ r with time := s.now, req := 0 }] } }

/-- DECLINE_REQUEST (R342): it is taken behind an ACCEPT of the same quotation. -/
def execDeclineRequest (crew lane : Nat) (s : State) : Out :=
  match s.findReq crew lane 2 with
  | none => .next s
  | some r =>
    match s.answerStatus r.qid.toNat with
    | some st => .next (s.refuseAnswer r st)
    | none => .next (if s.acceptWaits r.qid.toNat then s else (s.endQuote r.qid.toNat qsDeclined).feAnswer r qsDeclined)

/-- ACCEPT_TAKES_EFFECT (R344, R361 to R364): the ACCEPT at the head of the order takes effect, fails, or is held. -/
def execAcceptTakesEffect (s : State) : Out :=
  match s.fr.order with
  | [] => .next s
  | r :: _ => .next (s.tryAccept r)

/-- LAUNCH_START (R345, R399). -/
def execLaunchStart (launch : Nat) (s : State) : Out := .next (s.startLaunch launch)

/-- BLOCK_START (R147, R367): the slot of a core starts its next block, for the first launch whose block finds room there; where none does, each
launch's tile asks for its admission. -/
def execBlockStart (core slot : Nat) (s : State) : Out :=
  let open' := (List.filter (fun p : Nat × Launch => p.2.q.slots.any fun e => decide (e.core = core ∧ e.slot = slot) && s.slotOpen p.1 e) s.fr.launches).map (·.1)
  let start : State → Nat → State := fun s d => match s.slotEnt d core slot with
    | none => s
    | some e => s.startSlot d e
  let done : Option State := open'.findSome? fun d =>
    let s' : State := start s d
    if ((s'.slotEnt d core slot).map (·.busy)) = some true then some s' else none
  .next (done.getD (open'.foldl start s))

end Sys2Proof.Machine
end

