-- ==== Sys2Proof/Machine/Finish.lean ====
section
/-! DEFINITION. Finish.lean: what comes after a launch's end: its WCTs (R85), its completion signals (R86, R87) and its completion entry (R358);
the end of the breach allowance (R347) and of a handler's time (R348). -/

namespace Sys2Proof.Machine

namespace State

/-! ## Region WCTs (R85) -/

/-- The cores of a launch: those granted to it, and any other that keeps a WCT for it. -/
def launchCores (s : State) (d : Nat) : List Nat :=
  let keeps := fun (p : Nat × Core) => List.any p.2.regionWct fun e => decide (e.1 / 64 = d)
  (((s.launch d).q.quads.map fun q => q / 4) ++ (List.filter keeps s.ex.cores).map fun (p : Nat × Core) => p.1).eraseDups

def launchDies (s : State) (d : Nat) : List Nat := ((s.launchCores d).map dieOf).eraseDups

/-- The later of two WCTs, region by region. -/
def maxWcts (a b : SMap Nat) : SMap Nat := b.foldl (fun m p => SMap.put m p.1 (max p.2 (SMap.get 0 m p.1))) a

/-- Every die of a launch has forwarded its maxima to die 0. -/
def allForwarded (s : State) (d : Nat) : Bool := (s.launchDies d).all fun x => (s.launch d).forwarded.contains x

/-- Module time has passed the WCT of each of some regions. -/
def regionsPast (s : State) (d : Nat) (rs : List Nat) : Bool := rs.all fun r => decide (SMap.get 0 (s.launch d).wct r < s.now)

/-! ## The flush of host memory (R86, R422) -/

/-- A clean sector. -/
def cleanSect (x : Option (Lease × Bool)) : Option (Lease × Bool) := x.map fun y => (y.1, false)

/-- The dirty sectors of some frames of coherent host memory are written back to the host. -/
def flushHost (s : State) (frames : List Nat) : State :=
  { s with coh := { s.coh with l2 := s.coh.l2.map fun (p : Nat × L2Way) =>
      let key := p.2.line * 128
      (p.1, if (keyTag key = 2 ∨ keyTag key = 3) ∧ frames.contains (key / 4096) then { p.2 with s0 := cleanSect p.2.s0, s1 := cleanSect p.2.s1 } else p.2) } }

/-- The frames of some regions of a launch. -/
def regionFrames (l : Launch) (rs : List Nat) : List Nat := rs.flatMap fun r => ((l.q.regions.drop r).head?.map (·.frames)).getD []

/-! ## Completion (R358) -/

/-- The regions that a launch's completion entry waits for (R87): those that grant W, and those of an edge whose signal has not been raised. -/
def awaited (s : State) (d : Nat) : List Nat :=
  let l := s.launch d
  ((List.range l.q.regions.length).filter fun i => ((l.q.regions.drop i).head?.map (·.w)).getD false)
    ++ (s.fr.edges.filter fun e => decide (e.prod = d) && !e.raised).flatMap (·.regions)

/-- The queue is being reset (R422). -/
def queueResetting (s : State) (qi : Nat) : Bool :=
  match (s.queue qi).owner with
  | some (port, fn, _) => (s.func (port * 33 + fn)).qrstBusy.contains qi
  | none => false

/-- The launch ended before every other that its queue has still to post. -/
def firstEnded (s : State) (d : Nat) : Bool :=
  let l := s.launch d
  (s.queue l.q.queue).launches.all fun o =>
    let m := s.launch o
    decide (o = d) || decide (m.phase < 2) || decide (l.endedAt < m.endedAt) || (decide (l.endedAt = m.endedAt) && decide (d < o))

/-- The 16 bytes of a completion entry. -/
def completionEntry (l : Launch) (q : Quote) : Nat :=
  q.qid.toNat * 2 ^ 64 + (l.seq % 65536) * 2 ^ 48 + (q.status % 256) * 2 ^ 40 + (q.attr % 4) * 2 ^ 38

/-- Nothing is left of a launch: its snapshot frames return to the pool (R404), its DCB is FREE, its cores forget it; it is no longer in flight. -/
def dropLaunch (s : State) (d : Nat) : State :=
  let l := s.launch d
  let used := s.pl.poolUsed.map fun (p : Nat × List Nat) => (p.1, p.2.filter fun f => !l.snaps.any fun x => decide (x.2.1 = f))
  let s := { s with pl := { s.pl with poolUsed := used } }
  let s := { s with ex := { s.ex with cores := s.ex.cores.map fun (p : Nat × Core) => (p.1, { p.2 with
    regionWct := List.filter (fun e : Nat × Nat => !decide (e.1 / 64 = d)) p.2.regionWct
    reported := p.2.reported.filter (· ≠ d) }) } }
  let s := s.modQueue l.q.queue fun u => { u with launches := u.launches.filter (· ≠ d), reserved := u.reserved - 1 }
  { s with fr := { s.fr with launches := SMap.erase s.fr.launches d, dcbs := SMap.erase s.fr.dcbs d, roomAt := s.now } }

/-- A DRAIN packet ends once no launch of its queue is left (R356). -/
def drainEnds (s : State) (qi : Nat) : State :=
  let q := s.queue qi
  if q.draining && q.launches.isEmpty then s.endPacket qi 0 false else s

/-- The translation of a queue's next completion entry, by the front end of its die. -/
def completionKey (s : State) (qi : Nat) : Except Miss Nat :=
  let desc := (s.queue qi).desc.toNat
  s.feKey (bits desc 240 239) (feQueue qi) (bits (s.dcb (bits desc 255 244)) 109 98) (bits desc 447 384 + 16 * (bits desc 271 256 % 2 ^ (bits desc 234 231 + 1)))

/-- Posts a launch's completion entry at a key; with none, where the ring has no translation, it is not written (log entry 163). -/
def postCompletion (s : State) (d : Nat) (at' : Option Nat) : State :=
  let l := s.launch d
  let qi := l.q.queue
  let q := s.quote l.q.qid.toNat
  let desc := (s.queue qi).desc.toNat
  let tail := bits desc 271 256
  let s := (s.dropEnds (bits desc 240 239) (feQueue qi)).flushHost (regionFrames l (s.awaited d))
  let s := match at' with
    | none => s
    | some key => s.feWrite key (leBytes 16 (completionEntry l q))
  let s := s.modQueue qi fun u => { u with desc := BitVec.ofNat 512 (setBits u.desc.toNat 271 256 (tail + 1)) }
  let s := s.interrupt qi
  let s := { s with fr := { s.fr with edges := s.fr.edges.map fun (e : Edge) => if e.prod = d ∧ !e.raised then { e with raised := true, raisedAt := s.now } else e } }
  let s := if q.status = qsVoid ∧ bitOf desc 228 then s.haltQueue qi 5 0 else s
  (s.dropLaunch d).drainEnds qi

/-! ## The ends of two allowances -/

/-- Operations posted on a convergence register by crews that have all ended will never fire: they leave, and retire (R347). -/
def purgePosted (s : State) (core : Nat) (ks : List Nat) : State :=
  (List.range 4).foldl (fun (s : State) j =>
    let quad := core * 4 + j
    let mine := fun (o : MxOp) => ks.contains o.crew
    let out := (List.flatMap (fun p : Nat × Cv => p.2.posted) (s.quad quad).cvs).filter mine
    if out.isEmpty then s
    else
      let s := s.modQuad quad fun q => { q with cvs := q.cvs.map fun p => (p.1, { p.2 with posted := p.2.posted.filter (!mine ·) }) }
      out.foldl (fun s o => s.mxDone o none) s) s

end State

/-- REGION_WCT_REPORT: a core of an ended launch reports its WCTs to the front end of its die. -/
def execRegionWctReport (launch core : Nat) (s : State) : Out :=
  match SMap.find? s.fr.launches launch with
  | none => .next s
  | some l =>
    if l.phase ≠ 2 ∨ !(s.launchCores launch).contains core ∨ (s.core core).reported.contains launch then .next s
    else
      let mine := (List.filter (fun e : Nat × Nat => decide (e.1 / 64 = launch)) (s.core core).regionWct).map fun e => (e.1 % 64, e.2)
      let die := dieOf core
      let s := s.setLaunch launch { l with dieWct := SMap.put l.dieWct die (State.maxWcts (SMap.get [] l.dieWct die) mine) }
      .next (s.modCore core fun c => { c with reported := launch :: c.reported })

/-- REGION_WCT_FORWARD: a die whose cores have all reported forwards its maxima to die 0. -/
def execRegionWctForward (launch die : Nat) (s : State) : Out :=
  match SMap.find? s.fr.launches launch with
  | none => .next s
  | some l =>
    let mine := (s.launchCores launch).filter fun c => decide (dieOf c = die)
    if l.phase ≠ 2 ∨ mine.isEmpty ∨ l.forwarded.contains die ∨ !mine.all (fun c => (s.core c).reported.contains launch) then .next s
    else .next (s.setLaunch launch { l with wct := State.maxWcts l.wct (SMap.get [] l.dieWct die), forwarded := die :: l.forwarded })

/-- COMPLETION_SIGNAL: the signal of the edge from a launch, by its DCB index, to a quotation, by its QID. -/
def execCompletionSignal (producer consumer : Nat) (s : State) : Out :=
  match s.fr.edges.find? fun e => decide (e.prod = producer ∧ e.cons = consumer) && !e.raised, SMap.find? s.fr.launches producer with
  | some e, some l =>
    if l.phase ≠ 2 ∨ !s.allForwarded producer ∨ !s.regionsPast producer e.regions then .next s
    else
      let s := s.flushHost (State.regionFrames l e.regions)
      .next { s with fr := { s.fr with edges := s.fr.edges.map fun o => if o.prod = producer ∧ o.cons = consumer then { o with raised := true, raisedAt := s.now } else o } }
  | _, _ => .next s

/-- HOST_COMPLETION_POST (R87, R358): in the order the launches of the queue ended. -/
def execHostCompletionPost (launch : Nat) (s : State) : Out :=
  match SMap.find? s.fr.launches launch with
  | none => .next s
  | some l =>
    if l.phase ≠ 2 ∨ !s.allForwarded launch ∨ !s.regionsPast launch (s.awaited launch) ∨ s.queueResetting l.q.queue ∨ !s.firstEnded launch then .next s
    else match s.completionKey l.q.queue with
      | .error m => .next (s.feMiss (bits (s.queue l.q.queue).desc.toNat 240 239) (State.feQueue l.q.queue) m fun s _ => s.postCompletion launch none)
      | .ok key => .next (s.postCompletion launch (some key))

/-- The allowance of a launch is over (R347): every lane of it ends, its saved blocks are dropped, and what its crews have posted leaves. -/
def State.allowanceEnd (s : State) (launch : Nat) : State :=
  let bks := s.blocksOf launch none
  let s := (bks.flatMap fun bk => (s.block bk).crews).foldl (fun (s : State) k => s.endLanes k (s.crew k).live) s
  let dead := s.fr.saved.filter fun b => decide (b.block.launch = launch)
  let s := dead.foldl (fun (s : State) b => s.modSlot launch b.block.home b.block.slot fun e => { e with busy := false }) s
  let s := { s with fr := { s.fr with saved := s.fr.saved.filter fun (b : Saved) => !decide (b.block.launch = launch) } }
  let s := bks.foldl (fun (s : State) bk => s.purgePosted (s.block bk).core (s.block bk).crews) s
  ((s.launchCrews launch).foldl (fun (s : State) k => s.reap k) s).checkLaunch launch

/-- BREACH_ALLOWANCE_EXPIRY (R347): HBUDGET µs after the CALLER breach every crew still there is ended. -/
def execBreachAllowanceExpiry (launch : Nat) (s : State) : Out :=
  match SMap.find? s.fr.launches launch with
  | none => .next s
  | some l =>
    match l.callerAt with
    | none => .next s
    | some t => if l.phase ≠ 1 ∨ s.now < t + l.q.hbudget * 1000 then .next s else .next (s.allowanceEnd launch)

/-- The lanes of a crew that are in a handler end (R348, R374, R407). -/
def State.handlerEnd (s : State) (crew d : Nat) : State :=
  let c := s.crew crew
  let s := if (s.launch d).failed then s else s.breach d 0x01 0x04 (coreOf crew)
  ((s.endLanes crew (laneSet fun l => (c.thread l).live && (c.thread l).tmaskM)).modCrew crew fun c => { c with entryAt := none }).reap crew

/-- HANDLER_TIMEOUT (R348, R374, R407): a handler of a trap that R348 counts has run HALLOW µs; its lanes end, and the launch records BOUND with
detail HANDLER. A POISON handler of a launch that has failed ends without a record. -/
def execHandlerTimeout (crew : Nat) (s : State) : Out :=
  match SMap.find? s.ex.crews crew with
  | none => .next s
  | some c =>
    match c.launch, c.entryAt with
    | some d, some t => if !State.handlerBusy c ∨ s.now < t + (s.launch d).q.hallow * 1000 then .next s else .next (s.handlerEnd crew d)
    | _, _ => .next s

end Sys2Proof.Machine
end

