-- ==== Sys2Proof/Machine/HostMem.lean ====
section
/-! DEFINITION. HostMem.lean: the host at the module's memory: snoops (R83), inbound writes and reads (R84, R207, R388, R390), and the L2 way
shares (R56 to R59). -/

namespace Sys2Proof.Machine

namespace State

/-! ## Snoops (R83) -/

/-- The sectors of a line of coherent host memory, by its number of 128 bytes. -/
def hostSectors (port line : Nat) : List Nat := let s0 := memKey (2 + port) (128 * line) / 64; [s0, s0 + 1]

/-- Every pending store to some sectors has been performed. -/
def hostSettled (s : State) (secs : List Nat) : Bool := secs.all fun sec => (s.pendOf sec).isEmpty && !s.locked sec

end State

/-- HOST_SNOOP_OWNERSHIP: answered once the leases of both sectors have passed by 4 ns and no store to the line is pending; the line leaves
the L2. -/
def execHostSnoopOwnership (port line : Nat) (s : State) : Out :=
  let secs := State.hostSectors port line
  let s' := secs.foldl State.performDue s
  if secs.any (fun sec => decide (s.now ≤ (s'.leaseOf sec).e1 + 4)) || !s'.hostSettled secs then .next s
  else
    let s := match s'.l2Find (secs.headD 0) with
      | some (k, _) => s'.evictL2 k
      | none => s'
    .next (s.send 11 [port, line, 1])

/-- HOST_SNOOP_DATA: answered with the line's bytes once no store to it is pending. -/
def execHostSnoopData (port line : Nat) (s : State) : Out :=
  let secs := State.hostSectors port line
  let s' := secs.foldl State.performDue s
  if !s'.hostSettled secs then .next s
  else .next (s'.send 11 ([port, line, 0] ++ (s'.mem.read (memKey (2 + port) (128 * line)) 128).map (·.toNat)))

/-! ## Inbound requests (R84, R388, R414) -/

/-- The name under which a function asks for walks. -/
def funcWho (k : Nat) : Nat := 2 ^ 30 + k

namespace State

/-- The translations of an inbound request, byte by byte, by an entry of the die's L2 TLB or a result of the walker pool held for the function (R24,
R33): the memory keys, or what is missing. -/
def inboundKeys (s : State) (port k va : Nat) (write : Bool) : Nat → Except Miss (List Nat)
  | 0 => .ok []
  | n + 1 =>
    match inboundKeys s port k va write n with
    | .error e => .error e
    | .ok ks =>
      let a := wrapInt 64 ((va + n : Nat) : Int)
      match s.translateQ (2 * port) (s.funcAsid (s.func k)) a (funcWho k) with
      | .error e => .error e
      | .ok t => if t.loc ≠ 0 ∨ (write = true ∧ t.w = false) ∨ (write = false ∧ t.r = false) then .error (.walkFail walkInvalid) else .ok (ks ++ [t.key a])

/-- An unsupported-request completion, with the error log's entry unless `code` is 0. -/
def inboundRefuse (s : State) (port fn addr code : Nat) : State :=
  let k := funcKey port fn
  (if code = 0 then s else s.setFunc k (logFunc (s.func k) addr code)).send 3 [port, fn, addr]

/-- An inbound request whose bytes have no translation: the die's walkers are asked for it, or the walk has failed (R33). -/
def inboundMiss (s : State) (port fn addr : Nat) (m : Miss) : State :=
  let k := funcKey port fn
  match m with
  | .walk asid va => s.askWalk (2 * port) asid va 1 (funcWho k)
  | .walkFail e => (s.dropEnds (2 * port) (funcWho k)).inboundRefuse port fn addr e
  | .fault _ => s

/-- The launches whose code pages or schedule tables some keys touch (R207, R366). -/
def codeOwners (s : State) (keys : List Nat) : List Nat :=
  (List.filter (fun p : Nat × Launch => decide (p.2.phase < 2) && (p.2.codePages ++ p.2.tables).any fun r => keys.any fun k => decide (r.1 ≤ k) && decide (k < r.1 + r.2))
    s.fr.launches).map (·.1)

/-- Runs of keys in one sector each. -/
def bySector : List (Nat × Byte) → List (Nat × List (Nat × Byte))
  | [] => []
  | p :: rest =>
    match bySector rest with
    | [] => [(sectorOf p.1, [p])]
    | q :: more => if q.1 = sectorOf p.1 then (q.1, p :: q.2) :: more else (sectorOf p.1, [p]) :: q :: more

/-- One sector of an inbound write is accepted at its home; its WCT is no earlier than `least` (R84). -/
def inboundAccept (s : State) (prt least : Nat) (p : Nat × List (Nat × Byte)) : State × Nat :=
  let s := s.residentL2 prt p.1
  let w := max least (wctOf (s.leaseOf p.1) s.now 0 ((s.pendOf p.1).foldl (fun m q => max m q.wct) 0))
  (s.appendAt 0 0 w p, w)

/-- A function breaks isolation: it is frozen, and its error log says so (R390). -/
def freezeFunc (s : State) (port fn addr : Nat) : State :=
  let k := funcKey port fn
  (s.setFunc k { logFunc (s.func k) addr 5 with frozen := true }).send 3 [port, fn, addr]

/-- A function takes no request now: nobody owns it, it is frozen, or it is being reset (R388, R390, R421). -/
def funcShut (s : State) (k : Nat) : Bool := decide ((s.func k).owner.toNat < 128) || (s.func k).frozen || (s.func k).resetting

end State

/-- HOST_INBOUND_WRITE: accepted at its homes in the order of posted writes. A write whose page has no translation yet asks the die's walkers for it
and stays at the port, as one does that must wait for a COMMIT or for room at a home, and is presented again (log entry 30). A write to a locked code
page breaks the quotation of each launch that holds it. -/
def execHostInboundWrite (port fn addr : Nat) (data : List (BitVec 8)) (relaxed : Bool) (s : State) : Out :=
  let k := funcKey port fn
  let prt := (s.func k).owner.toNat % 32
  if s.funcShut k then .next (s.inboundRefuse port fn addr 0)
  else match s.inboundKeys port k addr true data.length with
    | .error e => .next (s.inboundMiss port fn addr e)
    | .ok keys =>
      let owners := s.codeOwners keys
      let secs := (keys.map sectorOf).eraseDups
      if !owners.isEmpty then .next (owners.foldl (fun s d => s.breach d 0x03 0x0C 255) (s.inboundRefuse port fn addr 0))
      else if keys.any fun key => !s.inGrants prt key then .next (s.freezeFunc port fn addr)
      else if secs.any (fun sec => s.locked sec || decide (2048 < s.pendCount (homeDie (sec * 64)) + secs.length)) then .next s
      else
        let r := (State.bySector (keys.zip data)).foldl (fun (st : State × Nat) p =>
          let r := st.1.inboundAccept prt (if relaxed then 0 else st.2) p
          (r.1, max st.2 r.2)) (s.dropEnds (2 * port) (funcWho k), (s.func k).wct)
        .next (r.1.setFunc k { r.1.func k with wct := r.2 })

open State in
/-- HOST_INBOUND_READ: the bytes as they stand performed at home, with no lease. -/
def execHostInboundRead (port fn addr len : Nat) (s : State) : Out :=
  let k := funcKey port fn
  let prt := (s.func k).owner.toNat % 32
  if s.funcShut k then .next (s.inboundRefuse port fn addr 0)
  else match s.inboundKeys port k addr false len with
    | .error e => .next (s.inboundMiss port fn addr e)
    | .ok keys =>
      if keys.any fun key => !s.inGrants prt key then .next (s.freezeFunc port fn addr)
      else if keys.any fun key => s.locked (sectorOf key) then .next s
      else
        let secs := (keys.map sectorOf).eraseDups
        let v := secs.foldl (fun v sec => v.homeView 0 sec false) s
        .next (((secs.foldl touchL2 s).dropEnds (2 * port) (funcWho k)).send 2 ([port, fn, addr, b2n (keys.any v.poisoned)] ++ (keys.map v.mem.byte).map (·.toNat)))

/-! ## L2 way shares (R56 to R59) -/

namespace State

def wayEnt (s : State) (die prt : Nat) : Word := SMap.get 0 s.pl.ways (die * 32 + prt)
def setWayEnt (s : State) (die prt : Nat) (w : Word) : State := { s with pl := { s.pl with ways := SMap.set 0 s.pl.ways (die * 32 + prt) w } }

/-- The ways that a partition is still releasing on a die. -/
def releasingOf (s : State) (die prt : Nat) : BitVec 24 := SMap.get 0 s.pl.releasing (die * 32 + prt)
def setReleasing (s : State) (die prt : Nat) (m : BitVec 24) : State := { s with pl := { s.pl with releasing := SMap.set 0 s.pl.releasing (die * 32 + prt) m } }

/-- The launches of a partition resident on a die: accepted and not ended. -/
def residentOn (s : State) (die prt : Nat) : List Nat :=
  (List.filter (fun p : Nat × Launch => decide (p.2.phase < 2) && p.2.q.quads.any fun q => decide (dieOf (q / 4) = die) && decide (s.partOf q = prt))
    s.fr.launches).map (·.1)

end State

/-- L2_WAY_MASK_WRITE: refused, or the new mask holds at once; a reduction begins, which breaks the quotations of the partition's launches on
the die. Bits 30 and 29 written as 1 clear DONE and REFUSED. -/
def execL2WayMaskWrite (die part : Nat) (value : BitVec 32) (s : State) : Out :=
  let e := s.wayEnt die part &&& ~~~(value &&& 0x60000000#32)
  let old := e.setWidth 24
  let new := value.setWidth 24
  let added := new &&& ~~~old
  let gone := old &&& ~~~new
  let others := (List.range 32).any fun p => decide (p ≠ part)
    && decide (added &&& ((s.wayEnt die p).setWidth 24 ||| s.releasingOf die p) ≠ 0)
  let few := decide (((List.range 24).filter new.getLsbD).length < 2) && !(s.residentOn die part).isEmpty
  if 4 ≤ die ∨ 32 ≤ part then .next s
  else if e.getLsbD 31 || others || few then .next (s.setWayEnt die part (e ||| 0x20000000#32))
  else if gone = 0 then .next (s.setWayEnt die part ((e &&& 0xFF000000#32) ||| new.setWidth 32))
  else
    let s' := (s.setWayEnt die part ((e &&& 0xFF000000#32) ||| 0x80000000#32 ||| new.setWidth 32)).setReleasing die part gone
    .next ((s.residentOn die part).foldl (fun s d => s.breach d 0x42 die 255) s')

/-- L2_WAY_REDUCTION_DONE: the partition's lines in the removed ways leave, their leases passing to the floors of their sets; the ways are
free. -/
def execL2WayReductionDone (die part : Nat) (s : State) : Out :=
  let gone := s.releasingOf die part
  let e := s.wayEnt die part
  let mine := List.filter (fun p : Nat × L2Way => decide (p.1 / 32 / 32768 = die) && decide (p.2.part = part) && gone.getLsbD (p.1 % 32)) s.coh.l2
  let stuck := mine.any fun p => !s.hostSettled [2 * p.2.line, 2 * p.2.line + 1]
  if !e.getLsbD 31 || stuck then .next s
  else
    let s := mine.foldl (fun s p => s.evictL2 p.1) s
    .next ((s.setWayEnt die part ((e &&& 0x7FFFFFFF#32) ||| 0x40000000#32)).setReleasing die part 0)

end Sys2Proof.Machine
end

