-- ==== Sys2Proof/Machine/Queues.lean ====
section
/-! DEFINITION. Queues.lean: queues, their programs and packets (R354 to R360), the notify registers (R418, R419), MSI-X vectors (R420), and the
resets of a queue and a function (R421, R422). -/

namespace Sys2Proof.Machine

namespace State

/-! ## Descriptors (R354) -/

/-- The bits of a descriptor that its owner may write. -/
def queueRw : BitVec 512 :=
  BitVec.ofNat 512 ((2 ^ 192 - 1) * 2 ^ 320 + (2 ^ 12 - 1) * 2 ^ 244 + 7 * 2 ^ 241 + 3 * 2 ^ 239 + 15 * 2 ^ 235 + 15 * 2 ^ 231 + 3 * 2 ^ 229 + 2 ^ 228
    + 2 ^ 203 + 255 * 2 ^ 195)

/-- Its number of packets posted and consumed, its state, the ring's size. -/
def qHead (q : Queue) : Nat := bits q.desc.toNat 319 304
def qTail (q : Queue) : Nat := bits q.desc.toNat 303 288
def qState (q : Queue) : Nat := bits q.desc.toNat 230 229
def qTenant (q : Queue) : Nat := bits q.desc.toNat 255 244
def qAsid (s : State) (q : Queue) : Nat := bits (s.dcb (qTenant q)) 109 98

/-- Sets a field of a queue's descriptor. -/
def setQField (s : State) (qi hi lo v : Nat) : State :=
  s.modQueue qi fun q => { q with desc := BitVec.ofNat 512 (setBits q.desc.toNat hi lo v) }

/-! ## The queue program (R355) -/

/-- The die that a queue is served on. -/
def qDie (q : Queue) : Nat := bits q.desc.toNat 240 239

/-- Reads and checks a queue's program through its translations: what is missing, or else a status, or the queue with it. -/
def readProgram (s : State) (at' : Nat → Except Miss Nat) (q : Queue) : Except Miss (Except Nat Queue) :=
  let prog := bits q.desc.toNat 383 320
  match s.feNat at' prog 32 with
  | .error m => .error m
  | .ok k =>
    let n := bits k 191 160
    let nregs := 16 * (bits k 79 76 + 1)
    if recordBad k ∨ bits k 83 80 ≠ 0 ∨ bits k 159 128 ≠ 0 then .ok (.error qsRequestForm)
    else if n < 4 ∨ 131072 < n ∨ n % 4 ≠ 0 then .ok (.error qsCodeSize)
    else if bits k 95 84 % 16 ≠ 0 ∨ 2048 < bits k 95 84 then .ok (.error qsFootprintForm)
    else match (List.range (bits k 70 64)).mapM fun i => s.feNat at' (prog + 32 + 16 * i) 16, s.feBytes at' (bits k 255 192) n with
      | .error m, _ => .error m
      | _, .error m => .error m
      | .ok decls, .ok bs =>
        let code := (List.range (n / 4)).map fun i => BitVec.ofNat 32 (leNat ((bs.drop (4 * i)).take 4))
        if illegalCode code nregs true false then .ok (.error qsIllegalCode)
        else if ((assayQueue code nregs).map fun m => decide (m ≤ 4096)) ≠ some true then .ok (.error qsUnbounded)
        else .ok (.ok { q with code := code, nregs := nregs, slice := bits k 95 84, regions := decls.map fun d => (fpRecord d).1 })

/-! ## Choosing a packet (R360) -/

/-- What the host has posted before the notify has been performed (R84, R417). -/
def postedDone (s : State) (q : Queue) : Bool :=
  match q.owner with
  | some (port, fn, _) => decide ((s.func (port * 33 + fn)).wct ≤ s.now)
  | none => true

/-- A queue is ready on a die. -/
def queueReady (s : State) (die qi : Nat) : Bool :=
  let q := s.queue qi
  decide (qState q = 1) && decide (qHead q ≠ qTail q) && !q.inFlight && !q.loading && decide (bits q.desc.toNat 240 239 = die) && s.postedDone q
    && !s.queueResetting qi

/-- A tenant is below its limits (R359). -/
def belowLimits (s : State) (t : Nat) : Bool :=
  let v := s.dcb t
  let lp := bits v 75 64
  let qt := bits v 63 44
  (decide (lp = 0) || decide ((s.tenant t).used < lp)) && (decide (qt = 0) || decide ((s.tenant t).timeNs < 1000 * qt))

/-- The best of some queues: the highest QPRI, then the one whose last packet started earliest. -/
def bestQueue (s : State) : List Nat → Option Nat
  | [] => none
  | q :: rest =>
    match s.bestQueue rest with
    | none => some q
    | some r =>
      let pq := bits (s.queue q).desc.toNat 243 241
      let pr := bits (s.queue r).desc.toNat 243 241
      if pr < pq ∨ (pr = pq ∧ (s.queue q).lastAt ≤ (s.queue r).lastAt) then some q else some r

/-- The tenant whose turn it is, in a list. -/
def nextTenant (last : Nat) (ts : List Nat) : Option Nat :=
  let best := fun (l : List Nat) => l.foldl (fun (m : Option Nat) t => match m with
    | none => some t
    | some o => some (min o t)) none
  match best (ts.filter (last < ·)) with
  | some t => some t
  | none => best ts

/-- The queue whose packet a die starts next. -/
def chooseQueue (s : State) (die : Nat) : Option Nat :=
  let ready := (s.fr.queues.map (·.1)).filter (s.queueReady die)
  let ts := ((ready.map fun q => qTenant (s.queue q)).eraseDups).filter s.belowLimits
  match nextTenant (SMap.get 0 s.fr.lastT die) ts with
  | none => none
  | some t => s.bestQueue (ready.filter fun q => decide (qTenant (s.queue q) = t))

/-! ## Starting a packet (R356, R357) -/

/-- The crew slot and the slice base that a queue core has free for a queue's program. -/
def queueRoom (s : State) (core : Nat) (q : Queue) : Option (Nat × Nat) :=
  match (s.freeSlots (core * 4) 8).head?, s.sliceBase (core * 4) q.slice with
  | some sl, some base => if 2048 < s.regsHeld (core * 4) + q.nregs then none else some (core * 64 + sl, base)
  | _, _ => none

/-- The crew of a RUN packet as it starts. -/
def packetCrewOf (q : Queue) (qi addr seq base : Nat) : Crew :=
  { queue := some qi, block := 2 ^ 50, nregs := q.nregs, threads := startThreads 0, slice := BitVec.ofNat 32 (q.slice * 2 ^ 16 + base),
    prio := bits q.desc.toNat 243 241,
    s := [(0, BitVec.ofNat 32 addr), (1, BitVec.ofNat 32 (addr / 2 ^ 32)), (2, BitVec.ofNat 32 qi), (3, BitVec.ofNat 32 seq)].foldl
      (fun m p => SMap.set 0 m p.1 p.2) [] }

/-- A walk for a packet's header or completion word has failed: the packet is passed over and the queue halts (R33). -/
def packetFault (s : State) (qi status : Nat) : State :=
  let q := s.queue qi
  ((s.setQueue qi { q with lastAt := s.now }).setQField qi 319 304 (qHead q + 1)).haltQueue qi 0x04 status

/-- Starts the packet at HEAD of a queue, once the translations of its header and of its completion word are there. -/
def startPacket (s : State) (core qi k base : Nat) : State :=
  let q := s.queue qi
  let die := dieOf core
  let who := feQueue qi
  let at' := s.feKey die who (s.qAsid q)
  let addr := bits q.desc.toNat 511 448 + 64 * (qHead q % 2 ^ (bits q.desc.toNat 238 235 + 1))
  let turn := fun (s : State) => { s with fr := { s.fr with lastT := SMap.put s.fr.lastT die (qTenant q) } }
  match s.feNat at' addr 8, at' (addr + 56) with
  | .error m, _ => s.feMiss die who m fun s e => (turn s).packetFault qi e
  | _, .error m => s.feMiss die who m fun s e => (turn s).packetFault qi e
  | .ok h, .ok key =>
    let seq := bits h 63 48
    let s := ((turn s).dropEnds die who).setQueue qi { q with inFlight := true, packetSeq := seq, lastAt := s.now, report := key, packetCrew := none, halting := none }
    if seq ≠ qHead q ∨ 2 < bits h 47 40 then s.endPacket qi 0x03 false
    else if bits h 47 40 = 0 then s.endPacket qi 0 false
    else if bits h 47 40 = 2 then (s.modQueue qi fun q => { q with draining := true }).drainEnds qi
    else
      let s := { s with mem := s.mem.clear (inSlice (core * 4) base q.slice) }
      (s.setCrew k (packetCrewOf q qi addr seq base)).modQueue qi fun q => { q with packetCrew := some k }

/-- Ends the packet in flight with a cause, its threads ended as TKILL ends them (R357). -/
def killPacket (s : State) (qi cause : Nat) : State :=
  let q := s.queue qi
  if q.draining then s.endPacket qi 0 true
  else match q.packetCrew with
    | none => s
    | some k =>
      let s := s.setQueue qi { q with halting := some (cause, 0) }
      (s.endLanes k (s.crew k).live).reap k

/-! ## Resets (R421, R422) -/

/-- What the front end holds of a queue's crew is forgotten. -/
def dropRequests (s : State) (k : Nat) : State :=
  let s := { s with fr := { s.fr with
    reqs := s.fr.reqs.filter fun r => !decide (r.crew = k)
    edges := s.fr.edges.filter fun e => !s.fr.order.any fun r => decide (r.crew = k) && decide (r.qid.toNat = e.cons)
    order := s.fr.order.filter fun r => !decide (r.crew = k) } }
  match SMap.find? s.ex.crews k with
  | none => s
  | some c => s.setCrew k { c with ops := c.ops.filter fun o => !decide (o.kind = .quote) }

/-- Begins the reset of a queue: STATE 0, the packet ends without its word, its launches are killed. -/
def beginQueueReset (s : State) (fk qi : Nat) : State :=
  let f := s.func fk
  let s := s.setFunc fk { f with qrstBusy := if f.qrstBusy.contains qi then f.qrstBusy else f.qrstBusy ++ [qi] }
  let s := (s.setQField qi 230 229 0).modQueue qi fun q => { q with loading := false }
  let s := match (s.queue qi).packetCrew with
    | some k => s.dropRequests k
    | none => s
  let s := s.killPacket qi 0xFF
  (s.queue qi).launches.foldl (fun (s : State) d => if (s.launch d).phase < 2 then (s.breach d 0x43 0 255).killLaunch d none else s) s

/-- The WCTs of a launch, as its cores and dies keep them, have passed. -/
def launchPast (s : State) (d : Nat) : Bool :=
  let l := s.launch d
  (s.ex.cores.all fun p => List.all p.2.regionWct fun e => decide (e.1 / 64 ≠ d) || decide (e.2 < s.now))
    && (List.all l.wct fun e => decide (e.2 < s.now)) && (List.all l.dieWct fun p => List.all p.2 fun e => decide (e.2 < s.now))
    && s.coh.pend.all fun p => decide (p.launch ≠ d) || decide (p.wct < s.now)

/-- What the queue cores of a die have stored has been performed. -/
def packetPast (s : State) (die : Nat) : Bool :=
  s.coh.pend.all fun p => decide (p.holder ≤ 160 * 32) || decide (dieOf ((p.holder - 1) / 32) ≠ die) || decide (p.wct < s.now)

/-- Everything that comes from a queue's work has been performed. -/
def resetDone (s : State) (qi : Nat) : Bool :=
  let q := s.queue qi
  !q.inFlight && q.launches.all (fun d => decide (2 ≤ (s.launch d).phase) && s.launchPast d) && s.packetPast (bits q.desc.toNat 240 239)

/-- Ends the reset of a queue: host memory flushed, its launches forgotten, HEAD := TAIL, CQTAIL := CQHEAD. -/
def endQueueReset (s : State) (fk qi : Nat) : State :=
  let ds := (s.queue qi).launches
  let s := ds.foldl (fun (s : State) d =>
    let l := s.launch d
    let s := s.flushHost (regionFrames l (List.range l.q.regions.length))
    let s := { s with fr := { s.fr with edges := s.fr.edges.map fun (e : Edge) => if e.prod = d ∧ !e.raised then { e with raised := true, raisedAt := s.now } else e } }
    s.dropLaunch d) s
  let q := s.queue qi
  let s := (s.setQField qi 319 304 (qTail q)).setQField qi 271 256 (bits q.desc.toNat 287 272)
  let s := s.modQueue qi fun q => { q with reserved := 0, launches := [] }
  let f := s.func fk
  let rest := f.qrstBusy.filter (· ≠ qi)
  s.setFunc fk { f with
    qrstBusy := rest
    qrst := if rest.isEmpty then f.qrst ||| (1#32 <<< 30) else f.qrst
    resetting := f.resetting && !rest.isEmpty }

/-- The queue of a function by its number there. -/
def funcQueue (s : State) (fk fq : Nat) : Option Nat := SMap.find? (s.func fk).queues fq

/-- A saturating count. -/
def countUp (w : Word) : Word := if w = 0xFFFFFFFF#32 then w else w + 1

/-- A dropped write is counted. -/
def badNotify (s : State) (fk : Nat) : State := let f := s.func fk; s.setFunc fk { f with badNotify := countUp f.badNotify }

end State

open State in
/-- QUEUE_DESCRIPTOR_WRITE (R354): a size of 0 or a reserved STATE is refused. STATE 1 starts the load of the program. -/
def execQueueDescriptorWrite (queue : Nat) (value : BitVec 512) (s : State) : Out :=
  let v := value.toNat
  if 4096 ≤ queue ∨ bits v 238 235 = 0 ∨ bits v 234 231 = 0 ∨ bits v 230 229 = 3 then .next s
  else
    let q := s.queue queue
    let d := (q.desc &&& ~~~queueRw) ||| (value &&& queueRw)
    let go := decide (bits v 230 229 = 1)
    .next (s.setQueue queue { q with desc := if go then BitVec.ofNat 512 (setBits d.toNat 230 229 0) else d, loading := go })

open State in
/-- QUEUE_PROGRAM_LOAD (R355): the program runs from now on, or is refused with its status in HCAUSE's place; before that the walks it needs are made. -/
def execQueueProgramLoad (queue : Nat) (s : State) : Out :=
  let q := s.queue queue
  let die := qDie q
  let who := feQueue queue
  let refuse := fun (s : State) st => s.setQueue queue { q with loading := false, desc := BitVec.ofNat 512 (setBits (setBits q.desc.toNat 230 229 0) 211 204 st) }
  if !q.loading || q.inFlight || s.queueResetting queue then .next s
  else match s.readProgram (s.feKey die who (s.qAsid q)) q with
    | .error m => .next (s.feMiss die who m fun s _ => refuse s qsFootprintUnmapped)
    | .ok (.error st) => .next (refuse (s.dropEnds die who) st)
    | .ok (.ok q) => .next ((s.dropEnds die who).setQueue queue { q with loading := false, desc := BitVec.ofNat 512 (setBits q.desc.toNat 230 229 1) })

/-- PACKET_START (R360): a queue core with a free slot chooses and starts a packet. -/
def execPacketStart (die core : Nat) (s : State) : Out :=
  let s := s.rollWindows
  if core < 160 ∨ 192 ≤ core ∨ dieOf core ≠ die then .next s
  else match s.chooseQueue die with
    | none => .next s
    | some qi =>
      match s.queueRoom core (s.queue qi) with
      | none => .next s
      | some (k, base) => .next (s.startPacket core qi k base)

/-- PACKET_BUDGET_EXHAUSTED (R357): the 4,097th issue is not made. -/
def execPacketBudgetExhausted (crew : Nat) (s : State) : Out :=
  match SMap.find? s.ex.crews crew with
  | none => .next s
  | some c =>
    match c.queue with
    | none => .next s
    | some qi => .next (if c.issues < 4096 then s else s.killPacket qi 0x02)

open State in
/-- NOTIFY (R418): TAIL moves forwards within the ring; anything else is dropped and counted, in NOTIFYDROP during a reset (R421). -/
def execNotify (port fn fq : Nat) (value : BitVec 32) (s : State) : Out :=
  let fk := port * 33 + fn
  let f := s.func fk
  let v := value.toNat
  if f.resetting then .next (s.setFunc fk { f with drop := countUp f.drop })
  else if s.funcShut fk then .next s
  else match s.funcQueue fk fq with
    | none => .next (s.badNotify fk)
    | some qi =>
      let q := s.queue qi
      let ahead := (v + 65536 - qTail q) % 65536
      let used := (qTail q + 65536 - qHead q) % 65536
      if 65536 ≤ v ∨ 2 ^ (bits q.desc.toNat 238 235 + 1) < used + ahead then .next (s.badNotify fk)
      else .next (s.setQField qi 303 288 v)

open State in
/-- CQACK (R419): CQHEAD moves forwards, not past CQTAIL. -/
def execCqack (port fn fq : Nat) (value : BitVec 32) (s : State) : Out :=
  let fk := port * 33 + fn
  let v := value.toNat
  if s.funcShut fk then .next s
  else match s.funcQueue fk fq with
    | none => .next (s.badNotify fk)
    | some qi =>
      let d := (s.queue qi).desc.toNat
      let head := bits d 287 272
      if 65536 ≤ v ∨ (bits d 271 256 + 65536 - head) % 65536 < (v + 65536 - head) % 65536 then .next (s.badNotify fk)
      else .next { s.setQField qi 287 272 v with fr := { (s.setQField qi 287 272 v).fr with roomAt := s.now } }

/-- MSIX_VECTOR_UNMASK (R420): a pending vector sends one message. -/
def execMsixVectorUnmask (port fn vec : Nat) (s : State) : Out :=
  let fk := port * 33 + fn
  let f := s.func fk
  if 256 ≤ vec ∨ s.funcShut fk then .next s
  else
    let s := s.setFunc fk { f with msixMask := f.msixMask &&& ~~~(1#256 <<< vec), pba := if f.msixOn then f.pba &&& ~~~(1#256 <<< vec) else f.pba }
    .next (if f.msixOn ∧ f.pba.getLsbD vec then s.send 1 [port, fn, vec, (SMap.get 0 f.msixTab vec).toNat] else s)

/-- QUEUE_RESET (R422): GO starts a reset of the queue named, unless one is under way. -/
def execQueueReset (port fn : Nat) (value : BitVec 32) (s : State) : Out :=
  let fk := port * 33 + fn
  let f := s.func fk
  if s.funcShut fk then .next s
  else
    let name := (f.qrst &&& 0x40000000#32) ||| (value &&& 0x7F#32)
    if !value.getLsbD 31 || !f.qrstBusy.isEmpty then .next (s.setFunc fk { f with qrst := name })
    else match s.funcQueue fk (bits value.toNat 6 0) with
      | none => .next (s.setFunc fk { f with qrst := name })
      | some qi => .next ((s.setFunc fk { f with qrst := name &&& 0x7F#32 }).beginQueueReset fk qi)

/-- QUEUE_RESET_DONE (R421, R422): a queue whose work has come to an end is reset; a function-level reset ends with its last queue. -/
def execQueueResetDone (port fn : Nat) (s : State) : Out :=
  let fk := port * 33 + fn
  let f := s.func fk
  match f.qrstBusy.find? s.resetDone with
  | some qi => .next (s.endQueueReset fk qi)
  | none => .next (if f.resetting && f.qrstBusy.isEmpty then s.setFunc fk { f with resetting := false } else s)

/-- FUNCTION_LEVEL_RESET (R421): every queue of the function is reset; its BAR state goes back to reset, but for NOTIFYDROP. -/
def execFunctionLevelReset (port fn : Nat) (s : State) : Out :=
  let fk := port * 33 + fn
  let f := s.func fk
  if f.resetting then .next s
  else
    let s := s.setFunc fk { f with
      resetting := true, invcmd := 0, invList := [], qrst := 0, errHead := 0, badNotify := 0, msixOn := false, msixMask := BitVec.allOnes 256, msixTab := [],
      pba := 0 }
    .next ((f.queues.map (·.2)).foldl (fun (s : State) qi => s.beginQueueReset fk qi) s)

/-- BUDGET_WINDOW_BOUNDARY (R359): the windows that have ended are closed: L := 0 and Tq falls by what QTMS allows. -/
def execBudgetWindowBoundary (s : State) : Out := .next s.rollWindows

end Sys2Proof.Machine
end

