-- ==== Sys2Proof/Machine/Power.lean ====
section
/-! DEFINITION. Power.lean: the slew limiter (R397, R398, R433), control intervals (R368, R392, R393, R395, R396, R399 to R401), rails (R395),
telemetry (R402), counting windows (R411), and the writes of R391 and R397. -/

namespace Sys2Proof.Machine

namespace State

/-! ## The slew limiter (R397, R398, R433) -/

/-- A[j] of a cluster's ramp table. -/
def rampAt (c : Cluster) (j : Nat) : Nat := if c.rampSet then bits c.ramp.toNat (6 * j + 5) (6 * j) else 2 * (j + 1)

/-- The quadrants of a cluster. -/
def clusterQuads (cl : Nat) : List Nat := (List.range 32).map (cl * 32 + ·)

/-- A request stands before another: by time, COREID, QUADID. -/
def reqBefore (a b : Nat × Nat × Nat) : Bool :=
  decide (a.1 < b.1) || (decide (a.1 = b.1) && (decide (a.2.1 < b.2.1) || (decide (a.2.1 = b.2.1) && decide (a.2.2 < b.2.2))))

/-- Inserts into a sorted list. -/
def insertSorted {α : Type} (before : α → α → Bool) (x : α) : List α → List α
  | [] => [x]
  | y :: rest => if before x y then x :: y :: rest else y :: insertSorted before x rest

def sorted {α : Type} (before : α → α → Bool) (l : List α) : List α := l.foldl (fun acc x => insertSorted before x acc) []

/-- A unit takes its grant: its operation starts, and the ballast that waited with it is on from now. -/
def takeGrant (s : State) (quad : Nat) : State :=
  let q := s.quad quad
  let cl := clusterOf (quad / 4)
  let s := s.modQuad quad fun q => { q with ballast := q.ballast.map fun b => { b with on := true, since := s.now }, asked := none }
  match mxChosen q with
  | some p => s.mxStart quad p
  | none =>
    let c := s.cluster cl
    s.setCluster cl { c with reqs := c.reqs.filter fun r => !decide (r.2.1 * 4 + r.2.2 = quad) }

/-- Which units run ramp ballast: those that stopped wanting to draw last, the lowest COREID and QUADID first. -/
def rampBefore (s : State) (a b : Nat) : Bool :=
  let ta := (s.quad a).rampAt
  let tb := (s.quad b).rampAt
  decide (tb < ta) || (decide (ta = tb) && decide (a < b))

/-- One step of a cluster's limiter. -/
def limiterStep (s : State) (cl : Nat) : State :=
  let c := s.cluster cl
  let quads := clusterQuads cl
  let u := (quads.filter s.draws).length
  let j := if !c.reqs.isEmpty && decide (c.d = rampAt c c.j) && decide (c.j < 15) then c.j + 1 else c.j
  let grants := (sorted reqBefore c.reqs).take (rampAt c j - u)
  let s := grants.foldl (fun s r => s.takeGrant (r.2.1 * 4 + r.2.2)) s
  let granted := grants.map fun r => r.2.1 * 4 + r.2.2
  let w := u + granted.length
  let d := if c.d ≤ w then w else max w (if j = 0 then 0 else rampAt c (j - 1))
  let on := fun (q : Nat) => s.draws q || granted.contains q
  let s := quads.foldl (fun (s : State) q =>
    let x := s.quad q
    if x.drawn && !x.ramp && !on q then s.modQuad q fun x => { x with rampAt := s.now } else s) s
  let pool := quads.filter fun q => (s.quad q).drawn && !on q
  let keep := (sorted s.rampBefore pool).take (d - w)
  let s := quads.foldl (fun (s : State) q =>
    let r := keep.contains q
    let dr := on q || r
    let x := s.quad q
    if x.ramp = r ∧ x.drawn = dr then s else s.modQuad q fun x => { x with ramp := r, drawn := dr }) s
  let c := s.cluster cl
  s.setCluster cl { c with d := d, j := ((List.range 16).find? fun i => decide (d ≤ rampAt c i)).getD 15, stepAt := s.now }

/-! ## Operating points (R395, R396) -/

/-- The rail of an operating point, in mV. -/
def pointMv (p : Nat) : Nat :=
  match p with
  | 0 => 560 | 1 => 560 | 2 => 600 | 3 => 650 | 4 => 700 | _ => 760

/-- Where a cluster's rail stands now: it moves 10 mV in a microsecond. -/
def railNow (s : State) (c : Cluster) : Nat :=
  let aim := pointMv c.target
  let moved := (s.now - c.railAt) / 100
  if c.rail ≤ aim then min aim (c.rail + moved) else max aim (c.rail - moved)

/-- The clock changes: what it has counted so far is kept. -/
def setClock (s : State) (c : Cluster) (p : Nat) : Cluster := { c with cyc := c.cyc + pointMhz c.clock * (s.now - c.clockAt), clockAt := s.now, clock := p }

/-- A cluster goes to a point: the clock falls at once and the rail follows; or the rail rises first. One that already goes there goes on. -/
def toPoint (s : State) (c : Cluster) (p : Nat) : Cluster :=
  if p = c.target then { c with point := p }
  else
  let v := s.railNow c
  let c := { c with rail := v, railAt := s.now, target := p, point := p }
  if p ≤ c.clock ∨ pointMv p ≤ v then s.setClock c p else c

def ICL (s : State) : Nat := bits s.pl.mgmt.mpc.toNat 38 31
def mbudget (s : State) : Nat := bits s.pl.mgmt.mpc.toNat 63 51
def rlim (s : State) : Nat := bits s.pl.mgmt.mpc.toNat 50 39

/-- The thermal cap of the hottest sensor of a die, in °C. -/
def thermalCap (temp : Nat) : Option Nat :=
  if 110 ≤ temp then some 0 else if 105 ≤ temp then some 1 else if 100 ≤ temp then some 2 else if 95 ≤ temp then some 3 else none

/-- The current cap: `amps` is the rail current of the last interval. -/
def currentCap (s : State) (c : Cluster) (amps : Nat) : Option Nat :=
  if s.ICL < amps then some (c.point - 1) else if 9 * s.ICL < 10 * amps then c.curCap else none

/-- The point, the cap named, and the current cap of a cluster for the next interval. -/
def pickPoint (s : State) (cl : Nat) (temp amps : Nat) : Nat × Nat × Option Nat :=
  let c := s.cluster cl
  let th := thermalCap temp
  let cu := s.currentCap c amps
  match th, cu with
  | some a, some b => if a ≤ b then (a, 3, cu) else (b, 2, cu)
  | some a, none => (a, 3, cu)
  | none, some b => (b, 2, cu)
  | none, none =>
    if bitOf s.pl.mgmt.mpc.toNat 30 && decide (c.capNow < 2) then (if s.reservedAmps cl ≤ 120 * s.ICL then 5 else 4, 1, cu) else (3, 0, cu)

/-- The launches that run on a cluster. -/
def launchesOn (s : State) (cl : Nat) : List Nat :=
  (List.filter (fun p : Nat × Launch => decide (p.2.phase = 1) && p.2.q.quads.any fun q => decide (q / 32 = cl)) s.fr.launches).map (·.1)

/-- A cluster at an interval's boundary: CLOCK where it averaged below P1, then its caps and its point. -/
def clusterInterval (s : State) (cl : Nat) : State :=
  let c := s.cluster cl
  let c := s.setClock c c.clock
  let low := decide (c.cyc < pointMhz 1 * (s.now - c.cycFrom))
  let s := s.setCluster cl { c with cyc := 0, cycFrom := s.now }
  let s := if low then (s.launchesOn cl).foldl (fun s d => s.breach d 0x21 cl (s.coreIn d cl)) s else s
  let p := s.pickPoint cl (Config.freeMeter s.ctr (cl / 5)) (Config.freeMeter s.ctr (4 + cl))
  let c := s.cluster cl
  let c := { c with capLast := c.capNow, capNow := p.2.1, curCap := p.2.2 }
  s.setCluster cl (s.toPoint c (if c.fallen then 0 else p.1))

/-! ## Meters and floors (R392, R393, R399 to R401) -/

/-- The partitions that have a DCB. -/
def livePartitions (s : State) : List Nat := (List.range 32).filter fun p => (s.partDcb p).isSome

/-- The reserved PRES, in W, of a partition's launches that run. -/
def runningPres (s : State) (p : Nat) : Nat :=
  s.fr.launches.foldl (fun n x => if x.2.phase = 1 ∧ bitOf x.2.q.parts.toNat p then n + s.presIn x.2.q p else n) 0

/-- The pre-ramp ballast, in mW, that a partition's accepted launches hold while their rises are served. -/
def preRamp (s : State) (p : Nat) : Nat :=
  let hold := bits (s.ppcOf p) 6 0
  s.fr.launches.foldl (fun n x =>
    let l := x.2
    if l.phase = 0 ∧ bitOf l.q.parts.toNat p ∧ l.replays = 0 then
      let full := 10 * s.presIn l.q p * hold
      let span := cdiv (l.q.pres * hold * 10000) s.rlim
      n + (if l.startAt ≤ s.now then full else full * (s.now + span - l.startAt) / max 1 span)
    else n) 0

/-- How far each of some partitions may fall: an equal share of the permitted fall, and what the others leave, in ascending number. -/
def shareFall (total : Nat) (needs : List (Nat × Nat)) : List (Nat × Nat) :=
  let each := total / max 1 needs.length
  let first := needs.map fun n => (n.1, min each n.2)
  let left := total - (first.map (·.2)).foldl (· + ·) 0
  ((first.zip needs).foldl (fun acc x =>
    let more := min acc.2 (x.2.2 - x.1.2)
    (acc.1 ++ [(x.1.1, x.1.2 + more)], acc.2 - more)) (([] : List (Nat × Nat)), left)).1

/-- What a partition holds at least, in mW: HOLD of its reserved PRES, or the ballast of the rises it is being served. -/
def holdMw (s : State) (p : Nat) : Nat := max (10 * bits (s.ppcOf p) 6 0 * s.runningPres p) (s.preRamp p)

/-- A partition's floor, stall ballast, meter and throttle for an interval, at its end (R400, R393). `work`: what its work drew, in mW; `fall`: what
it may fall, of which the operator's ballast of it falls first. -/
def partInterval (s : State) (p work fall : Nat) : State :=
  let x := s.part p
  let watts := 1000 * s.wattsOf p
  let opFall := min x.opBal fall
  let floor := min watts (max (s.holdMw p) (x.power - (fall - opFall)))
  let gap := floor - work
  let quads := s.ballastQuads p
  let level := if quads.isEmpty then 0 else min 16 (cdiv gap (levelMw * quads.length))
  let ballast := min gap (level * levelMw * quads.length)
  let power := work + ballast
  let gate := if watts < power then max 1 (16 * watts / max 1 power) else 16
  let s := if gate < 16 then
      (List.filter (fun l : Nat × Launch => decide (l.2.phase = 1) && bitOf l.2.q.parts.toNat p) s.fr.launches).foldl (fun (s : State) l => s.breach l.1 0x28 0 255) s
    else s
  let s := (s.ownedQuads p).foldl (fun (s : State) q => s.modQuad q fun y => { y with stall := if quads.contains q then level else 0 }) s
  let m := s.pl.mgmt
  let s := { s with pl := { s.pl with mgmt := { m with rampx := max m.rampx (gap - ballast) } } }
  s.setPart p { s.part p with
    power := power, wanted := work, gate := gate, floor := floor, ballast := ballast, opBal := x.opBal - opFall, acc := x.acc + power,
    blst := 0, blstMw := x.blst / 10, clusters := if power = 0 then [] else (quads.map (· / 32)).eraseDups }

/-- The meters and floors of all partitions; the BLST ballast of an interval is part of what its partition drew (R326). -/
def partsInterval (s : State) : State :=
  let work := fun (p : Nat) => Config.freeMeter s.ctr (100 + p) + (s.part p).blst / 10
  let ps := s.livePartitions
  let falling := fun (p : Nat) => decide (work p < (s.part p).power) || decide (0 < (s.part p).opBal)
  let need := fun (p : Nat) => (s.part p).power - max (work p) (s.holdMw p) + (s.part p).opBal
  let falls := shareFall (10 * s.rlim) ((ps.filter falling).map fun p => (p, need p))
  let fallOf := fun (p : Nat) => ((falls.find? fun x => decide (x.1 = p)).map (·.2)).getD 0
  let s : State := ps.foldl (fun (s : State) p => s.partInterval p (work p) (fallOf p)) s
  let sum := fun (f : Part → Nat) => ps.foldl (fun n p => n + f (s.part p)) 0
  let m := s.pl.mgmt
  { s with pl := { s.pl with mgmt := { m with
    opbw := sum (·.opBal)
    ints := m.ints + 1
    modAcc := m.modAcc + sum (·.power) + sum (·.opBal) + Config.freeMeter s.ctr 99
    balAcc := m.balAcc + sum fun p => p.ballast + p.blstMw
    opAcc := m.opAcc + sum (·.opBal) } } }

/-! ## Admission at a boundary (R368) -/

/-- The tiles that wait, in the order they asked. -/
def waitingTiles (s : State) : List (Nat × Nat × SlotEnt) :=
  let all := List.flatMap (fun p : Nat × Launch => if p.2.phase = 1 then p.2.q.slots.filterMap fun e => e.waiting.map fun t => (t, p.1, e) else []) s.fr.launches
  sorted (fun a b => decide (a.1 < b.1)) all

/-- A waiting tile is admitted, and its block starts or steps on. -/
def admitTile (s : State) (d : Nat) (e : SlotEnt) : State :=
  let s := s.admitWaiting d e
  let bk := blockKey d e.core e.slot
  if (SMap.find? s.ex.blocks bk).isSome then s.stepNext bk
  else match s.slotEnt d e.core e.slot with
    | none => s
    | some e => s.startSlot d e

/-- A block's tile is the next of its slot, or a persistent block's entry is past its cursor: `admitWaiting` reads the entry at the cursor that
will be delivered. -/
def cursorOf (s : State) (d : Nat) (e : SlotEnt) : SlotEnt :=
  match SMap.find? s.ex.blocks (blockKey d e.core e.slot) with
  | some b => { e with cursor := b.cursor }
  | none => e

end State

open State in
/-- SLEW_LIMITER_STEP (R398): every 4 clk. -/
def execSlewLimiterStep (cluster : Nat) (s : State) : Out :=
  let c := s.cluster cluster
  .next (if 20 ≤ cluster ∨ (c.stepAt ≠ 0 ∧ s.now < c.stepAt + s.clkNs (cluster * 8) 4) then s else s.limiterStep cluster)

/-- A control interval ends: meters and floors, caps and points, then the new interval's admissions in the order in which the tiles asked. -/
def State.intervalEnd (s : State) : State :=
  let s : State := { s with pl := { s.pl with mgmt := { s.pl.mgmt with interval := s.pl.mgmt.interval + 1 } } }
  let s := (s.fr.launches.map (·.1)).foldl (fun (s : State) d => s.meterLaunch d) (s.meterUnits fun _ => true)
  let s := s.partsInterval
  let s := (List.range 20).foldl (fun (s : State) cl => s.clusterInterval cl) s
  let s := (s.fr.launches.map (·.1)).foldl (fun (s : State) d => s.modLaunch d fun l => { l with alloc := [] }) s
  s.waitingTiles.foldl (fun (s : State) x => s.admitTile x.2.1 (s.cursorOf x.2.1 x.2.2)) s

/-- CONTROL_INTERVAL_BOUNDARY (R392): every 10 µs. -/
def execControlIntervalBoundary (s : State) : Out :=
  .next (if s.now < (s.pl.mgmt.interval + 1) * 10000 then s else s.intervalEnd)

open State in
/-- RAIL_REACHED_POINT (R395): the rail has risen to its point, and the clock rises. -/
def execRailReachedPoint (cluster : Nat) (s : State) : Out :=
  let c := s.cluster cluster
  .next (if 20 ≤ cluster ∨ c.target ≤ c.clock ∨ s.railNow c ≠ pointMv c.target then s
    else s.setCluster cluster (s.setClock { c with rail := pointMv c.target, railAt := s.now } c.target))

open State in
/-- RAIL_FAULT (R395, R401, R425): an SRAM rail of a die, or the logic rail of a cluster, read out of range for 1 µs. The contexts there are killed
and their launches replayed; the cluster falls to P0 until it is reset. -/
def execRailFault (sram : Bool) (unit : Nat) (s : State) : Out :=
  let hit := fun (q : Nat) => if sram then decide (dieOf (q / 4) = unit) else decide (q / 32 = unit)
  let ls := List.filter (fun p : Nat × Launch => decide (p.2.phase = 1) && p.2.q.quads.any hit) s.fr.launches
  let prts := (List.flatMap (fun p : Nat × Launch => (p.2.q.quads.filter hit).map s.partOf) ls).eraseDups
  let s := prts.foldl (fun (s : State) p => let quads := s.ballastQuads p; s.operatorRamp p (quads.filter hit) quads) s
  let s := if sram then s
    else
      let c := s.cluster unit
      s.setCluster unit { s.toPoint c 0 with fallen := true }
  .next (s.due (ls.map fun p => .launchReplay p.1 0x22))

/-- The 1,024 bits of a telemetry sample (R402), whose time is the next multiple of 100 µs since the last sample. -/
def State.sampleBits (s : State) : Nat :=
  let m := s.pl.mgmt
  let n := max 1 m.ints
  let caps := (List.range 20).foldl (fun v c => v + (s.cluster c).capNow % 4 * 2 ^ (204 + 2 * c)) 0
  let at' := (m.samples + 1) * 100000
  let ptp := s.ptpNow - (s.now - at')
  let head := (ptp / 1000000000 % 2 ^ 48) * 2 ^ 464 + ptp % 1000000000 * 2 ^ 432 + (at' % 2 ^ 64) * 2 ^ 368 + m.sampleSeq.toNat * 2 ^ 336
    + (m.modAcc / n / 100 % 65536) * 2 ^ 320 + (m.balAcc / n / 100 % 65536) * 2 ^ 304 + (m.opAcc / n / 100 % 65536) * 2 ^ 288 + s.rlim * 2 ^ 276
    + (s.bookedRise % 65536) * 2 ^ 260 + (m.rampx / 100 % 65536) * 2 ^ 244 + caps + m.sync % 8 * 2 ^ 200
  (List.range 32).foldl (fun v p => v + ((s.part p).acc / n / 100 % 65536) * 2 ^ (512 + 16 * p)) 0 + head

/-- TELEMETRY_SAMPLE (R402): every 100 µs a sample leaves, and its sums start again from 0. -/
def execTelemetrySample (s : State) : Out :=
  let m := s.pl.mgmt
  if s.now < (m.samples + 1) * 100000 then .next s
  else
    let t := s.send 4 [s.sampleBits]
    .next { t with pl := { t.pl with
      mgmt := { m with samples := m.samples + 1, sampleSeq := m.sampleSeq + 1, ints := 0, modAcc := 0, balAcc := 0, opAcc := 0, rampx := 0 }
      parts := s.pl.parts.map fun (p : Nat × Part) => (p.1, { p.2 with acc := 0 }) } }

/-- EVENT_WINDOW_END (R411): the counters of a unit start again from 0. -/
def execEventWindowEnd (unit : Nat) (s : State) : Out :=
  match SMap.find? s.pl.units unit with
  | none => .next s
  | some c =>
    .next (if s.now < c.since + s.pl.mgmt.window then s
      else { s with pl := { s.pl with units := SMap.put s.pl.units unit { c with events := 0, corrected := 0, since := s.now } } })

/-- The sum of the WATTS of all partition DCBs but one. -/
def State.wattsBut (s : State) (idx : Nat) : Nat :=
  s.fr.dcbs.foldl (fun n p => if p.1 ≠ idx ∧ bits p.2.toNat 115 113 = 1 then n + bits p.2.toNat 88 76 else n) 0

/-- MODULE_POWER_CONTROL_WRITE (R391). -/
def execModulePowerControlWrite (value : BitVec 64) (s : State) : Out :=
  let v := value.toNat
  let mb := bits v 63 51
  let rl := bits v 50 39
  let ic := bits v 38 31
  if mb < 1000 ∨ 4200 < mb ∨ rl < 25 ∨ 2000 < rl ∨ ic < 32 ∨ mb < s.wattsBut 4096 then .next s
  else .next { s with pl := { s.pl with mgmt := { s.pl.mgmt with mpc := value &&& 0xFFFFFFFFC0000000#64 } } }

open State in
/-- RAMP_TABLE_WRITE (R397): A[j] in bits 6j + 5 to 6j; taken only while no unit of the cluster draws current. -/
def execRampTableWrite (cluster : Nat) (value : BitVec 96) (s : State) : Out :=
  let a := fun (j : Nat) => bits value.toNat (6 * j + 5) (6 * j)
  let bad := decide (a 0 < 1) || decide (a 15 ≠ 32) || (List.range 15).any fun j => decide (a (j + 1) < a j)
  let busy := (clusterQuads cluster).any fun q => s.draws q || (s.quad q).ramp
  .next (if 20 ≤ cluster ∨ bad ∨ busy then s else s.setCluster cluster { s.cluster cluster with ramp := value, rampSet := true, j := 0, d := 0 })

end Sys2Proof.Machine
end

