-- ==== Sys2Proof/Machine/Manage.lean ====
section
/-! DEFINITION. Manage.lean: what the hypervisor and Jasper write (R149, R150, R387, R389, R394 and the registers with no row of their own), host
port training (R413), attestation (R424), PTP time (R5) and the resets (R425). -/

namespace Sys2Proof.Machine

namespace State

/-! ## Domain control blocks (R149, R150, R392, R393) -/

/-- The fields that a write of a DCB takes. -/
def dcbRw : Nat := (2 ^ 15 - 1) * 2 ^ 113 + (2 ^ 20 - 1) * 2 ^ 90 + (2 ^ 69 - 1) * 2 ^ 20

/-- What a node takes from its parent (R149, R150): PART below a partition, ASID below a tenant. -/
def dcbCopy (v parent : Nat) : Nat :=
  let lvl := bits v 115 113
  let v := if lvl ≤ 1 then v else setBits v 97 93 (bits parent 97 93)
  if lvl ≤ 2 then v else setBits v 109 98 (bits parent 109 98)

/-- A node keeps the rules of R150 below a parent. The PCLASS of a partition has no bound: its parent is DCB 0, whose PCLASS no write sets
(log entry 227). -/
def dcbFits (v parent : Nat) : Bool :=
  let lvl := bits v 115 113
  let only := fun (l hi lo : Nat) => decide (lvl = l) || decide (bits v hi lo = 0)
  only 1 88 76 && only 2 75 64 && only 2 63 44
    && (if lvl = 1 then decide (bits v 127 116 = 0) && decide (bits v 109 98 = 0)
        else decide (bits parent 115 113 + 1 = lvl) && decide (bits parent 112 110 ≠ 0)
          && decide (bits v 92 90 ≤ bits parent 92 90) && decide (bits v 109 98 ≠ 0))

/-- The nodes just below a DCB. -/
def dcbChildren (s : State) (idx : Nat) : List Nat :=
  (List.filter (fun p : Nat × BitVec 128 => decide (p.1 ≠ idx) && decide (bits p.2.toNat 127 116 = idx) && decide (bits p.2.toNat 112 110 ≠ 0)) s.fr.dcbs).map (·.1)

/-- Every node takes from its parent what it has from it, level by level. -/
def copyDown (s : State) : State :=
  let pass := fun (s : State) (lvl : Nat) => { s with fr := { s.fr with dcbs := s.fr.dcbs.map fun (p : Nat × BitVec 128) =>
    (p.1, let v := p.2.toNat; if bits v 115 113 = lvl ∧ bits v 112 110 ≠ 0 then BitVec.ofNat 128 (dcbCopy v (s.dcb (bits v 127 116))) else p.2) } }
  [2, 3, 4].foldl pass s

/-- A write of a DCB is refused; `v` has what the node takes from its parent. -/
def dcbRefused (s : State) (idx v : Nat) : Bool :=
  let lvl := bits v 115 113
  let par := bits v 127 116
  decide (idx = 0) || decide (4096 ≤ idx) || decide (lvl = 0) || decide (4 ≤ lvl) || (SMap.find? s.fr.launches idx).isSome || decide (par = idx)
    || !dcbFits v (s.dcb par)
    || (decide (lvl = 1) && decide (s.mbudget < s.wattsBut idx + bits v 88 76))
    || (s.dcbChildren idx).any fun c => let w := s.dcb c; !dcbFits w v

/-- What a DCB holds after a write that is taken: STATE, PROT and FAULTS stay, a FREE node becomes ACTIVE. -/
def dcbAfter (old v : Nat) : Nat :=
  let st := if bits old 112 110 = 0 then 1 else bits old 112 110
  setBits (Nat.lor (Nat.land v dcbRw) (Nat.land old (2 ^ 128 - 1 - dcbRw))) 112 110 st

/-! ## Owner bytes (R387) -/

/-- A launch of a partition is resident on a core, or on a die. -/
def residentAt (s : State) (p : Nat) (here : Nat → Bool) : Bool :=
  List.any s.fr.launches fun l => decide (l.2.phase < 2) && l.2.q.quads.any fun q => here (q / 4) && decide (s.partOf q = p)

/-- A launch of the old or the new owner is resident. -/
def ownerBusy (s : State) (old new : BitVec 8) (here : Nat → Bool) : Bool :=
  [old, new].any fun o => o.getLsbD 7 && s.residentAt (o.toNat % 32) here

/-- Writes an owner byte: array 0 quadrants, 1 copy channels of core `unit`; 2 gather engines, 3 Celore ports of die `unit`; 4 functions of host
port `unit`. -/
def writeOwner (s : State) (array unit idx : Nat) (v : BitVec 8) : State :=
  let v := v &&& 0x9F#8
  let onCore := fun (c : Nat) => decide (c = unit)
  let onDie := fun (c : Nat) => decide (dieOf c = unit)
  let ok := fun (old : BitVec 8) (here : Nat → Bool) => decide (old ≠ v) && !s.ownerBusy old v here
  match array with
  | 0 =>
    let q := unit * 4 + idx
    if 160 ≤ unit ∨ 4 ≤ idx ∨ (s.unit 0 q).retired ∨ !ok (s.quad q).owner onCore then s else s.modQuad q fun x => { x with owner := v }
  | 1 =>
    if 160 ≤ unit ∨ 8 ≤ idx ∨ (s.unit 3 unit).retired ∨ !ok (s.chan unit idx).owner onCore then s
    else s.setChan unit idx { s.chan unit idx with owner := v }
  | 2 =>
    let g := unit * 8 + idx
    if 4 ≤ unit ∨ 8 ≤ idx ∨ !ok (s.gather g).owner onDie then s else s.setGather g { s.gather g with owner := v }
  | 3 =>
    let p := unit * 6 + idx
    if 4 ≤ unit ∨ 6 ≤ idx ∨ (s.unit 7 p).retired ∨ s.portHeld p ∨ !ok (s.port p).owner onDie then s else s.setPort p { s.port p with owner := v }
  | _ =>
    let k := unit * 33 + idx
    if 2 ≤ unit ∨ 33 ≤ idx then s else s.setFunc k { s.func k with owner := v }

/-! ## Registers with no row of their own (R394) -/

/-- Retires a Celore port at once (R412): a MACHINE event of each launch that uses it, and it goes DOWN. -/
def retirePort (s : State) (p : Nat) : State :=
  let s := (s.portUsers p).foldl (fun (s : State) d => s.breach d 0x25 p 255) s
  let s := (if (s.port p).down then s else s.doPortDown p).retireUnit (unitKey 7 p)
  s.setPort p { s.port p with owner := 0 }

/-- The Celore ports that have reached a threshold are retired at once (R411, R412). -/
def retirePorts (s : State) : State :=
  (List.range 24).foldl (fun s p => if (s.unit 7 p).pending && !(s.unit 7 p).retired then s.retirePort p else s) s

/-- A write through the management interface. The numbers of the registers are the model's own. What is to lie in device memory must lie in HBM that the
module has (R2), or the write is not taken (log entry 209). -/
def manage (s : State) (reg a b : Nat) (value : BitVec 64) : State :=
  let v := value.toNat
  let lo := v % 2 ^ 32
  let hi := v / 2 ^ 32
  let m := s.pl.mgmt
  match reg with
  /- 0: entry a of the ASID root table (R11). -/
  | 0 => if 4096 ≤ a then s else { s with tr := { s.tr with roots := SMap.set 0 s.tr.roots a value } }
  /- 1: entry b of partition a's memory grant table, base and length in 2 MiB (R389). -/
  | 1 => if 32 ≤ a ∨ 16 ≤ b ∨ !inHbmRange (lo * 2097152) (hi * 2097152) then s else { s with pl := { s.pl with grants := SMap.set (0, 0) s.pl.grants (a * 16 + b) (lo, hi) } }
  /- 2: partition a's chip-scratchpad grant on die b, base and length in 64 KiB (R6, R45). -/
  | 2 => if 32 ≤ a ∨ 4 ≤ b ∨ 1024 < lo + hi then s
    else { s with pl := { s.pl with xgrants := SMap.set (0, 0) s.pl.xgrants (a * 4 + b) (lo * 65536, hi * 65536) } }
  /- 3: partition a's power control register (R394). -/
  | 3 => if 32 ≤ a ∨ 100 < bits v 6 0 then s else s.setPart a { s.part a with ppc := BitVec.ofNat 32 v &&& 0x00FF007F#32, ppcSet := true }
  /- 4: the windrow control register of partition b on core a (R303). -/
  | 4 => if 160 ≤ a ∨ 32 ≤ b then s else s.modCore a fun c => { c with urgent := SMap.put c.urgent b (BitVec.ofNat 32 (v % 8)) }
  /- 5: die a's snapshot pool, base and length in 4 KiB (R404). -/
  | 5 => if 4 ≤ a ∨ !inHbmRange (lo * 4096) (hi * 4096) then s else { s with pl := { s.pl with pools := SMap.set (0, 0) s.pl.pools a (lo * 4096, hi * 4096) } }
  /- 6, 7, 8: base, size and head of tenant a's breach log (R352). -/
  | 6 => s.setTenant a { s.tenant a with logBase := v }
  | 7 => s.setTenant a { s.tenant a with logSize := v }
  | 8 => s.setTenant a { s.tenant a with logHead := v }
  /- 9: tenant a's spill area (R383). -/
  | 9 => s.setTenant a { s.tenant a with spill := v }
  /- 10, 11: the error log's base and the tenant of function a (R415, R414). -/
  | 10 => if 66 ≤ a then s else s.setFunc a { s.func a with errBase := v }
  | 11 => if 66 ≤ a then s else s.setFunc a { s.func a with tenant := v % 4096 }
  /- 12: queue b of function a is queue v of R354 (R414). -/
  | 12 => if 66 ≤ a ∨ 128 ≤ b ∨ 4096 ≤ v then s
    else (s.setFunc a { s.func a with queues := SMap.put (s.func a).queues b v }).modQueue v fun q => { q with owner := some (a / 33, a % 33, b) }
  /- 13: the module number (R131). -/
  | 13 => { s with pl := { s.pl with mgmt := { m with modnum := BitVec.ofNat 16 v } } }
  /- 14, 15, 16: the counting window, from 1 h to 168 h, and the two thresholds (R411). -/
  | 14 => if v < 3600000000000 ∨ 604800000000000 < v then s else { s with pl := { s.pl with mgmt := { m with window := v } } }
  | 15 => { s with pl := { s.pl with mgmt := { m with evLimit := v } } }
  | 16 => { s with pl := { s.pl with mgmt := { m with corrLimit := v } } }
  /- 17: the link of Celore port a is retired (R132, R412). -/
  | 17 => if 24 ≤ a ∨ (s.unit 7 a).retired then s else s.retirePort a
  /- 18, 19, 20, 21: function a's MSI-X enable, the halves of entry b of its table, the mask of vector b (R420). -/
  | 18 => if 66 ≤ a then s else s.setFunc a { s.func a with msixOn := bitOf v 0 }
  | 19 => if 66 ≤ a ∨ 256 ≤ b then s else
    let f := s.func a
    let e := SMap.get 0 f.msixTab b
    s.setFunc a { f with msixTab := SMap.set 0 f.msixTab b ((e &&& ~~~0xFFFFFFFFFFFFFFFF#128) ||| value.setWidth 128) }
  | 20 => if 66 ≤ a ∨ 256 ≤ b then s else
    let f := s.func a
    let e := SMap.get 0 f.msixTab b
    s.setFunc a { f with msixTab := SMap.set 0 f.msixTab b ((e &&& 0xFFFFFFFFFFFFFFFF#128) ||| (value.setWidth 128 <<< 64)) }
  | 21 => if 66 ≤ a ∨ 256 ≤ b then s else s.setFunc a { s.func a with msixMask := (s.func a).msixMask ||| (1#256 <<< b) }
  /- 22: an uncorrectable error of unit a is reported; 23: a corrected one (R411). -/
  | 22 => (s.countUnit a).retirePorts
  | 23 =>
    let c : UnitCnt := SMap.get {} s.pl.units a
    let c := { c with corrected := c.corrected + 1, pending := c.pending || decide (m.corrLimit ≤ c.corrected + 1) }
    (({ s with pl := { s.pl with units := SMap.put s.pl.units a c } }).retireUnits).retirePorts
  /- 24: an HBM read of the sector of physical address v found an uncorrectable error (R408). -/
  | 24 => s.recordPoison (memKey 1 (v % 2 ^ 40) / 64)
  /- 25: the L2 TLB entry of key a reads with bad parity (R23). -/
  /- 26: the physical address of core a's schedule tables, 0 for none (R366). -/
  | 26 => if 160 ≤ a ∨ v % 16 ≠ 0 ∨ (v ≠ 0 ∧ !inHbm v) then s else { s with pl := { s.pl with mgmt := { m with schedAt := SMap.set 0 m.schedAt a v } } }
  | 25 => match SMap.find? s.tr.tlb a with
    | none => s
    | some e => { s with tr := { s.tr with tlb := SMap.put s.tr.tlb a { e with bad := true } } }
  /- 27: an uncorrectable error poisons the unit of an SRAM that holds address v of storage a, or, for b not 0, the part of core b - 1's L1 lines that
     holds it (R53). -/
  | 27 => let key := memKey a v
    if a = 0 ∨ 10 ≤ a ∨ 160 < b then s
    else if b = 0 then s.poisonKeys [key]
    else { s with coh := { s.coh with l1 := s.coh.l1.map fun p =>
      if p.1 / 4096 = b - 1 ∧ p.2.line = sectorOf key then (p.1, { p.2 with pois := p.2.pois ||| (1#8 <<< (key % 64 / 8)) }) else p } }
  /- 28: the step of bring-up, 1, 2 or 6, whose firmware image fails, 0 for none (R423). -/
  | 28 => if a = 0 ∨ a = 1 ∨ a = 2 ∨ a = 6 then { s with pl := { s.pl with mgmt := { m with badImage := a } } } else s
  | _ => s

/-! ## Attestation (R424) -/

/-- The configuration that measurement block 5 covers: owner bytes, DCBs, module power control. -/
def configuration (s : State) : List Nat :=
  (s.ex.quads.map fun p => p.1 * 256 + p.2.owner.toNat)
    ++ (List.flatMap (fun c : Nat × Core => List.map (fun p : Nat × Channel => (c.1 * 8 + p.1) * 256 + p.2.owner.toNat) c.2.chans) s.ex.cores)
    ++ (s.ex.gathers.map fun p => p.1 * 256 + p.2.owner.toNat) ++ (s.pl.ports.map fun p => p.1 * 256 + p.2.owner.toNat)
    ++ (s.pl.funcs.map fun p => p.1 * 256 + p.2.owner.toNat)
    ++ ((List.filter (fun p : Nat × BitVec 128 => decide (bits p.2.toNat 115 113 = 1)) s.fr.dcbs).map fun p => bits p.2.toNat 97 76)
    ++ [s.pl.mgmt.mpc.toNat]

/-- A measurement block. -/
def measurement (s : State) (index : Nat) : Nat := (Config.freeHash (if index = 5 then 5 :: s.configuration else [index])).toNat

def hostPort (s : State) (p : Nat) : HostPort := SMap.get {} s.pl.hosts p
def setHostPort (s : State) (p : Nat) (h : HostPort) : State := { s with pl := { s.pl with hosts := SMap.put s.pl.hosts p h } }

/-- An SPDM answer, when the connection has come far enough; else ERROR with UnexpectedRequest. -/
def spdmAnswer (s : State) (port need next : Nat) (nums : List Nat) : State :=
  let h := s.hostPort port
  if 2 ≤ port then s
  else if h.spdm < need then s.send 5 [port, 0x7F, 0x04]
  else (s.setHostPort port { h with spdm := next }).send 5 (port :: nums)

/-- A signature on P-521: the module's key and its random numbers are not the spec's. -/
def signature (s : State) : List Nat := [(Config.freeValue s.ctr).toNat]

/-! ## Resets (R425) -/

/-- What is outside the module, or is its history, stands through a reset: host and peer memory, what it has sent, what is still due; the firmware
images, and the frames that the quarantine bitmaps loaded in step 5 name. -/
def outside (s t : State) : State :=
  { t with
    ctr := s.ctr
    events := s.events
    mem := { t.mem with bytes := List.filter (fun p : Host.Cell => decide (2 ≤ keyTag p.1) && decide (keyTag p.1 ≤ 5)) s.mem.bytes }
    pl := { t.pl with out := s.pl.out, quar := s.pl.quar, mgmt := { t.pl.mgmt with badImage := s.pl.mgmt.badImage, ptpSec := s.pl.mgmt.ptpSec, ptpNs := s.pl.mgmt.ptpNs, ptpAt := s.pl.mgmt.ptpAt, sync := s.pl.mgmt.sync } } }

/-- Intervals, windows and samples count from a module time. -/
def Mgmt.from (m : Mgmt) (now : Nat) : Mgmt := { m with interval := now / 10000, msWindow := now / 1000000, samples := now / 100000, ptpAt := now }

/-- Module time starts from Jasper's PTP time. -/
def startTime (s : State) (t : Nat) : State :=
  let p := s.ptpNow
  let t := maxTime t
  let m := Mgmt.from s.pl.mgmt t
  { s with now := t, pl := { s.pl with mgmt := { m with ptpSec := p / 1000000000, ptpNs := p % 1000000000 } } }

end State

/-- DCB_WRITE (R149, R150, R392, R393): a partition's PART and a tenant's ASID are copied to every descendant; WATTS below what the partition's running launches reserve is taken, and is a SHARE breach of each. -/
def execDcbWrite (idx : Nat) (value : BitVec 128) (s : State) : Out :=
  let v := State.dcbCopy value.toNat (s.dcb (bits value.toNat 127 116))
  if s.dcbRefused idx v then .next s
  else
    let s := (s.setDcb idx (State.dcbAfter (s.dcb idx) v)).copyDown
    if bits v 115 113 ≠ 1 then .next s
    else
      let prt := bits v 97 93
      if s.runningPres prt ≤ bits v 88 76 then .next s
      else .next ((List.filter (fun l : Nat × Launch => decide (l.2.phase = 1) && bitOf l.2.q.parts.toNat prt) s.fr.launches).foldl
        (fun (s : State) l => s.breach l.1 0x42 0 255) s)

/-- OWNER_BYTE_WRITE (R387). -/
def execOwnerByteWrite (array unit idx : Nat) (value : BitVec 8) (s : State) : Out := .next (s.writeOwner array unit idx value)

/-- MANAGEMENT_WRITE. -/
def execManagementWrite (reg a b : Nat) (value : BitVec 64) (s : State) : Out := .next (s.manage reg a b value)

/-- HOST_PORT_TRAINING (R413): CXL 3.1 only if the host offers CXL.cache, on 16 or 8 lanes; else PCIe 7.0. -/
def execHostPortTraining (port : Nat) (cxlOffered : Bool) (lanes : Nat) (s : State) : Out :=
  if 2 ≤ port ∨ !(lanes = 16 ∨ lanes = 8 ∨ lanes = 4) then .next s
  else .next (s.setHostPort port { mode := if cxlOffered ∧ lanes ≠ 4 then 2 else 1, lanes := lanes })

/-- GET_VERSION: SPDM 1.2 and 1.3. It starts the connection anew. -/
def execGetVersion (port : Nat) (s : State) : Out := .next (s.spdmAnswer port 0 1 [0x04, 0x12, 0x13])

/-- GET_CAPABILITIES: certificates, challenges and signed measurements; no secure session. -/
def execGetCapabilities (port : Nat) (s : State) : Out := .next (s.spdmAnswer port 1 2 [0x61])

/-- NEGOTIATE_ALGORITHMS: only ECDSA on P-521 (bit 8 of the offer) and SHA-512 (bit 2). -/
def execNegotiateAlgorithms (port asym hash : Nat) (s : State) : Out :=
  if bitOf asym 8 ∧ bitOf hash 2 then .next (s.spdmAnswer port 2 3 [0x63, 0x100, 0x4])
  else .next (s.spdmAnswer port 2 2 [0x7F, 0x01])

/-- GET_DIGESTS: the digest of the certificate chain. -/
def execGetDigests (port : Nat) (s : State) : Out := .next (s.spdmAnswer port 3 3 [0x01, (Config.freeHash [256]).toNat])

/-- GET_CERTIFICATE: the chain of the device identity key to a Dravwick root. -/
def execGetCertificate (port : Nat) (s : State) : Out := .next (s.spdmAnswer port 3 3 [0x02, (Config.freeHash [257]).toNat])

/-- CHALLENGE: a signed response over the nonce. -/
def execChallenge (port : Nat) (nonce : BitVec 256) (s : State) : Out :=
  .next (s.spdmAnswer port 3 3 ([0x03, (Config.freeHash [256]).toNat, nonce.toNat] ++ s.signature))

/-- GET_MEASUREMENTS: how many blocks there are for index 0, all of them for index 255, else the block. -/
def execGetMeasurements (port index : Nat) (s : State) : Out :=
  if index = 0 then .next (s.spdmAnswer port 3 3 [0x60, 5])
  else if index = 255 then .next (s.spdmAnswer port 3 3 ([0x60] ++ ([1, 2, 3, 4, 5].map s.measurement) ++ s.signature))
  else if 5 < index then .next (s.spdmAnswer port 3 3 [0x7F, 0x01])
  else .next (s.spdmAnswer port 3 3 ([0x60, index, s.measurement index] ++ s.signature))

/-- PTP_TIME_SYNC (R5, R60): a time input, or its loss. Module time is slewed, never stepped: the error found works on its rate alone. -/
def execPtpTimeSync (sec ns sync : Nat) (s : State) : Out :=
  let m := s.pl.mgmt
  if 3 ≤ sync ∨ 1000000000 ≤ ns ∨ 2 ^ 48 ≤ sec then .next s
  else .next { s with pl := { s.pl with mgmt := if sync = 0
    then { m with ptpSec := sec, ptpNs := ns, ptpAt := s.now, sync := 0, ptpErr := ((sec * 1000000000 + ns : Nat) : Int) - ((s.ptpNow : Nat) : Int) }
    else { m with sync := sync } } }

/-- COLD_RESET (R423, R425): the seven steps of bring-up; everything in the module is as after reset. A firmware image that fails its signature or its
security version (`badImage`) is not started and bring-up stops at that step, with the rails as the steps before have left them. -/
def execColdReset (s : State) : Out :=
  let t := s.outside State.reset
  let n := s.pl.mgmt.badImage
  if n = 1 ∨ n = 2 ∨ n = 6 then
    .next { t with now := s.now, pl := { t.pl with mgmt := { t.pl.mgmt with step := n, sramUp := decide (n = 6), logicUp := decide (n = 6) } } }
  else .next (t.startTime s.ptpNow)

/-- WARM_RESET (R423, R425): steps 6 and 7. The remaining firmware is loaded again, unless its image fails, module time goes on from PTP time, and the
host ports train anew. -/
def execWarmReset (s : State) : Out :=
  if s.pl.mgmt.badImage = 6 then .next { s with pl := { s.pl with hosts := [], mgmt := { s.pl.mgmt with step := 6 } } }
  else .next { s.startTime (max s.now s.ptpNow) with pl := { (s.startTime (max s.now s.ptpNow)).pl with hosts := [] } }

/-- POWER_DOWN (R425): every logic rail, then every SRAM rail; nothing in the module stands. -/
def execPowerDown (s : State) : Out :=
  let t := s.outside State.reset
  .next { t with now := s.now, pl := { t.pl with mgmt := { t.pl.mgmt with step := 0, sramUp := false, logicUp := false } } }

end Sys2Proof.Machine
end

