-- ==== Sys2Proof/Machine/Auto.lean ====
section
/-! DEFINITION. Auto.lean: the module's own events that may come next when none is queued. The list is generous: a row whose conditions do not hold
changes nothing, and Sched.lean passes it over. -/

namespace Sys2Proof.Machine

/-- What an operation of a crew may do next. -/
def opEvents (k : Nat) (o : Op) : List Instr :=
  let each := fun (f : Nat → List Instr) => (List.range o.accs.length).flatMap f
  let accs := match o.kind with
    | .load => each fun i => [.fillRequest k o.id i]
    | .ldfe => each fun i => [.ldfeRepresentation k o.id i]
    | .atomic => each fun i => [.atomicAtHome k o.id i, .storeAck k o.id i]
    | .store => each fun i => [.storeAtHome k o.id i, .storeAck k o.id i, .portStoreReport k o.id i]
    | _ => []
  let whole : List Instr := match o.kind with
    | .load => [.loadReturn k o.id]
    | .ldfe => .loadReturn k o.id :: (lanesOf o.lanes).map (.timeoutExpiry k ·)
    | .atomic => [.longLatencyResult k o.id, .stRetire k o.id]
    | .store => [.storeChecksPass k o.id, .storeCheckFail k o.id, .stRetire k o.id]
    | _ => [.longLatencyResult k o.id, .stRetire k o.id, .loadReturn k o.id]
  accs ++ whole

/-- What a thread may come to: the end of a wait, the steps of a COMMIT, an abort. -/
def threadEvents (k : Nat) (c : Crew) (l : Nat) (t : Thread) : List Instr :=
  let wait : List Instr := match t.blocked with
    | none => []
    | some _ => [.fenceRelease k l, .waitadReread k l, .sleepWake k l, .timeoutExpiry k l]
  let region : List Instr := match c.regionOf l with
    | none => []
    | some r =>
      [.regionAbort k l, .commitDecide k l] ++ (List.range r.sectors.length).flatMap fun i => [.commitLockRequest k l i, .commitDecisionAtHome k l i]
  wait ++ region

/-- What a crew may do next beside issuing. -/
def crewEvents (k : Nat) (c : Crew) : List Instr :=
  c.ops.flatMap (opEvents k)
    ++ List.flatMap (fun p : Nat × Thread => threadEvents k c p.1 p.2) c.threads
    ++ (List.range c.signs.length).map (.signatureCount k ·)
    ++ List.flatMap (fun p : Nat × Stream => (lanesOf c.live).map (.streamPrefetchRead k p.1 ·) ++ (p.2.queued.map (·.1)).eraseDups.map (.streamPushWrite k p.1 ·)) c.streams
    ++ (if c.entryAt.isSome then [.handlerTimeout k] else [])

/-- What a core's engines, pans, windrow and units may do next. -/
def coreEvents (k : Nat) (c : Core) : List Instr :=
  (List.range 9).map (.transferStart k ·)
    ++ (List.range 8).map (.chainRecordRead k ·)
    ++ c.transfers.map (fun t => .transferComplete k t.id)
    ++ c.transfers.map (fun t => .chunkComplete k t.cmd t.chunk)
    ++ List.map (fun p : Nat × AbEnt => .homedContribution k p.1) c.ab
    ++ List.flatMap (fun p : Nat × WEnt => [.windrowDeadlineFire k p.1, .windrowBArrived k p.1]) c.windrow
    ++ List.flatMap (fun p : Nat × PanSlot => (if p.2.owed.isEmpty then [] else [.slotZeroingDone k p.1]) ++ if p.2.state = 1 ∨ p.2.state = 2 then [.slotExpiry k p.1] else []) c.pan
    ++ List.map (fun p : Nat × PanReq => .panResponseTimeout k p.1) c.panReqs

/-- What a quadrant's matrix unit may do next. -/
def quadEvents (k : Nat) (q : Quad) : List Instr :=
  [.matrixOpStart (k / 4) (k % 4), .matrixOpComplete (k / 4) (k % 4)] ++ (q.running.filterMap (·.fire)).map (.windrowFireComplete (k / 4) ·) ++ if q.ballast.isSome then [.ballastEnd (k / 4) (k % 4)] else []

/-- What a gather engine may do next. -/
def gatherEvents (s : State) (k : Nat) (g : Gather) : List Instr :=
  .gatherStart (k / 8) (k % 8) :: g.queue.flatMap fun c =>
    (List.range c.n).map (.gatherRowComplete (k / 8) (k % 8) ·)
      ++ ((List.range c.chunkCount).filter fun i => c.chunkReady i s.now).map fun i => .chunkComplete (256 + k) c.num (c.chb + i)

/-- What a launch may come to. -/
def launchEvents (s : State) (d : Nat) (l : Launch) : List Instr :=
  match l.phase with
  | 0 => [.launchStart d]
  | 1 => .breachAllowanceExpiry d :: (l.q.slots.filter fun e => s.slotOpen d e).map fun e => .blockStart e.core e.slot
  | _ => (s.launchCores d).map (.regionWctReport d ·) ++ (s.launchDies d).map (.regionWctForward d ·)
      ++ (s.fr.edges.filter fun e => decide (e.prod = d) && !e.raised).map (fun e => .completionSignal d e.cons) ++ [.hostCompletionPost d]

/-- What the front end, the queues and the timers may do next. A saved block that no request holds any more comes back as soon as it can (R378, R385). -/
def frontEvents (s : State) : List Instr :=
  s.fr.reqs.map (fun r => if r.kind = 0 then .quoteRequest r.crew r.lane else if r.kind = 1 then .acceptRequest r.crew r.lane else .declineRequest r.crew r.lane)
    ++ (if s.fr.order.isEmpty then [] else [.acceptTakesEffect])
    ++ List.flatMap (fun p : Nat × Launch => launchEvents s p.1 p.2) s.fr.launches
    ++ List.flatMap (fun p : Nat × Queue => if p.2.loading then [.queueProgramLoad p.1] else []) s.fr.queues
    ++ (if s.fr.queues.isEmpty then [] else (List.range 32).map fun i => .packetStart (i / 8) (160 + i))
    ++ s.fr.preempts.flatMap (fun p => [.graceTimerExpiry p.tenant p.part, .killTimerExpiry p.tenant p.part])
    ++ List.flatMap (fun p : Nat × Block => if p.2.stop = 2 then [.drainTimerExpiry p.2.core p.2.slot] else if 3 ≤ p.2.stop then [.blockStopComplete p.2.core p.2.slot] else [])
      s.ex.blocks
    ++ s.fr.saved.map (fun b => .shadowExchangeDone b.block.core)
    ++ (s.fr.saved.filter fun b => (s.preemptOf b.tenant b.part).isNone).map (fun b => .tenantResume b.tenant b.part)

/-- What memory, translation, host functions, power and the clocks of the module may do next. -/
def platEvents (s : State) : List Instr :=
  s.dueSectors.map (.pendingStorePerformed ·)
    ++ List.flatMap (fun p : Nat × WalkPool => p.2.walks.map fun w => .walkEntryRead p.1 w.id) s.tr.walk
    ++ List.flatMap (fun p : Nat × Func => (if p.2.invcmd ≠ 0 then [.invalidationComplete (p.1 / 33) (p.1 % 33)] else [])
        ++ if p.2.resetting ∨ !p.2.qrstBusy.isEmpty then [.queueResetDone (p.1 / 33) (p.1 % 33)] else []) s.pl.funcs
    ++ List.map (fun p : Nat × BitVec 24 => .l2WayReductionDone (p.1 / 32) (p.1 % 32)) s.pl.releasing
    ++ List.flatMap (fun p : Nat × Cluster => (if !p.2.reqs.isEmpty ∨ p.2.d ≠ 0 then [.slewLimiterStep p.1] else [])
        ++ if p.2.clock < p.2.target then [.railReachedPoint p.1] else []) s.pl.clusters
    ++ List.map (fun p : Nat × UnitCnt => .eventWindowEnd p.1) s.pl.units
    ++ [.controlIntervalBoundary, .budgetWindowBoundary, .telemetrySample]

/-- The module's own events that may come next. -/
def autoEvents (s : State) : List Instr :=
  List.flatMap (fun p : Nat × Crew => crewEvents p.1 p.2) s.ex.crews
    ++ List.flatMap (fun p : Nat × Core => coreEvents p.1 p.2) s.ex.cores
    ++ List.flatMap (fun p : Nat × Quad => quadEvents p.1 p.2) s.ex.quads
    ++ List.flatMap (fun p : Nat × Gather => gatherEvents s p.1 p.2) s.ex.gathers
    ++ frontEvents s ++ platEvents s

/-- The same list from a place that moves on with the steps and is otherwise free: the spec does not order the events of different agents. -/
def autoOrder (s : State) : List Instr :=
  let l := autoEvents s
  let n := (s.ctr / 2 + Config.freePick s.ctr 2) % max 1 l.length
  l.drop n ++ l.take n

end Sys2Proof.Machine
end

