-- ==== Sys2Proof/Machine/Exchange.lean ====
section
/-! DEFINITION. Exchange.lean: exchange within a crew: SHF, VOTE, BALLOT, REDUX (13 R273, R274; in pairs, R154). -/

namespace Sys2Proof.Machine

/-! ## SHF (R273) -/

/-- The offset that a lane reaches: `o` its own in the sub-group. -/
def shfOff (mode o b : Nat) : Int :=
  match mode with
  | 0 => b
  | 1 => (o : Int) - b
  | 2 => (o : Int) + b
  | _ => Nat.xor o b

/-- The lane that lane `l` reads, none where it is out of range under `.trap`. -/
def shfLane (mode pol w l b : Nat) : Option Nat :=
  let s := l - l % w
  let k := shfOff mode (l % w) b
  if 0 ≤ k ∧ k < w then some (s + k.toNat)
  else match pol with
    | 0 => some (s + (k % (w : Int)).toNat)
    | 1 => some (s + (if k < 0 then 0 else w - 1))
    | 2 => some l
    | _ => none

/-- In a protected launch lane numbers are pair numbers. -/
def shfSource (prot : Bool) (mode pol w l b : Nat) : Option Nat :=
  if prot then (shfLane mode pol w (l / 2) b).map fun p => 2 * p + l % 2 else shfLane mode pol w l b

def execShf (i : XF) (s : State) : Out :=
  let sh := (Instr.shf i).shape
  let noA := { sh with a := Fld.raw }
  let oa : Operand := ⟨sh.a, i.sa, i.a.toNat, i.fea⟩
  let run := fun s => issue s (fun x c => c.active x.lanes i) fun x c =>
    let act := c.active x.lanes i
    let h := c.inHandler x.lanes
    let prot := s.protectedCrew x.crew
    let w := 2 ^ (bits i.cN 3 1 + 1)
    let src := fun l => shfSource prot (bits i.vN 1 0) (bits i.vN 3 2) w l (c.opB h i false l)
    let out := laneSet fun l => hasLane act l && (src l).isNone
    let from' := fun (f : Nat → Bool) => laneSet fun l => hasLane act l && match src l with
      | some k => f k
      | none => false
    let rs := oa.fld.regs oa.sel oa.n
    let empty := if i.sa then c.emptyLanes h true rs act else from' fun k => rs.any fun r => (c.thread k).vE.getLsbD r
    let pois := if i.sa then c.poisonLanes h true rs act else from' fun k => rs.any fun r => (c.thread k).vP.getLsbD r
    let port := oa.port i.qp
    let read := laneSet fun k => (lanesOf act).any fun l => decide (src l = some k)
    let pre := if oa.fld.beyond oa.sel i.qp c.nregs oa.n then some illRegister
      else if prot && decide (32 < w) then some illField
      else detailIf (oa.aliasBound i.qp c || oa.badPort i.qp c) illUse
    match gateFirst pre c noA i x.lanes act with
    | .error e => .error e
    | .ok _ =>
      if act = 0 then .ok (s.advance x)
      else if out ≠ 0 then .error (.trap ⟨clsArith, 0x20, out, 0⟩)
      else if port then
        (if c.popPois (oa.n - 248) read ≠ 0 then .error (.trap ⟨clsPoison, 0x24, laneSet fun l => hasLane act l && hasLane (c.popPois (oa.n - 248) read) ((src l).getD l), 0⟩)
        else if c.streamEnd (oa.n - 248) act ≠ 0 then .error (.trap ⟨clsEngine, 0x15, c.streamEnd (oa.n - 248) act, 0⟩)
        else if c.popWaits (oa.n - 248) (act ||| read) then .error .hold
        else .ok (writeD s x sh i act i.o0 false fun l => c.rdN h i.qp i.o0 i.sa i.a.toNat ((src l).getD l)))
      else if empty ≠ 0 && i.fea then .error (.trap ⟨clsFempty, 0, empty, 0⟩)
      else if empty ≠ 0 then .error .hold
      else if pois ≠ 0 then .error (.trap ⟨clsPoison, 0x24, pois, 0⟩)
      else .ok (writeD s x sh i act i.o0 false fun l => c.rdN h i.qp i.o0 i.sa i.a.toNat ((src l).getD l))
  if usesPort sh i then outsideRegions s i run else run s

/-! ## VOTE, BALLOT, REDUX (R274) -/

/-- The lanes that count: of a protected pair one (R154). -/
def voters (prot : Bool) (act : Lanes) : List Nat :=
  (lanesOf act).filter fun l => !prot || decide (l % 2 = 0) || !hasLane act (l - 1)

def voteVal (v : Nat) (bs : List Bool) : Bool :=
  match v with
  | 0 => bs.any id
  | 1 => bs.all id
  | _ => bs.all id || bs.all (!·)

def execVote (i : XF) (s : State) : Out :=
  let sh := (Instr.vote i).shape
  guarded s sh i fun x c act =>
    let r := voteVal i.vN ((voters (s.protectedCrew x.crew) act).map fun l => (c.thread l).pred i.a.toNat)
    if act = 0 then .ok (s.advance x)
    else if i.sd then .ok (writeD s x sh i act false false fun _ => b2n r)
    else .ok (writeP s x sh i act fun _ => r)

/-- The mask of a ballot: bit L for lane L, in a protected launch bit i for pair i. -/
def ballotMask (prot : Bool) (ls : List Nat) (f : Nat → Bool) : Lanes :=
  ls.foldl (fun m l => if f l then m ||| oneLane (if prot then l / 2 else l) else m) 0

def execBallot (i : XF) (s : State) : Out :=
  let sh := (Instr.ballot i).shape
  guarded s sh i fun x c act =>
    let prot := s.protectedCrew x.crew
    let m := ballotMask prot (voters prot act) fun l => (c.thread l).pred i.a.toNat
    if act = 0 then .ok (s.advance x) else .ok (writeD s x sh i act true false fun _ => m.toNat)

/-- The combination of two values of `n` bits. -/
def reduxOp (op n a b : Nat) : Nat :=
  match op with
  | 0 => (a + b) % 2 ^ n
  | 1 => if sval n a ≤ sval n b then a else b
  | 2 => if sval n b ≤ sval n a then a else b
  | 3 => min a b
  | 4 => max a b
  | 5 => Nat.land a b
  | 6 => Nat.lor a b
  | _ => Nat.xor a b

/-- The combination over the values of some lanes. -/
def reduxAll (op n : Nat) : List Nat → Nat
  | [] => 0
  | [v] => v
  | v :: rest => reduxOp op n v (reduxAll op n rest)

def execRedux (i : XF) (s : State) : Out :=
  let sh := (Instr.redux i).shape
  let run := fun s => guarded s sh i fun x c act =>
    let h := c.inHandler x.lanes
    let n := if i.o0 then 64 else 32
    let v := reduxAll i.vN n ((voters (s.protectedCrew x.crew) act).map fun l => c.rdN h i.qp i.o0 i.sa i.a.toNat l)
    if act = 0 then .ok (s.advance x) else .ok (writeD s x sh i act i.o0 false fun _ => v)
  if usesPort sh i then outsideRegions s i run else run s

end Sys2Proof.Machine
end

