-- ==== Sys2Proof/Machine/Fp.lean ====
section
/-! DEFINITION. Fp.lean: the floating-point instructions, FCVT and the special functions (12 R239 to R250). -/

namespace Sys2Proof.Machine

/-! ## FADD, FSUB, FMUL, FFMA (R240) -/

def addOp (rm : Nat) (a b : Fv) : Option Fv := addFv rm a b
def subOp (rm : Nat) (a b : Fv) : Option Fv := addFv rm a b.negate
def mulOp (_ : Nat) (a b : Fv) : Option Fv := mulFv a b

/-- A B-form on FP32 v operands. -/
def fpB (s : State) (sh : Shape) (d a b : BitVec 8) (f : BitVec 13 → Nat → Nat → FlagRes) : Out :=
  fpLanes s sh (XF.ofB d a b) false fun x c h l =>
    f x.fmode (c.rdV h false false a.toNat l).toNat (c.rdV h false false b.toNat l).toNat

/-- An X-form with A and B, B an immediate when IMM. -/
def fpX (s : State) (sh : Shape) (i : XF) (f : BitVec 13 → Nat → Nat → FlagRes) : Out :=
  fpLanes s sh i false fun x c h l => f x.fmode (c.rdV h i.qp i.sa i.a.toNat l).toNat (c.opB h i false l)

def execFadd (d a b : BitVec 8) (s : State) : Out := fpB s (Instr.fadd d a b).shape d a b (fp2 addOp 0)
def execFaddX (i : XF) (s : State) : Out := fpX s (Instr.faddX i).shape i (fp2 addOp i.ownN)
def execFsub (d a b : BitVec 8) (s : State) : Out := fpB s (Instr.fsub d a b).shape d a b (fp2 subOp 0)
def execFsubX (i : XF) (s : State) : Out := fpX s (Instr.fsubX i).shape i (fp2 subOp i.ownN)
def execFmul (d a b : BitVec 8) (s : State) : Out := fpB s (Instr.fmul d a b).shape d a b (fp2 mulOp 0)
def execFmulX (i : XF) (s : State) : Out := fpX s (Instr.fmulX i).shape i (fp2 mulOp i.ownN)

/-- The B-form adds into its own destination. -/
def execFfma (d a b : BitVec 8) (s : State) : Out :=
  fpLanes s (Instr.ffma d a b).shape (XF.ofB d a b) false fun x c h l =>
    fma 0 x.fmode (c.rdV h false false a.toNat l).toNat (c.rdV h false false b.toNat l).toNat (c.rdV h false false d.toNat l).toNat

def execFfmaX (i : XF) (s : State) : Out :=
  fpLanes s (Instr.ffmaX i).shape i false fun x c h l =>
    fma i.ownN x.fmode (c.rdV h i.qp i.sa i.a.toNat l).toNat (c.rdV h i.qp i.sb i.b.toNat l).toNat (c.rdV h i.qp i.sc i.c.toNat l).toNat

/-! ## The FP group (R241 to R246) -/

def execFmin (i : XF) (s : State) : Out := fpX s (Instr.fmin i).shape i (fminmax false i.ownN)
def execFmax (i : XF) (s : State) : Out := fpX s (Instr.fmax i).shape i (fminmax true i.ownN)

/-- The sign bits of a register's elements (R243). -/
def signMask (t : Nat) : Word := if t = 0 then 0x80000000 else 0x80008000

def execFabs (i : XF) (s : State) : Out :=
  lanewise s (Instr.fabs i).shape i false false fun c h l => (c.rdV h i.qp i.sa i.a.toNat l &&& ~~~signMask i.ownN).toNat
def execFneg (i : XF) (s : State) : Out :=
  lanewise s (Instr.fneg i).shape i false false fun c h l => (c.rdV h i.qp i.sa i.a.toNat l ^^^ signMask i.ownN).toNat

def execFcmp (i : XF) (s : State) : Out :=
  fpLanesP s (Instr.fcmp i).shape i fun x c h l =>
    let fm := typeFmt i.ownN
    fcmpOp i.vN (elemIn fm x.fmode (c.rdV h i.qp i.sa i.a.toNat l).toNat 0) (elemIn fm x.fmode (c.opB h i false l) 0)

def execFclass (i : XF) (s : State) : Out :=
  lanewise s (Instr.fclass i).shape i false false fun c h l =>
    let fm := typeFmt i.ownN
    fclassOp fm (elemBits fm (c.rdV h i.qp i.sa i.a.toNat l).toNat 0)

def execFrnd (i : XF) (s : State) : Out :=
  fpLanes s (Instr.frnd i).shape i false fun x c h l =>
    let a := (c.rdV h i.qp i.sa i.a.toNat l).toNat
    perElem i.ownN fun fm e => frndOp fm (rmodeOf x.fmode i.wN) (elemIn fm x.fmode a e)

/-! ## FCVT (R247, R248) -/

/-- Source element `e` of a packed conversion: A and B for 32-bit sources, else fields of A. -/
def packedSrc (w upper a b e : Nat) : Nat := if w = 32 then (if e = 0 then a else b) else a / 2 ^ (w * (e + 2 * upper)) % 2 ^ w

/-- The results of FCVT's three shapes. -/
def fcvtRes (i : XF) (m : BitVec 13) (a b d : Nat) : FlagRes :=
  let src := bits i.wN 3 0
  let dst := bits i.wN 7 4
  let rm := rmodeOf m i.wN
  if i.vN = 0 then
    let r := cvtOp src dst rm m (a % 2 ^ fcvtWidth src)
    (widenCode dst r.1, r.2)
  else
    let u := b2n (bitOf i.wN 11)
    let r0 := cvtOp src dst rm m (packedSrc (fcvtWidth src) u a b 0)
    let r1 := cvtOp src dst rm m (packedSrc (fcvtWidth src) u a b 1)
    let w := fcvtWidth dst
    let both := r1.1 % 2 ^ w * 2 ^ w + r0.1 % 2 ^ w
    (if i.vN = 2 then both * 65536 + d % 65536 else both, r0.2 ||| r1.2)

def execFcvt (i : XF) (s : State) : Out :=
  let w64 := decide (fcvtWidth (bits i.wN 7 4) = 64) && decide (i.vN = 0)
  let a64 := decide (fcvtWidth (bits i.wN 3 0) = 64)
  let run := fun s => guarded s (Instr.fcvt i).shape i fun x c act =>
    let h := c.inHandler x.lanes
    let g := fun l => fcvtRes i x.fmode (c.rdN h i.qp a64 i.sa i.a.toNat l) (c.rdV h i.qp i.sb i.b.toNat l).toNat
      (c.rdV h i.qp i.sd i.d.toNat l).toNat
    withFlags s x act (laneFlags i.sd act g) fun s => writeD s x (Instr.fcvt i).shape i act w64 false fun l => (g l).1
  if usesPort (Instr.fcvt i).shape i then outsideRegions s i run else run s

/-! ## Special functions (R249, R250) -/

/-! Fixed-point numbers with 128 fraction bits, for the exact values of the functions whose results are free within a bound (R250); every result here
is nearer its exact value than 2^−110. Log entry 4. -/

/-- ln 2 and log₂ e, each times 2^128, and 2π times 2^300. -/
def ln2Fix : Int := 235865763225513294137944142764154484399
def log2eFix : Int := 490923683258796565746369346286093237521
def twoPiFix : Nat := 12799074516701066808997804592552191239937198809484765912489140366271425664275751838873863962

def fixOne : Int := 2 ^ 128
def fixMul (x y : Int) : Int := x * y / 2 ^ 128

/-- The sum of `n` terms, the first `t`, each made from the one before it. -/
def fixSum (next : Nat → Int → Int) : Nat → Nat → Int → Int
  | 0, _, _ => 0
  | n + 1, j, t => t + fixSum next n (j + 1) (next j t)

/-- e^y, for y between −1 and 1. -/
def fixExp (y : Int) : Int := fixSum (fun j t => fixMul t y / ((j : Int) + 1)) 45 0 fixOne

/-- sin r and cos r, for r between 0 and 2π. -/
def fixSin (r : Int) : Int := fixSum (fun j t => -(fixMul (fixMul t r) r) / ((2 * j + 2) * (2 * j + 3) : Nat)) 48 0 r
def fixCos (r : Int) : Int := fixSum (fun j t => -(fixMul (fixMul t r) r) / ((2 * j + 1) * (2 * j + 2) : Nat)) 48 0 fixOne

/-- log₂ of a number m of `n` bits over 2^(n − 1), between 1 and 2: 2 artanh((x − 1) ÷ (x + 1)) ÷ ln 2. -/
def fixLog2 (m n : Nat) : Int :=
  let h : Int := 2 ^ (n - 1)
  let z := ((m : Int) - h) * 2 ^ 128 / ((m : Int) + h)
  let a := ((List.range 45).foldl (fun (p : Int × Int) j => (p.1 + p.2 / ((2 * j + 1 : Nat) : Int), fixMul (fixMul p.2 z) z)) (0, z)).1
  fixMul (2 * a) log2eFix

/-- The scale at which a free result is compared with the exact value: every FP32 value times 2^300 is an integer. -/
def sfuScale : Nat := 300

/-- A free FP32 result at most `bound` from the exact value, which is `r` to within `err`, all three times 2^300: the free bits where they certainly lie so
near, else the FP32 value nearest `r`. -/
def within (r bound err : Int) (free : Nat) : Fv :=
  let near := (roundFin fmtF32 0 false (decide (r < 0)) r.natAbs (-(sfuScale : Int))).1
  match f32 free with
  | .fin n m e =>
    let v : Int := (m : Int) * 2 ^ (e + sfuScale).toNat
    if (if n then -v - r else v - r).natAbs + err ≤ bound then .fin n m e else near
  | _ => near

/-- 2 ulp at the magnitude of `r`, an integer times 2^−300 (R250). -/
def twoUlp (r : Int) : Int := 2 ^ max (bitLen r.natAbs - 23) (sfuScale - 148)

/-- Integer times 2^e as a value. -/
def intFv (k : Int) (e : Int) : Fv := .fin (decide (k < 0)) k.natAbs e

/-- A value of less than 2^100 in fixed point, rounded down. -/
def fixedOf (neg : Bool) (m : Nat) (e : Int) : Int :=
  let v : Int := if 0 ≤ e + 128 then (m : Int) * 2 ^ (e + 128).toNat else ((m / 2 ^ (-(e + 128)).toNat : Nat) : Int)
  if neg then -v else v

/-- Floor of a finite value, as an integer. -/
def floorFin (neg : Bool) (m : Nat) (e : Int) : Int := (roundInt 3 neg m e).1

/-- The free bits that a function returns for an input. -/
def freeSfu (k x : Nat) : Nat := (Config.freeSfu k (BitVec.ofNat 32 x)).toNat

/-- k times 2^g, squared and times m times 2^e, is at most 1 (`below`) or at least 1. -/
def squareSide (k g : Int) (m : Nat) (e : Int) (below : Bool) : Bool :=
  let n := k.natAbs * k.natAbs * m
  let p := 2 * g + e
  let l := if 0 ≤ p then n * 2 ^ p.toNat else n
  let r := if 0 ≤ p then 1 else 2 ^ (-p).toNat
  if below then decide (k ≤ 0) || decide (l ≤ r) else decide (0 < k) && decide (r ≤ l)

/-- An FP32 value within one ulp of 1 ÷ √(m·2^e): the free value where squares show that it lies so near, else the quotient rounded. -/
def rsqrtVal (m : Nat) (e : Int) (free : Nat) : Fv :=
  let (d, de) := sqrtFin m e
  let (q, qe) := divFin 1 0 d de
  let near := (roundFin fmtF32 0 false false q qe).1
  match near, f32 free with
  | .fin _ n ne, .fin false fm fe =>
    let ue := ne + (bitLen n : Int) - 24
    let g := min fe ue
    let r : Int := (fm * 2 ^ (fe - g).toNat : Nat)
    let u : Int := (2 ^ (ue - g).toNat : Nat)
    if squareSide (r - u) g m e true && squareSide (r + u) g m e false then .fin false fm fe else near
  | v, _ => v

/-- What a special function other than FRCP and FSQRT returns for a widened operand: the FP32 value, whether it is exact, and the
flags of the special operands. An inexact value is free within the bound that R250 states: 2 ulp for FEXP2, FTANH and, outside 0.5 to 2, FLOG2, whose
bound there is the absolute 2^−22; 2^−21 for FSIN and FCOS; 1 ulp for FRSQ. -/
def sfuVal (k : Nat) (v : Fv) (x : Nat) : Fv × Bool × BitVec 5 :=
  match k, v with
  | _, .nan s => (.nan false, true, flagIf s flNV)
  | 1, .inf neg => if neg then (.nan false, true, flNV) else (.fin false 0 0, true, 0)
  | 1, .fin neg m e =>
    if m = 0 then (.inf neg, true, flDZ) else if neg then (.nan false, true, flNV) else (rsqrtVal m e (freeSfu 1 x), false, 0)
  | 3, .inf neg => (if neg then .fin false 0 0 else .inf false, true, 0)
  | 3, .fin neg m e =>
    let fl := floorFin neg m e
    if eqFv v (intFv fl 0) then (.fin false 1 fl, true, 0)
    else if 128 ≤ fl then (.inf false, false, flOF)
    else if fl < -160 then (within 0 (twoUlp 0) (2 ^ (sfuScale - 160)) (freeSfu 3 x), false, 0)
    else
      let f := fixedOf neg m e - fl * fixOne
      let r := fixExp (fixMul f ln2Fix) * 2 ^ (fl + 172).toNat
      (within r (twoUlp r) (2 ^ (fl + 190).toNat) (freeSfu 3 x), false, 0)
  | 4, .inf neg => if neg then (.nan false, true, flNV) else (.inf false, true, 0)
  | 4, .fin neg m e =>
    if m = 0 then (.inf true, true, flDZ)
    else if neg then (.nan false, true, flNV)
    else
      let top := e + (bitLen m : Int) - 1
      if m = 2 ^ (bitLen m - 1) then (intFv top 0, true, 0)
      else
        let r := (top * fixOne + fixLog2 m (bitLen m)) * 2 ^ 172
        (within r (if top = -1 ∨ top = 0 then 2 ^ (sfuScale - 22) else twoUlp r) (2 ^ 190) (freeSfu 4 x), false, 0)
  | 7, .inf neg => (.fin neg 1 0, true, 0)
  | 7, .fin neg m e =>
    if m = 0 then (.fin neg 0 0, true, 0)
    else if e + (bitLen m : Int) - 1 < -12 then (v, false, 0)
    else
      let w := if 6 ≤ e + (bitLen m : Int) - 1 then 0
        else
          let y := fixMul (2 * fixedOf false m e) log2eFix
          fixExp (-(fixMul (y % fixOne) ln2Fix)) / 2 ^ (y / fixOne).toNat
      let t := (fixOne - w) * fixOne / (fixOne + w) * 2 ^ 172
      let r := if neg then -t else t
      (within r (if t = fixOne * 2 ^ 172 then 2 ^ (sfuScale - 23) else twoUlp r) (2 ^ 190) (freeSfu 7 x), false, 0)
  | _, .inf _ => (.nan false, true, flNV)
  | _, .fin neg m e =>
    if m = 0 then (if k = 6 then .fin false 1 0 else .fin neg 0 0, true, 0)
    else
      let a := ((m * 2 ^ (e + 300).toNat % twoPiFix / 2 ^ 172 : Nat) : Int)
      let r := (if k = 6 then fixCos a else if neg then -fixSin a else fixSin a) * 2 ^ 172
      (within r (2 ^ (sfuScale - 21)) (2 ^ 190) (freeSfu k x), false, 0)

/-- One element of an SFU operation. The functions other than FRCP and FSQRT form an FP32 value without RM; a packed element rounds
that value once more in RM (R249). An inexact result that is subnormal or zero is tiny (R176, R177). -/
def sfuOp (k : Nat) (fm : Fmt) (m : BitVec 13) (v : Fv) : FlagRes :=
  let rm := fmRm m
  match k, v with
  | 0, .nan s => (fm.cnan, flagIf s flNV)
  | 0, .inf neg => (fm.signBit neg, 0)
  | 0, .fin neg a e =>
    if a = 0 then (fm.infBits neg, flDZ)
    else
      let (q, qe) := divFin 1 0 a e
      finish fm rm (fmFtzo m) false (some (.fin neg q qe))
  | 2, .nan s => (fm.cnan, flagIf s flNV)
  | 2, .inf neg => if neg then (fm.cnan, flNV) else (fm.infBits false, 0)
  | 2, .fin neg a e =>
    if a = 0 then (fm.signBit neg, 0)
    else if neg then (fm.cnan, flNV)
    else
      let (r, re) := sqrtFin a e
      finish fm rm (fmFtzo m) false (some (.fin false r re))
  | k, v =>
    let (r, exact, fl) := sfuVal k v (fmtF32.encode v)
    match r with
    | .nan _ => (fm.cnan, fl)
    | .inf neg => (fm.infBits neg, fl ||| flagIf (!exact) flNX)
    | .fin neg a e =>
      let wide := decide (fm = fmtF32)
      let (r1, f1) := roundFin fmtF32 0 (wide && fmFtzo m) neg a e
      let (q, f2) := if wide then (r1, f1) else (fun p => (p.1, f1 ||| p.2)) (roundFv fm rm (fmFtzo m) r1)
      let code := fm.encode q
      (code, fl ||| f2 ||| flagIf (!exact) flNX ||| flagIf (!exact && (fm.subnormal code || q.isZero)) flUF)

/-- An SFU instruction: long-latency, packed pairs (R249). -/
def sfu (s : State) (sh : Shape) (i : XF) (k : Nat) : Out :=
  fpLanes s sh i true fun x c h l =>
    let a := (c.rdV h i.qp i.sa i.a.toNat l).toNat
    perElem i.ownN fun fm e => sfuOp k fm x.fmode (elemIn fm x.fmode a e)

def execFrcp (i : XF) (s : State) : Out := sfu s (Instr.frcp i).shape i 0
def execFrsq (i : XF) (s : State) : Out := sfu s (Instr.frsq i).shape i 1
def execFsqrt (i : XF) (s : State) : Out := sfu s (Instr.fsqrt i).shape i 2
def execFexp2 (i : XF) (s : State) : Out := sfu s (Instr.fexp2 i).shape i 3
def execFlog2 (i : XF) (s : State) : Out := sfu s (Instr.flog2 i).shape i 4
def execFsin (i : XF) (s : State) : Out := sfu s (Instr.fsin i).shape i 5
def execFcos (i : XF) (s : State) : Out := sfu s (Instr.fcos i).shape i 6
def execFtanh (i : XF) (s : State) : Out := sfu s (Instr.ftanh i).shape i 7

end Sys2Proof.Machine
end

