-- ==== Sys2Proof/Machine/Region.lean ====
section
/-! DEFINITION. Region.lean: speculative regions (R276 to R279): TRY, COMMIT, ABORT, the requests and decisions of a COMMIT (R89, R90, R96) and
the end of an abort. -/

namespace Sys2Proof.Machine

/-- SPEC with DEPTH replaced; ACT follows it (R275). -/
def withDepth (w : Word) (n : Nat) : Word :=
  BitVec.ofNat 32 (w.toNat % 2 ^ 27 + n % 8 * 2 ^ 27 + bits w.toNat 30 30 * 2 ^ 30 + b2n (decide (n ≠ 0)) * 2 ^ 31)

/-- SPEC of a thread that enters a region: its codes stay until a COMMIT clears them. -/
def enterSpec (w : Word) (crew : Bool) : Word := BitVec.ofNat 32 (w.toNat % 2 ^ 24 + 2 ^ 27 + b2n crew * 2 ^ 30 + 2 ^ 31)

/-- SPEC after an abort (R275, R279, R280): ABORT writes USER, a trap inside the region TCLS and DETAIL; only a successful outermost COMMIT clears
them. -/
def abortSpec (w : Word) (code user tcls detail : Nat) : Word :=
  let keep := fun (own : Nat) (v hi lo : Nat) => if code = own then v else bits w.toNat hi lo
  BitVec.ofNat 32 (code % 16 + keep 5 (detail % 256) 11 4 * 2 ^ 4 + keep 5 (tcls % 16) 15 12 * 2 ^ 12 + keep 1 (user % 256) 23 16 * 2 ^ 16
    + bits w.toNat 30 30 * 2 ^ 30)

/-- The checkpoint of a thread. -/
def Thread.checkpoint (t : Thread) (n target : Nat) : Checkpoint :=
  { n := n, v := ((List.range n).map fun r => (r, t.rd r)), p := t.p, vP := t.vP, target := target }

/-- A thread's registers as its checkpoint has them, all FULL. -/
def Thread.restore (t : Thread) (k : Checkpoint) : Thread :=
  let t := k.v.foldl (fun t p => if k.vP.getLsbD p.1 then (t.wr p.1 p.2).setPois p.1 else t.wr p.1 p.2) t
  { t with p := k.p }

/-! ## TRY (R276) -/

def execTryRegion (i : XF) (s : State) : Out :=
  guarded s (Instr.tryRegion i).shape i fun x c act =>
    let n := 16 * i.cN
    let crew := decide (i.vN = 1)
    let inside := fun l => (c.thread l).specAct
    let nest := laneSet fun l => hasLane act l && inside l && ((c.thread l).specCrew != crew || decide ((c.thread l).specDepth = 4))
    let deeper := laneSet fun l => hasLane act l && inside l && !hasLane nest l
    let fresh := laneSet fun l => hasLane act l && !inside l
    let low := fun l => (List.range n).any fun r => (c.thread l).vE.getLsbD r
    if c.nregs < n then .error (illegal illRegister act)
    else if (lanesOf fresh).any low || c.predsPend fresh (List.range 7) then .error .hold
    else
      let target := wrapInt 32 ((x.pc : Int) + i.w2.toInt)
      let others := c.allMembers (c.live &&& ~~~fresh) &&& laneSet fun l => inside l && (c.thread l).specCrew
      let c := c.mapLanes deeper fun _ t => { t with spec := withDepth t.spec (t.specDepth + 1) }
      let c := c.mapLanes fresh fun _ t =>
        { t with spec := enterSpec t.spec crew, ckpt := some (t.checkpoint n target), region := if crew then none else some {} }
      let c := if crew && decide (fresh ≠ 0) && decide (others = 0) then { c with region := some {} } else c
      let s := (s.setCrew x.crew c).setPc x (x.lanes &&& ~~~nest) x.next
      .ok ((lanesOf nest).foldl (fun s l => s.beginAbort x.crew l 4 0 0 0 none) s)

/-! ## COMMIT (R278, R89, R90, R96) -/

/-- The read set allows T: it is earlier than every expiry of a sector outside the write set (R89 step 3). -/
def Region.allows (r : Region) (t : Nat) : Bool := r.reads.all fun e => r.sectors.contains e.sector || decide (t < e.expiry)

/-- A load of the region, or a result of one of its instructions, has not returned. -/
def Crew.regionBusy (c : Crew) (m : Lanes) : Bool :=
  c.ops.any fun o => (decide (o.kind = .load) && o.accs.any fun a => hasLane (o.bad &&& m) a.lane && decide (a.stage < 2))
    || (decide (o.kind = .longLat) && decide (o.lanes &&& m ≠ 0))

/-- An outermost COMMIT has succeeded with T: the `.l` bytes are written and the members go on (R278). -/
def State.commitDone (s : State) (k lane t : Nat) : State :=
  let c := s.crew k
  match c.regionOf lane with
  | none => s
  | some r =>
    let m := c.members lane
    let crew := (c.thread lane).specCrew
    (s.commitSlices r).modCrew k fun c =>
      let c := if crew then { c with region := none } else c
      c.mapLanes m fun _ th =>
        let th := { th with spec := th.spec &&& 0x40000000#32, region := none, ckpt := none,
                            wctlast := max th.wctlast t }
        match th.blocked with
        | some b => if b.kind = .commit then th.unblock else th
        | none => th

/-- The outermost COMMIT of a region begins: with no `.g` write set it ends at once, else the lock requests leave. -/
def State.commitBegin (s : State) (k lane : Nat) : State :=
  match (s.crew k).regionOf lane with
  | none => s
  | some r =>
    if !r.sectors.isEmpty then s.modCrew k fun c => c.putRegion lane { r with asked := 1, answers := [] }
    else if r.allows s.now then s.commitDone k lane s.now
    else s.beginAbort k lane 2 0 0 0 none

def execCommit (i : XF) (s : State) : Out :=
  guarded s (Instr.commit i).shape i fun x c act =>
    let out := laneSet fun l => hasLane act l && !(c.thread l).specAct
    let inner := laneSet fun l => hasLane act l && decide (1 < (c.thread l).specDepth)
    let outer := act &&& ~~~inner
    if out ≠ 0 then .error (illegal illUse out)
    else if c.regionBusy (c.allMembers outer) || c.openChecks act then .error .hold
    else
      let s := (s.setPc x (x.lanes &&& ~~~outer) x.next).modCrew x.crew fun c =>
        c.mapLanes inner fun _ t => { t with spec := withDepth t.spec (t.specDepth - 1) }
      let s := s.waitFor x outer fun _ => { kind := .commit, lanes := outer }
      let heads := (lanesOf outer).filter fun l => decide (lowLane (c.members l &&& outer) = some l)
      .ok (heads.foldl (fun s l => s.commitBegin x.crew l) s)

/-- COMMIT_LOCK_REQUEST (R89 step 1): the home of the write set's sector `k` locks it and gives its candidate, or answers BUSY. -/
def execCommitLockRequest (crew lane k : Nat) (s : State) : Out :=
  let c := s.crew crew
  match c.regionOf lane with
  | none => .next s
  | some r =>
    match r.sectors[k]? with
    | none => .next s
    | some sec =>
      let put := fun (s : State) (a : LockAns) => s.modCrew crew fun c => c.putRegion lane { r with answers := r.answers ++ [a] }
      if r.asked = 0 ∨ r.decided.isSome ∨ r.abort.isSome ∨ r.answers.any (fun a => decide (a.sector = sec)) ∨ c.frozen then .next s
      else if s.locked sec then .next (put s ⟨sec, 0, true⟩)
      else if s.onTheWay (coreOf crew) (s.crewPart crew) sec (fun _ _ _ => true) true ∨ 2048 ≤ s.pendCount (homeDie (sec * 64)) then .next s
      else if !s.inGrants (s.crewPart crew) (sec * 64) then .next (s.freezeCrew crew)
      else
        let s := s.residentL2 (s.crewPart crew) sec
        let prev := (s.pendOf sec).foldl (fun m p => max m p.wct) 0
        let w := State.wctOf (s.leaseOf sec) s.now (s.holderOf crew) prev
        let s := { s with coh := { s.coh with locks := s.coh.locks ++ [⟨sec, crew, c.lockName lane⟩] } }
        .next (put s ⟨sec, w, false⟩)

/-- COMMIT_DECIDE (R89 steps 2 and 3, R96): every home has answered; T is fixed, or the COMMIT fails. On success the holder's own copies
take the buffered bytes. -/
def execCommitDecide (crew lane : Nat) (s : State) : Out :=
  let c := s.crew crew
  match c.regionOf lane with
  | none => .next s
  | some r =>
    if r.asked = 0 ∨ r.decided.isSome ∨ r.abort.isSome ∨ r.answers.length < r.sectors.length then .next s
    else
      let t := r.answers.foldl (fun m a => max m a.cand) 0
      if r.answers.any (·.busy) || !r.allows t then .next (s.beginAbort crew lane 2 0 0 0 none)
      else
        let core := coreOf crew
        let prt := s.crewPart crew
        let s := s.passL1 core prt (r.sectors.flatMap fun sec =>
          match s.l1Copy core prt sec with
          | some (_, l) => (r.ssb.filter fun e => decide (sectorOf e.key = sec)).map fun e =>
              (e.key, mergeNib (State.getByte l.data (e.key % 64)) e.val e.nib)
          | none => [])
        .next (s.modCrew crew fun c => c.putRegion lane { r with decided := some t })

/-- COMMIT_DECISION_AT_HOME (R89 step 4, R90): the home of sector `k` appends the stores with T, or only releases its lock; with the last of
them a COMMIT that succeeded completes. -/
def execCommitDecisionAtHome (crew lane k : Nat) (s : State) : Out :=
  let c := s.crew crew
  match c.regionOf lane with
  | none => .next s
  | some r =>
    match r.sectors[k]? with
    | none => .next s
    | some sec =>
      match r.decided with
      | some t =>
        if bitOf r.told k then .next s
        else
          let told := Nat.lor r.told (2 ^ k)
          let s := (s.tellHome crew lane r t sec).modCrew crew fun c => c.putRegion lane { r with told := told }
          .next (if (List.range r.sectors.length).all (bitOf told) then s.commitDone crew lane t else s)
      | none => if r.abort.isSome then .next (s.dropLock crew (c.lockName lane) sec) else .next s

/-! ## ABORT (R279) -/

def execAbort (i : XF) (s : State) : Out :=
  guarded s (Instr.abort i).shape i fun x c act =>
    let out := laneSet fun l => hasLane act l && !(c.thread l).specAct
    if out ≠ 0 then .error (illegal illUse out)
    else .ok ((lanesOf act).foldl (fun s l => s.beginAbort x.crew l 1 (i.w2.toNat % 256) 0 0 none) (s.setPc x (x.lanes &&& ~~~act) x.next))

/-- REGION_ABORT (R279, R280, R370): once the region's loads have returned, its buffer and read set go, the checkpoint comes back and the
threads stand at the abort target; NEST and UNSUPPORTED then raise SPEC there, and a trap that is not suppressed is taken there. -/
def execRegionAbort (crew lane : Nat) (s : State) : Out :=
  let c := s.crew crew
  match c.regionOf lane with
  | none => .next s
  | some r =>
    match r.abort with
    | none => .next s
    | some (code, user, tcls, detail) =>
      let m := c.members lane
      if c.regionBusy m then .next s
      else
        let s := s.dropLocks crew (c.lockName lane)
        let whole := (c.thread lane).specCrew
        .next (s.modCrew crew fun c =>
          let c := if whole then { c with region := none } else c
          c.mapLanes m fun l t =>
            let k := t.ckpt.getD { n := 0, v := [], p := t.p, target := t.pc }
            let t := t.restore k
            { t with spec := abortSpec t.spec code user tcls detail, region := none, ckpt := none, blocked := none, pc := k.target,
                     specTrap := if code = 4 ∨ code = 7 then some (clsSpec, code, k.target)
                       else if hasLane r.trapLanes l then r.trap else t.specTrap })

end Sys2Proof.Machine
end

