-- ==== Sys2Proof/Machine/Dispatch.lean ====
section
/-! DEFINITION. Dispatch.lean: one arm per row of the opcode table. -/

namespace Sys2Proof.Machine

def exec (i : Instr) (s : State) : Host.Outcome State Fault Refusal :=
  match i with
  | .nop => Sys2Proof.Machine.execNop s
  | .nopX x => Sys2Proof.Machine.execNopX x s
  | .iadd d a b => Sys2Proof.Machine.execIadd d a b s
  | .iaddX x => Sys2Proof.Machine.execIaddX x s
  | .isub d a b => Sys2Proof.Machine.execIsub d a b s
  | .isubX x => Sys2Proof.Machine.execIsubX x s
  | .imul d a b => Sys2Proof.Machine.execImul d a b s
  | .imulX x => Sys2Proof.Machine.execImulX x s
  | .and d a b => Sys2Proof.Machine.execAnd d a b s
  | .andX x => Sys2Proof.Machine.execAndX x s
  | .or d a b => Sys2Proof.Machine.execOr d a b s
  | .orX x => Sys2Proof.Machine.execOrX x s
  | .xor d a b => Sys2Proof.Machine.execXor d a b s
  | .xorX x => Sys2Proof.Machine.execXorX x s
  | .shl d a b => Sys2Proof.Machine.execShl d a b s
  | .shlX x => Sys2Proof.Machine.execShlX x s
  | .shr d a b => Sys2Proof.Machine.execShr d a b s
  | .shrX x => Sys2Proof.Machine.execShrX x s
  | .sra d a b => Sys2Proof.Machine.execSra d a b s
  | .sraX x => Sys2Proof.Machine.execSraX x s
  | .iaddImm d a b => Sys2Proof.Machine.execIaddImm d a b s
  | .iaddImmX x => Sys2Proof.Machine.execIaddImmX x s
  | .mov d a => Sys2Proof.Machine.execMov d a s
  | .movX x => Sys2Proof.Machine.execMovX x s
  | .movi d imm => Sys2Proof.Machine.execMovi d imm s
  | .moviX x => Sys2Proof.Machine.execMoviX x s
  | .moviB64 d lit => Sys2Proof.Machine.execMoviB64 d lit s
  | .moviB64X x lit => Sys2Proof.Machine.execMoviB64X x lit s
  | .fadd d a b => Sys2Proof.Machine.execFadd d a b s
  | .faddX x => Sys2Proof.Machine.execFaddX x s
  | .fmul d a b => Sys2Proof.Machine.execFmul d a b s
  | .fmulX x => Sys2Proof.Machine.execFmulX x s
  | .ffma d a b => Sys2Proof.Machine.execFfma d a b s
  | .ffmaX x => Sys2Proof.Machine.execFfmaX x s
  | .fsub d a b => Sys2Proof.Machine.execFsub d a b s
  | .fsubX x => Sys2Proof.Machine.execFsubX x s
  | .ldCB32 d a b => Sys2Proof.Machine.execLdCB32 d a b s
  | .ldCB32X x => Sys2Proof.Machine.execLdCB32X x s
  | .stCB32 d a b => Sys2Proof.Machine.execStCB32 d a b s
  | .stCB32X x => Sys2Proof.Machine.execStCB32X x s
  | .ldGB32 d a b => Sys2Proof.Machine.execLdGB32 d a b s
  | .ldGB32X x => Sys2Proof.Machine.execLdGB32X x s
  | .stGB32 d a b => Sys2Proof.Machine.execStGB32 d a b s
  | .stGB32X x => Sys2Proof.Machine.execStGB32X x s
  | .bra off => Sys2Proof.Machine.execBra off s
  | .braX x => Sys2Proof.Machine.execBraX x s
  | .brc k neg off => Sys2Proof.Machine.execBrc k neg off s
  | .brcX x => Sys2Proof.Machine.execBrcX x s
  | .loop m off => Sys2Proof.Machine.execLoop m off s
  | .loopX x => Sys2Proof.Machine.execLoopX x s
  | .endl k neg cnt => Sys2Proof.Machine.execEndl k neg cnt s
  | .join off => Sys2Proof.Machine.execJoin off s
  | .region => Sys2Proof.Machine.execRegion s
  | .sign cv => Sys2Proof.Machine.execSign cv s
  | .signX x => Sys2Proof.Machine.execSignX x s
  | .next d => Sys2Proof.Machine.execNext d s
  | .exit => Sys2Proof.Machine.execExit s
  | .exitX x => Sys2Proof.Machine.execExitX x s
  | .rep count sd sa sb sc => Sys2Proof.Machine.execRep count sd sa sb sc s
  | .repX count sd sa sb sc => Sys2Proof.Machine.execRepX count sd sa sb sc s
  | .fence scope => Sys2Proof.Machine.execFence scope s
  | .fenceX x => Sys2Proof.Machine.execFenceX x s
  | .imulh x => Sys2Proof.Machine.execImulh x s
  | .imad x => Sys2Proof.Machine.execImad x s
  | .idiv x => Sys2Proof.Machine.execIdiv x s
  | .irem x => Sys2Proof.Machine.execIrem x s
  | .imin x => Sys2Proof.Machine.execImin x s
  | .imax x => Sys2Proof.Machine.execImax x s
  | .iabs x => Sys2Proof.Machine.execIabs x s
  | .ineg x => Sys2Proof.Machine.execIneg x s
  | .andn x => Sys2Proof.Machine.execAndn x s
  | .not x => Sys2Proof.Machine.execNot x s
  | .rotl x => Sys2Proof.Machine.execRotl x s
  | .clz x => Sys2Proof.Machine.execClz x s
  | .popc x => Sys2Proof.Machine.execPopc x s
  | .brev x => Sys2Proof.Machine.execBrev x s
  | .bfx x => Sys2Proof.Machine.execBfx x s
  | .bfi x => Sys2Proof.Machine.execBfi x s
  | .sel x => Sys2Proof.Machine.execSel x s
  | .icmp x => Sys2Proof.Machine.execIcmp x s
  | .lea x => Sys2Proof.Machine.execLea x s
  | .idot4 x => Sys2Proof.Machine.execIdot4 x s
  | .pand x => Sys2Proof.Machine.execPand x s
  | .por x => Sys2Proof.Machine.execPor x s
  | .pxor x => Sys2Proof.Machine.execPxor x s
  | .pnot x => Sys2Proof.Machine.execPnot x s
  | .pmov x => Sys2Proof.Machine.execPmov x s
  | .fmin x => Sys2Proof.Machine.execFmin x s
  | .fmax x => Sys2Proof.Machine.execFmax x s
  | .fabs x => Sys2Proof.Machine.execFabs x s
  | .fneg x => Sys2Proof.Machine.execFneg x s
  | .fcmp x => Sys2Proof.Machine.execFcmp x s
  | .fclass x => Sys2Proof.Machine.execFclass x s
  | .frnd x => Sys2Proof.Machine.execFrnd x s
  | .fcvt x => Sys2Proof.Machine.execFcvt x s
  | .frcp x => Sys2Proof.Machine.execFrcp x s
  | .frsq x => Sys2Proof.Machine.execFrsq x s
  | .fsqrt x => Sys2Proof.Machine.execFsqrt x s
  | .fexp2 x => Sys2Proof.Machine.execFexp2 x s
  | .flog2 x => Sys2Proof.Machine.execFlog2 x s
  | .fsin x => Sys2Proof.Machine.execFsin x s
  | .fcos x => Sys2Proof.Machine.execFcos x s
  | .ftanh x => Sys2Proof.Machine.execFtanh x s
  | .qnt x => Sys2Proof.Machine.execQnt x s
  | .dqnt x => Sys2Proof.Machine.execDqnt x s
  | .cbld x => Sys2Proof.Machine.execCbld x s
  | .ctld x => Sys2Proof.Machine.execCtld x s
  | .pack x => Sys2Proof.Machine.execPack x s
  | .unpk x => Sys2Proof.Machine.execUnpk x s
  | .jtab x => Sys2Proof.Machine.execJtab x s
  | .call x => Sys2Proof.Machine.execCall x s
  | .ret x => Sys2Proof.Machine.execRet x s
  | .tkill x => Sys2Proof.Machine.execTkill x s
  | .yield x => Sys2Proof.Machine.execYield x s
  | .tryRegion x => Sys2Proof.Machine.execTryRegion x s
  | .commit x => Sys2Proof.Machine.execCommit x s
  | .abort x => Sys2Proof.Machine.execAbort x s
  | .trap x => Sys2Proof.Machine.execTrap x s
  | .tret x => Sys2Proof.Machine.execTret x s
  | .bkpt x => Sys2Proof.Machine.execBkpt x s
  | .ld x => Sys2Proof.Machine.execLd x s
  | .st x => Sys2Proof.Machine.execSt x s
  | .ldfe x => Sys2Proof.Machine.execLdfe x s
  | .stfe x => Sys2Proof.Machine.execStfe x s
  | .feset x => Sys2Proof.Machine.execFeset x s
  | .feclr x => Sys2Proof.Machine.execFeclr x s
  | .pref x => Sys2Proof.Machine.execPref x s
  | .atom x => Sys2Proof.Machine.execAtom x s
  | .cas x => Sys2Proof.Machine.execCas x s
  | .fatom x => Sys2Proof.Machine.execFatom x s
  | .sdrain x => Sys2Proof.Machine.execSdrain x s
  | .waitad x => Sys2Proof.Machine.execWaitad x s
  | .waitc x => Sys2Proof.Machine.execWaitc x s
  | .bar x => Sys2Proof.Machine.execBar x s
  | .barinit x => Sys2Proof.Machine.execBarinit x s
  | .barkill x => Sys2Proof.Machine.execBarkill x s
  | .barkillAb x => Sys2Proof.Machine.execBarkillAb x s
  | .abinit x => Sys2Proof.Machine.execAbinit x s
  | .abwait x => Sys2Proof.Machine.execAbwait x s
  | .abtest x => Sys2Proof.Machine.execAbtest x s
  | .shf x => Sys2Proof.Machine.execShf x s
  | .vote x => Sys2Proof.Machine.execVote x s
  | .ballot x => Sys2Proof.Machine.execBallot x s
  | .redux x => Sys2Proof.Machine.execRedux x s
  | .copy x => Sys2Proof.Machine.execCopy x s
  | .chain x => Sys2Proof.Machine.execChain x s
  | .gather x => Sys2Proof.Machine.execGather x s
  | .qbind x => Sys2Proof.Machine.execQbind x s
  | .qunb x => Sys2Proof.Machine.execQunb x s
  | .qflush x => Sys2Proof.Machine.execQflush x s
  | .panrsv x lit => Sys2Proof.Machine.execPanrsv x lit s
  | .panput x lit => Sys2Proof.Machine.execPanput x lit s
  | .panrel x => Sys2Proof.Machine.execPanrel x s
  | .panqry x => Sys2Proof.Machine.execPanqry x s
  | .mldb x => Sys2Proof.Machine.execMldb x s
  | .mma x => Sys2Proof.Machine.execMma x s
  | .mmaw x => Sys2Proof.Machine.execMmaw x s
  | .mzero x => Sys2Proof.Machine.execMzero x s
  | .msta x => Sys2Proof.Machine.execMsta x s
  | .mlda x => Sys2Proof.Machine.execMlda x s
  | .scac x => Sys2Proof.Machine.execScac x s
  | .cvset x => Sys2Proof.Machine.execCvset x s
  | .mstat x => Sys2Proof.Machine.execMstat x s
  | .csrr x => Sys2Proof.Machine.execCsrr x s
  | .csrw x => Sys2Proof.Machine.execCsrw x s
  | .csrs x => Sys2Proof.Machine.execCsrs x s
  | .csrc x => Sys2Proof.Machine.execCsrc x s
  | .mode x => Sys2Proof.Machine.execMode x s
  | .time x => Sys2Proof.Machine.execTime x s
  | .enrg x => Sys2Proof.Machine.execEnrg x s
  | .quote x => Sys2Proof.Machine.execQuote x s
  | .accept x => Sys2Proof.Machine.execAccept x s
  | .decline x => Sys2Proof.Machine.execDecline x s
  | .sleep x => Sys2Proof.Machine.execSleep x s
  | .blst x => Sys2Proof.Machine.execBlst x s
  | .halt x => Sys2Proof.Machine.execHalt x s
  | .walkRequest die asid va kind who => Sys2Proof.Machine.execWalkRequest die asid va kind who s
  | .walkEntryRead die walk => Sys2Proof.Machine.execWalkEntryRead die walk s
  | .tlbParityRefill cluster asid va => Sys2Proof.Machine.execTlbParityRefill cluster asid va s
  | .invalidatePage port fn vpn => Sys2Proof.Machine.execInvalidatePage port fn vpn s
  | .invalidateAsid port fn => Sys2Proof.Machine.execInvalidateAsid port fn s
  | .invalidateAllAsids port fn => Sys2Proof.Machine.execInvalidateAllAsids port fn s
  | .forcedInvalidation port fn kind vpn => Sys2Proof.Machine.execForcedInvalidation port fn kind vpn s
  | .invalidationComplete port fn => Sys2Proof.Machine.execInvalidationComplete port fn s
  | .fillRequest crew op k => Sys2Proof.Machine.execFillRequest crew op k s
  | .storeAtHome crew op k => Sys2Proof.Machine.execStoreAtHome crew op k s
  | .pendingStorePerformed sector => Sys2Proof.Machine.execPendingStorePerformed sector s
  | .atomicAtHome crew op k => Sys2Proof.Machine.execAtomicAtHome crew op k s
  | .storeAck crew op k => Sys2Proof.Machine.execStoreAck crew op k s
  | .portStoreReport crew op k => Sys2Proof.Machine.execPortStoreReport crew op k s
  | .stRetire crew op => Sys2Proof.Machine.execStRetire crew op s
  | .loadReturn crew op => Sys2Proof.Machine.execLoadReturn crew op s
  | .longLatencyResult crew op => Sys2Proof.Machine.execLongLatencyResult crew op s
  | .fenceRelease crew lane => Sys2Proof.Machine.execFenceRelease crew lane s
  | .ldfeRepresentation crew op k => Sys2Proof.Machine.execLdfeRepresentation crew op k s
  | .waitadReread crew lane => Sys2Proof.Machine.execWaitadReread crew lane s
  | .timeoutExpiry crew lane => Sys2Proof.Machine.execTimeoutExpiry crew lane s
  | .hostSnoopOwnership port line => Sys2Proof.Machine.execHostSnoopOwnership port line s
  | .hostSnoopData port line => Sys2Proof.Machine.execHostSnoopData port line s
  | .hostInboundWrite port fn addr data relaxed => Sys2Proof.Machine.execHostInboundWrite port fn addr data relaxed s
  | .hostInboundRead port fn addr len => Sys2Proof.Machine.execHostInboundRead port fn addr len s
  | .l2WayMaskWrite die part value => Sys2Proof.Machine.execL2WayMaskWrite die part value s
  | .l2WayReductionDone die part => Sys2Proof.Machine.execL2WayReductionDone die part s
  | .commitLockRequest crew lane k => Sys2Proof.Machine.execCommitLockRequest crew lane k s
  | .commitDecide crew lane => Sys2Proof.Machine.execCommitDecide crew lane s
  | .commitDecisionAtHome crew lane k => Sys2Proof.Machine.execCommitDecisionAtHome crew lane k s
  | .regionAbort crew lane => Sys2Proof.Machine.execRegionAbort crew lane s
  | .regionWctReport launch core => Sys2Proof.Machine.execRegionWctReport launch core s
  | .regionWctForward launch die => Sys2Proof.Machine.execRegionWctForward launch die s
  | .completionSignal producer consumer => Sys2Proof.Machine.execCompletionSignal producer consumer s
  | .hostCompletionPost launch => Sys2Proof.Machine.execHostCompletionPost launch s
  | .transferStart core ch => Sys2Proof.Machine.execTransferStart core ch s
  | .transferComplete core transfer => Sys2Proof.Machine.execTransferComplete core transfer s
  | .chunkComplete core cmd chunk => Sys2Proof.Machine.execChunkComplete core cmd chunk s
  | .homedContribution core entry => Sys2Proof.Machine.execHomedContribution core entry s
  | .chainRecordRead core ch => Sys2Proof.Machine.execChainRecordRead core ch s
  | .gatherStart die engine => Sys2Proof.Machine.execGatherStart die engine s
  | .gatherRowComplete die engine row => Sys2Proof.Machine.execGatherRowComplete die engine row s
  | .streamPrefetchRead crew port lane => Sys2Proof.Machine.execStreamPrefetchRead crew port lane s
  | .streamPushWrite crew port lane => Sys2Proof.Machine.execStreamPushWrite crew port lane s
  | .trapEntry crew lane => Sys2Proof.Machine.execTrapEntry crew lane s
  | .storeCheckFail crew op => Sys2Proof.Machine.execStoreCheckFail crew op s
  | .panrsvArrival core port slot mode ncont nchunk key durUs smod score join => Sys2Proof.Machine.execPanrsvArrival core port slot mode ncont nchunk key durUs smod score join s
  | .slotZeroingDone core slot => Sys2Proof.Machine.execSlotZeroingDone core slot s
  | .panrsvReply core idx st gen expiry => Sys2Proof.Machine.execPanrsvReply core idx st gen expiry s
  | .panputArrival core port slot gen mode off n data => Sys2Proof.Machine.execPanputArrival core port slot gen mode off n data s
  | .panputAck core idx cause => Sys2Proof.Machine.execPanputAck core idx cause s
  | .slotExpiry core slot => Sys2Proof.Machine.execSlotExpiry core slot s
  | .panResponseTimeout core idx => Sys2Proof.Machine.execPanResponseTimeout core idx s
  | .portDown port => Sys2Proof.Machine.execPortDown port s
  | .portRetrain port => Sys2Proof.Machine.execPortRetrain port s
  | .portRetrainComplete port ok => Sys2Proof.Machine.execPortRetrainComplete port ok s
  | .flitCrcFail port => Sys2Proof.Machine.execFlitCrcFail port s
  | .celoreStop port vc => Sys2Proof.Machine.execCeloreStop port vc s
  | .celoreGo port vc => Sys2Proof.Machine.execCeloreGo port vc s
  | .portTraining port pmod pport roundTrip => Sys2Proof.Machine.execPortTraining port pmod pport roundTrip s
  | .peerTableWrite port value => Sys2Proof.Machine.execPeerTableWrite port value s
  | .kernelLoad die asid record => Sys2Proof.Machine.execKernelLoad die asid record s
  | .blockStart core slot => Sys2Proof.Machine.execBlockStart core slot s
  | .dcbWrite idx value => Sys2Proof.Machine.execDcbWrite idx value s
  | .signatureCount crew idx => Sys2Proof.Machine.execSignatureCount crew idx s
  | .matrixOpStart core quad => Sys2Proof.Machine.execMatrixOpStart core quad s
  | .matrixOpComplete core quad => Sys2Proof.Machine.execMatrixOpComplete core quad s
  | .windrowDeadlineFire core entry => Sys2Proof.Machine.execWindrowDeadlineFire core entry s
  | .windrowBArrived core entry => Sys2Proof.Machine.execWindrowBArrived core entry s
  | .windrowFireComplete core entry => Sys2Proof.Machine.execWindrowFireComplete core entry s
  | .slewLimiterStep cluster => Sys2Proof.Machine.execSlewLimiterStep cluster s
  | .controlIntervalBoundary => Sys2Proof.Machine.execControlIntervalBoundary s
  | .railReachedPoint cluster => Sys2Proof.Machine.execRailReachedPoint cluster s
  | .railFault sram unit => Sys2Proof.Machine.execRailFault sram unit s
  | .budgetWindowBoundary => Sys2Proof.Machine.execBudgetWindowBoundary s
  | .telemetrySample => Sys2Proof.Machine.execTelemetrySample s
  | .eventWindowEnd unit => Sys2Proof.Machine.execEventWindowEnd unit s
  | .quoteRequest crew lane => Sys2Proof.Machine.execQuoteRequest crew lane s
  | .acceptRequest crew lane => Sys2Proof.Machine.execAcceptRequest crew lane s
  | .acceptTakesEffect => Sys2Proof.Machine.execAcceptTakesEffect s
  | .declineRequest crew lane => Sys2Proof.Machine.execDeclineRequest crew lane s
  | .launchStart launch => Sys2Proof.Machine.execLaunchStart launch s
  | .launchReplay launch cause => Sys2Proof.Machine.execLaunchReplay launch cause s
  | .breachAllowanceExpiry launch => Sys2Proof.Machine.execBreachAllowanceExpiry launch s
  | .handlerTimeout crew => Sys2Proof.Machine.execHandlerTimeout crew s
  | .queueDescriptorWrite queue value => Sys2Proof.Machine.execQueueDescriptorWrite queue value s
  | .queueProgramLoad queue => Sys2Proof.Machine.execQueueProgramLoad queue s
  | .notify port fn fq value => Sys2Proof.Machine.execNotify port fn fq value s
  | .cqack port fn fq value => Sys2Proof.Machine.execCqack port fn fq value s
  | .packetStart die core => Sys2Proof.Machine.execPacketStart die core s
  | .packetBudgetExhausted crew => Sys2Proof.Machine.execPacketBudgetExhausted crew s
  | .preemptRequest tenant part => Sys2Proof.Machine.execPreemptRequest tenant part s
  | .preemptWithdraw tenant part => Sys2Proof.Machine.execPreemptWithdraw tenant part s
  | .graceTimerExpiry tenant part => Sys2Proof.Machine.execGraceTimerExpiry tenant part s
  | .drainTimerExpiry core slot => Sys2Proof.Machine.execDrainTimerExpiry core slot s
  | .killTimerExpiry tenant part => Sys2Proof.Machine.execKillTimerExpiry tenant part s
  | .blockStopComplete core slot => Sys2Proof.Machine.execBlockStopComplete core slot s
  | .shadowExchangeDone core => Sys2Proof.Machine.execShadowExchangeDone core s
  | .tenantResume tenant part => Sys2Proof.Machine.execTenantResume tenant part s
  | .ownerByteWrite array unit idx value => Sys2Proof.Machine.execOwnerByteWrite array unit idx value s
  | .frozenContextKill launch => Sys2Proof.Machine.execFrozenContextKill launch s
  | .modulePowerControlWrite value => Sys2Proof.Machine.execModulePowerControlWrite value s
  | .rampTableWrite cluster value => Sys2Proof.Machine.execRampTableWrite cluster value s
  | .managementWrite reg a b value => Sys2Proof.Machine.execManagementWrite reg a b value s
  | .ballastEnd core quad => Sys2Proof.Machine.execBallastEnd core quad s
  | .sleepWake crew lane => Sys2Proof.Machine.execSleepWake crew lane s
  | .hostPortTraining port cxlOffered lanes => Sys2Proof.Machine.execHostPortTraining port cxlOffered lanes s
  | .functionLevelReset port fn => Sys2Proof.Machine.execFunctionLevelReset port fn s
  | .queueReset port fn value => Sys2Proof.Machine.execQueueReset port fn value s
  | .queueResetDone port fn => Sys2Proof.Machine.execQueueResetDone port fn s
  | .msixVectorUnmask port fn vec => Sys2Proof.Machine.execMsixVectorUnmask port fn vec s
  | .getVersion port => Sys2Proof.Machine.execGetVersion port s
  | .getCapabilities port => Sys2Proof.Machine.execGetCapabilities port s
  | .negotiateAlgorithms port asym hash => Sys2Proof.Machine.execNegotiateAlgorithms port asym hash s
  | .getDigests port => Sys2Proof.Machine.execGetDigests port s
  | .getCertificate port => Sys2Proof.Machine.execGetCertificate port s
  | .challenge port nonce => Sys2Proof.Machine.execChallenge port nonce s
  | .getMeasurements port index => Sys2Proof.Machine.execGetMeasurements port index s
  | .coldReset => Sys2Proof.Machine.execColdReset s
  | .warmReset => Sys2Proof.Machine.execWarmReset s
  | .powerDown => Sys2Proof.Machine.execPowerDown s
  | .storeChecksPass crew op => Sys2Proof.Machine.execStoreChecksPass crew op s
  | .invcmdRefused port fn kind => Sys2Proof.Machine.execInvcmdRefused port fn kind s
  | .ptpTimeSync sec ns sync => Sys2Proof.Machine.execPtpTimeSync sec ns sync s

end Sys2Proof.Machine
end

