-- ==== Sys2Proof/Machine/Rep.lean ====
section
/-! DEFINITION. Rep.lean: the target of a REP with its stepped fields (R201, R236). -/

namespace Sys2Proof.Machine

/-- The instruction with other register fields; an instruction that cannot repeat (R202) has none to step. -/
def withFields (i : Instr) (x : XF) : Instr :=
  match i with
  | .nopX _ => .nopX x
  | .iadd _ _ _ => .iadd x.d x.a x.b
  | .iaddX _ => .iaddX x
  | .isub _ _ _ => .isub x.d x.a x.b
  | .isubX _ => .isubX x
  | .imul _ _ _ => .imul x.d x.a x.b
  | .imulX _ => .imulX x
  | .and _ _ _ => .and x.d x.a x.b
  | .andX _ => .andX x
  | .or _ _ _ => .or x.d x.a x.b
  | .orX _ => .orX x
  | .xor _ _ _ => .xor x.d x.a x.b
  | .xorX _ => .xorX x
  | .shl _ _ _ => .shl x.d x.a x.b
  | .shlX _ => .shlX x
  | .shr _ _ _ => .shr x.d x.a x.b
  | .shrX _ => .shrX x
  | .sra _ _ _ => .sra x.d x.a x.b
  | .sraX _ => .sraX x
  | .iaddImm _ _ _ => .iaddImm x.d x.a x.b
  | .iaddImmX _ => .iaddImmX x
  | .mov _ _ => .mov x.d x.a
  | .movX _ => .movX x
  | .movi _ imm => .movi x.d imm
  | .moviX _ => .moviX x
  | .moviB64 _ lit => .moviB64 x.d lit
  | .moviB64X _ lit => .moviB64X x lit
  | .fadd _ _ _ => .fadd x.d x.a x.b
  | .faddX _ => .faddX x
  | .fmul _ _ _ => .fmul x.d x.a x.b
  | .fmulX _ => .fmulX x
  | .ffma _ _ _ => .ffma x.d x.a x.b
  | .ffmaX _ => .ffmaX x
  | .fsub _ _ _ => .fsub x.d x.a x.b
  | .fsubX _ => .fsubX x
  | .ldCB32 _ _ _ => .ldCB32 x.d x.a x.b
  | .ldCB32X _ => .ldCB32X x
  | .stCB32 _ _ _ => .stCB32 x.d x.a x.b
  | .stCB32X _ => .stCB32X x
  | .ldGB32 _ _ _ => .ldGB32 x.d x.a x.b
  | .ldGB32X _ => .ldGB32X x
  | .stGB32 _ _ _ => .stGB32 x.d x.a x.b
  | .stGB32X _ => .stGB32X x
  | .fenceX _ => .fenceX x
  | .imulh _ => .imulh x
  | .imad _ => .imad x
  | .idiv _ => .idiv x
  | .irem _ => .irem x
  | .imin _ => .imin x
  | .imax _ => .imax x
  | .iabs _ => .iabs x
  | .ineg _ => .ineg x
  | .andn _ => .andn x
  | .not _ => .not x
  | .rotl _ => .rotl x
  | .clz _ => .clz x
  | .popc _ => .popc x
  | .brev _ => .brev x
  | .bfx _ => .bfx x
  | .bfi _ => .bfi x
  | .sel _ => .sel x
  | .icmp _ => .icmp x
  | .lea _ => .lea x
  | .idot4 _ => .idot4 x
  | .pand _ => .pand x
  | .por _ => .por x
  | .pxor _ => .pxor x
  | .pnot _ => .pnot x
  | .pmov _ => .pmov x
  | .fmin _ => .fmin x
  | .fmax _ => .fmax x
  | .fabs _ => .fabs x
  | .fneg _ => .fneg x
  | .fcmp _ => .fcmp x
  | .fclass _ => .fclass x
  | .frnd _ => .frnd x
  | .fcvt _ => .fcvt x
  | .frcp _ => .frcp x
  | .frsq _ => .frsq x
  | .fsqrt _ => .fsqrt x
  | .fexp2 _ => .fexp2 x
  | .flog2 _ => .flog2 x
  | .fsin _ => .fsin x
  | .fcos _ => .fcos x
  | .ftanh _ => .ftanh x
  | .qnt _ => .qnt x
  | .dqnt _ => .dqnt x
  | .cbld _ => .cbld x
  | .ctld _ => .ctld x
  | .pack _ => .pack x
  | .unpk _ => .unpk x
  | .ld _ => .ld x
  | .st _ => .st x
  | .ldfe _ => .ldfe x
  | .stfe _ => .stfe x
  | .feset _ => .feset x
  | .feclr _ => .feclr x
  | .pref _ => .pref x
  | .atom _ => .atom x
  | .cas _ => .cas x
  | .fatom _ => .fatom x
  | .sdrain _ => .sdrain x
  | .waitad _ => .waitad x
  | .waitc _ => .waitc x
  | .bar _ => .bar x
  | .abwait _ => .abwait x
  | .abtest _ => .abtest x
  | .shf _ => .shf x
  | .vote _ => .vote x
  | .ballot _ => .ballot x
  | .redux _ => .redux x
  | .copy _ => .copy x
  | .chain _ => .chain x
  | .gather _ => .gather x
  | .qbind _ => .qbind x
  | .qunb _ => .qunb x
  | .qflush _ => .qflush x
  | .panrsv _ lit => .panrsv x lit
  | .panput _ lit => .panput x lit
  | .panrel _ => .panrel x
  | .panqry _ => .panqry x
  | .mldb _ => .mldb x
  | .mma _ => .mma x
  | .mmaw _ => .mmaw x
  | .mzero _ => .mzero x
  | .msta _ => .msta x
  | .mlda _ => .mlda x
  | .scac _ => .scac x
  | .cvset _ => .cvset x
  | .mstat _ => .mstat x
  | .csrr _ => .csrr x
  | .csrw _ => .csrw x
  | .csrs _ => .csrs x
  | .csrc _ => .csrc x
  | .time _ => .time x
  | .enrg _ => .enrg x
  | .blst _ => .blst x
  | i => i

/-- The target of a REP for the repeat that its plan names. -/
def repTarget (t : Instr) (p : RepPlan) : Instr := withFields t (stepFields t.xf p p.i)

end Sys2Proof.Machine
end

