-- ==== Sys2Proof/Machine/Sched.lean ====
section
/-! DEFINITION. Sched.lean: the choice of a crew and a group (R142, R155, R156, R235), fetching and issuing an instruction (R205,
R236), and what one step of the module does. -/

namespace Sys2Proof.Machine

/-! ## Issuing for one group -/

/-- The context in which a group issues the instruction of `n` words at its PC. -/
def groupCtx (s : State) (k : Nat) (g : Group) (n : Nat) : Ctx :=
  { crew := k, lanes := g.lanes, pc := g.pc, next := g.pc + 4 * n, fmode := (s.crew k).fmode }

/-- FMODE as a REP captured it in the lowest lane's REPCNT (R182, R237). -/
def repFmode (c : Crew) (m : Lanes) : BitVec 13 :=
  match lowLane m with
  | some l => (c.thread l).repcnt.extractLsb' 6 13
  | none => c.fmode

/-- Every issue of a group counts towards the hold of its threads' open stores (R261), and towards what they still have to yield (R235). -/
def countSkid (c : Crew) (m : Lanes) : Crew := c.mapLanes m fun _ t => { t with skid := t.skid.map fun p => (p.1, p.2 + 1), yield := t.yield - 1 }

/-- A queue program reaches an instruction that its profile does not hold, or a kernel one that only the queue profile holds (R330). -/
def outOfProfile (s : State) (k : Nat) (i : Instr) : Bool := if (s.crew k).queue.isSome then !queuePermits i else queueOnly i

/-- The target of the REP at hand runs under the REP's context. -/
def runRep (s : State) (x : Ctx) (code : List Word) (p : RepPlan) : Out :=
  match fetch code x.next with
  | .bad k => .next (settle s x x.lanes (.error (illegal k x.lanes)))
  | .ok t m =>
    if outOfProfile s x.crew t then .next (settle s x x.lanes (.error (illegal illUse x.lanes)))
    else exec (repTarget t p)
      { s with cur := some { x with next := x.next + 4 * m, rep := some (p.i, p.count), fmode := repFmode (s.crew x.crew) x.lanes } }

/-- A group issues what stands at its PC. -/
def runGroup (s : State) (k : Nat) (code : List Word) (g : Group) : Out :=
  let s := (s.fetched k g.pc).modCrew k fun c => countSkid (c.release g) g.lanes
  match fetch code g.pc with
  | .bad d =>
    let x := groupCtx s k g 0
    .next (settle { s with cur := some x, held := false } x g.lanes (.error (illegal d g.lanes)))
  | .ok i n =>
    let x := groupCtx s k g n
    if outOfProfile s k i then .next (settle { s with cur := some x, held := false } x g.lanes (.error (illegal illUse g.lanes)))
    else match exec i { s with cur := some x, held := false, rep := none } with
    | .next s' =>
      match s'.rep with
      | none => .next s'
      | some p => runRep s' x code p
    | o => o

/-- A thread's store has not completed its checks and this issue would be the thread's sixteenth after it (R261). -/
def skidHolds (c : Crew) (m : Lanes) : Bool := (lanesOf m).any fun l => (c.thread l).skid.any fun p => decide (15 ≤ p.2)

/-- The most that a group's threads still have to yield (R235), and the largest of their starve counts (R142). -/
def yieldOf (c : Crew) (g : Group) : Nat := (lanesOf g.lanes).foldl (fun m l => max m (c.thread l).yield) 0
def starveOf (c : Crew) (g : Group) : Nat := (lanesOf g.lanes).foldl (fun m l => max m (c.thread l).starve) 0

/-- What issuing a group would give; none when it is not ready. A trap that waits for it comes first (R371). -/
def tryGroup (s : State) (k : Nat) (code : List Word) (gs : List Group) (allowYield : Bool) (g : Group) : Option Out :=
  let c := s.crew k
  match s.takeWaiting k g with
  | some s' => some (.next s')
  | none =>
    let owed := (s.waitingTraps k g.lanes).any fun w => decide (w.cls ≠ clsPreempt)
    if (owed && !c.inHandler g.lanes) || c.mustWait code gs g || (!allowYield && decide (0 < yieldOf c g)) || skidHolds c g.lanes then
      none
    else match runGroup s k code g with
      | .next s' => if s'.held && s'.events.isEmpty then none else some (.next s')
      | o => some o

/-! ## Choosing a group and a crew -/

/-- Puts a group before the first that comes after it. -/
def insertBy {α : Type} (before : α → α → Bool) (g : α) : List α → List α
  | [] => [g]
  | h :: rest => if before g h then g :: h :: rest else h :: insertBy before g rest

def sortBy {α : Type} (before : α → α → Bool) (gs : List α) : List α := gs.foldl (fun l g => insertBy before g l) []

/-- R142: groups starved for 32 opportunities first, the largest count before the others, then the lowest PC. -/
def groupBefore (c : Crew) (a b : Group) : Bool :=
  let sa := starveOf c a
  let sb := starveOf c b
  if 32 ≤ sa ∨ 32 ≤ sb then decide (sb < sa) || (decide (sa = sb) && decide (a.pc < b.pc)) else decide (a.pc < b.pc)

/-- A crew's groups may issue: the crew is neither halted nor frozen and its block is not stopping (R380). -/
def mayIssue (s : State) (c : Crew) : Bool :=
  !c.halted && !c.frozen && (c.queue.isSome || decide ((s.block c.block).stop < 3)) && decide (c.live ≠ 0)

/-- The groups of a crew that are ready, in the order of R142, each with what its issue would give. -/
def readyGroups (s : State) (k : Nat) (allowYield : Bool) : List (Group × Out) :=
  let c := s.crew k
  if !mayIssue s c then []
  else
    let code := s.codeOf k
    let gs := c.groups code
    (sortBy (groupBefore c) gs).filterMap fun g => (tryGroup s k code gs allowYield g).map fun o => (g, o)

/-- What an opportunity of a crew leaves behind: the issue count, which a trap taken before an issue does not raise, the starve counts and the yields of
the other threads (R142, R235, R357). -/
def noteIssue (s : State) (k : Nat) (g : Group) (others : List Group) (trap : Bool) : State :=
  match SMap.find? s.ex.crews k with
  | none => s
  | some c =>
    let rest := others.foldl (fun m o => m ||| o.lanes) 0 &&& ~~~g.lanes
    let c := c.mapLanes (~~~g.lanes) fun l t =>
      { t with
        starve := if hasLane rest l ∨ 0 < t.yield then t.starve + 1 else t.starve
        yield := t.yield - 1 }
    let c := c.mapLanes g.lanes fun _ t => { t with starve := 0 }
    s.setCrew k { c with issues := c.issues + (if trap then 0 else 1), age := 0 }

/-- R155: the highest class, then the longest wait, then round robin after the slot chosen last. -/
def crewBefore (s : State) (quad : Nat) (a b : Nat) : Bool :=
  let ca := s.crew a
  let cb := s.crew b
  let pos := fun k : Nat => (slotOf k + 15 - (s.quad quad).last) % 16
  if ca.prio ≠ cb.prio then decide (cb.prio < ca.prio)
  else if ca.age ≠ cb.age then decide (cb.age < ca.age)
  else decide (pos a < pos b)

/-- One issue of a quadrant: none when no crew of it has a ready group. -/
def issueQuad (s : State) (quad : Nat) (allowYield : Bool) : Option Out :=
  let crews := (s.residents quad).map (·.1)
  let ready := (crews.map fun k => (k, readyGroups s k allowYield)).filter fun p => !p.2.isEmpty
  match (sortBy (crewBefore s quad) (ready.map (·.1))).head? with
  | none => none
  | some k =>
    match (ready.find? fun p => decide (p.1 = k)).bind (·.2.head?) with
    | none => none
    | some (g, o) =>
      let rest := ((ready.find? fun p => decide (p.1 = k)).map (·.2.map (·.1))).getD []
      let c := s.crew k
      if c.queue.isSome && decide (4096 ≤ c.issues) then some (exec (.packetBudgetExhausted k) s)
      else
        match o with
        | .next s' =>
          if s'.held then some o else
          let s' := noteIssue s' k g rest (s.takeWaiting k g).isSome
          let s' := (ready.filter fun p => decide (p.1 ≠ k)).foldl (fun s p =>
            match SMap.find? s.ex.crews p.1 with
            | some c => s.setCrew p.1 { c with age := c.age + 1 }
            | none => s) s'
          some (.next { (s'.modQuad quad fun q => { q with last := slotOf k }) with rr := quad + 1 })
        | o => some o

/-- The quadrants that hold crews, from the one whose turn it is on. -/
def quadOrder (s : State) : List Nat :=
  let qs := (s.ex.crews.map fun p => quadOf p.1).eraseDups
  qs.filter (s.rr ≤ ·) ++ qs.filter (· < s.rr)

/-- The first result of a list. -/
def firstOf {α β : Type} (f : α → Option β) : List α → Option β
  | [] => none
  | a :: rest =>
    match f a with
    | some b => some b
    | none => firstOf f rest

/-- One issue of the module; a group that yields issues only where no other group of its quadrant is ready (R235). -/
def issueModule (s : State) : Option Out := firstOf (fun q => (issueQuad s q false).orElse fun _ => issueQuad s q true) (quadOrder s)

/-- A row's conditions hold: it changes something. -/
def takesPlace (s : State) (e : Instr) : Bool :=
  match exec e s with
  | .next t => decide (t ≠ s)
  | _ => true

/-- One internal event, or none. -/
def eventModule (s : State) : Option Out := if s.pl.mgmt.step < 7 then none else ((autoOrder s).find? (takesPlace s)).map fun e => exec e s

/-- Module time, a number of 64 bits, goes on at the rate that slewing to PTP time gives it (R5), and every pending store whose WCT it reaches becomes
performed (R66), the receive buffers drain (R132), and blocks whose threads all wait at NEXT step on; the counter numbers the steps. -/
def tick (s : State) : State :=
  ({ s with now := maxTime (s.now + 1 + Config.freeTick s.ctr s.pl.mgmt.ptpErr), ctr := s.ctr + 1, turn := !s.turn, held := false } : State).performAllDue.drainBuffers.stepBlocks

/-- Time goes on after what a step did. -/
def thenTick : Out → Out
  | .next s => .next (tick s)
  | o => o

/-- Bring-up has not come to its end and the row is neither the arrival of auxiliary power nor another firmware image (R423, R425): nothing in the
module can take it. -/
def unpowered (s : State) : Instr → Bool
  | .coldReset => false
  | .managementWrite 28 _ _ _ => false
  | _ => decide (s.pl.mgmt.step < 7)

/-- What one step does: the oldest queued event; else an issue or an internal event, in turn; else only time goes on. -/
def stepModule (s : State) : Out :=
  match s.events with
  | e :: rest => thenTick (if unpowered s e then .next { s with events := rest } else exec e { s with events := rest })
  | [] =>
    thenTick
      (if s.turn then
        match eventModule s with
        | some o => o
        | none => (issueModule s).getD (.next s)
      else
        match issueModule s with
        | some o => o
        | none => (eventModule s).getD (.next s))

/-! ## A program from outside -/

/-- The state with one block of one crew of launch 1 on core 0, quadrant 0, whose code image is `code`: what acceptance and
BLOCK_START leave, on a partition 0 that owns the quadrant. -/
def withCode (s : State) (code : List Word) : State :=
  let q : Quote :=
    { qid := 1, status := 0x01, code := code, nregs := 256, slice := 2048, scratch := 524288, persist := true, quads := [0], parts := 1,
      nquads := 1, slots := [{ core := 0, slot := 0, block := 0, tiles := [⟨0, 0, 0, 0⟩], busy := true }], ntrap := 65535 }
  let c : Crew :=
    { launch := some 1, block := 0, nregs := 256, threads := State.startThreads 0, slice := 0x08000000#32 }
  let b : Block := { launch := 1, crews := [0], persist := true, scrLimit := 0x80000#32 }
  { s with
    events := [], turn := false, rr := 0, cur := none, rep := none
    ex := { s.ex with crews := [(0, c)], blocks := SMap.put s.ex.blocks 0 b, quads := SMap.put s.ex.quads 0 { owner := 0x80#8 } }
    fr := { s.fr with launches := SMap.put s.fr.launches 1 { q := q, dcb := 1, phase := 1 }, quotes := SMap.put s.fr.quotes 1 q } }

end Sys2Proof.Machine
end

