-- ==== Sys2Proof/Machine/Step.lean ====
section
/-! DEFINITION. Step.lean: the step of the machine and the placing of one instruction where it fetches next. -/

namespace Sys2Proof.Machine

/-- One step of the module. -/
def step (s : State) : Host.Outcome State Fault Refusal := stepModule s

/-- The state whose next step issues the instruction of bits `w`, its words in the hardware's order and zeros after it. -/
def State.withFetchWord (s : State) (nbits w : Nat) : State := withCode s (wordsOfBytes (leBytes 20 (w % 2 ^ nbits)))

end Sys2Proof.Machine
end

