-- ==== Sys2Proof/Safety.lean ====
section
/-! DEFINITION. Safety.lean: the words in which statements speak: when a group can issue, what an issue leaves as it was, and what the
crew of the issue looks like after it. -/

namespace Sys2Proof.Safety

open Machine

/-! ## When an issue completes -/

/-- The lanes that execute (R193). -/
def act (s : State) (x : Ctx) (f : XF) : Lanes := (s.crew x.crew).active x.lanes f

/-- Nothing that comes before the instruction's own effect stops the issue: every register is below N, every source FULL and not
poisoned, every destination FULL, every queue port usable (R139, R145, R146, R197, R371). -/
def gateOk (c : Crew) (sh : Shape) (f : XF) (m : Lanes) : Bool :=
  match gate c sh f m (c.active m f) with
  | .ok _ => true
  | .error _ => false

/-- The issuing group is that of `x`, and it passes the gate. -/
def may (s : State) (x : Ctx) (sh : Shape) (f : XF) : Bool := decide (s.cur = some x) && gateOk (s.crew x.crew) sh f x.lanes

/-- No lane that executes is inside a speculative region (R277). -/
def calm (s : State) (x : Ctx) (f : XF) : Bool := (lanesOf (act s x f)).all fun l => !((s.crew x.crew).thread l).specAct

/-- The group passes the gate; an instruction that uses a queue port runs outside speculative regions. -/
def ready (s : State) (x : Ctx) (sh : Shape) (f : XF) : Bool := may s x sh f && (!usesPort sh f || calm s x f)

/-- The group passes the gate outside speculative regions. -/
def readyOut (s : State) (x : Ctx) (sh : Shape) (f : XF) : Bool := may s x sh f && calm s x f

/-! ## What an issue leaves as it was -/

/-- From `s` to `t` the issue ended and nothing changed but crew `k`: every byte of memory, every other crew, and everything else in
the state is as it was. -/
structure CrewOnly (s t : State) (k : Nat) : Prop where
  mem    : ∀ key, t.mem.byte key = s.mem.byte key
  others : ∀ j, j ≠ k → SMap.find? t.ex.crews j = SMap.find? s.ex.crews j
  rest   : t = { s with cur := none, rep := none, ex := { s.ex with crews := t.ex.crews } }

/-- A lane goes on after the instruction: at the PC that follows, or inside a REP at the next repeat (R236). -/
def goOn (x : Ctx) (t : Thread) : Thread :=
  match x.rep with
  | some (i, n) =>
    if i < n then { t with repcnt := State.stepRepcnt t.repcnt (i + 1) } else { t with pc := x.next, repcnt := 0 }
  | none => { t with pc := x.next }

/-- Every lane of the group goes on. -/
def goOnAll (x : Ctx) (c : Crew) : Crew := c.mapLanes x.lanes fun _ t => goOn x t

/-- A v register, or a w register when `w`, takes a value. -/
def wrN (t : Thread) (w : Bool) (n v : Nat) : Thread :=
  if w then (t.wr (2 * n) (BitVec.ofNat 32 v)).wr (2 * n + 1) (BitVec.ofNat 32 (v / 2 ^ 32)) else t.wr n (BitVec.ofNat 32 v)

/-- An s register, or an s pair when `w`, takes a value. -/
def wrSN (c : Crew) (h w : Bool) (n v : Nat) : Crew :=
  if w then (c.wrS h (2 * n) (BitVec.ofNat 32 v)).wrS h (2 * n + 1) (BitVec.ofNat 32 (v / 2 ^ 32)) else c.wrS h n (BitVec.ofNat 32 v)

/-- Crew `c` after an instruction whose D takes `val l` in every active lane `l`. With no active lane nothing but the PC changes (R193).
A store-stream port takes one push for each active lane (R111). A long-latency result, or one computed from popped elements, is written
by a later event, and D is EMPTY until then (R145). An s register takes the value of the lowest active lane (R196). Every other register
of every lane is as it was. -/
def wrote (c : Crew) (x : Ctx) (sh : Shape) (f : XF) (act : Lanes) (w long : Bool) (val : Nat → Nat) : Crew :=
  let h := c.inHandler x.lanes
  goOnAll x
    (if act = 0 then c
    else match pushPort sh f with
      | some p => (c.push x.pc p act fun l => BitVec.ofNat 32 (val l)).pop (popPorts sh f) act
      | none =>
        if long || !(popPorts sh f).isEmpty then
          (c.pop (popPorts sh f) act).later h x.pc act (if long then .longLat else .pop) (dWrites f w act val) 0
        else if f.sd then wrSN c h w f.d.toNat (val ((lowLane act).getD 0))
        else c.mapLanes act fun l t => wrN t w f.d.toNat (val l))

/-- Instruction `i` with fields `f` answers a next state in which D has taken `val l` in every active lane `l` and nothing else has
changed. -/
def WritesD (s : State) (x : Ctx) (i : Instr) (f : XF) (w long : Bool) (val : Nat → Nat) : Prop :=
  ∃ t, exec i s = .next t ∧ CrewOnly s t x.crew ∧ t.crew x.crew = wrote (s.crew x.crew) x i.shape f (act s x f) w long val

/-- Instruction `i` answers a next state in which predicate D is `val l` in every active lane `l`, a popped queue port has moved on, and
nothing else has changed. -/
def WritesP (s : State) (x : Ctx) (i : Instr) (f : XF) (val : Nat → Bool) : Prop :=
  ∃ t, exec i s = .next t ∧ CrewOnly s t x.crew ∧
    t.crew x.crew = goOnAll x (Crew.mapLanes (if act s x f = 0 then s.crew x.crew else (s.crew x.crew).pop (popPorts i.shape f) (act s x f))
      (act s x f) fun l t => t.wrPred f.d.toNat (val l))

/-- Instruction or event `i` answers a next state of which `P` holds. -/
def Gives (s : State) (i : Instr) (P : State → Prop) : Prop := ∃ t, exec i s = .next t ∧ P t

/-- Instruction `i` answers a next state in which crew `x.crew` is `c` and nothing else has changed. -/
def Leaves (s : State) (x : Ctx) (i : Instr) (c : Crew) : Prop :=
  ∃ t, exec i s = .next t ∧ CrewOnly s t x.crew ∧ t.crew x.crew = c

/-- Instruction `i` answers a next state in which each active lane has ORed its flags into FFLAGS, D has taken the results, and nothing
else has changed (R180, R239): a uniform instruction computes once, in the lowest active lane, and raises its flags in every one. -/
def WritesF (s : State) (x : Ctx) (i : Instr) (f : XF) (long : Bool) (res : Nat → FlagRes) : Prop :=
  ∃ t, exec i s = .next t ∧ CrewOnly s t x.crew ∧
    t.crew x.crew = wrote (orFlags (s.crew x.crew) (act s x f) (laneFlags f.sd (act s x f) res)) x i.shape f (act s x f) false long fun l => (res l).1

/-- No active lane raises a flag that FMODE enables (R181). -/
def untrapped (s : State) (x : Ctx) (f : XF) (res : Nat → FlagRes) : Bool :=
  (lanesOf (act s x f)).all fun l => decide (laneFlags f.sd (act s x f) res l &&& fmEnables x.fmode = 0)

/-- The crew of the issue once the elements that the instruction reads from queue ports have left them (R111): the crew as it was, where it
reads none. -/
def popped (s : State) (x : Ctx) (i : Instr) (f : XF) : Crew := (s.popped x i.shape f (act s x f)).crew x.crew

/-- Instruction `i` answers a next state in which each lane `l` of the group stands at `pcOf l`, changed otherwise as `upd` says from
crew `c`; the convergence table of the crew may have changed with it, and nothing else has. -/
def MovesFrom (c : Crew) (s : State) (x : Ctx) (i : Instr) (pcOf : Nat → Nat) (upd : Nat → Thread → Thread) : Prop :=
  ∃ t, exec i s = .next t ∧ CrewOnly s t x.crew ∧ ∃ conv, t.crew x.crew =
    { c with
      conv := conv
      threads := c.threads.map fun p => (p.1, if hasLane x.lanes p.1 then { upd p.1 p.2 with pc := pcOf p.1 } else p.2) }

/-- The same from the crew as it was. -/
def Moves (s : State) (x : Ctx) (i : Instr) (pcOf : Nat → Nat) (upd : Nat → Thread → Thread) : Prop := MovesFrom (s.crew x.crew) s x i pcOf upd

/-- No protected pair of the group would part (R154, R403): its two lanes go to one PC. -/
def together (s : State) (x : Ctx) (pcOf : Nat → Nat) : Bool := !(s.protectedCrew x.crew && pairDiffers x.lanes pcOf)

/-- The 32-bit number in v register `n` of lane `l`. -/
def v (s : State) (x : Ctx) (n : BitVec 8) (l : Nat) : Nat := (((s.crew x.crew).thread l).rd n.toNat).toNat

/-- The number in the field of an X-form: width 64 when `w`, an s register or pair when `sel`, a queue port's next element with QP. -/
def fld (s : State) (x : Ctx) (f : XF) (w sel : Bool) (n : BitVec 8) (l : Nat) : Nat :=
  (s.crew x.crew).rdN ((s.crew x.crew).inHandler x.lanes) f.qp w sel n.toNat l

def fldA (s : State) (x : Ctx) (f : XF) (w : Bool) (l : Nat) : Nat := fld s x f w f.sa f.a l
def fldB (s : State) (x : Ctx) (f : XF) (w : Bool) (l : Nat) : Nat := fld s x f w f.sb f.b l
def fldC (s : State) (x : Ctx) (f : XF) (w : Bool) (l : Nat) : Nat := fld s x f w f.sc f.c l

/-- The B operand: the sign-extended word 2 when IMM, else field B (R210). -/
def opB (s : State) (x : Ctx) (f : XF) (w : Bool) (l : Nat) : Nat :=
  if f.imm then wrapInt (bitsOf w) f.w2.toInt else fldB s x f w l

/-- A value clamped to the signed range of n bits, as its bit pattern. -/
def clampS (n : Nat) (r : Int) : Nat := wrapInt n (max (-(2 : Int) ^ (n - 1)) (min r ((2 : Int) ^ (n - 1) - 1)))

/-- A value clamped to the unsigned range of n bits. -/
def clampU (n : Nat) (r : Int) : Nat := (max 0 (min r ((2 : Int) ^ n - 1))).toNat

/-- R212: with SAT (OWN bit 1) the exact result clamped, of unsigned operands when U (C bit 1) is set; else the result modulo 2^n. -/
def saturated (f : XF) (n : Nat) (op : Int → Int → Int) (a b : Nat) : Nat :=
  if f.o1 then (if f.c.getLsbD 1 then clampU n (op a b) else clampS n (op (sval n a) (sval n b))) else wrapInt n (op (sval n a) (sval n b))

/-- The status word of R267: GEN, ERR, STATUS. -/
def status (gen err st : Nat) : Nat := gen % 65536 * 65536 + err % 256 * 256 + st % 256

/-- Nothing stops a SHF (R145, R146, R273, R154): the gate for all but its A field, whose register is then looked at in the lanes that are
read; every source lane is in range or clamped by a policy; in a protected launch the sub-group is at most 32 pairs. -/
def shfReady (s : State) (x : Ctx) (f : XF) (src : Nat → Option Nat) : Bool :=
  let sh := (Instr.shf f).shape
  let c := s.crew x.crew
  let h := c.inHandler x.lanes
  let ac := act s x f
  let oa : Operand := ⟨sh.a, f.sa, f.a.toNat, f.fea⟩
  let rs := oa.fld.regs oa.sel oa.n
  may s x { sh with a := Fld.raw } f && (!usesPort sh f || calm s x f) &&
    (decide (ac = 0) || (!oa.fld.beyond oa.sel f.qp c.nregs oa.n && !oa.aliasBound f.qp c && !oa.badPort f.qp c
      && (!s.protectedCrew x.crew || decide (bits f.cN 3 1 ≤ 4)) && (lanesOf ac).all fun l => match src l with
        | none => false
        | some k =>
          let read := laneSet fun k => (lanesOf ac).any fun l => decide (src l = some k)
          if oa.port f.qp then decide (c.popPois (oa.n - 248) read = 0) && decide (c.streamEnd (oa.n - 248) ac = 0) && !c.popWaits (oa.n - 248) (ac ||| read)
          else if f.sa then !(rs.any (c.sEmpty h)) && !(rs.any (c.sPois h))
          else rs.all fun r => !(c.thread k).vE.getLsbD r && !(c.thread k).vP.getLsbD r))

/-- No pending store's WCT has come (R66): whatever module time has reached is performed. -/
def nothingOverdue (s : State) : Bool := s.coh.pend.all fun p => decide (s.now < p.wct)

/-- The fields of an entry of a page table (R13, R14), as R15 reads them. -/
def pteBad (e level : Nat) : Bool :=
  let leaf := bitOf e 1
  decide (bits e 63 63 ≠ 0 ∨ bits e 59 52 ≠ 0 ∨ bits e 11 10 ≠ 0 ∨ bits e 3 2 ≠ 0)
    || (leaf && decide (3 ≤ level)) || (!leaf && decide (level = 0)) || (!leaf && (bitOf e 9 || decide (bits e 8 4 ≠ 0)))
    || (leaf && decide (bits e 51 12 * 4096 % 2 ^ (12 + 9 * level) ≠ 0))

end Sys2Proof.Safety
end

