-- ==== Sys2Proof/Certificates/Slice0/Obligations.lean ====
section
/-! DEFINITION. Obligations.lean: the statements for the provers. -/

open Sys2Proof Sys2Proof.Machine Sys2Proof.Safety

/-! ## Integers and moves (chapter 11) -/

/-- The integer instructions that have a B-form, in their B-forms on v registers and in their X-forms with every width, class select,
immediate and saturation. Each completes whenever the group passes its gate, writes D in every active lane and changes nothing else (from R195 to R198, R210, R212). -/
def Obligations.IntegerFormsWriteTheResult : Prop :=
  ((∀ p ∈ ([(.iadd, fun a b => (a + b) % 2 ^ 32), (.isub, fun a b => (a + 2 ^ 32 - b) % 2 ^ 32), (.imul, fun a b => a * b % 2 ^ 32),
      (.and, fun a b => a &&& b), (.or, fun a b => a ||| b), (.xor, fun a b => a ^^^ b),
      (.shl, fun a b => if 32 ≤ b then 0 else a * 2 ^ b % 2 ^ 32), (.shr, fun a b => if 32 ≤ b then 0 else a / 2 ^ b),
      (.sra, fun a b => wrapInt 32 (sval 32 a / 2 ^ min b 32))] :
        List ((BitVec 8 → BitVec 8 → BitVec 8 → Instr) × (Nat → Nat → Nat))),
    ∀ (s : State) (x : Ctx) (d a b : BitVec 8), ready s x (p.1 d a b).shape (.ofB d a b) = true →
      WritesD s x (p.1 d a b) (.ofB d a b) false false fun l => p.2 (v s x a l) (v s x b l))
  ∧ ∀ (s : State) (x : Ctx) (d a b : BitVec 8), ready s x (Instr.iaddImm d a b).shape (.ofB d a b) = true →
      WritesD s x (.iaddImm d a b) (.ofB d a b) false false fun l => wrapInt 32 ((v s x a l : Int) + b.toInt)) ∧
  (∀ (s : State) (x : Ctx) (f : XF), ready s x (Instr.iaddImmX f).shape f = true →
      WritesD s x (.iaddImmX f) f f.o0 false fun l => saturated f (bitsOf f.o0) (· + ·) (fldA s x f f.o0 l) (wrapInt (bitsOf f.o0) f.w2.toInt)) ∧
  (∀ p ∈ ([(.iaddX, fun f n a b => saturated f n (· + ·) a b), (.isubX, fun f n a b => saturated f n (· - ·) a b),
      (.imulX, fun f n a b => saturated f n (· * ·) a b), (.andX, fun _ _ a b => a &&& b), (.orX, fun _ _ a b => a ||| b),
      (.xorX, fun _ _ a b => a ^^^ b), (.andn, fun _ n a b => a &&& (2 ^ n - 1 - b)),
      (.imin, fun f n a b => if f.vN = 1 then min a b else if sval n a ≤ sval n b then a else b),
      (.imax, fun f n a b => if f.vN = 1 then max a b else if sval n b ≤ sval n a then a else b),
      (.imulh, fun f n a b => wrapInt n ((if f.vN = 1 then (a : Int) else sval n a) * (if f.vN = 0 then sval n b else (b : Int)) / 2 ^ n))] :
        List ((XF → Instr) × (XF → Nat → Nat → Nat → Nat))),
    ∀ (s : State) (x : Ctx) (f : XF), ready s x (p.1 f).shape f = true →
      WritesD s x (p.1 f) f f.o0 false fun l => p.2 f (bitsOf f.o0) (fldA s x f f.o0 l) (opB s x f f.o0 l))

/-- Shifts and rotates give 0, or the sign, once the count reaches the width; the moves copy a register, the immediate or the
literal. Nothing else changes (from R210, R212 to R214). -/
def Obligations.ShiftsAndMovesWriteTheResult : Prop :=
  (∀ p ∈ ([(.shlX, fun n a c => if n ≤ c then 0 else a * 2 ^ c % 2 ^ n), (.shrX, fun n a c => if n ≤ c then 0 else a / 2 ^ c),
      (.sraX, fun n a c => wrapInt n (sval n a / 2 ^ min c n)),
      (.rotl, fun n a c => a * 2 ^ (c % n) % 2 ^ n + a / 2 ^ (n - c % n))] : List ((XF → Instr) × (Nat → Nat → Nat → Nat))),
    ∀ (s : State) (x : Ctx) (f : XF), ready s x (p.1 f).shape f = true →
      WritesD s x (p.1 f) f f.o0 false fun l => p.2 (bitsOf f.o0) (fldA s x f f.o0 l) (if f.imm then f.w2.toNat else fldB s x f false l)) ∧
  (∀ (s : State) (x : Ctx),
    (∀ d a : BitVec 8, ready s x (Instr.mov d a).shape (.ofB d a 0) = true → WritesD s x (.mov d a) (.ofB d a 0) false false fun l => v s x a l)
    ∧ (∀ f : XF, ready s x (Instr.movX f).shape f = true → WritesD s x (.movX f) f f.o0 false fun l => fldA s x f f.o0 l)
    ∧ (∀ (d : BitVec 8) (imm : BitVec 16), ready s x (Instr.movi d imm).shape (.ofB d 0 0) = true →
        WritesD s x (.movi d imm) (.ofB d 0 0) false false fun _ => (imm.signExtend 32).toNat)
    ∧ (∀ f : XF, ready s x (Instr.moviX f).shape f = true → WritesD s x (.moviX f) f false false fun _ => f.w2.toNat)
    ∧ (∀ (d : BitVec 8) (lit : BitVec 64), ready s x (Instr.moviB64 d lit).shape (.ofB d 0 0) = true →
        WritesD s x (.moviB64 d lit) (.ofB d 0 0) true false fun _ => lit.toNat)
    ∧ ∀ (f : XF) (lit : BitVec 64), ready s x (Instr.moviB64X f lit).shape f = true →
        WritesD s x (.moviB64X f lit) f true false fun _ => lit.toNat)

/-- The one-source and three-source integer instructions. CLZ and POPC count into a 32-bit D; IMAD's sum wraps or, in
its variants 1 and 2, is clamped to the signed or unsigned range; SEL takes A where the predicate that C names is true.
Division and remainder truncate towards zero; a zero divisor gives all ones and the dividend. The result is written by a later
event: D is EMPTY until then (from R216, R218, R220, R217, R145). -/
def Obligations.IntegerGroupWritesTheResult : Prop :=
  (∀ (s : State) (x : Ctx) (f : XF),
    let n := bitsOf f.o0
    let a := fldA s x f f.o0
    (ready s x (Instr.not f).shape f = true → WritesD s x (.not f) f f.o0 false fun l => 2 ^ n - 1 - a l)
    ∧ (ready s x (Instr.iabs f).shape f = true →
        WritesD s x (.iabs f) f f.o0 false fun l => if f.vN = 1 then clampS n (sval n (a l)).natAbs else wrapInt n (sval n (a l)).natAbs)
    ∧ (ready s x (Instr.ineg f).shape f = true →
        WritesD s x (.ineg f) f f.o0 false fun l => if f.vN = 1 then clampS n (-(sval n (a l))) else wrapInt n (-(sval n (a l))))
    ∧ (ready s x (Instr.clz f).shape f = true → WritesD s x (.clz f) f false false fun l => n - bitLen (a l))
    ∧ (ready s x (Instr.popc f).shape f = true →
        WritesD s x (.popc f) f false false fun l => ((List.range n).filter fun j => bitOf (a l) j).length)
    ∧ (ready s x (Instr.brev f).shape f = true → WritesD s x (.brev f) f f.o0 false fun l => brevOp n (a l))
    ∧ (ready s x (Instr.bfx f).shape f = true →
        WritesD s x (.bfx f) f f.o0 false fun l =>
          let p := if f.vN < 2 then fldC s x f false l else f.w2.toNat
          bfxOp n (decide (f.vN % 2 = 1)) (a l) (bits p 7 0) (bits p 15 8))
    ∧ (ready s x (Instr.bfi f).shape f = true →
        WritesD s x (.bfi f) f f.o0 false fun l =>
          let p := if f.vN = 0 then fldC s x f false l else f.w2.toNat
          bfiOp n (a l) (if f.vN = 0 then fldB s x f f.o0 l else opB s x f f.o0 l) (bits p 7 0) (bits p 15 8))
    ∧ (ready s x (Instr.imad f).shape f = true →
        WritesD s x (.imad f) f f.o0 false fun l =>
          if f.vN = 2 then clampU n ((a l : Int) * fldB s x f f.o0 l + fldC s x f f.o0 l)
          else
            let r := sval n (a l) * sval n (fldB s x f f.o0 l) + sval n (fldC s x f f.o0 l)
            if f.vN = 1 then clampS n r else if f.vN = 0 then wrapInt n r else clampU n r)
    ∧ (ready s x (Instr.sel f).shape f = true →
        WritesD s x (.sel f) f f.o0 false fun l =>
          if ((s.crew x.crew).thread l).pred f.c.toNat then a l else fldB s x f f.o0 l)
    ∧ (ready s x (Instr.lea f).shape f = true →
        WritesD s x (.lea f) f true false fun l =>
          let b := BitVec.ofNat 32 (opB s x f false l)
          wrapInt 64 ((fldA s x f true l : Int) + (if f.vN = 0 then b.toInt else (b.toNat : Int)) * 2 ^ bits f.w2.toNat 3 0))
    ∧ (ready s x (Instr.idot4 f).shape f = true →
        WritesD s x (.idot4 f) f false false fun l =>
          let a := fldA s x f false l
          let b := fldB s x f false l
          let byte := fun (sgn : Bool) (u e : Nat) => if sgn then sval 8 (u / 256 ^ e) else ((u / 256 ^ e % 256 : Nat) : Int)
          let p := fun e => byte (decide (f.vN ≠ 1)) a e * byte (decide (f.vN = 0)) b e
          wrapInt 32 ((fldC s x f false l : Int) + p 0 + p 1 + p 2 + p 3))) ∧
  (∀ (s : State) (x : Ctx) (f : XF),
    let n := bitsOf f.o0
    (ready s x (Instr.idiv f).shape f = true →
      WritesD s x (.idiv f) f f.o0 true fun l =>
        let a := fldA s x f f.o0 l
        let b := opB s x f f.o0 l
        if b = 0 then 2 ^ n - 1 else if f.vN = 1 then a / b else wrapInt n ((sval n a).tdiv (sval n b)))
    ∧ (ready s x (Instr.irem f).shape f = true →
      WritesD s x (.irem f) f f.o0 true fun l =>
        let a := fldA s x f f.o0 l
        let b := opB s x f f.o0 l
        if b = 0 then a else if f.vN = 1 then a % b else wrapInt n ((sval n a).tmod (sval n b))))


/-- Comparisons and the predicate group. A source predicate is negated by its OWN bit; p7 reads true and a write to it is
discarded; PMOV with variant 1 writes whether a register is not 0, negated by its OWN bit (the model's choice, log entry 230), with variant 2 1 or 0 into a register (from R219, R221). -/
def Obligations.PredicatesAreWritten : Prop :=
  ∀ (s : State) (x : Ctx) (f : XF),
    let pr := fun (n : BitVec 8) (neg : Bool) (l : Nat) => (decide (n.toNat = 7) || ((s.crew x.crew).thread l).p.getLsbD n.toNat) != neg
    (ready s x (Instr.icmp f).shape f = true →
      WritesP s x (.icmp f) f fun l =>
        let n := bitsOf f.o0
        let a := fldA s x f f.o0 l
        let b := opB s x f f.o0 l
        match f.vN with
        | 0 => decide (a = b) | 1 => decide (a ≠ b)
        | 2 => decide (sval n a < sval n b) | 3 => decide (sval n a ≤ sval n b) | 4 => decide (sval n b < sval n a) | 5 => decide (sval n b ≤ sval n a)
        | 6 => decide (a < b) | 7 => decide (a ≤ b) | 8 => decide (b < a) | _ => decide (b ≤ a))
    ∧ (ready s x (Instr.pand f).shape f = true → WritesP s x (.pand f) f fun l => pr f.a f.o0 l && pr f.b f.o1 l)
    ∧ (ready s x (Instr.por f).shape f = true → WritesP s x (.por f) f fun l => pr f.a f.o0 l || pr f.b f.o1 l)
    ∧ (ready s x (Instr.pxor f).shape f = true → WritesP s x (.pxor f) f fun l => pr f.a f.o0 l != pr f.b f.o1 l)
    ∧ (ready s x (Instr.pnot f).shape f = true → WritesP s x (.pnot f) f fun l => !pr f.a f.o0 l)
    ∧ (ready s x (Instr.pmov f).shape f = true →
        if f.vN = 2 then WritesD s x (.pmov f) f false false fun l => if pr f.a f.o0 l then 1 else 0
        else WritesP s x (.pmov f) f fun l => if f.vN = 1 then decide (fldA s x f false l ≠ 0) != f.o0 else pr f.a f.o0 l)

/-! ## Floating point (chapters 09 and 12) -/

/-- The floating-point pairs, the fused multiply-add and the rounding, each rounded once in the mode that FMODE names; the flags are
ORed into FFLAGS (from R176 to R181, R239 to R242, R246). -/
def Obligations.FloatingPointComputes : Prop :=
  ((∀ p ∈ ([(.fadd, fp2 addOp 0), (.fsub, fp2 subOp 0), (.fmul, fp2 mulOp 0)] :
        List ((BitVec 8 → BitVec 8 → BitVec 8 → Instr) × (BitVec 13 → Nat → Nat → FlagRes))),
    ∀ (s : State) (x : Ctx) (d a b : BitVec 8),
      let res := fun l => p.2 x.fmode (v s x a l) (v s x b l)
      ready s x (p.1 d a b).shape (.ofB d a b) = true → untrapped s x (.ofB d a b) res = true →
        WritesF s x (p.1 d a b) (.ofB d a b) false res)
  ∧ ∀ p ∈ ([(.faddX, fp2 addOp), (.fsubX, fp2 subOp), (.fmulX, fp2 mulOp), (.fmin, fminmax false), (.fmax, fminmax true)] :
        List ((XF → Instr) × (Nat → BitVec 13 → Nat → Nat → FlagRes))),
    ∀ (s : State) (x : Ctx) (f : XF),
      let res := fun l => p.2 f.ownN x.fmode (fldA s x f false l) (opB s x f false l)
      ready s x (p.1 f).shape f = true → untrapped s x f res = true → WritesF s x (p.1 f) f false res) ∧
  (∀ (s : State) (x : Ctx),
    (∀ d a b : BitVec 8,
      let res := fun l => fma 0 x.fmode (v s x a l) (v s x b l) (v s x d l)
      ready s x (Instr.ffma d a b).shape (.ofB d a b) = true → untrapped s x (.ofB d a b) res = true →
        WritesF s x (.ffma d a b) (.ofB d a b) false res)
    ∧ (∀ f : XF,
      let res := fun l => fma f.ownN x.fmode (fldA s x f false l) (fldB s x f false l) (fldC s x f false l)
      ready s x (Instr.ffmaX f).shape f = true → untrapped s x f res = true → WritesF s x (.ffmaX f) f false res)
    ∧ ∀ f : XF,
      let res := fun l => perElem f.ownN fun fm e => frndOp fm (rmodeOf x.fmode f.w2.toNat) (elemIn fm x.fmode (fldA s x f false l) e)
      ready s x (Instr.frnd f).shape f = true → untrapped s x f res = true → WritesF s x (.frnd f) f false res)

/-- FABS and FNEG change the sign bits alone, FCLASS gives the class and FCMP the relation of the first elements, with the flags that the relation
raises (from R243 to R245). -/
def Obligations.SignClassAndCompare : Prop :=
  (∀ (s : State) (x : Ctx) (f : XF),
    let signs : BitVec 32 := if f.ownN = 0 then 0x80000000 else 0x80008000
    (ready s x (Instr.fabs f).shape f = true →
      WritesD s x (.fabs f) f false false fun l => (BitVec.ofNat 32 (fldA s x f false l) &&& ~~~signs).toNat)
    ∧ (ready s x (Instr.fneg f).shape f = true →
      WritesD s x (.fneg f) f false false fun l => (BitVec.ofNat 32 (fldA s x f false l) ^^^ signs).toNat)
    ∧ (ready s x (Instr.fclass f).shape f = true →
      WritesD s x (.fclass f) f false false fun l =>
        let fm := typeFmt f.ownN
        let e := fldA s x f false l % 2 ^ fm.width
        2 ^ (match fm.decode e with
          | .nan sn => if sn then 8 else 9
          | .inf neg => if neg then 0 else 7
          | .fin neg m _ => if m = 0 then (if neg then 3 else 4) else if fm.subnormal e then (if neg then 2 else 5) else if neg then 1 else 6))) ∧
  (∀ (s : State) (x : Ctx) (f : XF),
    let fm := typeFmt f.ownN
    let a := fun l => elemIn fm x.fmode (fldA s x f false l) 0
    let b := fun l => elemIn fm x.fmode (opB s x f false l) 0
    let nan := fun l => (a l).isNan || (b l).isNan
    let flags : Nat → BitVec 5 := fun l => if (if 2 ≤ f.vN ∧ f.vN ≤ 5 then nan l else (a l).isSnan || (b l).isSnan) then flNV else 0
    ready s x (Instr.fcmp f).shape f = true → ((lanesOf (act s x f)).all fun l => decide (flags l &&& fmEnables x.fmode = 0)) = true →
      ∃ t, exec (.fcmp f) s = .next t ∧ CrewOnly s t x.crew ∧
        let c := orFlags (s.crew x.crew) (act s x f) flags
        t.crew x.crew = goOnAll x (Crew.mapLanes (if act s x f = 0 then c else c.pop (popPorts (Instr.fcmp f).shape f) (act s x f)) (act s x f)
          fun l th => th.wrPred f.d.toNat (match f.vN with
            | 0 => eqFv (a l) (b l) | 1 => !eqFv (a l) (b l) | 2 => !nan l && ltFv (a l) (b l) | 3 => !nan l && !ltFv (b l) (a l)
            | 4 => !nan l && ltFv (b l) (a l) | 5 => !nan l && !ltFv (a l) (b l) | 6 => nan l | _ => !nan l)))

/-- FCVT converts between its formats; the special functions are written by a later event, and D is EMPTY until then (from R247 to R250, R145). -/
def Obligations.ConversionsAndSpecialFunctions : Prop :=
  (∀ (s : State) (x : Ctx) (f : XF),
    let a64 := decide (fcvtWidth (bits f.w2.toNat 3 0) = 64)
    let w64 := decide (fcvtWidth (bits f.w2.toNat 7 4) = 64) && decide (f.vN = 0)
    let res := fun l => fcvtRes f x.fmode (fldA s x f a64 l) (fldB s x f false l) (fld s x f false f.sd f.d l)
    ready s x (Instr.fcvt f).shape f = true → untrapped s x f res = true →
      ∃ t, exec (.fcvt f) s = .next t ∧ CrewOnly s t x.crew ∧
        t.crew x.crew = wrote (orFlags (s.crew x.crew) (act s x f) (laneFlags f.sd (act s x f) res)) x (Instr.fcvt f).shape f (act s x f) w64 false
          fun l => (res l).1) ∧
  (∀ p ∈ ([(.frcp, 0), (.frsq, 1), (.fsqrt, 2), (.fexp2, 3), (.flog2, 4), (.fsin, 5), (.fcos, 6), (.ftanh, 7)] : List ((XF → Instr) × Nat)),
    ∀ (s : State) (x : Ctx) (f : XF),
      let res := fun l => perElem f.ownN fun fm e => sfuOp p.2 fm x.fmode (elemIn fm x.fmode (fldA s x f false l) e)
      ready s x (p.1 f).shape f = true → untrapped s x f res = true →
        WritesF s x (p.1 f) f (decide (fmEnables x.fmode = 0)) res)

/-- Where some active lane raises a flag that FMODE enables, the flags are recorded, nothing is written, and the instruction ends in
the trap ARITH of those lanes, its detail every flag that the issue raised (from R181). -/
def Obligations.EnabledFlagsTrapArith : Prop :=
  ∀ p ∈ ([(.faddX, fp2 addOp), (.fsubX, fp2 subOp), (.fmulX, fp2 mulOp), (.fmin, fminmax false), (.fmax, fminmax true)] :
        List ((XF → Instr) × (Nat → BitVec 13 → Nat → Nat → FlagRes))),
    ∀ (s : State) (x : Ctx) (f : XF),
      let a := act s x f
      let res := fun l => p.2 f.ownN x.fmode (fldA s x f false l) (opB s x f false l)
      let fl := laneFlags f.sd a res
      ready s x (p.1 f).shape f = true → untrapped s x f res = false →
        exec (p.1 f) s = .next ((s.setCrew x.crew (orFlags (s.crew x.crew) a fl)).raise x a
          ⟨3, ((lanesOf a).foldl (fun m l => m ||| fl l) 0#5).toNat, laneSet fun l => hasLane a l && decide (fl l &&& fmEnables x.fmode ≠ 0), 0⟩)

/-- Quantising and expanding one byte or code, and packing and unpacking fields (from R251, R252, R255, R185). -/
def Obligations.NarrowFormatsCompute : Prop :=
  ∀ (s : State) (x : Ctx) (f : XF),
    let q := s.quad (quadOf x.crew)
    let a := fldA s x f false
    let b := fldB s x f false
    let d := fld s x f false f.sd f.d
    let byte := fun l => a l / 256 ^ bits f.w2.toNat 1 0 % 256
    let f32 := fun w => fmtF32.decodeIn (fmFtzi x.fmode) w
    let qnt : Nat → FlagRes := fun l =>
      if f.vN = 0 then
        let r := match mulFv (f32 (a l)) (f32 (b l)) with
          | none => (0, flNV)
          | some p => toInt 8 true (fmRm x.fmode) p
        (putByte (d l) (bits f.w2.toNat 1 0) r.1, r.2 ||| flagIf ((f32 (a l)).isSnan || (f32 (b l)).isSnan) flNV)
      else
        let r := compandC8 (curveAt q (bits f.w2.toNat 3 2)) (fmRm x.fmode) (f32 (a l))
        (putByte (d l) (bits f.w2.toNat 1 0) (wrapInt 8 r.1), r.2)
    let dqnt : Nat → FlagRes := fun l =>
      match f.vN with
      | 0 => (expandC8 (curveAt q (bits f.w2.toNat 3 2)) (byte l), 0)
      | 1 =>
        let k := sval 8 (byte l)
        finish fmtF32 (fmRm x.fmode) (fmFtzo x.fmode) (f32 (b l)).isSnan (mulFv (.fin (decide (k < 0)) k.natAbs 0) (f32 (b l)))
      | _ => (bookAt q (bits f.w2.toNat 7 4) (a l / 16 ^ bits f.w2.toNat 2 0 % 16), 0)
    (ready s x (Instr.qnt f).shape f = true → untrapped s x f qnt = true → WritesF s x (.qnt f) f false qnt)
    ∧ (ready s x (Instr.dqnt f).shape f = true → untrapped s x f dqnt = true → WritesF s x (.dqnt f) f false dqnt)
    ∧ (ready s x (Instr.pack f).shape f = true → WritesD s x (.pack f) f false false fun l => packRes f.vN (a l) (b l) (d l))
    ∧ (ready s x (Instr.unpk f).shape f = true →
        WritesD s x (.unpk f) f false false fun l =>
          let w := 16 / 2 ^ f.vN
          let e := a l / 2 ^ (w * bits f.w2.toNat 2 0) % 2 ^ w
          if f.o0 then wrapInt 32 (sval w e) else e)

/-! ## Control (chapter 11) -/

/-- Calls and loops. CALL and LOOP push an entry while the stack has room; RET pops one and cuts the loop stack to its depth;
ENDL goes back to the body, counting the trip, or pops its entry.
The stacks' limits. A CALL past its declared depth raises BOUND, a RET from an empty stack ILLEGAL; a ninth LOOP raises
ILLEGAL; an ENDL whose loop has made its last trip raises BOUND. Nothing else happens: the issue ends in the trap of the lanes concerned (from R226 to R228). -/
def Obligations.CallsAndLoopsUseTheirStacks : Prop :=
  (∀ (s : State) (x : Ctx),
    let c := s.crew x.crew
    let th := fun l => c.thread l
    (∀ f, may s x (Instr.call f).shape f = true → ((lanesOf (act s x f)).all fun l => decide ((th l).rets.length < f.c.toNat)) = true →
      let a := act s x f
      let pcOf := fun l => if hasLane a l then wrapInt 32 (x.pc + f.w2.toInt) else x.next
      together s x pcOf = true →
        Moves s x (.call f) pcOf fun l t => if hasLane a l then { t with rets := ⟨x.next, t.loops.length⟩ :: t.rets } else t)
    ∧ (∀ f, may s x (Instr.ret f).shape f = true → ((lanesOf (act s x f)).all fun l => !(th l).rets.isEmpty) = true →
      let a := act s x f
      let top := fun l => (th l).rets.headD ⟨0, 0⟩
      let pcOf := fun l => if hasLane a l then (top l).pc else x.next
      together s x pcOf = true →
        Moves s x (.ret f) pcOf fun l t =>
          if hasLane a l then
            { t with rets := t.rets.tail, loops := t.loops.drop ((th l).loops.length - (top l).depth), arrived := (c.waitIdx 2 (top l).pc l).isSome }
          else t)
    ∧ (∀ m off, may s x (Instr.loop m off).shape .zero = true → ((lanesOf x.lanes).all fun l => decide ((th l).loops.length < 8)) = true →
      together s x (fun _ => x.next) = true →
        Moves s x (.loop m off) (fun _ => x.next) fun _ t => { t with loops := ⟨x.pc, x.next, x.pc + 4 * off.toNat, m.toNat + 1, 1⟩ :: t.loops })
    ∧ (∀ f, may s x (Instr.loopX f).shape f = true → ((lanesOf (act s x f)).all fun l => decide ((th l).loops.length < 8)) = true →
      let a := act s x f
      let endPc := x.pc + 4 * (f.d.toNat * 65536 + f.a.toNat * 256 + f.b.toNat)
      let pcOf := fun l => if hasLane a l then x.next else endPc + 4
      together s x pcOf = true →
        Moves s x (.loopX f) pcOf fun l t => if hasLane a l then { t with loops := ⟨x.pc, x.next, endPc, f.w2.toNat + 1, 1⟩ :: t.loops } else t)
    ∧ ∀ k neg cnt, may s x (Instr.endl k neg cnt).shape .zero = true →
      let top := fun l => (th l).loops.headD ⟨0, 0, 0, 0, 0⟩
      let back := fun l => if cnt then decide ((top l).trip < (top l).max) else ((th l).pred k.toNat != neg)
      let pcOf := fun l => if back l then (top l).body else x.next
      ((lanesOf x.lanes).all fun l => !(th l).loops.isEmpty && decide ((top l).endPc = x.pc) && !(back l && decide ((top l).trip = (top l).max))) = true →
      together s x pcOf = true →
        Moves s x (.endl k neg cnt) pcOf fun l t =>
          if back l then
            { t with loops := { top l with trip := (top l).trip + 1 } :: t.loops.tail, arrived := (c.waitIdx 1 (top l).body l).isSome }
          else { t with loops := t.loops.tail }) ∧
  (∀ (s : State) (x : Ctx),
    let th := fun l => (s.crew x.crew).thread l
    (∀ f, may s x (Instr.call f).shape f = true →
      let bad := laneSet fun l => hasLane (act s x f) l && decide (f.c.toNat ≤ (th l).rets.length)
      bad ≠ 0 → exec (.call f) s = .next (s.raise x (act s x f) ⟨0, 0x02, bad, 0⟩))
    ∧ (∀ f, may s x (Instr.ret f).shape f = true →
      let bad := laneSet fun l => hasLane (act s x f) l && (th l).rets.isEmpty
      bad ≠ 0 → exec (.ret f) s = .next (s.raise x (act s x f) ⟨4, 0x10, bad, 0⟩))
    ∧ (∀ m off, may s x (Instr.loop m off).shape .zero = true →
      let bad := laneSet fun l => hasLane x.lanes l && decide (8 ≤ (th l).loops.length)
      bad ≠ 0 → exec (.loop m off) s = .next (s.raise x x.lanes ⟨4, 0x10, bad, 0⟩))
    ∧ ∀ k neg, may s x (Instr.endl k neg false).shape .zero = true →
      let top := fun l => (th l).loops.headD ⟨0, 0, 0, 0, 0⟩
      let bad := laneSet fun l => hasLane x.lanes l && ((th l).pred k.toNat != neg) && decide ((top l).trip = (top l).max)
      ((lanesOf x.lanes).all fun l => !(th l).loops.isEmpty && decide ((top l).endPc = x.pc)) = true → bad ≠ 0 →
        exec (.endl k neg false) s = .next (s.raise x x.lanes ⟨0, 0x01, bad, 0⟩))


/-- Jumps, conditional branches and jump tables. A taken lane goes to the target: the PC plus the offset in words
(B-form) or bytes (X-form), or the table entry that its index, clamped to the table's last word, selects. The others go on in sequence. A lane that leaves
the span of a loop loses that loop's entry. No register changes. A fork enters the convergence table with every lane of its group (from R143, R144, R223 to R225, R229). -/
def Obligations.BranchesMoveTheLanes : Prop :=
  (∀ (s : State) (x : Ctx) (k : BitVec 3) (neg : Bool) (off : BitVec 16),
    may s x (Instr.brc k neg off).shape .zero = true →
    let th := fun l => (s.crew x.crew).thread l
    let taken := laneSet fun l => hasLane x.lanes l && ((th l).pred k.toNat != neg)
    let pcOf := fun l => if hasLane taken l then wrapInt 32 (x.pc + 4 * off.toInt) else x.next
    together s x pcOf = true → splits x.lanes pcOf = true →
      ∃ t, exec (.brc k neg off) s = .next t ∧
        ∃ e ∈ (t.crew x.crew).conv, e.kind = 0 ∧ e.key = x.pc ∧ e.mask &&& x.lanes = x.lanes) ∧
  (∀ (s : State) (x : Ctx),
    let th := fun l => (s.crew x.crew).thread l
    let Goes := fun (i : Instr) (taken : Lanes) (target : Nat → Nat) =>
      let pcOf := fun l => if hasLane taken l then target l else x.next
      together s x pcOf = true → Moves s x i pcOf fun l t => if hasLane taken l then { t with loops := leaveLoops (target l) (th l).loops } else t
    (∀ off, may s x (Instr.bra off).shape .zero = true → Goes (.bra off) x.lanes fun _ => wrapInt 32 (x.pc + 4 * off.toInt))
    ∧ (∀ f, may s x (Instr.braX f).shape f = true → Goes (.braX f) (act s x f) fun _ => wrapInt 32 (x.pc + f.w2.toInt))
    ∧ (∀ k neg off, may s x (Instr.brc k neg off).shape .zero = true →
        Goes (.brc k neg off) (laneSet fun l => hasLane x.lanes l && ((th l).pred k.toNat != neg)) fun _ => wrapInt 32 (x.pc + 4 * off.toInt))
    ∧ (∀ f, may s x (Instr.brcX f).shape f = true →
        Goes (.brcX f) (laneSet fun l => hasLane (act s x f) l && ((th l).pred (bits f.d.toNat 7 5) != bitOf f.d.toNat 4))
          fun _ => wrapInt 32 (x.pc + f.w2.toInt))
    ∧ ∀ f, ready s x (Instr.jtab f).shape f = true → braTable (s.codeOf x.crew) (x.pc + 12) f.w2.toNat = true →
        let target := fun l => x.pc + 12 + 4 * min (fldA s x f false l) f.w2.toNat
        let pcOf := fun l => if hasLane (act s x f) l then target l else x.next
        together s x pcOf = true → MovesFrom (popped s x (.jtab f) f) s x (.jtab f) pcOf fun l t =>
          if hasLane (act s x f) l then { t with loops := leaveLoops (target l) (th l).loops } else t)

/-- NOP only goes on; JOIN frees its fork's entry; REGION counts the entry and records the PC that follows once the
thread's stores have been checked; YIELD notes the issues given up. EXIT and TKILL end threads, TKILL those that the masks of the active lanes name, in a
protected launch the pairs.
In a persistent block the active threads wait at a NEXT, and the block's cursor steps on once every live thread of the block
waits there; in any other kernel NEXT raises ILLEGAL with detail USE (from R152, R215, R230, R231, R233 to R235, R261, R232). -/
def Obligations.SimpleControlGoesOnOrEnds : Prop :=
  ((∀ (s : State) (x : Ctx),
    let c := s.crew x.crew
    (may s x (Instr.nop).shape .zero = true → Leaves s x .nop (goOnAll x c))
    ∧ (∀ f, may s x (Instr.nopX f).shape f = true → Leaves s x (.nopX f) (goOnAll x c))
    ∧ (∀ off, may s x (Instr.join off).shape .zero = true →
        Leaves s x (.join off) (goOnAll x { c with conv := c.conv.filter fun e => !decide (e.kind = 0 ∧ e.key = wrapInt 32 (x.pc + 4 * off.toInt)) }))
    ∧ (may s x (Instr.region).shape .zero = true → c.openChecks x.lanes = false →
        Leaves s x .region (goOnAll x (c.mapLanes x.lanes fun _ t => { t with trecCount := t.trecCount + 1, trecEntry := BitVec.ofNat 32 x.next })))
    ∧ ∀ f, may s x (Instr.yield f).shape f = true →
        Leaves s x (.yield f) (goOnAll x (c.mapLanes (act s x f) fun _ t => { t with yield := f.w2.toNat }))) ∧
  (∀ (s : State) (x : Ctx),
    let c := s.crew x.crew
    let Ended := fun (i : Instr) (m : Lanes) => ∃ t, exec i s = .next t ∧ ∀ l, hasLane m l = true → ((t.crew x.crew).thread l).live = false
    (may s x (Instr.exit).shape .zero = true → c.openChecks x.lanes = false → Ended .exit x.lanes)
    ∧ (∀ f, may s x (Instr.exitX f).shape f = true → c.openChecks (act s x f) = false → Ended (.exitX f) (act s x f))
    ∧ ∀ f, may s x (Instr.tkill f).shape f = true →
        let m := (lanesOf (act s x f)).foldl (fun m l => m ||| c.rdW (c.inHandler x.lanes) f.sa f.a.toNat l) 0#64
        Ended (.tkill f) (if s.protectedCrew x.crew then laneSet fun l => m.getLsbD (l / 2) else m))) ∧
  (∀ (s : State) (x : Ctx) (d : BitVec 8),
    may s x (Instr.next d).shape (.ofB d 0 0) = true →
    let c := s.crew x.crew
    ((c.launch.isSome && (s.block c.block).persist) = true →
      exec (.next d) s = .next ((s.waitFor x x.lanes fun _ => { kind := .next, lanes := x.lanes, d := d.toNat }).stepNext c.block).endIssue)
    ∧ ((c.launch.isSome && (s.block c.block).persist) = false → exec (.next d) s = .next (s.raise x x.lanes ⟨4, 0x10, x.lanes, 0⟩)))


/-- A REP that passes its check starts the repeat: REPCNT of every lane of the group is valid and holds the index and the
captured FMODE, and the same step issues the target with its fields stepped; the B-form is one word and the X-form three. A REP
before an instruction that cannot repeat raises ILLEGAL with detail REPEAT (from R236, R202). -/
def Obligations.RepStartsOrRefusesItsTarget : Prop :=
  ∀ (s : State) (x : Ctx) (count : BitVec 6) (sd sa sb sc : BitVec 2), s.cur = some x →
    ∀ p ∈ ([(.rep count sd sa sb sc, 1), (.repX count sd sa sb sc, 3)] : List (Instr × Nat)),
      let c := s.crew x.crew
      let plan : RepPlan := ⟨0, count.toNat, sd.toNat, sa.toNat, sb.toNat, sc.toNat⟩
      let r := (c.thread ((lowLane x.lanes).getD 0)).repcnt
      let i := if r.getLsbD 31 then r.toNat % 64 else 0
      (lowLane x.lanes ≠ none → repDetail (fetch (s.codeOf x.crew) (x.pc + 4 * p.2)) plan c.nregs = none → i ≤ count.toNat →
        ∃ t, exec p.1 s = .next t ∧ t.cur = some x ∧ t.rep = some { plan with i := i } ∧ t.mem = s.mem ∧
          t.crew x.crew = c.mapLanes x.lanes fun _ u =>
            { u with repcnt := if u.repcnt.getLsbD 31 then u.repcnt else 0x80000000#32 ||| (c.fmode.setWidth 32 <<< 6) })
      ∧ (∀ tgt n, fetch (s.codeOf x.crew) (x.pc + 4 * p.2) = .ok tgt n → noRepeat tgt = true →
          exec p.1 s = .next (s.raise x x.lanes ⟨4, 0x09, x.lanes, 0⟩))

/-! ## Loads and stores (chapters 01, 02 and 13) -/

/-- Loads from a scratchpad window, a remote scratchpad or a chip scratchpad, in the short forms and in LD. With every address in place, the
load reads each lane's bytes, enters one LD operation, leaves its destinations EMPTY until LOAD_RETURN, and the group goes on. A load from the lane's own slice
writes its value at once. No byte of memory and nothing else changes (from R145, R258, R259). -/
def Obligations.OnChipLoadsReadTheirBytes : Prop :=
  (∀ (s : State) (x : Ctx) (d a b : BitVec 8) (f : XF),
    ∀ p ∈ ([(.ldCB32 d a b, .ofB d a 0, ⟨1, 4, b.toNat, false, 0, 0⟩), (.ldCB32X f, f, ⟨1, 4, f.w2.toInt, false, 0, 0⟩), (.ld f, f, memForm f)] :
        List (Instr × XF × MemForm)),
      let g := p.2.1
      let m := p.2.2
      let c := s.crew x.crew
      let h := c.inHandler x.lanes
      let ac := act s x g
      let r := s.accesses x.crew m.sp (sizeBytes m.size) .load (memAddr c h g m) (memLanes g.sd ac)
      let d := (popped s x p.1 g).destinations p.1.shape g x.pc ac (r.1.flatMap fun q => sizeDests m.size g.sd g.d.toNat q.lane)
      let dests := d.2
      ready s x p.1.shape g = true → 1 ≤ m.sp → m.sp ≤ 3 → c.queue = none → ac ≠ 0 → State.acqPending c ac = false → c.clsRoom 0 = true → r.2 = [] →
        let c' := d.1.addOp
          { id := 0, kind := .load, cls := 0, pc := x.pc, lanes := ac, dests := dests, fmt := m.size, d := g.d.toNat, sd := g.sd, acq := m.ord,
            hint := m.hint, issued := s.ctr, masked := h, bad := laneSet fun l => hasLane ac l && (c.thread l).specAct
            accs := r.1.map fun q => { q with data := q.keys.map s.mem.byte, pois := s.poisonWords q.keys, stage := 1 } }
        Leaves s x p.1 (goOnAll x (c'.markEmpty (c'.realDests h dests)))) ∧
  (∀ (s : State) (x : Ctx) (f : XF),
    let m := memForm f
    let c := s.crew x.crew
    let h := c.inHandler x.lanes
    let ac := act s x f
    let r := s.accesses x.crew 4 (sizeBytes m.size) .load (memAddr c h f m) (memLanes f.sd ac)
    readyOut s x (Instr.ld f).shape f = true → m.sp = 4 → ac ≠ 0 → State.acqPending c ac = false → r.2 = [] →
      let d := (popped s x (.ld f) f).destinations (Instr.ld f).shape f x.pc ac []
      Leaves s x (.ld f) (goOnAll x (r.1.foldl (fun c q =>
        c.fillAll h (loadVal m.size (q.keys.map s.mem.byte)) (s.poisonWords q.keys) (laneDests d.2 m.size f.sd f.d.toNat q.lane)) d.1)))

/-- A load from `.g`, in the short forms and in LD, outside speculative regions: with every address translated and granted it enters one
LD operation, whose accesses either found their line in the L1 or wait for their home, leaves its destinations EMPTY, and the group goes on. PREF only moves
lines. No byte of memory changes, and no other crew (from R61, R145, R259, R266). -/
def Obligations.GlobalLoadsEnterAnOperation : Prop :=
  (∀ (s : State) (x : Ctx) (d a b : BitVec 8) (f : XF),
    ∀ p ∈ ([(.ldGB32 d a b, .ofB d a 0, ⟨0, 4, b.toNat, false, 0, 0⟩), (.ldGB32X f, f, ⟨0, 4, f.w2.toInt, false, 0, 0⟩), (.ld f, f, memForm f)] :
        List (Instr × XF × MemForm)),
      let g := p.2.1
      let m := p.2.2
      let c := s.crew x.crew
      let h := c.inHandler x.lanes
      let ac := act s x g
      let r := s.accesses x.crew 0 (sizeBytes m.size) .load (memAddr c h g m) (memLanes g.sd ac)
      let d := (popped s x p.1 g).destinations p.1.shape g x.pc ac (r.1.flatMap fun q => sizeDests m.size g.sd g.d.toNat q.lane)
      let dests := d.2
      readyOut s x p.1.shape g = true → m.sp = 0 → ac ≠ 0 → State.acqPending c ac = false → c.clsRoom 0 = true → r.2 = [] →
      (r.1.all fun q => !s.commitHolds (coreOf x.crew) (s.crewPart x.crew) (Acc.sector q)) = true →
        ∃ t accs, exec p.1 s = .next t ∧ (∀ key, t.mem.byte key = s.mem.byte key) ∧
          (∀ j, j ≠ x.crew → SMap.find? t.ex.crews j = SMap.find? s.ex.crews j) ∧
          (accs.map fun q => (q.lane, q.addr, q.keys)) = (r.1.map fun q => (q.lane, q.addr, q.keys)) ∧ (∀ q ∈ accs, q.stage ≤ 1) ∧
          let c' := d.1.addOp
            { id := 0, kind := .load, cls := 0, pc := x.pc, lanes := ac, dests := dests, fmt := m.size, d := g.d.toNat, sd := g.sd, acq := m.ord,
              hint := m.hint, issued := s.ctr, masked := h, accs := accs }
          t.crew x.crew = goOnAll x (c'.markEmpty (c'.realDests h dests))) ∧
  (∀ (s : State) (x : Ctx) (f : XF),
    let c := s.crew x.crew
    let ac := act s x f
    let m : MemForm := { sp := 0, size := 0, disp := f.w2.toInt }
    let r := s.accesses x.crew 0 1 .load (memAddr c (c.inHandler x.lanes) f m) (lanesOf ac)
    may s x (Instr.pref f).shape f = true → State.acqPending c ac = false → r.2 = [] →
    (r.1.all fun q => !s.locked (Acc.sector q) && !s.commitHolds (coreOf x.crew) (s.crewPart x.crew) (Acc.sector q)) = true →
      ∃ t, exec (.pref f) s = .next t ∧ (∀ key, t.mem.byte key = s.mem.byte key) ∧
        (∀ j, j ≠ x.crew → SMap.find? t.ex.crews j = SMap.find? s.ex.crews j) ∧ t.crew x.crew = goOnAll x c)

/-- An LDFE whose addresses are in place, outside speculative regions, and whose granules are all FULL, or all EMPTY. On FULL granules, distinct where it clears, it
reads each lane's bytes and finds FULL; with `.clr` the granules are EMPTY afterwards. On EMPTY ones it finds EMPTY: without a wait it reads the bytes all the same, with a wait and a timeout of 0
it reads 0, with another timeout its accesses stay open; the granules stay as they are. It enters one LD operation. The form without a wait in the core's own scratchpad returns at
once, the others leave their destinations EMPTY until LOAD_RETURN. No byte of memory changes (R41, R42, R264).
STFE outside speculative regions stores each storing lane's bytes, in lane order, and leaves their granule FULL; FESET and FECLR set and clear the granules from each active lane's
address on and touch no data. Each enters one ST operation and the group goes on. Every byte outside the stored ones, and every full/empty bit outside the named granules, is as it was
(from R41, R264, R265). -/
def Obligations.FullAndEmptyGranules : Prop :=
  (∀ (s : State) (x : Ctx) (f : XF) (full : Bool),
    let m : MemForm := { sp := f.space, size := f.vN, disp := f.w2.toInt }
    let c := s.crew x.crew
    let h := c.inHandler x.lanes
    let ac := act s x f
    let r := s.accesses x.crew m.sp (sizeBytes m.size) .load (memAddr c h f m) (memLanes f.sd ac)
    let grans := r.1.map (·.gran)
    let d := (popped s x (.ldfe f) f).destinations (Instr.ldfe f).shape f x.pc ac (r.1.flatMap fun q => sizeDests m.size f.sd f.d.toNat q.lane)
    let dests := d.2
    let tmo := bits f.b.toNat 7 3
    readyOut s x (Instr.ldfe f).shape f = true → c.queue = none → ac ≠ 0 → State.acqPending c ac = false → c.clsRoom 0 = true → r.2 = [] →
    (grans.all fun g => decide (SMap.get false s.mem.fe g = full)) = true → (f.o1 = true → full = true → grans.Nodup) →
      let found := fun q : Acc => { q with data := overlay (q.keys.map s.mem.byte) q.overlaid, pois := s.poisonWords q.keys, stage := 1, found := full }
      let o : Op :=
        { id := 0, kind := .ldfe, cls := 0, pc := x.pc, lanes := ac, dests := dests, fmt := m.size, d := f.d.toNat, sd := f.sd, pred := f.c.toNat,
          clr := f.o1, issued := s.ctr, masked := h, deadline := if f.o0 && decide (tmo ≠ 0) then some (s.now + 2 ^ (tmo + 3)) else none
          accs := r.1.map fun q =>
            if full = true ∨ f.o0 = false then found q
            else if tmo ≠ 0 then q else { q with data := q.keys.map fun _ => 0, stage := 1, found := false, pois := 0 } }
      let c' := d.1.addOp o
      ∃ t, exec (.ldfe f) s = .next t ∧ (∀ key, t.mem.byte key = s.mem.byte key) ∧
        t.mem.fe = (if f.o1 && full then grans.foldl (fun e g => SMap.set false e g false) s.mem.fe else s.mem.fe) ∧
        (∀ j, j ≠ x.crew → SMap.find? t.ex.crews j = SMap.find? s.ex.crews j) ∧
        t.crew x.crew = goOnAll x
          (if f.o0 || decide (m.sp = 2) then c'.markEmpty (c'.realDests h dests)
          else match c'.findOp (c'.nextOp - 1) with
            | some o => (returnAccs c' o).modOp o.id fun o => { o with done := false }
            | none => c')) ∧
  (∀ (s : State) (x : Ctx) (f : XF),
    ∀ p ∈ ([(.stfe f, f.space, sizeBytes f.vN, sizeBytes f.vN), (.feset f, f.ownN + 1, 16 * (f.b.toNat + 1), 16),
        (.feclr f, f.ownN + 1, 16 * (f.b.toNat + 1), 16)] : List (Instr × Nat × Nat × Nat)),
      let sp := p.2.1
      let n := p.2.2.1
      let al := p.2.2.2
      let stfe := decide (p.1 = .stfe f)
      let c := s.crew x.crew
      let h := c.inHandler x.lanes
      let ac := act s x f
      let m : MemForm := { sp := sp, size := 4, disp := f.w2.toInt }
      let addr := memAddr c h f m
      let lanes := (memLanes f.sd ac).filter fun l => !s.protectedCrew x.crew || decide (l % 2 = 0)
      let keys := fun l => match s.place x.crew l sp (addr l) n .store with
        | .ok q => s.placeKeys q n
        | .error _ => []
      let gran := fun l => match s.place x.crew l sp (addr l) n .store with
        | .ok q => (q.scr.map fun e => s.scrKey e.1 e.2 (q.base - q.base % 16)).getD 0
        | .error _ => 0
      let named := fun l => if stfe then [gran l] else (List.range (f.b.toNat + 1)).map fun j => (keys l).getD (16 * j) 0
      let setAll := fun e : SMap Bool => lanes.foldl (fun e l => (named l).foldl (fun e g => SMap.set false e g (decide (p.1 ≠ .feclr f))) e) e
      readyOut s x p.1.shape f = true → (stfe = true → f.vN ≠ 7) → c.queue = none → ac ≠ 0 → State.acqPending c ac = false → c.clsRoom 1 = true →
      storeMismatch s x ac addr (if stfe then storeData c h f f.vN else fun _ => 0) = false → (lanes.all fun l => decide (addr l % al = 0)) = true →
      (lanes.all fun l => match s.place x.crew l sp (addr l) n .store with
        | .ok _ => true
        | .error _ => false) = true →
        ∃ t accs, exec p.1 s = .next t ∧
          (stfe = true → t.mem = { (lanes.foldl (fun s l => s.performBytes ((keys l).zip (leBytes n (storeData c h f f.vN l)))) s).mem with fe := setAll s.mem.fe }) ∧
          (stfe = false → t.mem = { s.mem with fe := setAll s.mem.fe }) ∧
          (∀ key, (stfe = true → ∀ l ∈ lanes, key ∉ keys l) → t.mem.byte key = s.mem.byte key) ∧
          (∀ g, (∀ l ∈ lanes, g ∉ named l) → SMap.get false t.mem.fe g = SMap.get false s.mem.fe g) ∧
          (∀ l ∈ lanes, ∀ g ∈ named l, SMap.get false t.mem.fe g = decide (p.1 ≠ .feclr f)) ∧
          (∀ j, j ≠ x.crew → SMap.find? t.ex.crews j = SMap.find? s.ex.crews j) ∧
          (accs.map fun q : Acc => (q.lane, q.keys, q.stage, q.wct)) = (lanes.map fun l => (l, keys l, 1, s.now)) ∧
          t.crew x.crew = goOnAll x ((popped s x p.1 f).addOp
            { id := 0, kind := .store, cls := 1, pc := x.pc, lanes := ac, issued := s.ctr, accs := accs }))

/-- A store, with or without `.rel`, to a scratchpad window, a remote scratchpad or a chip scratchpad outside speculative regions. With every address aligned
and in place, and the conditions of a `.rel` met, the bytes of each storing lane are written in lane order, one ST operation is entered whose WCT is module time, and the group goes on; a store to the
lane's own slice, in a protected launch each lane to its own, enters no operation. Every byte of memory outside the stored bytes is as it was.
A store on chip with some storing lane that fails (misaligned, or out of place) writes nothing and ends in MEMFAULT of the lanes that fail, with the address and the detail of the lowest of them; a store to
`.g` with a misaligned address in some storing lane writes nothing and ends in MEMFAULT with detail ZEROBITS of the misaligned lanes (from R31, R39, R54, R69, R73, R81, R154, R258 to R260). -/
def Obligations.OnChipStoresWriteTheirBytes : Prop :=
  ((∀ (s : State) (x : Ctx) (d a b : BitVec 8) (f : XF),
    ∀ p ∈ ([(.stCB32 d a b, .ofB d a 0, ⟨1, 4, b.toNat, false, 0, 0⟩), (.stCB32X f, f, ⟨1, 4, f.w2.toInt, false, 0, 0⟩), (.st f, f, memForm f)] :
        List (Instr × XF × MemForm)),
      let g := p.2.1
      let m := p.2.2
      let c := s.crew x.crew
      let h := c.inHandler x.lanes
      let ac := act s x g
      let addr := memAddr c h g m
      let lanes := (memLanes g.sd ac).filter fun l => !s.protectedCrew x.crew || decide (l % 2 = 0)
      let r := s.accesses x.crew m.sp (sizeBytes m.size) .store addr lanes
      let accs := r.1.map (withData c h g m.size)
      readyOut s x p.1.shape g = true → 1 ≤ m.sp → m.sp ≤ 3 → c.queue = none → ac ≠ 0 → State.acqPending c ac = false →
      (m.ord = true → c.openChecks ac = false ∧ ((lanesOf ac).all fun l => s.fenceOk x.crew l m.scope) = true) →
      c.clsRoom 1 = true → storeMismatch s x ac addr (storeData c h g m.size) = false → r.2 = [] →
        ∃ t, exec p.1 s = .next t ∧ t.mem = (accs.foldl State.storeHere s).mem ∧
          (∀ key, (∀ q ∈ accs, key ∉ q.keys) → t.mem.byte key = s.mem.byte key) ∧
          (∀ j, j ≠ x.crew → SMap.find? t.ex.crews j = SMap.find? s.ex.crews j) ∧ t.coh = s.coh ∧ t.tr = s.tr ∧ t.fr = s.fr ∧
          t.crew x.crew = goOnAll x ((popped s x p.1 g).addOp
            { id := 0, kind := .store, cls := 1, pc := x.pc, lanes := ac, issued := s.ctr, accs := accs.map fun q => { q with stage := 1, wct := s.now } })) ∧
  (∀ (s : State) (x : Ctx) (f : XF),
    let m := memForm f
    let c := s.crew x.crew
    let h := c.inHandler x.lanes
    let ac := act s x f
    let addr := memAddr c h f m
    let r := s.accesses x.crew 4 (sizeBytes m.size) .store addr (memLanes f.sd ac)
    let accs := r.1.map (withData c h f m.size)
    readyOut s x (Instr.st f).shape f = true → m.sp = 4 → ac ≠ 0 → State.acqPending c ac = false →
    (m.ord = true → c.openChecks ac = false ∧ ((lanesOf ac).all fun l => s.fenceOk x.crew l m.scope) = true) →
    storeMismatch s x ac addr (storeData c h f m.size) = false → r.2 = [] →
      ∃ t, exec (.st f) s = .next t ∧ t.mem = (accs.foldl State.storeHere s).mem ∧
        (∀ key, (∀ q ∈ accs, key ∉ q.keys) → t.mem.byte key = s.mem.byte key) ∧
        (∀ j, j ≠ x.crew → SMap.find? t.ex.crews j = SMap.find? s.ex.crews j) ∧ t.crew x.crew = goOnAll x (popped s x (.st f) f))) ∧
  (∀ (s : State) (x : Ctx) (d a b : BitVec 8) (f : XF),
    ∀ p ∈ ([(.stCB32 d a b, .ofB d a 0, ⟨1, 4, b.toNat, false, 0, 0⟩), (.stCB32X f, f, ⟨1, 4, f.w2.toInt, false, 0, 0⟩),
        (.stGB32 d a b, .ofB d a 0, ⟨0, 4, b.toNat, false, 0, 0⟩), (.stGB32X f, f, ⟨0, 4, f.w2.toInt, false, 0, 0⟩), (.st f, f, memForm f)] : List (Instr × XF × MemForm)),
      let g := p.2.1
      let m := p.2.2
      let n := sizeBytes m.size
      let c := s.crew x.crew
      let h := c.inHandler x.lanes
      let ac := act s x g
      let addr := memAddr c h g m
      let lanes := (memLanes g.sd ac).filter fun l => !s.protectedCrew x.crew || decide (m.sp = 4) || decide (l % 2 = 0)
      let fails := lanes.filterMap fun l =>
        if addr l % n ≠ 0 then some (l, 0x02)
        else if m.sp = 0 then none
        else match s.place x.crew l m.sp (addr l) n .store with
          | .error (.fault k) => some (l, k)
          | _ => none
      readyOut s x p.1.shape g = true → m.sp ≤ 4 → (c.queue = none ∨ m.sp = 0 ∨ m.sp = 4) → ac ≠ 0 → State.acqPending c ac = false → (m.sp = 4 ∨ c.clsRoom 1 = true) →
      (m.ord = true → c.openChecks ac = false ∧ ((lanesOf ac).all fun l => s.fenceOk x.crew l m.scope) = true) →
      storeMismatch s x ac addr (storeData c h g m.size) = false →
        ∀ l k rest, fails = (l, k) :: rest →
          exec p.1 s = .next (s.raise x ac ⟨1, k, laneSet fun j => fails.any fun q => decide (q.1 = j), addr l⟩))


/-- A store to `.g`, with or without `.rel`, outside speculative regions, with every address aligned and in place, leaves issue with its checks open: one ST operation is entered with
each lane's data, each active lane outside a handler counts it towards the hold of R261, and the group goes on. No byte of memory changes until
the home performs it (from R49, R66, R73, R260, R261). -/
def Obligations.GlobalStoresLeaveIssue : Prop :=
  ∀ (s : State) (x : Ctx) (d a b : BitVec 8) (f : XF),
    ∀ p ∈ ([(.stGB32 d a b, .ofB d a 0, ⟨0, 4, b.toNat, false, 0, 0⟩), (.stGB32X f, f, ⟨0, 4, f.w2.toInt, false, 0, 0⟩), (.st f, f, memForm f)] :
        List (Instr × XF × MemForm)),
      let g := p.2.1
      let m := p.2.2
      let c := s.crew x.crew
      let h := c.inHandler x.lanes
      let ac := act s x g
      let addr := memAddr c h g m
      let lanes := (memLanes g.sd ac).filter fun l => !s.protectedCrew x.crew || decide (l % 2 = 0)
      let r := s.accesses x.crew 0 (sizeBytes m.size) .store addr lanes
      let accs := r.1.map (withData c h g m.size)
      readyOut s x p.1.shape g = true → m.sp = 0 → (m.size = 7 → ∀ q ∈ r.1, q.loc < 2) → ac ≠ 0 → State.acqPending c ac = false → c.clsRoom 1 = true →
      (m.ord = true → c.openChecks ac = false ∧ ((lanesOf ac).all fun l => s.fenceOk x.crew l m.scope) = true) →
      storeMismatch s x ac addr (storeData c h g m.size) = false → r.2 = [] →
      (h || decide ((s.quad (quadOf x.crew)).sfq.length + s.openStores (quadOf x.crew) < 32)) = true →
        ∃ t, exec p.1 s = .next t ∧ (∀ key, t.mem.byte key = s.mem.byte key) ∧
          (∀ j, j ≠ x.crew → SMap.find? t.ex.crews j = SMap.find? s.ex.crews j) ∧
          t.crew x.crew = goOnAll x
            (let c' := (popped s x p.1 g).addOp
              { id := 0, kind := .store, cls := 1, pc := x.pc, lanes := ac, accs := accs, checked := false, issued := s.ctr, masked := h, errCls := noTrap }
            if h then c' else c'.mapLanes ac fun _ u => { u with skid := u.skid ++ [(c.nextOp, 0)] })

/-! ## Atomics, waits and barriers (chapter 13) -/

/-- ATOM, CAS and FATOM outside speculative regions, at every width, space and form. With every address in place and the
conditions of a `.rel` met, one operation is entered with each lane's operands and D (where it is written) EMPTY until its result. On chip each
storing lane's access is performed in lane order: its bytes take the new value that the operation makes of the bytes found, and no other byte changes; one lane's access keeps the bytes found. In
`.g` no byte changes until the home performs it (from R40, R67, R73, R79, R268). -/
def Obligations.AtomicsAreOneOperation : Prop :=
  ∀ (s : State) (x : Ctx) (f : XF),
    ∀ p ∈ ([(.atom f, f.vN, f.o0), (.cas f, 16, f.o0), (.fatom f, 32 + f.vN, false)] : List (Instr × Nat × Bool)),
      let op := p.2.1
      let wide := p.2.2
      let c := s.crew x.crew
      let h := c.inHandler x.lanes
      let ac := act s x f
      let sp := bits f.w2.toNat 2 0
      let n := if wide then 8 else 4
      let m : MemForm := { sp := sp, size := if wide then 5 else 4, disp := 0 }
      let addr := memAddr c h f m
      let b := fun l => BitVec.ofNat 64 (fldB s x f wide l)
      let cv := fun l => if op = 16 then BitVec.ofNat 64 (fldC s x f wide l) else 0#64
      let lanes := (memLanes (p.1.shape.uniform f) ac).filter fun l => !s.protectedCrew x.crew || decide (l % 2 = 0)
      let r := s.accesses x.crew sp n .atom addr lanes
      readyOut s x p.1.shape f = true → sp ≤ 3 → (c.queue = none ∨ sp = 0) → ac ≠ 0 → State.acqPending c ac = false → c.clsRoom 1 = true →
      (bitOf f.w2.toNat 4 = true → c.openChecks ac = false ∧ ((lanesOf ac).all fun l => s.fenceOk x.crew l (bits f.w2.toNat 6 5)) = true) →
      (s.protectedCrew x.crew && State.pairsDiffer ac fun l => [addr l, (b l).toNat, (cv l).toNat]) = false → r.2 = [] →
        let c0 := popped s x p.1 f
        let d := if f.o1 then (c0, []) else
          c0.destinations p.1.shape f x.pc ac (if f.sd then sizeDests m.size true f.d.toNat 0 else (lanesOf ac).flatMap fun l => sizeDests m.size false f.d.toNat l)
        let o : Op :=
          { id := 0, kind := .atomic, cls := 1, pc := x.pc, lanes := ac, dests := d.2, fmt := op, d := f.d.toNat, sd := f.sd, w := wide
            b := lanes.map fun l => (l, b l), cval := lanes.map fun l => (l, cv l), acq := bitOf f.w2.toNat 3, issued := s.ctr, masked := h }
        ∃ t accs, exec p.1 s = .next t ∧ (∀ j, j ≠ x.crew → SMap.find? t.ex.crews j = SMap.find? s.ex.crews j) ∧
          (accs.map fun q => (q.lane, q.addr, q.keys)) = (r.1.map fun q => (q.lane, q.addr, q.keys)) ∧
          (t.crew x.crew = goOnAll x (let c' := d.1.addOp { o with accs := accs }; c'.markEmpty (c'.realDests h d.2))) ∧
          (sp = 0 → accs = r.1 ∧ ∀ key, t.mem.byte key = s.mem.byte key) ∧
          (sp ≠ 0 →
            (∀ key, (∀ q ∈ r.1, key ∉ q.keys) → t.mem.byte key = s.mem.byte key) ∧ (∀ q ∈ accs, q.stage = 1 ∧ q.wct = s.now) ∧
            (let one := fun (s : State) (q : Acc) => s.performBytes (q.keys.zip
                (leBytes n (atomNew op (8 * n) (leNat (q.keys.map s.mem.byte)) (b q.lane).toNat (cv q.lane).toNat)))
              ∀ key, t.mem.byte key = (r.1.foldl one s).mem.byte key) ∧
            ∀ q, r.1 = [q] → accs = [{ q with data := q.keys.map s.mem.byte, pois := s.poisonWords q.keys, stage := 1, wct := s.now }])

/-- The waits of a thread on its own operations and on time. Each goes on at once where its condition
holds for every active lane, WAITC with the status word OK; else the group waits as one, and nothing else changes. WAITC with no timeout
answers TIMEOUT at once.
A WAITAD whose addresses are in place enters the wait: every active lane keeps its own address, condition and value, D is EMPTY until the
wait ends, and no byte of memory changes (from R72, R95, R112, R262, R263, R270, R325, R93, R269). -/
def Obligations.FencesAndWaitsGoOnOrWait : Prop :=
  (∀ (s : State) (x : Ctx),
    let c := s.crew x.crew
    let Stall := fun (i : Instr) (g f : XF) (kind : WaitKind) (ok : Nat → Bool) =>
      readyOut s x i.shape g = true → c.openChecks (act s x g) = false →
        ((lanesOf (act s x g)).all ok = true → Leaves s x i (goOnAll x c))
        ∧ ((lanesOf (act s x g)).all ok = false →
            exec i s = .next (s.waitFor x x.lanes fun _ => { kind := kind, lanes := act s x g, d := f.d.toNat }).endIssue)
    (∀ scope, Stall (.fence scope) .zero .zero (.fence scope.toNat) fun l => s.fenceOk x.crew l scope.toNat)
    ∧ (∀ f, Stall (.fenceX f) f .zero (.fence (f.d.toNat % 4)) fun l => s.fenceOk x.crew l (f.d.toNat % 4))
    ∧ (∀ f, Stall (.sdrain f) f .zero .sdrain fun l => s.drained x.crew l)
    ∧ (∀ f, readyOut s x (Instr.waitc f).shape f = true → act s x f ≠ 0 →
        let tmo := bits f.c.toNat 4 0
        (c.outstanding f.vN ≤ f.w2.toNat → WritesD s x (.waitc f) f false false fun _ => status 0 0 0)
        ∧ (f.w2.toNat < c.outstanding f.vN → tmo = 0 → WritesD s x (.waitc f) f false false fun _ => status 0 0 1)
        ∧ (f.w2.toNat < c.outstanding f.vN → tmo ≠ 0 → exec (.waitc f) s = .next (s.waitFor x x.lanes fun _ =>
            { kind := .waitc f.vN f.w2.toNat c.nextOp, deadline := some (s.now + 2 ^ (tmo + 3)), lanes := act s x f, d := waitDest (Instr.waitc f).shape f,
              sd := f.sd }).endIssue))
    ∧ ∀ f, may s x (Instr.sleep f).shape f = true →
        let tmo := bits f.c.toNat 4 0
        let wake := fun l => if f.vN = 0 then s.now + f.w2.toNat else min (if tmo = 0 then s.now else s.now + 2 ^ (tmo + 3)) (fldA s x f true l)
        (((lanesOf (act s x f)).all fun l => decide (wake l ≤ s.now)) = true → Leaves s x (.sleep f) (goOnAll x c))
        ∧ (((lanesOf (act s x f)).all fun l => decide (wake l ≤ s.now)) = false →
            exec (.sleep f) s = .next (s.waitFor x x.lanes fun l => { kind := .sleep, deadline := some (wake l), lanes := act s x f }).endIssue)) ∧
  (∀ (s : State) (x : Ctx) (f : XF),
    let c := s.crew x.crew
    let h := c.inHandler x.lanes
    let ac := act s x f
    let m : MemForm := { sp := f.ownN, size := 4, disp := f.w2.toInt }
    let tmo := bits f.c.toNat 4 0
    let r := s.accesses x.crew f.ownN 4 .load (memAddr c h f m) (lanesOf ac)
    readyOut s x (Instr.waitad f).shape f = true → (c.queue = none ∨ f.ownN = 0) → ac ≠ 0 → State.acqPending c ac = false → r.2 = [] →
      ∃ t, exec (.waitad f) s = .next t ∧ (∀ key, t.mem.byte key = s.mem.byte key) ∧
        (∀ j, j ≠ x.crew → SMap.find? t.ex.crews j = SMap.find? s.ex.crews j) ∧
        ∀ l, hasLane x.lanes l = true → SMap.find? c.threads l ≠ none →
          let u := (t.crew x.crew).thread l
          (∃ b, u.blocked = some b ∧ b.kind = .waitad f.ownN (memAddr c h f m l) f.vN (BitVec.ofNat 32 (fldB s x f false l)) (bits f.c.toNat 7 5) ∧
            b.deadline = some (if tmo = 0 then s.now else s.now + 2 ^ (tmo + 3)) ∧ b.lanes = ac ∧ b.fin = none) ∧
          u.pc = (c.thread l).pc ∧ (hasLane ac l = true → f.sd = false → waitDest (Instr.waitad f).shape f < 256 → u.vE.getLsbD f.d.toNat = true))

/-- Block barriers, outside speculative regions. BARINIT makes an entry with its count, no arrival and the next generation, and answers OK; FULL with 32 entries in use,
BUSY once a crew has arrived, FORM for a count out of range. BARKILL makes an entry KILLED and ends the waits on it, and answers FORM where there is none. A BAR answers FORM or KILLED at once. Else the group waits at it, and its crew
arrives once every live thread stands there and has met a `.c` FENCE: with fewer arrivals than the count the entry notes it, and the wait goes on unless its time is 0; with the last arrival the entry starts its next generation with no arrival,
and the waiting lanes of the crew go on with OK (from R267, R271). -/
def Obligations.BlockBarriersArriveAndRelease : Prop :=
  ∀ (s : State) (x : Ctx) (f : XF),
    let c := s.crew x.crew
    let ac := act s x f
    let id := bits f.w2.toNat 4 0
    let ent := s.barEnt c.block id
    let bars := (s.core (coreOf x.crew)).bars
    (readyOut s x (Instr.barinit f).shape f = true → ac ≠ 0 →
      let count := bits f.w2.toNat 12 8
      let e := ent.getD { block := c.block, id := id }
      let gen := (e.gen + 1) % 65536
      (ent = none → 32 ≤ bars.length → WritesD s x (.barinit f) f false false fun _ => status 0 0 4)
      ∧ ((ent ≠ none ∨ bars.length < 32) → e.mask ≠ 0 → WritesD s x (.barinit f) f false false fun _ => status e.gen 0 3)
      ∧ ((ent ≠ none ∨ bars.length < 32) → e.mask = 0 → (count = 0 ∨ 16 < count) → WritesD s x (.barinit f) f false false fun _ => status e.gen 0 5)
      ∧ ((ent ≠ none ∨ bars.length < 32) → e.mask = 0 → 1 ≤ count → count ≤ 16 →
          ∃ t, exec (.barinit f) s = .next t ∧ t.mem = s.mem ∧ (∀ j, j ≠ x.crew → SMap.find? t.ex.crews j = SMap.find? s.ex.crews j) ∧
            t.crew x.crew = wrote c x (Instr.barinit f).shape f ac false false (fun _ => status gen 0 0) ∧
            t.barEnt c.block id = some { e with state := 1, count := count, gen := gen, mask := 0 }))
    ∧ (readyOut s x (Instr.barkill f).shape f = true → ac ≠ 0 →
        (ent = none → WritesD s x (.barkill f) f false false fun _ => status 0 0 5)
        ∧ ∀ e, ent = some e →
          let u := (s.setBar c.block { e with state := 2, mask := 0 }).barRelease c.block id 0xFFFF#16 e.gen 6
          exec (.barkill f) s = .next (writeD u x (Instr.barkill f).shape f ac false false fun _ => status e.gen 0 0).endIssue)
    ∧ (readyOut s x (Instr.bar f).shape f = true → ac ≠ 0 →
        (ent = none → WritesD s x (.bar f) f false false fun _ => status 0 0 5)
        ∧ ∀ e, ent = some e →
          (e.state = 0 → WritesD s x (.bar f) f false false fun _ => status e.gen 0 5)
          ∧ (e.state = 2 → WritesD s x (.bar f) f false false fun _ => status e.gen 0 6)
          ∧ (e.state ≠ 0 → e.state ≠ 2 →
              let t0 := if c.atBar id = 0 then s.now else c.barAt.getD s.now
              let u := (s.waitFor x x.lanes fun _ =>
                  { kind := .bar id, deadline := some (t0 + 2 ^ (bits f.c.toNat 4 0 + 3)), lanes := ac, d := waitDest (Instr.bar f).shape f,
                    sd := f.sd }).modCrew x.crew fun c => { c with barAt := some t0 }
              let v := u.barArrive x.crew id
              exec (.bar f) s = .next (if bits f.c.toNat 4 0 = 0 ∧ (v.crew x.crew).atBar id ≠ 0 then v.barTimeout x.crew id else v).endIssue)
          ∧ (e.state = 1 → e.mask.getLsbD c.idx = false → c.live ≠ 0 → c.live &&& ~~~(c.atBar id ||| x.lanes) = 0 → ((lanesOf c.live).all fun l => s.fenceOk x.crew l 0) = true →
              let mask := e.mask ||| (1#16 <<< c.idx)
              let n := ((List.range 16).filter mask.getLsbD).length
              let gen := (e.gen + 1) % 65536
              (n < e.count → bits f.c.toNat 4 0 ≠ 0 → ∃ t, exec (.bar f) s = .next t ∧ t.mem = s.mem ∧ t.barEnt c.block id = some { e with mask := mask } ∧
                ∀ l, hasLane x.lanes l = true → SMap.find? c.threads l ≠ none → ∃ b, ((t.crew x.crew).thread l).blocked = some b ∧ b.kind = .bar id ∧ b.lanes = ac)
              ∧ (e.count ≤ n → c.idx < 16 → x.crew ∈ (s.block c.block).crews → ∃ t, exec (.bar f) s = .next t ∧ t.mem = s.mem ∧
                t.barEnt c.block id = some { e with mask := 0, gen := gen } ∧
                ∀ l, hasLane x.lanes l = true → hasLane c.live l = true → ((t.crew x.crew).thread l).blocked = none ∧
                  (x.rep = none → ((t.crew x.crew).thread l).pc = x.next) ∧
                  (hasLane ac l = true → f.sd = false → waitDest (Instr.bar f).shape f < 256 →
                    ((t.crew x.crew).thread l).rd f.d.toNat = BitVec.ofNat 32 (status gen 0 0)))))

/-- The instructions of an arrival barrier outside speculative regions. Where the crew reaches the object's bytes at an aligned address, and no other update or access on its way holds them: ABTEST
answers OK, ERROR or KILLED as the named chunks and the state of the object say, NOTYET when nothing has come, FORM for a chunk that the object has not;
ABWAIT answers so at once, with TIMEOUT for a time of 0, or waits, counted among the object's waiters; ABINIT arms an object that none waits on and no reference holds, counting its generation on, and answers BUSY
else, and FULL where a `.c` object finds no entry of the core; BARKILL.ab kills it; of an object that is IDLE or KILLED it changes nothing and answers OK (log entry 218). A misaligned address answers FORM (from R114 to R120, R125, R272). -/
def Obligations.ArrivalBarriersAnswer : Prop :=
  ∀ (s : State) (x : Ctx) (f : XF),
    let c := s.crew x.crew
    let hd := c.inHandler x.lanes
    let k := x.crew
    let ac := act s x f
    let sp := abSpace f.ownN
    let addr := abAddr c hd f ac
    let r := s.abRefOf k sp addr
    let old := s.abHdr 0 true r
    let hdr := s.abHdr (s.holderOf k) false r
    let all := decide (f.vN = 1)
    let first := bits f.w2.toNat 11 0
    let mask := if all then 0 else abMask c hd f ac
    let tmo := bits f.c.toNat 4 0
    let cond := s.abCond (s.holderOf k) r (State.abChunks all first hdr.nchunk mask)
    let ans := fun none => status hdr.gen hdr.err (if cond = 1 then 0 else if cond = 2 then 2 else if cond = 3 then 6 else none)
    let Ready := fun (i : Instr) => readyOut s x i.shape f = true ∧ ac ≠ 0 ∧ State.acqPending c ac = false
    let Reached := fun (i : Instr) => Ready i ∧
      (if sp = 4 then addr < s.nslot k
       else s.abFault k sp addr 64 = none ∧ addr % 64 = 0 ∧ s.abFault k sp addr (abBytes old.nchunk old.ncont) = none ∧ s.abBusy k r = false)
    (∀ i ∈ [Instr.abtest f, .abwait f, .barkillAb f], Ready i → sp ≠ 4 → s.abFault k sp addr 64 = none → addr % 64 ≠ 0 →
        WritesD s x i f false false fun _ => status 0 0 5)
    ∧ (Reached (.abtest f) → WritesD s x (.abtest f) f false false fun _ =>
        if abBeyond all first hdr.nchunk mask then status hdr.gen hdr.err 5 else ans 7)
    ∧ (Reached (.abwait f) → abBeyond all first hdr.nchunk mask = true → WritesD s x (.abwait f) f false false fun _ => status hdr.gen hdr.err 5)
    ∧ (Reached (.abwait f) → abBeyond all first hdr.nchunk mask = false →
        ((cond ≠ 0 ∨ tmo = 0) → WritesD s x (.abwait f) f false false fun _ => ans 1)
        ∧ (cond = 0 → tmo ≠ 0 →
            exec (.abwait f) s = .next ((((s.popped x (Instr.abwait f).shape f ac).waitFor x x.lanes fun _ =>
              { kind := .abwait sp addr all first mask, deadline := some (s.now + 2 ^ (tmo + 3)), lanes := ac, d := waitDest (Instr.abwait f).shape f,
                sd := f.sd }).abWaiters k r ac false).endIssue)))
    ∧ (Reached (.barkillAb f) → sp ≠ 4 → (old.state = 1 ∨ old.state = 2 ∨ old.state = 3) →
        let u := ((s.abPutHdr k ac r { old with state := 4, tdone := if old.state = 1 then s.now else old.tdone }).abTidy r).abWake
        exec (.barkillAb f) s = .next (writeD u x (Instr.barkillAb f).shape f ac false false fun _ => status old.gen old.err 0).endIssue)
    ∧ (Reached (.barkillAb f) → sp ≠ 4 → old.state ≠ 1 → old.state ≠ 2 → old.state ≠ 3 →
        WritesD s x (.barkillAb f) f false false fun _ => status old.gen old.err 0)
    ∧ (Reached (.barkillAb f) → sp = 4 →
        exec (.barkillAb f) s = .next (writeD (s.slotForce r.core r.addr) x (Instr.barkillAb f).shape f ac false false fun _ => status old.gen old.err 0).endIssue)
    ∧ (Ready (.abinit f) → sp ≠ 4 →
        let nchunk := bits f.w2.toNat 12 0
        let ncont := bits f.w2.toNat 16 13
        let n := abBytes nchunk ncont
        let home := if sp = 1 then (c.rdW hd f.sb f.b.toNat ((lowLane ac).getD 0)).toNat else 0
        let free := s.abFree (coreOf k) (if r.sp = 1 then some r.addr else none)
        1 ≤ nchunk → nchunk ≤ 4096 → ncont ≠ 0 → s.abFault k sp addr n = none → addr % 64 = 0 → (sp = 1 → home ≠ 0 ∧ home % 64 = 0 ∧ s.abFault k 0 home n = none) →
        s.abBusy k r n = false →
          ((0 < old.waiters ∨ 0 < old.refs) → WritesD s x (.abinit f) f false false fun _ => status old.gen old.err 3)
          ∧ (old.waiters = 0 → old.refs = 0 →
              (sp ≠ 1 → exec (.abinit f) s = .next (writeD (s.abArm k ac r old 0 nchunk ncont) x (Instr.abinit f).shape f ac false false
                fun _ => status (old.gen + 1) 0 0).endIssue)
              ∧ (sp = 1 → free = none → WritesD s x (.abinit f) f false false fun _ => status old.gen old.err 4)
              ∧ (∀ j, sp = 1 → free = some j →
                  let u := if r.sp = 0 then s.abArm k ac r old home nchunk ncont else s
                  let u := u.modBlock c.block fun b => { b with homed := b.homed.filter fun p => !decide (p.1 = addr) }
                  let e : AbEnt := { key := (s.block c.block).scrBase.toNat + addr, prt := s.crewPart k, home := home, launch := c.launch.getD 0 }
                  let u := u.modCore (coreOf k) fun c => { c with ab := SMap.put (if r.sp = 1 then SMap.erase c.ab r.addr else c.ab) j e }
                  exec (.abinit f) s = .next (writeD (u.abArm k ac ⟨1, j, c.launch.getD 0, coreOf k, s.crewPart k⟩ old home nchunk ncont) x (Instr.abinit f).shape f ac false false
                    fun _ => status (old.gen + 1) 0 0).endIssue)))

/-- The exchanges within a crew. SHF gives each active lane the A of the lane that its mode, offset and policy name in its
sub-group; VOTE writes whether some, all, or all alike of the active lanes hold the predicate; BALLOT the mask of those that do; REDUX the combination of
their values. In a protected launch the pairs count, not the lanes (from R154, R273, R274). -/
def Obligations.ExchangesAcrossTheCrew : Prop :=
  ∀ (s : State) (x : Ctx) (f : XF),
    let c := s.crew x.crew
    let ac := act s x f
    let prot := s.protectedCrew x.crew
    let vs := voters prot ac
    let pr := fun l => decide (f.a.toNat = 7) || (c.thread l).p.getLsbD f.a.toNat
    let src := fun l =>
      let u : Nat := if prot then l / 2 else l
      let w : Nat := 2 ^ (bits f.c.toNat 3 1 + 1)
      let o : Nat := u % w
      let b : Nat := opB s x f false l
      let j : Int := match bits f.vN 1 0 with
        | 0 => b
        | 1 => (o : Int) - b
        | 2 => (o : Int) + b
        | _ => ((o ^^^ b : Nat) : Int)
      let k : Option Nat := if 0 ≤ j ∧ j < w then some j.toNat
        else match bits f.vN 3 2 with
          | 0 => some (j % (w : Int)).toNat
          | 1 => some (if j < 0 then 0 else w - 1)
          | 2 => some o
          | _ => none
      k.map fun k => if prot then 2 * (u - o + k) + l % 2 else u - o + k
    (shfReady s x f src = true → WritesD s x (.shf f) f f.o0 false fun l => fldA s x f f.o0 ((src l).getD l))
    ∧ (may s x (Instr.vote f).shape f = true → ac ≠ 0 →
        let r := match f.vN with
          | 0 => vs.any pr
          | 1 => vs.all pr
          | _ => vs.all pr || !vs.any pr
        if f.sd then WritesD s x (.vote f) f false false fun _ => if r then 1 else 0 else WritesP s x (.vote f) f fun _ => r)
    ∧ (may s x (Instr.ballot f).shape f = true → ac ≠ 0 →
        WritesD s x (.ballot f) f true false fun _ => (laneSet fun b => if prot then decide (b < 32) && vs.any fun l => decide (l / 2 = b) && pr l else vs.contains b && pr b).toNat)
    ∧ (ready s x (Instr.redux f).shape f = true → ac ≠ 0 →
        let n := bitsOf f.o0
        let op := fun a b => match f.vN with
          | 0 => (a + b) % 2 ^ n
          | 1 => if sval n a ≤ sval n b then a else b
          | 2 => if sval n b ≤ sval n a then a else b
          | 3 => min a b
          | 4 => max a b
          | 5 => a &&& b
          | 6 => a ||| b
          | _ => a ^^^ b
        ∀ vals v, vs.map (fldA s x f f.o0) = vals ++ [v] → WritesD s x (.redux f) f f.o0 false fun _ => vals.foldr op v)

/-! ## Engines, streams and pans (chapters 05, 06 and 15) -/

/-- COPY puts the command that its image describes at the end of its channel's queue, with one CP operation, once the channel is
the partition's, the image is well formed, its addresses are in place, the operation has room and its barrier, if it names one, gives a reference; GATHER at the
end of the queue of the partition's gather engine with the fewest commands; CHAIN starts a chain on a channel that has none running, and answers BUSY on one that
has (from R98 to R104, R108, R310 to R312). -/
def Obligations.EngineCommandsAreQueued : Prop :=
  (∀ (s : State) (x : Ctx) (f : XF),
    let c := s.crew x.crew
    let k := x.crew
    let core := coreOf k
    let h := c.inHandler x.lanes
    let ch := bits f.w2.toNat 2 0
    let q := s.chan core ch
    (readyOut s x (Instr.copy f).shape f = true →
      let v := imageOf c h f.a.toNat 16
      let cmd := copyOf v (s.core core).nextCmd k c.nextOp x.pc (s.engCtx k)
      let bar := recBar v
      let r := s.abRefOf k (recBarSp v) bar
      q.owner.toNat = 128 + s.crewPart k → copyFormBad v false = false → bitOf v 0 = true → s.copyFault k cmd = none → c.clsRoom 2 = true →
      q.queue.length < 16 →
      ∀ s' cmd', ((bar = 0 ∧ s' = s ∧ cmd' = cmd)
          ∨ (bar ≠ 0 ∧ s.barFault k (recBarSp v) bar = none ∧ s.abBusy k r = false ∧
            ∃ gen, s.barTake r (cmd.chb + cmd.chunkCount - 1) = .ok (s', gen) ∧ cmd' = { cmd with bar := some r, gen := gen })) →
        ∃ t, exec (.copy f) s = .next t ∧ t.mem = s'.mem ∧ (t.chan core ch).queue = q.queue ++ [cmd'] ∧ (t.core core).nextCmd = (s'.core core).nextCmd + 1 ∧
          t.crew k = goOnAll x ((s'.crew k).addOp
            { id := 0, kind := .copy, cls := 2, pc := x.pc, lanes := x.lanes, issued := s'.ctr, errCls := 11 }))
    ∧ (readyOut s x (Instr.chain f).shape f = true → act s x f ≠ 0 →
        let addr := if f.ownN = 0 then (c.rdW h true f.a.toNat 0).toNat else (c.rdS h f.a.toNat).toNat
        let running := match q.chain with
          | some n => !n.parked
          | none => false
        q.owner.toNat = 128 + s.crewPart k → addr % 64 = 0 →
        s.rangeFault k f.ownN addr 64 (if f.ownN = 0 then { r := true, w := true, e := true } else {}) = none →
          (running = true → WritesD s x (.chain f) f false false fun _ => status 0 0 3)
          ∧ (running = false → c.clsRoom 2 = true → ∃ t, exec (.chain f) s = .next t ∧ t.mem = s.mem ∧
              t.chan core ch = { q with
                chain := some { sp := f.ownN, addr := addr, crew := k, op := c.nextOp, pc := x.pc, ctx := s.engCtx k }
                ending := q.ending ++ q.chain.toList.filter (·.rest) } ∧
              t.crew k = wrote (c.addOp { id := 0, kind := .chain, cls := 2, pc := x.pc, lanes := x.lanes, issued := s.ctr, errCls := 11 }) x
                (Instr.chain f).shape f (act s x f) false false fun _ => status 0 0 0))) ∧
  (∀ (s : State) (x : Ctx) (f : XF),
    let c := s.crew x.crew
    let k := x.crew
    let v := imageOf c (c.inHandler x.lanes) f.a.toNat 8
    let bar := bits v 191 128
    let bsp := bits v 19 17
    let r := s.abRefOf k bsp bar
    ∀ e, s.shortest (s.gathersOf (dieOf (coreOf k)) (s.crewPart k)) = some e →
      let cmd := gatherOf v (16 * (f.w2.toNat % 256 + 1)) (s.gather e).nextCmd k c.nextOp x.pc (s.engCtx k)
      readyOut s x (Instr.gather f).shape f = true → gatherFormBad v = false → s.gatherFault k cmd = none → c.clsRoom 4 = true → (s.gather e).queue.length < 32 →
      ∀ s' cmd', ((bar = 0 ∧ s' = s ∧ cmd' = { cmd with bar := none, gen := 0 })
          ∨ (bar ≠ 0 ∧ s.barFault k bsp bar = none ∧ s.abBusy k r = false ∧
            ∃ gen, s.barTake r (cmd.chb + cmd.chunkCount - 1) = .ok (s', gen) ∧ cmd' = { cmd with bar := some r, gen := gen })) →
        ∃ t, exec (.gather f) s = .next t ∧ t.mem = s'.mem ∧ (t.gather e).queue = (s'.gather e).queue ++ [cmd'] ∧
          t.crew k = goOnAll x ((s'.crew k).addOp
            { id := 0, kind := .gather, cls := 4, pc := x.pc, lanes := x.lanes, issued := s'.ctr, errCls := 11 }))

/-- QBIND binds a port of a crew with 256 registers to the stream that its image describes; QUNB of a port with no push
left to send frees it and leaves 0, FULL, in the register behind it; QFLUSH discards what a load stream has fetched and reads on, and waits on a store
stream until its pushes have retired (from R110, R111, R313, R314). -/
def Obligations.StreamsAreBoundAndFreed : Prop :=
  ∀ (s : State) (x : Ctx) (f : XF),
    let c := s.crew x.crew
    let h := c.inHandler x.lanes
    let port := f.d.toNat
    (readyOut s x (Instr.qbind f).shape f = true →
      let rd := fun j => c.rdS h (f.a.toNat + j)
      let sp := bits f.w2.toNat 2 0
      let st : Stream := { space := sp, base := if sp = 0 then (rd 1 ++ rd 0).toNat else (rd 0).toNat, count := (rd 2).toNat, step := (rd 3).toInt,
                           stride := (rd 4).toInt, bound := c.nextOp, pc := x.pc, prot := s.protectedCrew x.crew }
      c.live &&& ~~~x.lanes = 0 → 256 ≤ c.nregs → SMap.find? c.streams port = none → 1 ≤ st.count → st.count ≤ 65536 → (sp ≠ 0 → rd 1 = 0) →
      st.step % 4 = 0 → st.stride % 4 = 0 → st.base % 4 = 0 → s.rangeFault x.crew sp st.range.1 st.range.2 (if port < 4 then .engRead else .engWrite) = none →
        Leaves s x (.qbind f) (goOnAll x { c with streams := SMap.put c.streams port st }))
    ∧ ∀ st, SMap.find? c.streams port = some st → c.live &&& ~~~x.lanes = 0 →
        (readyOut s x (Instr.qunb f).shape f = true → st.queued = [] →
          Leaves s x (.qunb f) (goOnAll x (Crew.mapLanes { c with streams := SMap.erase c.streams port } (BitVec.allOnes 64) fun _ t => t.wr (248 + port) 0)))
        ∧ (readyOut s x (Instr.qflush f).shape f = true → port < 4 →
            Leaves s x (.qflush f) (goOnAll x { c with streams := SMap.put c.streams port { st with fetched := [], bound := c.nextOp } }))
        ∧ (readyOut s x (Instr.qflush f).shape f = true → 4 ≤ port → c.openPushes port = false → Leaves s x (.qflush f) (goOnAll x c))

/-- A reservation with no room among the sender's 32 entries answers FULL and leaves the core as it was; one that passes its
checks enters a PN operation and its request and leaves its four registers EMPTY; so does a put whose sender entry is there with its mode. PANREL frees an idle slot of the
launch's own pan and PANQRY reads a slot's record into six registers (from R123 to R130, R316 to R318). -/
def Obligations.PansReservePutAndRelease : Prop :=
  ∀ (s : State) (x : Ctx) (f : XF) (lit : BitVec 64),
    let c := s.crew x.crew
    let k := x.crew
    let core := coreOf k
    let h := c.inHandler x.lanes
    let hdr := panHdr f.w2.toNat
    let port := bits hdr 5 1
    let a := (c.rdS h f.a.toNat).toNat
    let b := (c.rdS h f.b.toNat).toNat
    let Routed := unroutable lit.toNat hdr = false ∧ (port < 24 → (s.port port).owner.toNat = 128 + s.crewPart k) ∧ s.routeBad core lit.toNat hdr = false
    (readyOut s x (Instr.panrsv f lit).shape f = true → Routed → rsvFormBad f.w2.toNat b = false →
      (32 ≤ s.senderHeld core →
        Leaves s x (.panrsv f lit) (goOnAll x (c.applyWrites h ((List.range 4).map fun j => ⟨none, f.d.toNat + j, if j = 0 then 4#32 else 0#32⟩))))
      ∧ (s.senderHeld core < 32 → c.clsRoom 5 = true →
          let u := s.panIssue x false f lit a b ((List.range 4).map fun j => (none, f.d.toNat + j))
          ((s.port port).down = false → exec (.panrsv f lit) s = .next (((u.sendPans core).advance x).endIssue))
          ∧ ((s.port port).down = true → ∀ r, SMap.find? (u.core core).panReqs (s.core core).nextCmd = some r →
              exec (.panrsv f lit) s = .next ((((u.breach r.ctx.launch 0x24 r.port 255).answerReq core (s.core core).nextCmd r [] (some 0x1B)).advance x).endIssue))))
    ∧ (readyOut s x (Instr.panput f lit).shape f = true → Routed → putFormBad f.w2.toNat a b = false →
        s.rangeFault k 1 a (512 * (bits f.w2.toNat 15 12 + 1)) {} = none → c.clsRoom 5 = true →
        ∀ j e, s.sendEnt core (c.launch.getD 0) lit.toNat hdr (panSlot f.w2.toNat) (bits b 31 16) = some (j, e) → e.mode = panMode f.w2.toNat →
          exec (.panput f lit) s = .next ((((s.panIssue x true f lit a b []).sendPans core).advance x).endIssue))
    ∧ (let slot := bits f.w2.toNat 5 0
      let key := State.slotKey (c.launch.getD 0) slot
      let p := s.slot core key
      act s x f ≠ 0 → slot < s.nslot k →
        (readyOut s x (Instr.panrel f).shape f = true → f.vN = 0 →
          ((0 < p.refs ∨ p.state = 1 ∨ p.state = 2) → WritesD s x (.panrel f) f false false fun _ => status p.gen.toNat 0 3)
          ∧ (p.refs = 0 → p.state = 0 → WritesD s x (.panrel f) f false false fun _ => status p.gen.toNat 0 0)
          ∧ (p.refs = 0 → p.state ≠ 0 → p.state ≠ 1 → p.state ≠ 2 → ∃ t, exec (.panrel f) s = .next t ∧ t.mem = s.mem ∧
              t.slot core key = { p with state := 0, abState := 0, ports := 0 } ∧
              t.crew k = wrote c x (Instr.panrel f).shape f (act s x f) false false fun _ => status p.gen.toNat 0 0))
        ∧ (readyOut s x (Instr.panrel f).shape f = true → f.vN = 1 →
            exec (.panrel f) s = .next (writeD (s.slotForce core key) x (Instr.panrel f).shape f (act s x f) false false fun _ => status p.gen.toNat 0 0).endIssue)
        ∧ (readyOut s x (Instr.panqry f).shape f = true →
            let v := p.record (key % 64)
            let regs := fun (l : Option Nat) => (List.range 6).map fun j => (⟨l, f.d.toNat + j, BitVec.ofNat 32 (v / 2 ^ (32 * j))⟩ : RegWrite)
            Leaves s x (.panqry f) (goOnAll x (c.applyWrites h (if f.sd then regs none else (lanesOf (act s x f)).flatMap fun l => regs (some l))))))

/-! ## The matrix unit (chapters 04 and 14) -/

/-- The counted matrix instructions (MLDB, MMA, MMAW, MZERO, MSTA, MLDA, SCAC) of a group that is the whole crew: with their operands in reach, their
registers FULL, no earlier store, atomic or push of the crew on chip left to perform, and room in their class, each enters one MX operation and
goes to the quadrant's queue at once (DIR), or is posted on its convergence register, which then fires as often as its signatures allow.
CVSET gives a register with no signature and no post its count; MSTAT reads a convergence register's posts, generation, signatures and count, or the
queue's length, the held buffer's format, mode and slot and the windrow entries of the partition; SIGN notes a signature for each active thread, for
each pair of a protected launch, on a register whose count is not 0 (from R283 to R286, R299). -/
def Obligations.MatrixInstructionsArePosted : Prop :=
  (∀ (s : State) (x : Ctx) (f : XF),
    let k := x.crew
    let c := s.crew k
    let a := (c.rdS (c.inHandler x.lanes) f.a.toNat).toNat
    let b := if f.sb then (c.rdS (c.inHandler x.lanes) f.b.toNat).toNat else 0
    let quad := quadOf k
    let n := bits f.c.toNat 3 0
    let cv := s.cv quad n
    ∀ p ∈ ([(.mldb f, mldbCheck f s k a, mldbMeta f s k, mldbWait f s k), (.mma f, mmaCheck f s k a b, [], false), (.mmaw f, mmawCheck f s k b, [], false),
        (.mzero f, none, [], false), (.msta f, s.mxRange k (f.ownN + 1) a 16384 64 .store, [], false),
        (.mlda f, s.mxRange k (f.ownN + 1) a 16384 64 .load, [], false), (.scac f, s.mxRange k (f.ownN + 1) a 512 64 .load, [], false)] :
        List (Instr × MxBad × List Nat × Bool)),
      readyOut s x p.1.shape f = true → c.live &&& ~~~x.lanes = 0 → p.2.1 = none → p.2.2.2 = false → c.chipOpen c.nextOp = false → c.clsRoom 3 = true →
        let o : MxOp := { crew := k, op := c.nextOp, instr := p.1, a := a, b := b, metad := p.2.2.1, prio := c.prio }
        let s' := s.modCrew k fun c => c.addOp { id := 0, kind := .matrix, cls := 3, pc := x.pc, lanes := act s x f, issued := s.ctr }
        (bitOf f.c.toNat 4 = true → (s.quad quad).mq.length < 16 → (s.quad quad).fired = [] →
          exec p.1 s = .next (((s'.mxDispatch quad o).mxStamp (quad / 4)).advance x).endIssue)
        ∧ (bitOf f.c.toNat 4 = false → cv.count ≠ 0 → cv.posted.length < 4 →
          exec p.1 s = .next ((((s'.setCv quad n { cv with posted := cv.posted ++ [o] }).cvFire quad n 5).mxStamp (quad / 4)).advance x).endIssue)) ∧
  (∀ (s : State) (x : Ctx) (f : XF) (nb : BitVec 4),
    let k := x.crew
    let c := s.crew k
    let quad := quadOf k
    (readyOut s x (Instr.cvset f).shape f = true → c.live &&& ~~~x.lanes = 0 →
      let cv := s.cv quad f.d.toNat
      c.chipOpen c.nextOp = false → cv.signed = 0 → cv.posted = [] → exec (.cvset f) s = .next ((s.setCv quad f.d.toNat { cv with count := f.w2.toNat }).advance x).endIssue)
    ∧ (readyOut s x (Instr.mstat f).shape f = true →
        let cv := s.cv quad (bits f.c.toNat 3 0)
        let q := s.quad quad
        WritesD s x (.mstat f) f false false fun _ =>
          if f.vN = 0 then cv.posted.length % 8 * 2 ^ 29 + cv.gen % 128 * 2 ^ 22 + cv.signed % 2048 * 2 ^ 11 + cv.count % 2048
          else q.mq.length % 32 * 2 ^ 27
            + (match q.buf with
              | none => 0xF * 2 ^ 23
              | some b => b.fmt % 16 * 2 ^ 23 + b.spm % 4 * 2 ^ 21 + b.slot % 16 * 2 ^ 17)
            + s.wHeld (quad / 4) (s.crewPart k) % 16 * 2 ^ 13)
    ∧ ∀ p ∈ ([(.sign nb, .zero, nb.toNat), (.signX f, f, f.d.toNat % 16)] : List (Instr × XF × Nat)),
        let cv := s.cv quad p.2.2
        let ac := act s x p.2.1
        let n := ((lanesOf ac).filter fun l => !s.protectedCrew k || decide (l % 2 = 0) || !hasLane ac (l - 1)).length
        let owed := (s.residents quad).foldl (fun t p' => t + (p'.2.signs.filter fun e => decide (e.1 = p.2.2)).foldl (fun t e => t + e.2.1) 0) 0
        readyOut s x p.1.shape p.2.1 = true →
          (ac = 0 → Leaves s x p.1 (goOnAll x c))
          ∧ (ac ≠ 0 → cv.count ≠ 0 → cv.signed + owed + n ≤ 2047 → Leaves s x p.1 (goOnAll x { c with signs := c.signs ++ [(p.2.2, n, c.nextOp)] })))

/-- CBLD and CTLD read 32 and 80 bytes once for the quadrant and fill the slot that D names with the codebook's 16 halfwords or the curve's 17
words, when no operation uses the slot, the address is aligned, the bytes are clean and a curve's breakpoints rise; no other slot of the kind
changes. A curve that is not valid writes no slot and traps ARITH with detail bit 4 (from R184, R254). -/
def Obligations.TableLoadsFillTheirSlot : Prop :=
  ∀ (s : State) (x : Ctx) (f : XF),
    let k := x.crew
    let c := s.crew k
    let h := c.inHandler x.lanes
    let ac := act s x f
    let sp := tableSpace f.ownN
    let addr := if sp = 0 then wrapInt 64 ((c.rdW h true f.a.toNat ((lowLane ac).getD 0)).toNat + f.w2.toInt)
      else wrapInt 32 ((c.rdS h f.a.toNat).toNat + f.w2.toInt)
    let Reads := fun (i : Instr) (n al kind : Nat) (s' : State) (bs : List Byte) =>
      readyOut s x i.shape f = true ∧ addr % al = 0 ∧ State.acqPending c ac = false ∧ s.slotInUse (quadOf k) kind f.d.toNat = false ∧
      ∃ accs, (List.range (n / 16)).map (fun j => s.access k ((lowLane ac).getD 0) sp (addr + 16 * j) 16 .load) = accs.map Except.ok ∧
        s.readTable k x accs = some (s', bs, false)
    (∀ s' bs, Reads (.cbld f) 32 32 2 s' bs → ∃ t, exec (.cbld f) s = .next t ∧ t.mem = s'.mem ∧
      (∀ e, e < 16 → SMap.get 0 (t.quad (quadOf k)).books (f.d.toNat * 16 + e) = BitVec.ofNat 16 (leNat ((bs.drop (2 * e)).take 2))) ∧
      ∀ n, n / 16 ≠ f.d.toNat → SMap.get 0 (t.quad (quadOf k)).books n = SMap.get 0 (s'.quad (quadOf k)).books n)
    ∧ (∀ s' bs, Reads (.ctld f) 80 16 3 s' bs → curveValid (fun b => leNat ((bs.drop (4 * b)).take 4)) = true →
        ∃ t, exec (.ctld f) s = .next t ∧ t.mem = s'.mem ∧
          (∀ b, b < 17 → SMap.find? (t.quad (quadOf k)).curves (f.d.toNat * 17 + b) = some (BitVec.ofNat 32 (leNat ((bs.drop (4 * b)).take 4)))) ∧
          ∀ n, n / 17 ≠ f.d.toNat → SMap.find? (t.quad (quadOf k)).curves n = SMap.find? (s'.quad (quadOf k)).curves n)
    ∧ (∀ s' bs, Reads (.ctld f) 80 16 3 s' bs → curveValid (fun b => leNat ((bs.drop (4 * b)).take 4)) = false →
        exec (.ctld f) s = .next (s'.raise x ac ⟨clsArith, 0x10, ac, 0⟩))

/-! ## System instructions, traps and regions (chapters 13, 15 and 17) -/

/-- The special registers. CSRR reads the register that its number names, in each active lane its own or the crew's; CSRW, CSRS and CSRC
write, set and clear the writable bits, a crew's register once from the lowest active lane; ERRSTAT's bits are cleared by ones. MODE replaces the bits of
FMODE that its mask names; TIME reads module time, ENRG the meter or the bound. No other register changes (from R140, R319 to R324). -/
def Obligations.SpecialRegistersAreReadAndWritten : Prop :=
  ∀ (s : State) (x : Ctx) (f : XF),
    let c := s.crew x.crew
    let k := x.crew
    let ac := act s x f
    (ready s x (Instr.csrr f).shape f = true → WritesD s x (.csrr f) f (csrWide f.a.toNat) false fun l => s.csrRead k l f.a.toNat)
    ∧ (∀ p ∈ ([(.csrw f, fun _ v => v), (.csrs f, fun old v => old ||| v), (.csrc f, fun old v => old &&& (2 ^ 32 - 1 - v % 2 ^ 32))] :
          List (Instr × (Nat → Nat → Nat))),
        readyOut s x p.1.shape f = true →
          let n := f.d.toNat
          let src := fun l => if f.imm then f.w2.toNat else fldA s x f (csrWide n) l
          let mask := match n with
            | 0x10 => 0xFFFFFC01 | 0x11 => 0xF80000FF | 0x12 => 0xFFFFFFFC | 0x14 => 1 | 0x20 => 0x1F1F | 0x21 => 0x1F | 0x22 => 0x8007FFFF | _ => 0
          let new := fun l => (p.2 (s.csrRead k l n) (src l) % 2 ^ 32) &&& mask
          let c0 := popped s x p.1 f
          Leaves s x p.1 (goOnAll x (match lowLane ac with
            | none => c0
            | some l =>
              if n = 0x32 then { c0 with errstat := errstatClear c.errstat (src l) }
              else if n = 0x10 then { c0 with tvec := BitVec.ofNat 32 (new l) }
              else if n = 0x20 then { c0 with fmode := BitVec.ofNat 13 (new l) }
              else if n = 0x31 then c0
              else c0.mapLanes ac fun l t => match n with
                | 0x11 => { t with tcause := BitVec.ofNat 32 (new l) }
                | 0x12 => { t with tpc := BitVec.ofNat 32 (new l) }
                | 0x14 => { t with tmaskM := decide (new l % 2 = 1) }
                | 0x21 => { t with fflags := BitVec.ofNat 5 (new l) }
                | 0x22 => { t with repcnt := BitVec.ofNat 32 (new l) }
                | _ => t)))
    ∧ (may s x (Instr.mode f).shape f = true →
        let mask := f.w2.extractLsb' 16 13 &&& 0x1F1F#13
        Leaves s x (.mode f) (goOnAll x { c with fmode := (c.fmode &&& ~~~mask) ||| (f.w2.extractLsb' 0 13 &&& mask) }))
    ∧ (ready s x (Instr.time f).shape f = true → WritesD s x (.time f) f true false fun _ => s.now)
    ∧ (ready s x (Instr.enrg f).shape f = true → WritesD s x (.enrg f) f true false fun _ =>
        match c.launch with
        | none => 0
        | some d => if f.vN = 0 then SMap.get 0 (s.launch d).meters (clusterOf (coreOf k)) else (s.launch d).q.ebound * 1000)

/-- The instructions of the queue profile. QUOTE with its request and record in the footprint, ACCEPT and DECLINE hand the front end one
request more, and D is EMPTY until it answers; HALT ends the packet's crew. In a crew of a launch each raises ILLEGAL with detail USE (from R328, R329, R355). -/
def Obligations.QueueProfileAsksTheFrontEnd : Prop :=
  ∀ (s : State) (x : Ctx) (f : XF),
    let c := s.crew x.crew
    let k := x.crew
    let h := c.inHandler x.lanes
    let ac := act s x f
    let low := (lowLane x.lanes).getD 0
    let a := (c.rdW h true f.a.toNat low).toNat
    (∀ p ∈ ([(.quote f, 0), (.accept f, 1), (.decline f, 2)] : List (Instr × Nat)),
      let kind := p.2
      let b := if kind = 0 then (c.rdW h true f.b.toNat low).toNat else 0
      may s x p.1.shape f = true →
        (c.queue = none → exec p.1 s = .next (s.raise x ac ⟨4, 0x10, ac, 0⟩))
        ∧ (c.queue ≠ none → (kind = 0 → s.quoteCheck k a b = none) →
            let d := c.destinations p.1.shape f x.pc ac (if f.sd then [(none, f.d.toNat)] else (lanesOf ac).map fun l => (some l, f.d.toNat))
            let c' := d.1.addOp { id := 0, kind := .quote, cls := 6, pc := x.pc, lanes := ac, dests := d.2, fmt := kind, d := f.d.toNat, sd := f.sd,
                                  masked := h, issued := s.ctr }
            ∃ t, exec p.1 s = .next t ∧ t.mem = s.mem ∧ t.crew k = goOnAll x (c'.markEmpty (c'.realDests h d.2)) ∧
              t.fr.reqs = s.fr.reqs ++ [{ id := c'.nextOp - 1, crew := k, op := c'.nextOp - 1, lane := low, kind := kind, time := s.now,
                                          qid := if kind = 0 then 0 else BitVec.ofNat 64 a, req := if kind = 0 then a else 0, recVa := b }]))
    ∧ (may s x (Instr.halt f).shape f = true →
        (c.queue = none → exec (.halt f) s = .next (s.raise x ac ⟨4, 0x10, ac, 0⟩))
        ∧ ∀ q, c.queue = some q →
          exec (.halt f) s = .next ((((s.modQueue q fun u => { u with halting := some (1, f.w2.toNat % 65536) }).endLanes k c.live).reap k).endIssue))

/-- TRAP and BKPT outside regions, with TVEC valid, no thread of the crew in a handler and fewer counted traps than NTRAP: every
active lane enters the handler at its class's slot, TCAUSE and TPC say what and where (TPC is the PC that follows), TMASK.M is set, and the lane detail entry holds
the mask and the PC. With TVEC not valid, or a lane already in a handler, the trap is unhandled; while another lane of the crew is in its handler the group waits.
TRET of lanes in a handler clears TMASK.M and goes to TPC; outside one it raises ILLEGAL with detail USE. In a launch that has not
failed, and where no wait was interrupted, nothing else changes (from R321, R327, R348, R370 to R375). -/
def Obligations.TrapsEnterAndTretReturns : Prop :=
  ((∀ (s : State) (x : Ctx) (f : XF),
    let c := s.crew x.crew
    let ac := act s x f
    ∀ p ∈ ([(.trap f, 9), (.bkpt f, 10)] : List (Instr × Nat)),
      readyOut s x p.1.shape f = true → ac ≠ 0 → c.tvec.getLsbD 0 = true → State.handlerBusy c = false → ((lanesOf ac).all fun l => !(c.thread l).tmaskM) = true →
      (∀ d, c.launch = some d → c.traps < (s.launch d).q.ntrap) →
        ∃ t, exec p.1 s = .next t ∧ t.mem = s.mem ∧ t.cur = none ∧
          (t.crew x.crew).traps = c.traps + 1 ∧
          (t.crew x.crew).bank = BitVec.ofNat 192
            ((if s.protectedCrew x.crew then State.pairMask ac else ac).toNat * 2 ^ 128 + x.pc % 2 ^ 32 * 2 ^ 32 + p.2 * 2 ^ 28
              + slotOf x.crew % 16 * 2 ^ 20 + f.w2.toNat % 256) ∧
          ∀ l, SMap.find? c.threads l ≠ none →
            (t.crew x.crew).thread l =
              if hasLane ac l then
                { c.thread l with
                  tcause := BitVec.ofNat 32 (p.2 * 2 ^ 28 + f.w2.toNat % 256), tpc := BitVec.ofNat 32 (x.pc + 12), tmaskM := true
                  pc := bits c.tvec.toNat 31 10 * 1024 + 0x40 * p.2, starve := 0 }
              else c.thread l) ∧
  (∀ (s : State) (x : Ctx) (f : XF),
    let c := s.crew x.crew
    let ac := act s x f
    ∀ p ∈ ([(.trap f, 9), (.bkpt f, 10)] : List (Instr × Nat)),
      readyOut s x p.1.shape f = true → ac ≠ 0 →
        (((c.tvec.getLsbD 0 = false) ∨ ((lanesOf ac).any fun l => (c.thread l).tmaskM) = true) → exec p.1 s = .next (s.unhandled x.crew ac).endIssue)
        ∧ (c.tvec.getLsbD 0 = true → ((lanesOf ac).any fun l => (c.thread l).tmaskM) = false → State.handlerBusy c = true →
            exec p.1 s = .next { s with cur := none, rep := none, held := true }))) ∧
  (∀ (s : State) (x : Ctx) (f : XF),
    let c := s.crew x.crew
    let ac := act s x f
    may s x (Instr.tret f).shape f = true →
      (((lanesOf ac).all fun l => (c.thread l).tmaskM && (c.thread l).resume.isNone) = true → (∀ d, c.launch = some d → (s.launch d).failed = false) →
        ∃ t, exec (.tret f) s = .next t ∧ CrewOnly s t x.crew ∧
          ∀ l, SMap.find? c.threads l ≠ none → (t.crew x.crew).thread l =
            if hasLane ac l then { c.thread l with tmaskM := false, pc := (c.thread l).tpc.toNat }
            else if hasLane x.lanes l then { c.thread l with pc := x.next } else c.thread l)
      ∧ (let out := laneSet fun l => hasLane ac l && !(c.thread l).tmaskM
        out ≠ 0 → exec (.tret f) s = .next (s.raise x ac ⟨4, 0x10, out, 0⟩)))


/-- BLST.on gives the quadrant its ballast, with its level, its beginning and its end; BLST.off ends the ballast of the issuer's own block and leaves
that of another block alone. The group goes on (from R326). -/
def Obligations.BallastIsSetAndEnded : Prop :=
  ∀ (s : State) (x : Ctx) (f : XF),
    let c := s.crew x.crew
    let quad := quadOf x.crew
    may s x (Instr.blst f).shape f = true →
      (f.vN = 0 → ∃ t, exec (.blst f) s = .next t ∧ t.mem = s.mem ∧ t.crew x.crew = goOnAll x c ∧
        ∃ b, (t.quad quad).ballast = some b ∧ b.level = bits f.w2.toNat 20 16 ∧ b.crew = x.crew ∧ b.since = s.now ∧
          b.endAt = s.now + s.clkNs (coreOf x.crew) (16 * bits f.w2.toNat 15 0))
      ∧ (f.vN ≠ 0 → (∀ b, (s.quad quad).ballast = some b → s.sameBlock x.crew b.crew = true) →
        ∃ t, exec (.blst f) s = .next t ∧ t.mem = s.mem ∧ t.crew x.crew = goOnAll x c ∧ (t.quad quad).ballast = none)
      ∧ (f.vN ≠ 0 → (∀ b, (s.quad quad).ballast = some b → s.sameBlock x.crew b.crew = false) → Leaves s x (.blst f) (goOnAll x c))

/-- Speculative regions. TRY outside a region saves the low registers and predicates, sets SPEC and opens the thread's region or, with .crew, joins the
crew's; inside one of its kind it counts a level more, up to 4; inside one of the other kind or at level 4 the region begins to abort with
NEST. COMMIT of an inner level counts one fewer; of an outermost region with no buffered store whose read set still holds it ends the region, and
of one with a `.g` write set it waits with its lock requests due. ABORT begins the abort with EXPLICIT and the user's code. COMMIT and ABORT
outside a region raise ILLEGAL with detail USE (from R276 to R279). -/
def Obligations.RegionsBeginAndEnd : Prop :=
  ∀ (s : State) (x : Ctx) (f : XF),
    let c := s.crew x.crew
    let k := x.crew
    let ac := act s x f
    let cr := decide (f.vN = 1)
    (may s x (Instr.tryRegion f).shape f = true → 16 * f.c.toNat ≤ c.nregs → ((lanesOf ac).all fun l => !(c.thread l).specAct) = true →
      ((lanesOf ac).any fun l => (List.range (16 * f.c.toNat)).any fun r => (c.thread l).vE.getLsbD r) = false → c.predsPend ac (List.range 7) = false →
        let target := wrapInt 32 (x.pc + f.w2.toInt)
        ∃ t, exec (.tryRegion f) s = .next t ∧ CrewOnly s t k ∧
          (cr = true → ac ≠ 0 → ((lanesOf c.live).all fun l => !((c.thread l).specAct && (c.thread l).specCrew)) = true → (t.crew k).region = some {}) ∧
          ∀ l, hasLane x.lanes l = true → SMap.find? c.threads l ≠ none → (t.crew k).thread l =
            if hasLane ac l then
              { c.thread l with
                pc := x.next, spec := enterSpec (c.thread l).spec cr, ckpt := some ((c.thread l).checkpoint (16 * f.c.toNat) target)
                region := if cr then none else some {} }
            else { c.thread l with pc := x.next })
    ∧ (may s x (Instr.tryRegion f).shape f = true → 16 * f.c.toNat ≤ c.nregs →
        ((lanesOf ac).all fun l => (c.thread l).specAct && decide ((c.thread l).specCrew = cr) && decide ((c.thread l).specDepth ≠ 4)) = true →
        ∃ t, exec (.tryRegion f) s = .next t ∧ CrewOnly s t k ∧
          ∀ l, hasLane x.lanes l = true → SMap.find? c.threads l ≠ none → (t.crew k).thread l =
            if hasLane ac l then { c.thread l with pc := x.next, spec := withDepth (c.thread l).spec ((c.thread l).specDepth + 1) }
            else { c.thread l with pc := x.next })
    ∧ (may s x (Instr.tryRegion f).shape f = true → 16 * f.c.toNat ≤ c.nregs →
        ((lanesOf ac).all fun l => (c.thread l).specAct && (decide ((c.thread l).specCrew ≠ cr) || decide ((c.thread l).specDepth = 4))) = true →
        ∃ t, exec (.tryRegion f) s = .next t ∧ t.mem = s.mem ∧
          ∀ l, hasLane ac l = true → SMap.find? c.threads l ≠ none → ∀ r, c.regionOf l = some r → r.abort = none → r.decided = none →
            ∃ r', (t.crew k).regionOf l = some r' ∧ r'.abort = some (4, 0, 0, 0))
    ∧ (may s x (Instr.commit f).shape f = true → ((lanesOf ac).all fun l => (c.thread l).specAct && decide (1 < (c.thread l).specDepth)) = true →
        c.regionBusy (c.allMembers 0) = false → c.openChecks ac = false →
        ∃ t, exec (.commit f) s = .next t ∧ CrewOnly s t k ∧
          ∀ l, hasLane x.lanes l = true → SMap.find? c.threads l ≠ none → (t.crew k).thread l =
            if hasLane ac l then { c.thread l with pc := x.next, spec := withDepth (c.thread l).spec ((c.thread l).specDepth - 1) }
            else { c.thread l with pc := x.next })
    ∧ (may s x (Instr.commit f).shape f = true → x.rep = none →
        ((lanesOf ac).all fun l => (c.thread l).live && (c.thread l).specAct && decide ((c.thread l).specDepth ≤ 1)
          && match c.regionOf l with
            | some r => r.ssb.isEmpty && r.allows s.now
            | none => false) = true →
        c.regionBusy (c.allMembers ac) = false → c.openChecks ac = false →
        ∃ t, exec (.commit f) s = .next t ∧ ∀ l, hasLane ac l = true →
          ((t.crew k).thread l).specAct = false ∧ ((t.crew k).thread l).region = none ∧
          ((t.crew k).thread l).ckpt = none ∧ ((t.crew k).thread l).pc = x.next ∧ ((t.crew k).thread l).wctlast = max (c.thread l).wctlast s.now)
    ∧ (may s x (Instr.commit f).shape f = true →
        ((lanesOf ac).all fun l => (c.thread l).live && (c.thread l).specAct && decide ((c.thread l).specDepth ≤ 1)
          && match c.regionOf l with
            | some r => !r.sectors.isEmpty
            | none => false) = true →
        c.regionBusy (c.allMembers ac) = false → c.openChecks ac = false →
        ∃ t, exec (.commit f) s = .next t ∧ t.mem = s.mem ∧ ∀ l r, hasLane ac l = true → c.regionOf l = some r →
          (t.crew k).regionOf l = some { r with asked := 1, answers := [] } ∧ ((t.crew k).thread l).blocked.map (·.kind) = some .commit)
    ∧ (may s x (Instr.abort f).shape f = true → ((lanesOf ac).all fun l => (c.thread l).specAct) = true →
        ∃ t, exec (.abort f) s = .next t ∧ t.mem = s.mem ∧
          ∀ l, hasLane ac l = true → SMap.find? c.threads l ≠ none → ∀ r, c.regionOf l = some r → r.abort = none → r.decided = none →
            ∃ r', (t.crew k).regionOf l = some r' ∧ r'.abort = some (1, f.w2.toNat % 256, 0, 0))
    ∧ ∀ i ∈ ([.commit f, .abort f] : List Instr),
        let out := laneSet fun l => hasLane ac l && !(c.thread l).specAct
        may s x i.shape f = true → out ≠ 0 → exec i s = .next (s.raise x ac ⟨4, 0x10, out, 0⟩)

/-! ## The module's own events: translation and memory (chapters 01 to 03, 18 and 19) -/

/-- A walk request joins a walk in progress that shares its indices; else, with none before it and a walker free, it leads one from the root, or from the
table that the walk cache holds, or ends at once where the ASID has no root; else it waits in the queue of 512, and stalls where that is full. The
entry that a leader reads ends, splits or fails its walk; a walk that an invalidation caught ends with no result. A bad pinned entry is filled
from its pin record. An invalidation leaves no unpinned entry of an L2 TLB that matches, a forced one none at all, and INVCMD says how it stands; a
refused command has STATUS 3 and changes no entry (from R23 to R28, R416). -/
def Obligations.TranslationEventsAct : Prop :=
  (∀ (s : State) (die asid va kind who : Nat),
    let w := s.walkPool die
    let r : WalkReq := { asid := asid, va := va, kind := kind, who := who }
    let shared := w.walks.find? fun k => decide (k.req.asid = asid) && !k.discard && State.sameDown k.req.va va k.level
    (∀ k, shared = some k → exec (.walkRequest die asid va kind who) s =
      .next (s.setWalk die { w with walks := w.walks.map fun o => if o.id = k.id then { o with followers := o.followers ++ [r] } else o }))
    ∧ (∀ root, shared = none → w.queue = [] → State.busyWalkers w < 64 → s.rootOf asid = .ok root →
        let at' := (State.walkCached w asid va).getD (4, root)
        ∃ t, exec (.walkRequest die asid va kind who) s = .next t ∧ t.mem = s.mem ∧
          (t.walkPool die).walks = w.walks ++ [{ id := w.nextId, req := r, level := at'.1, table := at'.2 }])
    ∧ (∀ e, shared = none → w.queue = [] → State.busyWalkers w < 64 → s.rootOf asid = .error e →
        exec (.walkRequest die asid va kind who) s = .next (s.setWalk die { w with ends := w.ends ++ [⟨r, none, e⟩] }))
    ∧ (shared = none → w.queue ≠ [] ∨ 64 ≤ State.busyWalkers w →
        exec (.walkRequest die asid va kind who) s = .next (if w.queue.length < 512 then s.setWalk die { w with queue := w.queue ++ [r] } else s))) ∧
  (∀ (s : State) (die walk : Nat) (k : Walk), ((s.walkPool die).walks.find? fun k => decide (k.id = walk)) = some k → k.running = true →
    let w := s.walkPool die
    let u := s.touchL2 (sectorOf (memKey 1 (k.table + 8 * vaIdx k.req.va k.level)))
    (k.discard = true → exec (.walkEntryRead die walk) s = .next (u.closeWalk die k.id w))
    ∧ (∀ e, k.discard = false → u.readPte k.req.asid k.req.va k.level k.table = .fail e →
        exec (.walkEntryRead die walk) s = .next (u.closeWalk die k.id (State.endWalks w (k.req :: k.followers) fun r => ⟨r, none, e⟩)))
    ∧ (∀ pa, k.discard = false → u.readPte k.req.asid k.req.va k.level k.table = .table pa → exec (.walkEntryRead die walk) s = .next (u.walkSplit die w k pa))
    ∧ (∀ l, k.discard = false → u.readPte k.req.asid k.req.va k.level k.table = .leaf l → exec (.walkEntryRead die walk) s = .next (u.walkLeaf die w k l))) ∧
  (∀ (s : State) (cluster asid va k : Nat) (e : TlbEnt) (p : Pin),
    List.find? (fun e : Nat × TlbEnt => decide (e.1 / 8192 = cluster) && e.2.pinned && e.2.tr.covers asid va) s.tr.tlb = some (k, e) →
    ((SMap.get [] s.tr.pins (cluster / 5)).find? fun p => p.tr.covers asid va && !p.forced) = some p →
      ∃ t, exec (.tlbParityRefill cluster asid va) s = .next t ∧ SMap.find? t.tr.tlb k = some { e with tr := p.tr, bad := false }) ∧
  (∀ (s : State) (port fn vpn : Nat),
    let k := funcKey port fn
    let f := s.func k
    f.resetting = false → f.invcmd.toNat % 4 ≠ 1 →
      let asid := s.funcAsid f
      let Cleared := fun (t : State) (kind va : Nat) =>
        (∀ q ∈ t.tr.tlb, q.2.pinned = true ∨ invMatches kind asid va q.2.tr = false) ∧ bits (t.func k).invcmd.toNat 7 6 = kind ∧ t.mem = s.mem
      (∃ t, exec (.invalidatePage port fn vpn) s = .next t ∧ Cleared t 0 (vpn * 4096 % 2 ^ 64))
      ∧ (∃ t, exec (.invalidateAsid port fn) s = .next t ∧ Cleared t 1 0)
      ∧ (fn = 0 → ∃ t, exec (.invalidateAllAsids port fn) s = .next t ∧ Cleared t 2 0)
      ∧ (fn ≠ 0 → ∃ t, exec (.invalidateAllAsids port fn) s = .next t ∧ t.tr = s.tr ∧ (t.func k).invcmd.toNat % 4 = 3)
      ∧ (∀ kind, (kind = 3 ∨ (kind = 2 ∧ fn ≠ 0)) → ∃ t, exec (.invcmdRefused port fn kind) s = .next t ∧ t.tr = s.tr ∧ (t.func k).invcmd.toNat % 4 = 3)
      ∧ (∀ kind, kind ≤ 2 → (kind = 2 → fn = 0) → ∃ t, exec (.forcedInvalidation port fn kind vpn) s = .next t ∧
          ∀ q ∈ t.tr.tlb, invMatches kind asid (if kind = 0 then vpn * 4096 % 2 ^ 64 else 0) q.2.tr = false)) ∧
  (∀ (s : State) (port fn kind asid va : Nat) (l : List (Nat × Nat × Nat)),
    let k := funcKey port fn
    let f := s.func k
    let st := s.invStatus kind asid va
    f.invList = (kind, asid, va) :: l →
      ∃ t, exec (.invalidationComplete port fn) s = .next t ∧ t.mem = s.mem ∧
        t.func k = { f with invcmd := BitVec.ofNat 64 (f.invcmd.toNat - f.invcmd.toNat % 4 + st), invList := if st = 0 then [] else f.invList })

/-- How accesses reach their homes and come back. A load's access takes the bytes that its home, or a host port, shows the holder; an atomic finds every
store accepted before it; a store that is accepted takes its WCT, no earlier than now and 4 ns after the leases of others, and is pending until that
has come, or goes on to its host port. STORE_ACK and PORT_STORE_REPORT return the WCT to the lanes that run the storing thread; ST_RETIRE ends the
operation; the checks of a `.g` store end well, with a record, with an unhandled trap in a handler, or with nothing where every failing thread has ended;
LOAD_RETURN and LONG_LATENCY_RESULT write the registers. PENDING_STORE_PERFORMED performs the stores of its sector whose WCT has come: none of them
is pending afterwards, and no byte outside theirs changes (from R66, R70, R78, R145, R261). -/
def Obligations.HomeEventsServeAccesses : Prop :=
  (∀ (s : State) (crew op k : Nat) (o : Op) (a : Acc),
    let c := s.crew crew
    let sec := Acc.sector a
    let prt := s.crewPart crew
    let key := a.keys.headD 0
    c.findOp op = some o →
      ((o.accs.drop k).head? = some a →
        let Free := s.locked sec = false ∧ s.inTurn crew o k sec = true ∧ c.frozen = false ∧ s.inGrants prt key = true
        (o.kind = .load → a.space = 0 → a.stage = 0 → a.loc < 2 → Free → s.commitHolds (coreOf crew) prt sec = false →
          exec (.fillRequest crew op k) s = .next ((s.fillAt crew o a).1.modCrew crew fun c => c.modOp op fun o => o.setAcc k (s.fillAt crew o a).2))
        ∧ (o.kind = .load → a.space = 0 → a.stage = 0 → 2 ≤ a.loc → a.loc ≤ 3 → Free → s.commitHolds (coreOf crew) prt sec = false →
          exec (.fillRequest crew op k) s = .next (s.modCrew crew fun c => c.modOp op fun o => o.setAcc k (s.readHost a)))
        ∧ (o.kind = .store → a.space = 0 → a.stage = 0 → a.loc < 2 → o.checked = true → Free → s.pendCount (homeDie key) < 2048 →
          let l := (s.residentL2 prt sec).leaseOf sec
          let h := s.holderOf crew
          let w := max (max s.now (max l.lastw ((s.pendOf sec).foldl (fun m p => max m p.wct) 0))) (if h = l.h1 then l.e2 + 4 else l.e1 + 4)
          ∃ t, exec (.storeAtHome crew op k) s = .next t ∧ (t.crew crew).findOp op = some (o.setAcc k { a with stage := 1, wct := w }) ∧
            (s.now < w → (∀ b, t.mem.byte b = s.mem.byte b) ∧ ∃ p ∈ t.coh.pend, p.sector = sec ∧ p.holder = h ∧ p.wct = w))
        ∧ (o.kind = .store → a.space = 0 → a.stage = 0 → 2 ≤ a.loc → a.loc ≤ 3 → o.checked = true → Free →
          exec (.storeAtHome crew op k) s =
            .next ((s.snapshot (s.launchNo crew) key).modCrew crew fun c => c.modOp op fun o => o.setAcc k { a with stage := 1 }))
        ∧ (o.kind = .atomic → a.space = 0 → a.stage = 0 → Free → s.pendCount (homeDie key) < 2048 →
          let old := a.keys.map (s.homeView 0 sec true).mem.byte
          ∃ t w, exec (.atomicAtHome crew op k) s = .next t ∧ s.now ≤ w ∧
            (t.crew crew).findOp op = some (o.setAcc k { a with data := old, pois := (s.homeView 0 sec true).poisonWords a.keys, stage := 1, wct := w }))
        ∧ (o.kind = .store → 2 ≤ a.loc → a.loc ≤ 3 → a.stage = 1 →
          ∃ t, exec (.portStoreReport crew op k) s = .next t ∧ (t.crew crew).findOp op = some (o.setAcc k { a with stage := 2, wct := s.now }) ∧
            (∀ b, b ∉ a.keys → t.mem.byte b = s.mem.byte b) ∧
            ∀ l, hasLane (s.pairLanes crew a.lane) l = true → SMap.find? c.threads l ≠ none →
              ((t.crew crew).thread l).wctlast = max (c.thread l).wctlast s.now)
        ∧ ((o.kind = .store ∨ o.kind = .atomic) → a.stage = 1 → a.loc < 2 →
          ∃ t, exec (.storeAck crew op k) s = .next t ∧ t.mem = s.mem ∧ (t.crew crew).findOp op = some (o.setAcc k { a with stage := 2 }) ∧
            ∀ l, hasLane (s.pairLanes crew a.lane) l = true → SMap.find? c.threads l ≠ none →
              ((t.crew crew).thread l).wctlast = max (c.thread l).wctlast a.wct)
        ∧ (o.kind = .ldfe → a.stage = 0 → SMap.get false s.mem.fe a.gran = true →
          ∃ t, exec (.ldfeRepresentation crew op k) s = .next t ∧ (∀ b, t.mem.byte b = s.mem.byte b) ∧
            SMap.get false t.mem.fe a.gran = !o.clr ∧
            (t.crew crew).findOp op = some (o.setAcc k { s.readHere a with found := true })))
      ∧ ((o.kind = .store ∨ o.kind = .atomic ∨ o.kind = .push) → o.checked = true → (o.kind = .atomic → o.dests = [] ∨ o.extra ≠ 0) →
          (o.accs.all fun a => decide (2 ≤ a.stage) && (decide (a.space ≠ 0) || decide (a.wct < s.now))) = true →
          exec (.stRetire crew op) s = .next ((s.modCrew crew fun c => c.modOp op fun o => { o with done := true }).retire crew))
      ∧ ((o.kind = .load ∨ o.kind = .ldfe) → exec (.loadReturn crew op) s = .next ((s.modCrew crew fun c => returnAccs c o).retire crew))
      ∧ ((o.kind = .longLat ∨ o.kind = .pop) → exec (.longLatencyResult crew op) s =
          .next ((s.modCrew crew fun c => (c.applyWrites o.masked o.writes).modOp op fun o => { o with done := true }).retire crew))
      ∧ (o.kind = .atomic → o.extra = 0 → o.dests ≠ [] → (o.accs.all fun a => decide (1 ≤ a.stage)) = true → exec (.longLatencyResult crew op) s =
          .next (s.modCrew crew fun c => (atomWrites c (s.protectedCrew crew) o).modOp op fun o => { o with extra := 1 }))
      ∧ (o.checked = false → o.bad = 0 →
          exec (.storeChecksPass crew op) s = .next (s.modCrew crew fun c => (c.unskid op).modOp op fun o => { o with checked := true }))
      ∧ (o.checked = false → o.bad ≠ 0 →
          let r : SfRec := { mask := o.bad, addr := BitVec.ofNat 64 o.badAddr, trec := o.trec, spc := o.pc, slot := slotOf crew, detail := o.err.getD 0, seq := c.seq }
          let u := s.setCrew crew { ((c.unskid op).modOp op fun o => { o with checked := true }) with seq := c.seq + 1 }
          exec (.storeCheckFail crew op) s = .next (
            if o.bad &&& c.live = 0 then u
            else if o.masked then u.unhandledStore crew (o.bad &&& c.live) (o.err.getD 0)
            else (u.modQuad (quadOf crew) fun q => { q with sfq := q.sfq ++ [r] }).trimSfq crew))) ∧
  (∀ (s : State) (sector : Nat),
    ∃ t, exec (.pendingStorePerformed sector) s = .next t ∧ (t.coh.pend.all fun p => decide (p.sector ≠ sector) || decide (s.now < p.wct)) = true ∧
      ∀ b, (∀ p ∈ s.coh.pend, p.sector = sector → p.wct ≤ s.now → ∀ q ∈ p.bytes, q.1 ≠ b) → t.mem.byte b = s.mem.byte b)


/-- The host at the module's memory. A snoop for ownership is answered once the leases of both sectors have passed by 4 ns and no store to the line is
pending, one for data with the line's 128 bytes; a request of a function that nobody owns, or that is frozen or being reset, is refused; one whose
bytes have no translation asks the walkers or is refused; an inbound read is answered with the bytes that stand at home; an inbound write that touches no
locked page is accepted sector by sector in its order, a relaxed one with no regard to earlier ones. A way mask that takes none away and overlaps no
other partition's holds at once, one that takes ways away begins a reduction, a bad one is refused, and a reduction ends with its ways
free (from R57, R83, R84, R388). -/
def Obligations.HostEventsReachMemory : Prop :=
  ∀ (s : State) (port line fn addr len die part : Nat) (data : List (BitVec 8)) (relaxed : Bool) (value : BitVec 32),
    let secs := State.hostSectors port line
    let s' := secs.foldl State.performDue s
    let k := funcKey port fn
    ((secs.all fun sec => decide ((s'.leaseOf sec).e1 + 4 < s.now)) = true → s'.hostSettled secs = true →
      ∃ t, exec (.hostSnoopOwnership port line) s = .next t ∧ t.pl.out = s'.pl.out ++ [⟨11, [port, line, 1]⟩])
    ∧ (s'.hostSettled secs = true → ∃ t, exec (.hostSnoopData port line) s = .next t ∧
        t.pl.out = s'.pl.out ++ [⟨11, [port, line, 0] ++ (s'.mem.read (memKey (2 + port) (128 * line)) 128).map (·.toNat)⟩])
    ∧ (s.funcShut k = true → (exec (.hostInboundWrite port fn addr data relaxed) s = .next (s.inboundRefuse port fn addr 0)
        ∧ exec (.hostInboundRead port fn addr len) s = .next (s.inboundRefuse port fn addr 0)))
    ∧ (∀ e, s.funcShut k = false → s.inboundKeys port k addr false len = .error e →
        exec (.hostInboundRead port fn addr len) s = .next (s.inboundMiss port fn addr e))
    ∧ (∀ e, s.funcShut k = false → s.inboundKeys port k addr true data.length = .error e →
        exec (.hostInboundWrite port fn addr data relaxed) s = .next (s.inboundMiss port fn addr e))
    ∧ (∀ keys, s.funcShut k = false → s.inboundKeys port k addr false len = .ok keys → (keys.all fun key => s.inGrants ((s.func k).owner.toNat % 32) key) = true →
        (keys.all fun key => !s.locked (sectorOf key)) = true →
          let v := ((keys.map sectorOf).eraseDups).foldl (fun v sec => v.homeView 0 sec false) s
          ∃ t, exec (.hostInboundRead port fn addr len) s = .next t ∧ (∀ b, t.mem.byte b = s.mem.byte b) ∧
            t.pl.out = s.pl.out ++ [⟨2, [port, fn, addr, b2n (keys.any v.poisoned)] ++ (keys.map v.mem.byte).map (·.toNat)⟩])
    ∧ (∀ keys, s.funcShut k = false → s.inboundKeys port k addr true data.length = .ok keys → s.codeOwners keys = [] →
        (keys.all fun key => s.inGrants ((s.func k).owner.toNat % 32) key) = true →
        (((keys.map sectorOf).eraseDups).all fun sec =>
          !s.locked sec && decide (s.pendCount (homeDie (sec * 64)) + ((keys.map sectorOf).eraseDups).length ≤ 2048)) = true →
          let r := (State.bySector (keys.zip data)).foldl (fun (st : State × Nat) p =>
            let r := st.1.inboundAccept ((s.func k).owner.toNat % 32) (if relaxed then 0 else st.2) p
            (r.1, max st.2 r.2)) (s.dropEnds (2 * port) (funcWho k), (s.func k).wct)
          exec (.hostInboundWrite port fn addr data relaxed) s = .next (r.1.setFunc k { r.1.func k with wct := r.2 }))
    ∧ (die < 4 → part < 32 →
        let e := s.wayEnt die part &&& ~~~(value &&& 0x60000000#32)
        let old := e.setWidth 24
        let new := value.setWidth 24
        let clash := (List.range 32).any fun p => decide (p ≠ part) && decide ((new &&& ~~~old) &&& ((s.wayEnt die p).setWidth 24 ||| s.releasingOf die p) ≠ 0)
        let few := decide (((List.range 24).filter new.getLsbD).length < 2) && !(s.residentOn die part).isEmpty
        ((e.getLsbD 31 || clash || few) = true → ∃ t, exec (.l2WayMaskWrite die part value) s = .next t ∧ t.mem = s.mem ∧ t.wayEnt die part = e ||| 0x20000000#32)
        ∧ ((e.getLsbD 31 || clash || few) = false → old &&& ~~~new = 0 → ∃ t, exec (.l2WayMaskWrite die part value) s = .next t ∧ t.mem = s.mem ∧
            t.wayEnt die part = (e &&& 0xFF000000#32) ||| new.setWidth 32)
        ∧ ((e.getLsbD 31 || clash || few) = false → old &&& ~~~new ≠ 0 → ∃ t, exec (.l2WayMaskWrite die part value) s = .next t ∧ t.mem = s.mem ∧
            t.wayEnt die part = (e &&& 0xFF000000#32) ||| 0x80000000#32 ||| new.setWidth 32 ∧ t.releasingOf die part = old &&& ~~~new))
    ∧ ((s.wayEnt die part).getLsbD 31 = true →
        ((List.filter (fun p : Nat × L2Way => decide (p.1 / 32 / 32768 = die) && decide (p.2.part = part) && (s.releasingOf die part).getLsbD (p.1 % 32)) s.coh.l2).all
          fun p => s.hostSettled [2 * p.2.line, 2 * p.2.line + 1]) = true →
        ∃ t, exec (.l2WayReductionDone die part) s = .next t ∧ t.releasingOf die part = 0 ∧
          t.wayEnt die part = (s.wayEnt die part &&& 0x7FFFFFFF#32) ||| 0x40000000#32)

/-! ## Waits, speculative regions, launches' ends (chapters 05, 06, 14, 16) -/

/-- A fence, a drain or a sleep ends once its condition holds for every active lane of its group, and the lanes then go on at the
instruction that follows; a WAITC whose time is over takes its status; a WAITAD reads again and is done when the comparison holds or its time is over (from R72, R93, R117, R262, R264, R267, R271, R325). -/
def Obligations.WaitsEndWhenTheyMay : Prop :=
  ∀ (s : State) (crew lane : Nat) (b : Blocked),
    let c := s.crew crew
    let m := c.waitMates lane
    let Ended := fun t : State => t.mem = s.mem ∧ ∀ l, (c.thread l).blocked ≠ none →
      (t.crew crew).thread l = if hasLane m l then (c.thread l).unblock else c.thread l
    (c.thread lane).blocked = some b → (s.block c.block).stop < 3 →
      (∀ scope, b.kind = .fence scope → ((lanesOf (m &&& b.lanes)).all fun l => s.fenceOk crew l scope) = true → Gives s (.fenceRelease crew lane) Ended)
      ∧ (b.kind = .sdrain → ((lanesOf (m &&& b.lanes)).all fun l => s.drained crew l) = true → Gives s (.fenceRelease crew lane) Ended)
      ∧ (b.kind = .sleep → ((lanesOf (m &&& b.lanes)).all fun l => match (c.thread l).blocked with
            | some o => o.due s.now
            | none => true) = true → Gives s (.sleepWake crew lane) Ended)
      ∧ (∀ cls n q, b.kind = .waitc cls n q → b.due s.now = true →
          let u := s.ldfeExpire crew lane
          let st := if (u.crew crew).outstanding cls ≤ n then (if b.last = 0 then 0 else 2) else 1
          exec (.timeoutExpiry crew lane) s = .next (u.finishWait crew ((u.crew crew).waitMates lane) (some (BitVec.ofNat 32 (status 0 0 st)))))
      ∧ (∀ sp addr cc v pk w bad, b.kind = .waitad sp addr cc v pk → b.fin = none → hasLane b.lanes lane = true →
          s.waitadRead crew lane sp addr = some (w, bad) →
          let holds := icmpOp 32 cc w.toNat v.toNat
          let b' := { b with last := w, pois := bad, seen := true, fin := if holds then some true else if b.due s.now then some false else none }
          exec (.waitadReread crew lane) s =
            .next ((s.modCrew crew fun c => c.mapLanes (oneLane lane) fun _ t => { t with blocked := some b' }).waitadEnd crew lane))

/-- A COMMIT. The home of a sector locks it and answers a candidate no earlier than now, or BUSY where it is locked; with an answer from every
home the time is the latest candidate, if no home was BUSY and it is earlier than the expiry of every sector only read; each home is then told once, and with the last one
the COMMIT completes. An abort gives each member its checkpoint back and the codes in SPEC (from R89, R90, R96, R275, R279, R280). -/
def Obligations.CommitsAndAborts : Prop :=
  ∀ (s : State) (crew lane k : Nat) (r : Region),
    let c := s.crew crew
    let prt := s.crewPart crew
    c.regionOf lane = some r →
      (∀ sec, r.sectors[k]? = some sec → r.asked ≠ 0 → r.decided = none → r.abort = none → (r.answers.any fun a => decide (a.sector = sec)) = false → c.frozen = false →
        let Answered := fun (t : State) (cand : Nat) (busy : Bool) => t.crew crew = c.putRegion lane { r with answers := r.answers ++ [⟨sec, cand, busy⟩] }
        (s.locked sec = true → Gives s (.commitLockRequest crew lane k) fun t => t.mem = s.mem ∧ t.coh = s.coh ∧ Answered t 0 true)
        ∧ (s.locked sec = false → s.onTheWay (coreOf crew) prt sec (fun _ _ _ => true) true = false → s.pendCount (homeDie (sec * 64)) < 2048 →
            s.inGrants prt (sec * 64) = true →
            Gives s (.commitLockRequest crew lane k) fun t => t.mem = s.mem ∧ t.locked sec = true ∧ ∃ w, s.now ≤ w ∧ Answered t w false))
      ∧ (r.asked ≠ 0 → r.decided = none → r.abort = none → r.sectors.length ≤ r.answers.length →
          let t := r.answers.foldl (fun m a => max m a.cand) 0
          (((r.answers.any (·.busy)) = true ∨ r.allows t = false) → exec (.commitDecide crew lane) s = .next (s.beginAbort crew lane 2 0 0 0 none))
          ∧ ((r.answers.any (·.busy)) = false → r.allows t = true →
              Gives s (.commitDecide crew lane) fun u => u.mem = s.mem ∧ u.crew crew = c.putRegion lane { r with decided := some t }))
      ∧ (∀ sec t, r.sectors[k]? = some sec → r.decided = some t → bitOf r.told k = false →
          let told := Nat.lor r.told (2 ^ k)
          let u := (s.tellHome crew lane r t sec).modCrew crew fun c => c.putRegion lane { r with told := told }
          exec (.commitDecisionAtHome crew lane k) s = .next (if (List.range r.sectors.length).all (bitOf told) then u.commitDone crew lane t else u))
      ∧ (∀ sec, r.sectors[k]? = some sec → r.decided = none → r.abort ≠ none →
          exec (.commitDecisionAtHome crew lane k) s = .next (s.dropLock crew (c.lockName lane) sec))
      ∧ (∀ code user tcls detail, r.abort = some (code, user, tcls, detail) → c.regionBusy (c.members lane) = false →
          Gives s (.regionAbort crew lane) fun t => t.mem = s.mem ∧
            ∀ l, SMap.find? c.threads l ≠ none → (t.crew crew).thread l =
              if hasLane (c.members lane) l then
                let p := (c.thread l).ckpt.getD { n := 0, v := [], p := (c.thread l).p, target := (c.thread l).pc }
                let u := (c.thread l).restore p
                { u with spec := abortSpec u.spec code user tcls detail, region := none, ckpt := none, blocked := none, pc := p.target
                         specTrap := if code = 4 ∨ code = 7 then some (6, code, p.target) else if hasLane r.trapLanes l then r.trap else u.specTrap }
              else c.thread l)

/-- After a launch's last store. Each core reports its WCTs once, each die forwards its maxima once all its cores have; an edge's signal is raised once time has passed the
WCTs of its regions, the completion entry is posted in the order of the ends; a launch that has not ended in its allowance, and a handler that has not ended in its
own, lose their lanes (from R85, R86, R87, R347, R348, R358, R407). -/
def Obligations.LaunchesEndAndReport : Prop :=
  ∀ (s : State) (d : Nat) (l : Launch), SMap.find? s.fr.launches d = some l →
    (∀ core, l.phase = 2 → (s.launchCores d).contains core = true → (s.core core).reported.contains d = false →
      Gives s (.regionWctReport d core) fun t => t.mem = s.mem ∧ (t.core core).reported.contains d = true ∧
        SMap.get [] (t.launch d).dieWct (dieOf core) = State.maxWcts (SMap.get [] l.dieWct (dieOf core))
          ((List.filter (fun e : Nat × Nat => decide (e.1 / 64 = d)) (s.core core).regionWct).map fun e => (e.1 % 64, e.2)))
    ∧ (∀ die, l.phase = 2 → ((s.launchCores d).any fun c => decide (dieOf c = die)) = true → l.forwarded.contains die = false →
        ((s.launchCores d).all fun c => decide (dieOf c ≠ die) || (s.core c).reported.contains d) = true →
        exec (.regionWctForward d die) s =
          .next (s.setLaunch d { l with wct := State.maxWcts l.wct (SMap.get [] l.dieWct die), forwarded := die :: l.forwarded }))
    ∧ (∀ consumer e, (s.fr.edges.find? fun e => decide (e.prod = d ∧ e.cons = consumer) && !e.raised) = some e → l.phase = 2 → s.allForwarded d = true →
        s.regionsPast d e.regions = true →
        Gives s (.completionSignal d consumer) fun t => t.mem = s.mem ∧ t.fr.edges = s.fr.edges.map fun o => if o.prod = d ∧ o.cons = consumer then { o with raised := true, raisedAt := s.now } else o)
    ∧ (l.phase = 2 → s.allForwarded d = true → s.regionsPast d (s.awaited d) = true → s.queueResetting l.q.queue = false → s.firstEnded d = true →
        (∀ key, s.completionKey l.q.queue = .ok key → exec (.hostCompletionPost d) s = .next (s.postCompletion d (some key)))
        ∧ (∀ asid va, s.completionKey l.q.queue = .error (.walk asid va) → exec (.hostCompletionPost d) s =
            .next (s.askWalk (bits (s.queue l.q.queue).desc.toNat 240 239) asid va 2 (State.feQueue l.q.queue)))
        ∧ (∀ e, s.completionKey l.q.queue = .error (.walkFail e) → exec (.hostCompletionPost d) s = .next ((s.dropEnds (bits (s.queue l.q.queue).desc.toNat 240 239) (State.feQueue l.q.queue)).postCompletion d none)))
    ∧ (∀ at', l.callerAt = some at' → l.phase = 1 → at' + l.q.hbudget * 1000 ≤ s.now → exec (.breachAllowanceExpiry d) s = .next (s.allowanceEnd d))
    ∧ (∀ k c at', SMap.find? s.ex.crews k = some c → c.launch = some d → c.entryAt = some at' → State.handlerBusy c = true → at' + l.q.hallow * 1000 ≤ s.now →
        exec (.handlerTimeout k) s = .next (s.handlerEnd k d))

/-! ## Engines, streams and pans (chapters 07 and 08) -/

/-- The copy and gather engines. The channel whose turn it is starts a transfer while fewer than 128 are in flight; an acknowledged one whose WCT has passed
completes its chunk, and contributes where its command names a barrier. A chain's record that the engine owns, reads clean and is well formed is taken; one
it does not own parks the channel, one that names the window of a block at rest parks it for the rest, a poisoned or ill-formed one and one whose rows are
out of reach stops the chain. A gather starts with its index list, its rows and chunks complete; a forwarded contribution is performed on the home image.
A stream's prefetch reads the next element of a live lane, at most 16 ahead of its pops, and puts it behind those fetched; an element pushed whose value
has come, that waits for no earlier load or acquire, is written at its address, and its WCT goes to the lane's WCTLAST; in a protected launch the two
lanes' elements are compared and a mismatch writes nothing (from R82, R99, R100, R102, R104, R109, R111, R116, R120). -/
def Obligations.EnginesMoveTheirCommands : Prop :=
  ((∀ (s : State) (core ch : Nat) (c : CopyCmd) (isRec : Bool),
      let u := if ((s.chan core ch).live.any fun c => c.finished && c.record.isSome) then s.settleChan core ch else s
      ch ≠ 8 → (u.core core).transfers.length < 128 → u.nextChan core = some ch → u.chanNext (u.chan core ch) = some (c, isRec) →
        exec (.transferStart core ch) s = .next (u.startTransfer core ch c isRec)) ∧
  (∀ (s : State) (core : Nat), exec (.transferStart core 8) s = .next (s.sendPans core)) ∧
  (∀ (s : State) (core id : Nat), exec (.transferComplete core id) s =
      .next (s.setCore core { s.core core with transfers := (s.core core).transfers.map fun t => if t.id = id then { t with done := true } else t })) ∧
  (∀ (s : State) (core cmd chunk : Nat) (t : Transfer), core < 256 → (s.core core).transfers.find? (fun t => decide (t.cmd = cmd ∧ t.chunk = chunk)) = some t →
      ((t.done = false ∨ s.now ≤ t.wct) → exec (.chunkComplete core cmd chunk) s = .next s)
      ∧ (t.done = true → t.wct < s.now → (State.cmdOf (s.chan core t.ch) cmd).bind (·.bar) = none → exec (.chunkComplete core cmd chunk) s =
          .next ((s.setCore core { s.core core with transfers := (s.core core).transfers.filter fun u => !decide (u.id = t.id) }).settleChan core t.ch))
      ∧ (∀ o r, t.done = true → t.wct < s.now → State.cmdOf (s.chan core t.ch) cmd = some o → o.bar = some r → s.barLocked r (some chunk) = false →
          let u := s.setCore core { s.core core with transfers := (s.core core).transfers.filter fun u => !decide (u.id = t.id) }
          exec (.chunkComplete core cmd chunk) s = .next ((u.abSend r 0 chunk o.gen).abWake.settleChan core t.ch))) ∧
  (∀ (s : State) (core ch : Nat) (n : Chain) (keys : List Nat), (s.chan core ch).chain = some n → n.parked = false → (s.chan core ch).cur = none →
      (s.chan core ch).frozen = false → s.engReady n.crew n.op = true → s.engKeys n.ctx n.sp n.addr 64 = some keys →
      (s.engView n.ctx).1.rangeFault (s.engView n.ctx).2 n.sp n.addr 64 (if n.sp = 0 then { r := true, w := true, e := true } else {}) = none →
      let i := Instr.chainRecordRead core ch
      let u := s.engFetch n.ctx n.sp n.addr keys
      let view := ((s.engView n.ctx).1.engFetch n.ctx n.sp n.addr keys, (s.engView n.ctx).2)
      let v := leNat (u.engRead keys).1
      let c := { copyOf v (s.core core).nextCmd n.crew n.op n.pc n.ctx with record := some (n.sp, n.addr) }
      let r := { view.1.abRefOf view.2 (recBarSp v) (recBar v) with core := core }
      u.engBlocked keys false = false → (recBar v = 0 ∨ u.barLocked r none = false) →
        ((u.engRead (keys.take 1)).2 = true → exec i s = .next (u.recordFail core ch n c 0x24 clsPoison none true))
        ∧ ((u.engRead (keys.take 1)).2 = false → bitOf v 0 = false → exec i s = .next ((u.setChan core ch { s.chan core ch with
            chain := some { n with parked := true }, ending := (s.chan core ch).ending ++ [n] }).settleChan core ch))
        ∧ ((u.engRead (keys.take 1)).2 = false → bitOf v 0 = true → (u.engRead keys).2 = true →
            exec i s = .next (u.recordFail core ch n c 0x24 clsPoison none true))
        ∧ ((u.engRead (keys.take 1)).2 = false → bitOf v 0 = true → (u.engRead keys).2 = false →
            (u.restParks n v = true → exec i s = .next (u.setChan core ch { s.chan core ch with chain := some { n with parked := true, rest := true } }))
            ∧ (u.restParks n v = false → copyFormBad v true = true → recBar v = 0 → exec i s = .next (u.recordFail core ch n c 0x11 clsEngine none true))
            ∧ (∀ d at' b, u.restParks n v = false → copyFormBad v true = false → view.1.copyFault view.2 c = some (d, at', b) → recBar v = 0 →
                exec i s = .next (u.recordFail core ch n c d clsEngine none true))
            ∧ (u.restParks n v = false → copyFormBad v true = false → view.1.copyFault view.2 c = none →
                (recBar v = 0 → exec i s = .next (u.recordTake core ch n c (bits v 511 448)))
                ∧ (∀ t gen, recBar v ≠ 0 → view.1.barFault view.2 (recBarSp v) (recBar v) = none →
                    u.barTake r (c.chb + c.chunkCount - 1) = .ok (t, gen) →
                      exec i s = .next (t.recordTake core ch n { c with bar := some r, gen := gen } (bits v 511 448)))))) ∧
  (∀ (s : State) (die engine : Nat) (c : GatherCmd),
      let e := die * 8 + engine
      (s.gatherNow e = none → (s.gather e).queue.head? = some c → s.engReady c.crew c.op = true → exec (.gatherStart die engine) s = .next ((s.gatherBegin e c).settleGather e))
      ∧ (∀ row, s.gatherNow e = some c → row < c.n → row < c.stop → (c.rows.any fun r => decide (r.1 = row)) = false → (s.launch c.ctx.launch).frozen = false →
          exec (.gatherRowComplete die engine row) s = .next ((s.gatherRow e c row).settleGather e))
      ∧ (∀ num chunk, exec (.chunkComplete (256 + e) num chunk) s = .next (s.gatherChunk e num chunk))) ∧
  (∀ (s : State) (core entry : Nat) (e : AbEnt) (x : Nat × Nat × Nat) (rest : List (Nat × Nat × Nat)),
      let r : AbRef := ⟨1, entry, e.launch, core, e.prt⟩
      SMap.find? (s.core core).ab entry = some e → e.fwd = x :: rest → s.abReady r (if x.1 = 0 then some x.2.1 else none) = true →
        exec (.homedContribution core entry) s =
          .next (((s.setCore core { s.core core with ab := SMap.put (s.core core).ab entry { e with fwd := rest } }).abApply r x).abWake))) ∧
  (∀ (s : State) (crew port lane : Nat) (c : Crew) (st : Stream), SMap.find? s.ex.crews crew = some c → SMap.find? c.streams port = some st → c.frozen = false →
    (∀ keys,
      let ahead := SMap.get [] st.fetched lane
      let j := SMap.get 0 st.pos lane + ahead.length
      port < 4 → ahead.length < 16 → j < st.count → hasLane c.live lane = true → State.streamReady c st = true →
      s.engKeys (s.engCtx crew) st.space (st.addr lane j) 4 = some keys → s.engBlocked keys false = false → s.inGrants (s.crewPart crew) (keys.headD 0) = true →
        let u := s.engFetch (s.engCtx crew) st.space (st.addr lane j) keys
        let d := u.engRead keys
        let st' := { st with fetched := SMap.set [] st.fetched lane (ahead ++ [(BitVec.ofNat 32 (leNat d.1), d.2)]) }
        exec (.streamPrefetchRead crew port lane) s = .next (u.setCrew crew { c with streams := SMap.put c.streams port st' }))
    ∧ (∀ l j w op o keys,
      let m := s.pairLanes crew l
      let accs := o.accs.filter fun a => hasLane m a.lane
      let pair := (st.queued.filter fun q => hasLane m q.1 && decide (q.2.2.2 = op)).map fun q => (q.1, q.2.2.1)
      st.queued.find? (fun q => decide (q.1 = lane)) = some (l, j, w, op) → c.findOp op = some o → (accs.all (·.found)) = true →
      State.pushReady c st op m = true →
      (st.prot = true → pair ≠ [(l - l % 2, w), (l - l % 2 + 1, w)] → exec (.streamPushWrite crew port lane) s = .next (s.mismatchCrew crew))
      ∧ ((st.prot = false ∨ pair = [(l - l % 2, w), (l - l % 2 + 1, w)]) →
          s.engKeys (s.engCtx crew) st.space (st.addr l j) 4 = some keys → s.engBlocked keys true = false → s.inGrants (s.engCtx crew).prt (keys.headD 0) = true →
          let u := s.engFetch (s.engCtx crew) st.space (st.addr l j) keys
          let r := u.engWrite (s.engCtx crew) (st.addr l j) keys (leBytes 4 w.toNat) (accs.any fun a => decide (a.pois ≠ 0))
          exec (.streamPushWrite crew port lane) s = .next (r.1.pushSent crew port op m keys r.2 false))))


/-- Pans. A reservation or a put that comes in through a port that is DOWN or retrains changes nothing. A reservation whose segment 2 leads to no core is answered with ROUTE; one that reaches no pan of its key, or asks what the pan cannot hold, with DENIED; one of a FREE slot
reserves it with a new generation; one that joins a reservation of the same mode and contributors is counted in; another one is BUSY. The replies a slot owes leave once it
holds zeros. A put of the slot's generation, mode and size is performed, another one refused with its cause; replies and acknowledgements that come in, or their absence, end the operation; a slot
not complete at its expiry fails.
A Celore port. STOP and GO hold back and let go one virtual channel; a replay that is not the sixteenth within 10 µs is only counted; a retrain starts, a breach of each launch that uses the port, and ends, the fourth within a
second takes the port DOWN; DOWN happens once; training writes the peer's table entry with FLIGHT half the round trip, and a write of it is refused while the port is
held or below the measured FLIGHT (from R125 to R130, R132, R133, R135, R137, R316, R317). -/
def Obligations.PansAndPortsAnswer : Prop :=
  ((∀ (s : State) (seg2 port slot mode ncont nchunk : Nat) (key : BitVec 32) (durUs smod score : Nat) (join : Bool),
      let ev := Instr.panrsvArrival seg2 port slot mode ncont nchunk key durUs smod score join
      let u := s.flowControl port 0
      (s.portShut port = true → exec ev s = .next s)
      ∧ (s.portShut port = false →
        (State.arrivalCore port seg2 = none → exec ev s = .next (u.panReply port smod score slot 0x17 0 0))
        ∧ ∀ core, State.arrivalCore port seg2 = some core →
          ((∀ d ∈ u.panLaunches core, bits (u.launch d).q.pan.toNat 63 32 ≠ key.toNat) → exec ev s = .next (u.panReply port smod score slot 8 0 0))
          ∧ ∀ d, (u.panLaunches core).find? (fun d => decide (bits (u.launch d).q.pan.toNat 63 32 = key.toNat)) = some d →
            let k := State.slotKey d slot
            let p := u.slot core k
            let fits := slot < bits (u.launch d).q.pan.toNat 6 0 ∧ 0 < nchunk ∧ nchunk ≤ bits (u.launch d).q.pan.toNat 23 12 ∧ mode < 3 ∧ 0 < ncont ∧ ncont ≤ 15 ∧
              (mode = 0 → ncont = 1) ∧ 0 < durUs
            let joins := join = true ∧ (p.state = 1 ∨ p.state = 2) ∧ p.mode = mode ∧ p.ncont = ncont ∧ p.joined < p.ncont
            let p' := { p with joined := p.joined + 1, ports := p.ports ||| (1#24 <<< port) }
            (¬fits → exec ev s = .next (u.panReply port smod score slot 8 0 0))
            ∧ (fits → p.state = 0 → join = false →
              Gives s ev fun t => (t.slot core k).state = 1 ∧ (t.slot core k).gen = p.gen + 1 ∧
                (t.slot core k).expiry = BitVec.ofNat 64 (s.now + 1000 * durUs) ∧ (t.slot core k).ports = 1#24 <<< port ∧ (t.slot core k).owed = [(port, smod, score)])
            ∧ (fits → ¬joins → (p.state ≠ 0 ∨ join = true) → exec ev s = .next (u.panReply port smod score slot 3 0 0))
            ∧ (fits → joins → p.owed = [] → exec ev s = .next ((u.setSlot core k p').panReply port smod score slot 0 p.gen.toNat p.expiry.toNat))
            ∧ (fits → joins → p.owed ≠ [] → exec ev s = .next (u.setSlot core k { p' with owed := p.owed ++ [(port, smod, score)] })))) ∧
  (∀ (s : State) (core slot : Nat),
      let p := s.slot core slot
      Gives s (.slotZeroingDone core slot) fun t => t.mem = s.mem ∧ (t.slot core slot).owed = [] ∧
        ((p.owed.all fun o => s.portOpen o.1 1 && (s.port o.1).vc1.isEmpty) = true →
          t.pl.out = s.pl.out ++ p.owed.map fun o => ⟨8, [o.1, o.2.1, o.2.2, slot % 64, 0, p.gen.toNat, p.expiry.toNat]⟩)) ∧
  (∀ (s : State) (core slot : Nat), (s.slot core slot).expiry.toNat ≤ s.now → (s.slot core slot).state = 1 ∨ (s.slot core slot).state = 2 →
      let p := s.slot core slot
      exec (.slotExpiry core slot) s =
        .next (s.setSlot core slot { State.withHdr p ((State.slotHdr p).fail s.now errStopped) with state := 4, cause := 2 }).abWake) ∧
  (∀ (s : State) (seg2 port slot gen mode off n : Nat) (data : List (BitVec 8)),
      let ev := Instr.panputArrival seg2 port slot gen mode off n data
      let ack := fun (s : State) c => s.sendReply port 9 [port, slot, gen, off, n, c]
      let u := s.flowControl port 2
      (s.portShut port = true → exec ev s = .next s)
      ∧ (0 < n → n ≤ 16 → data.length = 512 * n → s.portShut port = false →
        (State.arrivalCore port seg2 = none → exec ev s = .next (ack u 0x17))
        ∧ ∀ core, State.arrivalCore port seg2 = some core →
          let pans := (u.panLaunches core).filter fun d => decide (slot < bits (u.launch d).q.pan.toNat 6 0)
          (pans = [] → exec ev s = .next (ack u 0x1C))
          ∧ (∀ d, pans = [d] →
            let key := State.slotKey d slot
            let p := u.slot core key
            (p.gen.toNat ≠ gen → exec ev s = .next (ack u 0x1A))
            ∧ (p.gen.toNat = gen → p.state = 0 → exec ev s = .next (ack u 0x1E))
            ∧ (p.gen.toNat = gen → p.state = 3 → exec ev s = .next (ack u 0x18))
            ∧ (p.gen.toNat = gen → p.state = 4 →
                exec ev s = .next (ack u (if p.cause = 1 then 0x1B else if p.cause = 2 then 0x1D else if p.cause = 3 then 0x1C else if p.cause = 4 then 0x1E else 0x18)))
            ∧ (p.gen.toNat = gen → (p.state = 1 ∨ p.state = 2) → p.mode ≠ mode → exec ev s = .next (ack u 0x19))
            ∧ (p.gen.toNat = gen → (p.state = 1 ∨ p.state = 2) → p.mode = mode → p.nchunk < off + n → exec ev s = .next (ack u 0x18))
            ∧ (p.gen.toNat = gen → (p.state = 1 ∨ p.state = 2) → p.mode = mode → off + n ≤ p.nchunk →
                let v := u.setSlot core key { p with refs := p.refs + 1 }
                let v := (List.range n).foldl (fun s j => s.putChunk core key gen (off + j) ((data.drop (512 * j)).take 512)) v
                let v := ((v.setSlot core key { v.slot core key with refs := (v.slot core key).refs - 1 }).slotSync core key).abWake
                exec ev s = .next (ack v (if (v.slot core key).cause = 5 then 0x18 else 0)))))) ∧
  (∀ (s : State) (core idx : Nat) (r : PanReq), SMap.find? (s.core core).panReqs idx = some r → r.answered = false →
      (∀ st gen expiry, r.isPut = false → r.sent = true → s.portShut r.port = false →
        (0x16 ≤ st → exec (.panrsvReply core idx st gen expiry) s = .next (s.answerReq core idx r [] (some st)))
        ∧ (st < 0x16 → st ≠ 0 → exec (.panrsvReply core idx st gen expiry) s = .next (s.answerReq core idx r [status 0 0 st] none))
        ∧ (∀ j, st = 0 → (List.range 32).find? (fun j => (SMap.find? (s.core core).sender j).isNone) = some j →
            let w := r.w2.toNat
            let e : SendEnt := { lit := r.lit, hdr := BitVec.ofNat 8 (bits w 31 24), slot := bits w 23 18, gen := gen % 65536, mode := bits w 17 16, port := r.port, launch := r.ctx.launch }
            exec (.panrsvReply core idx st gen expiry) s =
              .next ((s.setCore core { s.core core with sender := SMap.put (s.core core).sender j e }).answerReq core idx r
                [status gen 0 0, 0, expiry % 2 ^ 32, expiry / 2 ^ 32 % 2 ^ 32] none)))
      ∧ (∀ cause, r.isPut = true → r.sent = true → s.portShut r.port = false →
          (cause = 0 → exec (.panputAck core idx cause) s = .next (s.answerReq core idx r [] none))
          ∧ (cause = 0x1B → exec (.panputAck core idx cause) s = .next ((s.breach r.ctx.launch 0x24 r.port 255).answerReq core idx r [] (some cause)))
          ∧ (cause ≠ 0 → cause ≠ 0x1B → exec (.panputAck core idx cause) s = .next (s.answerReq core idx r [] (some cause))))
      ∧ (r.sentAt + 2 * (s.port r.port).flight + 4000000 ≤ s.now → exec (.panResponseTimeout core idx) s = .next (s.answerReq core idx r [] (some 0x1F)))
      ∧ (s.now < r.sentAt + 2 * (s.port r.port).flight + 4000000 → exec (.panResponseTimeout core idx) s = .next s))) ∧
  (∀ (s : State) (port : Nat), port < 24 →
    let q := s.port port
    (∀ vc, vc < 4 →
      exec (.celoreStop port vc) s = .next (s.setPort port { q with stopped := q.stopped ||| (1#4 <<< vc) })
      ∧ exec (.celoreGo port vc) s = .next ((s.setPort port { q with stopped := q.stopped &&& ~~~(1#4 <<< vc) }).releaseVc1 port))
    ∧ (q.down = false → q.retrain = false → Gives s (.celoreGo port 1) fun t => t.mem = s.mem ∧ t.pl.out = s.pl.out ++ q.vc1 ∧ (t.port port).vc1 = [])
    ∧ (q.down = false → q.retrain = false →
        let recent := (q.replays.filter fun t => decide (s.now < t + 10000)) ++ [s.now]
        (recent.length < 16 → exec (.flitCrcFail port) s = .next (s.setPort port { q with replays := recent }))
        ∧ (16 ≤ recent.length → exec (.flitCrcFail port) s = .next ((s.setPort port { q with replays := recent }).doRetrain port)))
    ∧ (q.down = false → q.retrain = false →
        let recent := (q.retrains.filter fun t => decide (s.now < t + 1000000000)) ++ [s.now]
        (4 ≤ recent.length → exec (.portRetrain port) s = .next ((s.setPort port { q with retrains := recent }).doPortDown port))
        ∧ (recent.length < 4 → exec (.portRetrain port) s =
            .next ((s.portUsers port).foldl (fun (s : State) d => s.breach d 0x24 port 255) (s.setPort port { q with retrain := true, retrains := recent, replays := [] }))))
    ∧ (q.retrain = true → exec (.portRetrainComplete port true) s = .next ((s.setPort port { q with retrain := false }).releaseVc1 port)
        ∧ exec (.portRetrainComplete port false) s = .next (s.doPortDown port))
    ∧ (q.down = false → exec (.portDown port) s = .next (s.doPortDown port))
    ∧ (q.down = true → exec (.portDown port) s = .next s)
    ∧ (∀ pmod pport trip, Gives s (.portTraining port pmod pport trip) fun t =>
        (t.port port).down = false ∧ (t.port port).pmod = pmod % 65536 ∧ (t.port port).valid = true ∧ (t.port port).flight = min 65535 ((trip + 19) / 20 * 10))
    ∧ (∀ value, ((s.portHeld port = true ∨ bits value.toNat 41 26 < q.measured) → exec (.peerTableWrite port value) s = .next s)
        ∧ (s.portHeld port = false → q.measured ≤ bits value.toNat 41 26 →
            exec (.peerTableWrite port value) s = .next (s.setPort port { q with peer := value &&& 0xFFFFFFFFFC000000#64 }))))


/-! ## Matrix units and power (chapters 13, 15 and 18) -/

/-- The matrix units and the windrow. A signature counts once its signer's earlier stores on chip are performed, and fires what it can; an idle unit starts
what it picks, or asks the limiter first; the operation that occupies the unit has its effect and retires; an open windrow entry fires at its deadline, a fired
one takes its B once, and a fire that runs ends with each contributor's own end (from R285 to R290, R303 to R306). -/
def Obligations.MatrixUnitsWork : Prop :=
  (∀ (s : State) (crew idx : Nat) (c : Crew) (n k bound : Nat), SMap.find? s.ex.crews crew = some c → (c.signs.drop idx).head? = some (n, k, bound) →
      let quad := quadOf crew
      let late := c.chipOpen bound
      (late = true → exec (.signatureCount crew idx) s = .next s)
      ∧ (late = false →
          let u := s.setCrew crew { c with signs := c.signs.take idx ++ c.signs.drop (idx + 1) }
          let cv := s.cv quad n
          exec (.signatureCount crew idx) s = .next ((((u.setCv quad n { cv with signed := cv.signed + k }).cvFire quad n 5).mxStamp (quad / 4)).reap crew))) ∧
  (∀ (s : State) (core quad : Nat),
      let k := core * 4 + quad
      let q := s.quad k
      ((q.running ≠ [] ∨ (State.mxChosen q).isSome = true) → exec (.matrixOpStart core quad) s = .next s)
      ∧ (∀ p, q.running = [] → State.mxChosen q = none → s.mxPick k = some p →
          exec (.matrixOpStart core quad) s = .next (if s.mustAsk k p then s.mxAsk k p else s.mxStart k p))
      ∧ (∀ r o, q.running = [r] → r.op = some o →
          let e := (s.meterBallast k).mxEffect k o r.pre
          exec (.matrixOpComplete core quad) s = .next
            (((e.1.modQuad k fun q => { q with running := [], drew := if isMma o then some s.now else q.drew }).mxDone o e.2).mxStamp core))) ∧
  (∀ (s : State) (core entry : Nat) (w : WEnt), s.wEnt core entry = some w →
      (isOpen w = true → wDeadline w ≤ s.now → exec (.windrowDeadlineFire core entry) s = .next (s.wFire core entry))
      ∧ ((isOpen w = false ∨ s.now < wDeadline w) → exec (.windrowDeadlineFire core entry) s = .next s)
      ∧ (w.fired.isSome = true → w.arrived = false →
          exec (.windrowBArrived core entry) s = .next ((s.setWEnt core entry { w with arrived := true }).mxStamp core))
      ∧ ((w.fired = none ∨ w.arrived = true) → exec (.windrowBArrived core entry) s = .next s)) ∧
  (∀ (s : State) (core entry quad : Nat) (r : Running), s.fireOf core entry = some (quad, r) →
      exec (.windrowFireComplete core entry) s = .next (s.wFireEnd core quad r))

/-- Power. A ramp table is taken while no unit draws and only with rising entries from at
least 1 to 32; the limiter steps every 4 clk; an interval ends at its 10 µs, a sample leaves at its 100 µs and its sums start again; ballast ends at its time; a clock rises when its rail has
come; a rail that fails drops its cluster and replays its launches; a counting window starts again from 0 (from R326, R391, R395, R397, R398, R402, R411). -/
def Obligations.PowerEventsAct : Prop :=
  ∀ (s : State),
    (∀ (cl : Nat) (value : BitVec 96), cl < 20 →
        let a := fun (j : Nat) => bits value.toNat (6 * j + 5) (6 * j)
        let good := 1 ≤ a 0 ∧ a 15 = 32 ∧ (∀ j, j < 15 → a j ≤ a (j + 1)) ∧ ∀ q ∈ State.clusterQuads cl, s.draws q = false ∧ (s.quad q).ramp = false
        (good → exec (.rampTableWrite cl value) s = .next (s.setCluster cl { s.cluster cl with ramp := value, rampSet := true, j := 0, d := 0 }))
        ∧ (¬good → exec (.rampTableWrite cl value) s = .next s))
    ∧ (∀ cl, cl < 20 →
        let c := s.cluster cl
        ((c.stepAt = 0 ∨ c.stepAt + s.clkNs (cl * 8) 4 ≤ s.now) → exec (.slewLimiterStep cl) s = .next (s.limiterStep cl))
        ∧ (c.stepAt ≠ 0 → s.now < c.stepAt + s.clkNs (cl * 8) 4 → exec (.slewLimiterStep cl) s = .next s)
        ∧ (c.clock < c.target → s.railNow c = State.pointMv c.target →
            Gives s (.railReachedPoint cl) fun t => t.mem = s.mem ∧ (t.cluster cl).clock = c.target ∧ (t.cluster cl).rail = State.pointMv c.target)
        ∧ (s.railNow c ≠ State.pointMv c.target → exec (.railReachedPoint cl) s = .next s)
        ∧ (let ls := List.filter (fun p : Nat × Launch => decide (p.2.phase = 1) && p.2.q.quads.any fun q => decide (q / 32 = cl)) s.fr.launches
          Gives s (.railFault false cl) fun t => t.mem = s.mem ∧ (t.cluster cl).fallen = true ∧ (t.cluster cl).target = 0 ∧
            t.events = s.events ++ ls.map fun p => .launchReplay p.1 0x22))
    ∧ (∀ die,
        let ls := List.filter (fun p : Nat × Launch => decide (p.2.phase = 1) && p.2.q.quads.any fun q => decide (dieOf (q / 4) = die)) s.fr.launches
        Gives s (.railFault true die) fun t => t.mem = s.mem ∧ t.events = s.events ++ ls.map fun p => .launchReplay p.1 0x22)
    ∧ ((s.pl.mgmt.interval + 1) * 10000 ≤ s.now → exec .controlIntervalBoundary s = .next s.intervalEnd)
    ∧ (s.now < (s.pl.mgmt.interval + 1) * 10000 → exec .controlIntervalBoundary s = .next s)
    ∧ ((s.pl.mgmt.samples + 1) * 100000 ≤ s.now → Gives s .telemetrySample fun t => t.mem = s.mem ∧ t.pl.out = s.pl.out ++ [⟨4, [s.sampleBits]⟩] ∧
        t.pl.mgmt.samples = s.pl.mgmt.samples + 1 ∧ t.pl.mgmt.sampleSeq = s.pl.mgmt.sampleSeq + 1 ∧ t.pl.mgmt.modAcc = 0 ∧ t.pl.mgmt.balAcc = 0 ∧ t.pl.mgmt.opAcc = 0 ∧
        t.pl.mgmt.rampx = 0 ∧ ∀ p, (t.part p).acc = 0)
    ∧ (∀ n, n = s.now / 1000000 - s.pl.mgmt.msWindow →
        (n ≠ 0 → Gives s .budgetWindowBoundary fun t => t.mem = s.mem ∧ t.pl.mgmt.msWindow = s.now / 1000000 ∧
          ∀ k, (t.tenant k).used = 0 ∧ (t.tenant k).timeNs = (s.tenant k).timeNs - n * (1000 * bits (s.dcb k) 63 44))
        ∧ (n = 0 → exec .budgetWindowBoundary s = .next s))
    ∧ (∀ unit c, SMap.find? s.pl.units unit = some c → c.since + s.pl.mgmt.window ≤ s.now → exec (.eventWindowEnd unit) s =
        .next { s with pl := { s.pl with units := SMap.put s.pl.units unit { c with events := 0, corrected := 0, since := s.now } } })
    ∧ (∀ core quad b, (s.quad (core * 4 + quad)).ballast = some b →
        (b.endAt ≤ s.now → Gives s (.ballastEnd core quad) fun t => t.mem = s.mem ∧ (t.quad (core * 4 + quad)).ballast = none)
        ∧ (s.now < b.endAt → exec (.ballastEnd core quad) s = .next s))

/-! ## Quotations, launches, traps, queues and pre-emption (chapters 16 and 17) -/

/-- The front end. A request that fails a check is answered with its status and a record of it; one that can be priced has a quotation, whose QID is the next; an
ACCEPT enters the acceptance order and its head is tried; a launch starts when its rise is served; a slot with one launch to serve starts its next block; the group of a trap takes
the oldest that waits (from R136, R147, R333, R341 to R345, R367, R372, R405). -/
def Obligations.FrontEndServesRequests : Prop :=
  ∀ (s : State) (crew lane : Nat),
    (∀ r, s.findReq crew lane 0 = some r →
      let die := dieOf (coreOf crew)
      let who := State.feCrew crew
      let at' := s.feKey die who (s.crewAsid crew)
      let u := s.dropEnds die who
      (∀ asid va, s.readAsked at' r.req = .error (.walk asid va) → exec (.quoteRequest crew lane) s = .next (s.askWalk die asid va 2 who))
      ∧ ∀ a key, s.readAsked at' r.req = .ok a → at' r.recVa = .ok key →
        let Refused := fun (st : Nat) => exec (.quoteRequest crew lane) s = .next ((u.feWrite key (leBytes 64 (State.quoteRecord (u.refusedQuote st)))).feAnswer r st)
        (∀ st, u.requestStatus a = some st → Refused st)
        ∧ (∀ st, u.requestStatus a = none → u.price a (((u.crew crew).queue).getD 0) = .error st →
            (st ≠ qsNoResources → Refused st) ∧ (st = qsNoResources → exec (.quoteRequest crew lane) s = .next (u.feAnswer r st)))
        ∧ (∀ q, u.requestStatus a = none → u.price a (((u.crew crew).queue).getD 0) = .ok q →
            let q := { q with qid := BitVec.ofNat 64 u.fr.nextQid, recVa := key }
            let w := { u with fr := { u.fr with nextQid := u.fr.nextQid + 1, quotes := SMap.put u.fr.quotes u.fr.nextQid q } }
            exec (.quoteRequest crew lane) s = .next ((w.feWrite key (leBytes 64 (State.quoteRecord q))).feAnswer r qsQuoted)))
    ∧ (∀ r,
        let u := s.regenRoutes
        u.findReq crew lane 1 = some r →
        (∀ st, u.answerStatus r.qid.toNat = some st → exec (.acceptRequest crew lane) s = .next (u.refuseAnswer r st))
        ∧ (u.answerStatus r.qid.toNat = none → Gives s (.acceptRequest crew lane) fun t => t.mem = u.mem ∧ t.fr.order = u.fr.order ++ [{ r with time := u.now, req := 0 }] ∧
            t.fr.reqs = u.fr.reqs.filter fun o => !decide (o.crew = r.crew ∧ o.op = r.op)))
    ∧ (∀ r, s.findReq crew lane 2 = some r →
        (∀ st, s.answerStatus r.qid.toNat = some st → exec (.declineRequest crew lane) s = .next (s.refuseAnswer r st))
        ∧ (s.answerStatus r.qid.toNat = none → s.acceptWaits r.qid.toNat = false →
            exec (.declineRequest crew lane) s = .next ((s.endQuote r.qid.toNat qsDeclined).feAnswer r qsDeclined)))
    ∧ (∀ r rest, s.fr.order = r :: rest → exec .acceptTakesEffect s = .next (s.tryAccept r))
    ∧ (∀ d l, SMap.find? s.fr.launches d = some l → l.phase = 0 → l.startAt ≤ s.now → l.frozen = false →
        let void := decide ((s.quote l.q.qid.toNat).status = qsVoid)
        let dl := if void then 0 else if l.started.isSome then l.deadline else BitVec.ofNat 64 (s.now + l.q.tbound)
        let u := s.setLaunch d { l with phase := 1, started := some (l.started.getD s.now), meteredAt := s.now, deadline := dl }
        exec (.launchStart d) s = .next ((l.q.slots.foldl (fun s e => s.startSlot d e) u).checkLaunch d))
    ∧ (∀ d l, SMap.find? s.fr.launches d = some l → s.now < l.startAt → exec (.launchStart d) s = .next s)
    ∧ (∀ core slot,
        let serves := (List.filter (fun p : Nat × Launch => p.2.q.slots.any fun e => decide (e.core = core ∧ e.slot = slot) && s.slotOpen p.1 e) s.fr.launches).map (·.1)
        (serves = [] → exec (.blockStart core slot) s = .next s)
        ∧ (∀ d e, serves = [d] → s.slotEnt d core slot = some e → exec (.blockStart core slot) s = .next (s.startSlot d e)))
    ∧ (∀ d cause, exec (.launchReplay d cause) s = .next (s.replayLaunch d cause))
    ∧ (∀ die asid record,
        let k : Loaded := ⟨die, asid, record, Config.freeRelocs s.ctr⟩
        let u := s.regenRoutes
        exec (.kernelLoad die asid record) s =
          .next (State.fillRoutes { u with pl := { u.pl with loads := (u.pl.loads.filter fun (o : Loaded) => !decide (o.die = die ∧ o.asid = asid ∧ o.record = record)) ++ [k] } } k))
    ∧ (((s.crew crew).groups (s.codeOf crew)).find? (fun g => hasLane g.lanes lane) = none → exec (.trapEntry crew lane) s = .next (s.takeParked crew lane))
    ∧ (∀ g, ((s.crew crew).groups (s.codeOf crew)).find? (fun g => hasLane g.lanes lane) = some g →
        (∀ t, s.takeWaiting crew g = some t → exec (.trapEntry crew lane) s = .next t)
        ∧ (s.takeWaiting crew g = none → exec (.trapEntry crew lane) s = .next s))

/-- Host queues. A descriptor write is refused with a size of 0 or a reserved STATE, and STATE 1 starts the program's load; CQACK moves CQHEAD, or is counted as dropped; a packet
starts where there is room and ends once its budget is spent; a vector's unmask sends the message that is pending; a reset of an idle queue begins and ends (from R354, R355, R357, R358, R418 to R422). -/
def Obligations.QueuesAreServed : Prop :=
  ∀ (s : State),
    (∀ (qi : Nat) (value : BitVec 512),
      let v := value.toNat
      let q := s.queue qi
      let d := (q.desc &&& ~~~State.queueRw) ||| (value &&& State.queueRw)
      ((4096 ≤ qi ∨ bits v 238 235 = 0 ∨ bits v 234 231 = 0 ∨ bits v 230 229 = 3) → exec (.queueDescriptorWrite qi value) s = .next s)
      ∧ (qi < 4096 → bits v 238 235 ≠ 0 → bits v 234 231 ≠ 0 → bits v 230 229 ≠ 3 →
          (bits v 230 229 = 1 → exec (.queueDescriptorWrite qi value) s = .next (s.setQueue qi { q with desc := BitVec.ofNat 512 (setBits d.toNat 230 229 0), loading := true }))
          ∧ (bits v 230 229 ≠ 1 → exec (.queueDescriptorWrite qi value) s = .next (s.setQueue qi { q with desc := d, loading := false }))))
    ∧ (∀ qi, (s.queue qi).loading = true → (s.queue qi).inFlight = false → s.queueResetting qi = false →
        let q := s.queue qi
        let die := State.qDie q
        let who := State.feQueue qi
        let read := s.readProgram (s.feKey die who (s.qAsid q)) q
        (∀ asid va, read = .error (.walk asid va) → exec (.queueProgramLoad qi) s = .next (s.askWalk die asid va 2 who))
        ∧ (∀ st, read = .ok (.error st) → exec (.queueProgramLoad qi) s = .next ((s.dropEnds die who).setQueue qi { q with
            loading := false, desc := BitVec.ofNat 512 (setBits (setBits q.desc.toNat 230 229 0) 211 204 st) }))
        ∧ (∀ p, read = .ok (.ok p) → exec (.queueProgramLoad qi) s = .next ((s.dropEnds die who).setQueue qi { p with
            loading := false, desc := BitVec.ofNat 512 (setBits p.desc.toNat 230 229 1) })))
    ∧ (∀ (port fn fq : Nat) (value : BitVec 32),
        let fk := port * 33 + fn
        let f := s.func fk
        let v := value.toNat
        (f.resetting = true → exec (.notify port fn fq value) s = .next (s.setFunc fk { f with drop := State.countUp f.drop }))
        ∧ (s.funcShut fk = false →
            (s.funcQueue fk fq = none → exec (.cqack port fn fq value) s = .next (s.setFunc fk { f with badNotify := State.countUp f.badNotify }))
            ∧ (∀ qi, s.funcQueue fk fq = some qi →
                let q := s.queue qi
                let d := q.desc.toNat
                let acks := v < 65536 ∧ (v + 65536 - bits d 287 272) % 65536 ≤ (bits d 271 256 + 65536 - bits d 287 272) % 65536
                let t := s.setQueue qi { q with desc := BitVec.ofNat 512 (setBits d 287 272 v) }
                (acks → exec (.cqack port fn fq value) s = .next { t with fr := { t.fr with roomAt := s.now } })
                ∧ (¬acks → exec (.cqack port fn fq value) s = .next (s.setFunc fk { f with badNotify := State.countUp f.badNotify })))))
    ∧ (∀ die core qi k base,
        let u := s.rollWindows
        160 ≤ core → core < 192 → dieOf core = die → u.chooseQueue die = some qi → u.queueRoom core (u.queue qi) = some (k, base) →
          exec (.packetStart die core) s = .next (u.startPacket core qi k base))
    ∧ (∀ crew c qi, SMap.find? s.ex.crews crew = some c → c.queue = some qi →
        (4096 ≤ c.issues → exec (.packetBudgetExhausted crew) s = .next (s.killPacket qi 2)) ∧ (c.issues < 4096 → exec (.packetBudgetExhausted crew) s = .next s))
    ∧ (∀ port fn vec, vec < 256 → s.funcShut (port * 33 + fn) = false →
        let f := s.func (port * 33 + fn)
        Gives s (.msixVectorUnmask port fn vec) fun t => t.mem = s.mem ∧ (t.func (port * 33 + fn)).msixMask = f.msixMask &&& ~~~(1#256 <<< vec) ∧
          t.pl.out = if f.msixOn = true ∧ f.pba.getLsbD vec = true then s.pl.out ++ [⟨1, [port, fn, vec, (SMap.get 0 f.msixTab vec).toNat]⟩] else s.pl.out)
    ∧ (∀ (port fn : Nat) (value : BitVec 32),
        let fk := port * 33 + fn
        let f := s.func fk
        let name := (f.qrst &&& 0x40000000#32) ||| (value &&& 0x7F#32)
        (s.funcShut fk = false → (value.getLsbD 31 = false ∨ f.qrstBusy ≠ []) → exec (.queueReset port fn value) s = .next (s.setFunc fk { f with qrst := name }))
        ∧ (∀ qi, s.funcShut fk = false → value.getLsbD 31 = true → f.qrstBusy = [] → s.funcQueue fk (bits value.toNat 6 0) = some qi →
            exec (.queueReset port fn value) s = .next ((s.setFunc fk { f with qrst := name &&& 0x7F#32 }).beginQueueReset fk qi))
        ∧ (s.funcShut fk = false → value.getLsbD 31 = true → f.qrstBusy = [] → s.funcQueue fk (bits value.toNat 6 0) = none →
            exec (.queueReset port fn value) s = .next (s.setFunc fk { f with qrst := name }))
        ∧ (∀ qi, f.qrstBusy.find? s.resetDone = some qi → exec (.queueResetDone port fn) s = .next (s.endQueueReset fk qi))
        ∧ (f.qrstBusy = [] → f.resetting = true → exec (.queueResetDone port fn) s = .next (s.setFunc fk { f with resetting := false }))
        ∧ (f.resetting = false → f.queues = [] → Gives s (.functionLevelReset port fn) fun t => t.mem = s.mem ∧ (t.func fk).resetting = true ∧ (t.func fk).invcmd = 0 ∧
            (t.func fk).qrst = 0 ∧ (t.func fk).errHead = 0 ∧ (t.func fk).badNotify = 0 ∧ (t.func fk).msixOn = false ∧ (t.func fk).pba = 0))

/-- Pre-emption. A request gives every crew of the tenant there whose TVEC is valid a PREEMPT notice; after GRACE times 10 µs rung 2 begins, after KILLT times 100 µs rung 3; a draining block is stopped DRAIN µs after rung 2; a block that has settled is
saved, dropped where it was killed, or left where it stands in a frozen launch; a withdrawn or ended request lets saved blocks come back; a frozen launch is killed (from R377 to R386, R390). -/
def Obligations.PreemptionClimbsItsRungs : Prop :=
  ∀ (s : State) (tenant part : Nat),
    (s.preemptOf tenant part = none →
        let u := { s with fr := { s.fr with preempts := s.fr.preempts ++ [({ tenant := tenant, part := part, since := s.now } : Preempt)] } }
        exec (.preemptRequest tenant part) s = .next ((u.tenantBlocks tenant part).foldl (fun (s : State) bk =>
          let v := (s.block bk).crews.foldl (fun (s : State) k => s.modCrew k fun (c : Crew) => { c with notice := c.tvec.getLsbD 0 }) s
          (v.modBlock bk fun b => { b with stop := max 1 b.stop }).stepNext bk) u))
    ∧ ((s.preemptOf tenant part).isSome = true → exec (.preemptRequest tenant part) s = .next s)
    ∧ (∀ p, s.preemptOf tenant part = some p →
        (let u := s.dropPreempt tenant part;
          exec (.preemptWithdraw tenant part) s = .next (((u.tenantBlocks tenant part).foldl (fun (s : State) bk =>
            let v := (s.block bk).crews.foldl (fun (s : State) k => s.modCrew k fun (c : Crew) => { c with notice := false, noticeAt := (0, 0) }) s
            (if (v.block bk).stop < 3 then v.modBlock bk fun b => { b with stop := 0 } else v).stepNext bk) u).resumeAll tenant part))
        ∧ (p.rung = 1 → p.since + bits (s.dcb tenant) 43 32 * 10000 ≤ s.now →
            let u := s.setPreempt { p with rung := 2 }
            exec (.graceTimerExpiry tenant part) s = .next ((u.tenantBlocks tenant part).foldl (fun (s : State) bk => if (s.block bk).stop < 2 then s.rungTwo bk else s) u))
        ∧ ((p.rung ≠ 1 ∨ s.now < p.since + bits (s.dcb tenant) 43 32 * 10000) → exec (.graceTimerExpiry tenant part) s = .next s)
        ∧ (p.rung < 3 → p.since + bits (s.dcb tenant) 31 20 * 100000 ≤ s.now →
            exec (.killTimerExpiry tenant part) s = .next ((s.setPreempt { p with rung := 3 }).rungThree tenant part))
        ∧ ((3 ≤ p.rung ∨ s.now < p.since + bits (s.dcb tenant) 31 20 * 100000) → exec (.killTimerExpiry tenant part) s = .next s))
    ∧ exec (.tenantResume tenant part) s = .next ((s.dropPreempt tenant part).resumeAll tenant part)
    ∧ (∀ core slot,
        (∀ bk, (s.blockAt core slot fun b => decide (b.stop = 2)) = some bk →
          let b := s.block bk
          let endAt := b.stopAt + bits (s.ppcOf (s.blockPart b)) 23 16 * 1000
          (endAt ≤ s.now → exec (.drainTimerExpiry core slot) s = .next ((s.noteStopped b.launch).stopBlock bk 3))
          ∧ (s.now < endAt → exec (.drainTimerExpiry core slot) s = .next s))
        ∧ (∀ bk, (s.blockAt core slot fun b => decide (3 ≤ b.stop) && decide (b.stop ≤ 5)) = some bk →
            let u := s.haltBlock bk
            let b := u.block bk
            (u.settled bk = false → exec (.blockStopComplete core slot) s = .next u)
            ∧ (u.settled bk = true → b.stop = 4 → exec (.blockStopComplete core slot) s = .next ((u.panStop b.launch core).dropBlock bk))
            ∧ (u.settled bk = true → b.stop = 5 → exec (.blockStopComplete core slot) s = .next ((u.panStop b.launch core).modBlock bk fun b => { b with stop := 6 }))
            ∧ (u.settled bk = true → b.stop = 3 → exec (.blockStopComplete core slot) s = .next ((u.panStop b.launch core).saveBlock bk))))
    ∧ (∀ core,
        let new := s.fr.saved.filter fun b => decide (b.block.core = core) && b.inShadow.isNone
        (new ≠ [] → Gives s (.shadowExchangeDone core) fun t => t.mem = s.mem ∧ ∀ b ∈ t.fr.saved, b.block.core = core → b.inShadow.isSome = true)
        ∧ (new = [] → exec (.shadowExchangeDone core) s = .next s))
    ∧ (∀ d l, SMap.find? s.fr.launches d = some l →
        (l.frozen = true → exec (.frozenContextKill d) s = .next ((s.setLaunch d { l with failed := true }).killLaunch d none))
        ∧ (l.frozen = false → exec (.frozenContextKill d) s = .next s))

/-! ## Management, attestation, resets (chapters 18 and 19) -/

/-- Management. A DCB write that breaks a rule of the tree is refused, one that fits is taken; an owner byte changes only while no launch of the old or the new owner is resident; a host port
trains to CXL or PCIe; an attestation command is answered once the connection has come far enough, and with ERROR before (from R149, R150, R387, R392, R413, R424). -/
def Obligations.ManagementWritesAndAttests : Prop :=
  ∀ (s : State),
    (∀ (idx : Nat) (value : BitVec 128),
      let v := State.dcbCopy value.toNat (s.dcb (bits value.toNat 127 116))
      let u := (s.setDcb idx (State.dcbAfter (s.dcb idx) v)).copyDown
      let prt := bits v 97 93
      (s.dcbRefused idx v = true → exec (.dcbWrite idx value) s = .next s)
      ∧ (s.dcbRefused idx v = false → (bits v 115 113 ≠ 1 ∨ u.runningPres prt ≤ bits v 88 76) → exec (.dcbWrite idx value) s = .next u)
      ∧ (s.dcbRefused idx v = false → bits v 115 113 = 1 → bits v 88 76 < u.runningPres prt → exec (.dcbWrite idx value) s =
          .next ((List.filter (fun l : Nat × Launch => decide (l.2.phase = 1) && bitOf l.2.q.parts.toNat prt) u.fr.launches).foldl
            (fun (s : State) l => s.breach l.1 0x42 0 255) u)))
    ∧ (∀ (core idx : Nat) (value : BitVec 8), core < 160 → idx < 4 →
        let q := core * 4 + idx
        let v := value &&& 0x9F#8
        let old := (s.quad q).owner
        let busy := s.ownerBusy old v fun c => decide (c = core)
        ((s.unit 0 q).retired = false → old ≠ v → busy = false →
            exec (.ownerByteWrite 0 core idx value) s = .next (s.setQuad q { s.quad q with owner := v }))
        ∧ (busy = true → exec (.ownerByteWrite 0 core idx value) s = .next s))
    ∧ (∀ a value, a < 4096 → exec (.managementWrite 0 a 0 value) s = .next { s with tr := { s.tr with roots := SMap.set 0 s.tr.roots a value } })
    ∧ (∀ (part i : Nat) (value : BitVec 64), part < 32 → i < 16 →
        inHbmRange (value.toNat % 2 ^ 32 * 2097152) (value.toNat / 2 ^ 32 * 2097152) = true → exec (.managementWrite 1 part i value) s = .next { s with pl := { s.pl with
        grants := SMap.set (0, 0) s.pl.grants (part * 16 + i) (value.toNat % 2 ^ 32, value.toNat / 2 ^ 32) } })
    ∧ (∀ port cxl lanes, port < 2 → (lanes = 16 ∨ lanes = 8 ∨ lanes = 4) →
        exec (.hostPortTraining port cxl lanes) s = .next (s.setHostPort port { mode := if cxl = true ∧ lanes ≠ 4 then 2 else 1, lanes := lanes }))
    ∧ (∀ port, port < 2 →
        let h := s.hostPort port
        let Early := fun (i : Instr) (need : Nat) => h.spdm < need → exec i s = .next (s.send 5 [port, 0x7F, 4])
        let Answer := fun (i : Instr) (need next : Nat) (nums : List Nat) => need ≤ h.spdm → exec i s = .next ((s.setHostPort port { h with spdm := next }).send 5 (port :: nums))
        Answer (.getVersion port) 0 1 [0x04, 0x12, 0x13]
        ∧ Answer (.getCapabilities port) 1 2 [0x61] ∧ Early (.getCapabilities port) 1
        ∧ (∀ asym hash, (bitOf asym 8 = true → bitOf hash 2 = true → Answer (.negotiateAlgorithms port asym hash) 2 3 [0x63, 0x100, 4])
            ∧ ((bitOf asym 8 = false ∨ bitOf hash 2 = false) → Answer (.negotiateAlgorithms port asym hash) 2 2 [0x7F, 1]) ∧ Early (.negotiateAlgorithms port asym hash) 2)
        ∧ Answer (.getDigests port) 3 3 [0x01, (Config.freeHash [256]).toNat] ∧ Early (.getDigests port) 3
        ∧ Answer (.getCertificate port) 3 3 [0x02, (Config.freeHash [257]).toNat] ∧ Early (.getCertificate port) 3
        ∧ (∀ nonce, Answer (.challenge port nonce) 3 3 ([0x03, (Config.freeHash [256]).toNat, nonce.toNat] ++ s.signature) ∧ Early (.challenge port nonce) 3)
        ∧ Answer (.getMeasurements port 0) 3 3 [0x60, 5]
        ∧ (∀ index, 0 < index → index ≤ 5 → Answer (.getMeasurements port index) 3 3 ([0x60, index, s.measurement index] ++ s.signature))
        ∧ Answer (.getMeasurements port 255) 3 3 ([0x60] ++ [1, 2, 3, 4, 5].map s.measurement ++ s.signature)
        ∧ (∀ index, Early (.getMeasurements port index) 3))

/-- A time input is taken, its loss is noted, and module time never steps back for it; COLD_RESET leaves every register and every byte inside the module as at reset, with module time from PTP, or stops
at the step whose firmware image fails;
WARM_RESET keeps memory and contexts; POWER_DOWN leaves nothing inside the module (from R5, R60, R423, R425). -/
def Obligations.ResetsLeaveWhatTheySay : Prop :=
  ∀ (s : State),
    (∀ sec ns, ns < 1000000000 → sec < 2 ^ 48 → Gives s (.ptpTimeSync sec ns 0) fun t => t.now = s.now ∧ t.mem = s.mem ∧ t.pl.mgmt.ptpSec = sec ∧ t.pl.mgmt.ptpNs = ns ∧ t.pl.mgmt.ptpAt = s.now ∧ t.pl.mgmt.sync = 0)
    ∧ (∀ sec ns st, ns < 1000000000 → sec < 2 ^ 48 → (st = 1 ∨ st = 2) → Gives s (.ptpTimeSync sec ns st) fun t => t.now = s.now ∧ t.mem = s.mem ∧ t.pl.mgmt.ptpSec = s.pl.mgmt.ptpSec ∧ t.pl.mgmt.sync = st)
    ∧ (∀ n, s.pl.mgmt.badImage = n → (n = 1 ∨ n = 2 ∨ n = 6) → Gives s .coldReset fun t => t.ex = State.reset.ex ∧ t.fr = State.reset.fr ∧ t.now = s.now ∧ t.pl.mgmt.step = n)
    ∧ (s.pl.mgmt.badImage ≠ 1 → s.pl.mgmt.badImage ≠ 2 → s.pl.mgmt.badImage ≠ 6 → Gives s .coldReset fun t => t.ex = State.reset.ex ∧ t.tr = State.reset.tr ∧ t.coh = State.reset.coh ∧ t.fr = State.reset.fr ∧ t.mem.pois = State.reset.mem.pois ∧ t.mem.fe = State.reset.mem.fe ∧
        t.now = maxTime s.ptpNow ∧ t.pl.out = s.pl.out ∧
        ∀ key, t.mem.bytes.find? (fun p => decide (p.1 = key)) = if 2 ≤ keyTag key ∧ keyTag key ≤ 5 then s.mem.bytes.find? (fun p => decide (p.1 = key)) else none)
    ∧ (s.pl.mgmt.badImage = 6 → Gives s .warmReset fun t => t.mem = s.mem ∧ t.ex = s.ex ∧ t.fr = s.fr ∧ t.now = s.now ∧ t.pl.mgmt.step = 6)
    ∧ (s.pl.mgmt.badImage ≠ 6 → Gives s .warmReset fun t => t.mem = s.mem ∧ t.ex = s.ex ∧ t.fr = s.fr ∧ t.now = maxTime (max s.now s.ptpNow) ∧ t.pl.hosts = [])
    ∧ (Gives s .powerDown fun t => t.ex = State.reset.ex ∧ t.fr = State.reset.fr ∧ t.now = s.now ∧ t.pl.mgmt.sramUp = false ∧ t.pl.mgmt.logicUp = false)

/-! ## The whole machine -/

/-- The encoder and the decoder agree on every instruction. The words of a legal instruction, whatever words follow them, decode to that instruction and to
their own number (from R191 to R205). -/
def Obligations.DecodeEncodeAgree : Prop :=
  ∀ (i : Instr) (rest : List Word), i.wf = true → i.isEvent = false → decode (encode i ++ rest) = .ok i (encode i).length

/-- No step of the machine leaves a store pending whose WCT module time has reached (from R66). -/
def Obligations.NoStoreStaysOverdue : Prop :=
  ∀ (s t : State), step s = .next t → nothingOverdue t = true

/-- After reset memory is canonical and lists nothing, no store is pending, no crew, block, launch or quotation exists, every ASID root and every translation is empty, every owner byte is 0
and every queue is OFF with ring sizes 1 (from R18, R354, R387, R391, R425). -/
def Obligations.ResetIsEmpty : Prop :=
  let s := State.reset
  s.mem.wf = true ∧ s.mem.bytes = [] ∧ nothingOverdue s = true ∧ s.now = 0 ∧ s.cur = none ∧ s.events = [] ∧
    (∀ k, SMap.find? s.ex.crews k = none ∧ SMap.find? s.ex.blocks k = none ∧ SMap.find? s.fr.launches k = none ∧ SMap.find? s.fr.quotes k = none ∧
      SMap.find? s.tr.roots k = none ∧ SMap.find? s.tr.tlb k = none ∧ (s.quad k).owner = 0 ∧ (s.func k).owner = 0 ∧ (s.port k).owner = 0 ∧ (s.gather k).owner = 0 ∧
      (∀ ch, (s.chan k ch).owner = 0) ∧ bits (s.queue k).desc.toNat 230 229 = 0 ∧ bits (s.queue k).desc.toNat 238 235 = 1 ∧ bits (s.queue k).desc.toNat 234 231 = 1 ∧
      bits (s.queue k).desc.toNat 228 228 = 1)

/-- Memory. A byte that has been written reads back and every other byte is as it was; a run of bytes reads back; the performance of a store
changes no byte outside those it is given, and its byte reads back where its frame is neither quarantined nor locked (from R53, R66). -/
def Obligations.MemoryReadsBack : Prop :=
  (∀ (m : Mem) (k j : Nat) (b : Byte), (m.setByte k b).byte j = if j = k then b else m.byte j) ∧
  (∀ (m : Mem) (k : Nat) (bs : List Byte), (m.write k bs).read k bs.length = bs ∧ ∀ j, j < k ∨ k + bs.length ≤ j → (m.write k bs).byte j = m.byte j) ∧
  (∀ (s : State) (bs : List (Nat × Byte)) (j : Nat), (∀ p ∈ bs, p.1 ≠ j) → (s.performBytes bs).mem.byte j = s.mem.byte j) ∧
  (∀ (s : State) (k : Nat) (b : Byte), s.unwritable k = false → (s.performBytes [(k, b)]).mem.byte k = b)

/-- What may issue. A group that names no queue port and no pending predicate passes the gate exactly when no lane is active, or every v and w register is below N, no bound port
is named as a register, no register that it reads or writes is EMPTY and none that it reads is poisoned in an active lane. What it meets first decides: ILLEGAL, FEMPTY where the field's
policy traps, else a wait, then POISON (from R139, R145, R146, R195, R371). -/
def Obligations.TheGateDecidesTheIssue : Prop :=
  ∀ (c : Crew) (sh : Shape) (f : XF) (m : Lanes),
    let ac := c.active m f
    let h := c.inHandler m
    let os := operands sh f
    let beyond := os.any fun o => o.fld.beyond o.sel f.qp c.nregs o.n
    let empty := fun o : Operand => decide (c.emptyLanes h o.sel (o.fld.regs o.sel o.n) ac ≠ 0)
    let trapped := laneSet fun l => os.any fun o => o.fld.isSource && o.fe && hasLane (c.emptyLanes h o.sel (o.fld.regs o.sel o.n) ac) l
    let waits := os.any fun o => (o.fld.isSource || o.fld.isDest) && empty o
    let poisoned := laneSet fun l => os.any fun o => o.fld.isSource && hasLane (c.poisonLanes h o.sel (o.fld.regs o.sel o.n) ac) l
    sh.use = false → usesPort sh f = false → (os.all fun o => !o.aliasBound f.qp c) = true → c.predsPend m (predNames sh f) = false →
      (gateOk c sh f m = true ↔ ac = 0 ∨ (beyond = false ∧ waits = false ∧ poisoned = 0))
      ∧ (ac ≠ 0 → beyond = true → gate c sh f m ac = .error (.trap ⟨4, 6, ac, 0⟩))
      ∧ (ac ≠ 0 → beyond = false → trapped ≠ 0 → gate c sh f m ac = .error (.trap ⟨5, 0, trapped, 0⟩))
      ∧ (ac ≠ 0 → beyond = false → trapped = 0 → waits = true → gate c sh f m ac = .error .hold)
      ∧ (ac ≠ 0 → beyond = false → waits = false → poisoned ≠ 0 → gate c sh f m ac = .error (.trap ⟨7, 0x24, poisoned, 0⟩))

/-- Taking an exception of any class but POISON, raised by no lane that stands in a speculative region, with TVEC valid, no thread of the crew in a handler, a cause that
is no breach and fewer counted traps than NTRAP. Every active lane enters the handler at its class's slot; TCAUSE holds the class and the detail, TPC the PC that raised it,
or the next for SYSCALL and BREAK, the bank the lanes, the address and the PC. Memory is as it was. That a bystander inside a region of its own enters too is the model's
reading, log entry 236 (from R370, R372, R373). -/
def Obligations.ExceptionsSaveAndVector : Prop :=
  ∀ (s : State) (x : Ctx) (a : Lanes) (t : Raise),
    let c := s.crew x.crew
    let tpc := if t.cls = 9 ∨ t.cls = 10 then x.pc + 12 else x.pc
    t.cls < 16 → t.cls ≠ 7 → State.trapBreach t.cls t.detail false = none →
    ((lanesOf a).all fun l => !(hasLane t.lanes l && (c.thread l).specAct) && !(c.thread l).tmaskM) = true → c.tvec.getLsbD 0 = true → State.handlerBusy c = false →
    (∀ d, c.launch = some d → State.countedTrap t.cls = true → c.traps < (s.launch d).q.ntrap) →
      let u := s.raise x a t
      u.mem = s.mem ∧ u.cur = none ∧ u.held = s.held ∧
        (u.crew x.crew).traps = (if State.countedTrap t.cls then c.traps + 1 else c.traps) ∧
        (u.crew x.crew).bank = State.bankWord (if s.protectedCrew x.crew then State.pairMask t.lanes else t.lanes) t.addr x.pc t.cls false (slotOf x.crew) t.detail ∧
        ∀ l, SMap.find? c.threads l ≠ none → (u.crew x.crew).thread l =
          if hasLane a l then
            { c.thread l with
              tcause := BitVec.ofNat 32 (t.cls * 2 ^ 28 + t.detail % 256), tpc := BitVec.ofNat 32 tpc, tmaskM := true
              pc := bits c.tvec.toNat 31 10 * 1024 + 0x40 * t.cls, starve := 0 }
          else c.thread l

/-- In a protected launch a conditional branch whose two lanes of a pair part moves no lane and changes no byte: the event is counted against the quadrant and the launch is due to be replayed with cause
REPLAY_SOFT (from R154, R403). -/
def Obligations.PartedPairsReplayTheLaunch : Prop :=
  ∀ (s : State) (x : Ctx) (k : BitVec 3) (neg : Bool) (off : BitVec 16) (d : Nat),
    let c := s.crew x.crew
    let taken := laneSet fun l => hasLane x.lanes l && ((c.thread l).pred k.toNat != neg)
    let pcOf := fun l => if hasLane taken l then wrapInt 32 (x.pc + 4 * off.toInt) else x.next
    may s x (Instr.brc k neg off).shape .zero = true → c.launch = some d → together s x pcOf = false →
      ∃ t, exec (.brc k neg off) s = .next t ∧ t.mem = s.mem ∧ t.ex.crews = s.ex.crews ∧ t.cur = none ∧ t.events = s.events ++ [.launchReplay d 0x22]

/-- A step runs the decoded instruction. What stands at the PC of a group for which no trap waits, and that neither waits nor yields, is issued: `exec` of the decoded instruction
runs at the state in which the group is the issuing one; ILLEGAL is raised where nothing decodes and, with detail USE, where the crew's profile does not hold the instruction. The
target of a REP runs next in the same issue. A module with one crew of one such group steps to what the issue leaves, its issue counted, and time goes on (from R142, R205, R236, R330). -/
def Obligations.AStepRunsTheDecodedInstruction : Prop :=
  (∀ (s : State) (k : Nat) (code : List Word) (gs : List Group) (b : Bool) (g : Group) (i : Instr) (n : Nat),
    let c := s.crew k
    let w := (s.fetched k g.pc).modCrew k fun c => countSkid (c.release g) g.lanes
    let x := groupCtx w k g n
    let u := { w with cur := some x, held := false, rep := none }
    s.waitingTraps k g.lanes = [] → c.mustWait code gs g = false → (b = true ∨ yieldOf c g = 0) → skidHolds c g.lanes = false →
      (fetch code g.pc = .ok i n → outOfProfile w k i = false →
        (∀ t, exec i u = .next t → t.rep = none → t.held = false → tryGroup s k code gs b g = some (.next t))
        ∧ (∀ t p j m, exec i u = .next t → t.rep = some p → fetch code x.next = .ok j m → outOfProfile t k j = false →
            ∀ r, exec (repTarget j p) { t with cur := some { x with next := x.next + 4 * m, rep := some (p.i, p.count), fmode := repFmode (t.crew k) x.lanes } } = .next r →
              r.held = false → tryGroup s k code gs b g = some (.next r)))
      ∧ (fetch code g.pc = .ok i n → outOfProfile w k i = true →
          let v := { w with cur := some x, held := false }
          (v.raise x g.lanes ⟨4, 0x10, g.lanes, 0⟩).held = false → tryGroup s k code gs b g = some (.next (v.raise x g.lanes ⟨4, 0x10, g.lanes, 0⟩)))
      ∧ (∀ d, fetch code g.pc = .bad d →
          let y := groupCtx w k g 0
          let v := { w with cur := some y, held := false }
          (v.raise y g.lanes ⟨4, d, g.lanes, 0⟩).held = false → tryGroup s k code gs b g = some (.next (v.raise y g.lanes ⟨4, d, g.lanes, 0⟩)))) ∧
  (∀ (s : State) (k : Nat) (c : Crew) (g : Group) (t : State), s.events = [] → s.turn = false → s.ex.crews = [(k, c)] → mayIssue s c = true → c.queue = none →
    c.groups (s.codeOf k) = [g] → tryGroup s k (s.codeOf k) [g] false g = some (.next t) → t.held = false →
      step s = .next (tick { ((noteIssue t k g [g] (s.takeWaiting k g).isSome).modQuad (quadOf k) fun q => { q with last := slotOf k }) with rr := quadOf k + 1 }))

/-- Words that the spec writes out decode to the instructions they stand for, one and three words long, and words that it calls illegal to no instruction: an unassigned opcode, an unassigned function, an X-form of ENDL (from R192 to R205). -/
def Obligations.WrittenWordsDecode : Prop :=
  decode [0x01030102] = .ok (.iadd 3 1 2) 1 ∧ decode [0x0A0301FE] = .ok (.iaddImm 3 1 0xFE) 1 ∧ decode [0x13060440] = .ok (.ldGB32 6 4 0x40) 1 ∧
  decode [0x53060400, 0x00380000, 0x00000140] = .ok (.ldGB32X { XF.ofB 6 4 0 with w2 := 0x140 }) 3 ∧
  decode [0x41030102, 0x001C0000, 0] = .ok (.iaddX { XF.ofB 3 1 2 with pix := 3, pneg := true }) 3 ∧
  decode [0x41030102, 0x003A0000, 0] = .ok (.iaddX { XF.ofB 3 1 2 with fea := true }) 3 ∧
  decode [0x0C07FED4] = .ok (.movi 7 0xFED4) 1 ∧ decode [0x15000003] = .ok (.bra 3) 1 ∧ decode [0x19FFFFFB] = .ok (.join 0xFFFFFB) 1 ∧
  decode [0x1E035000] = .ok (.rep 3 1 1 0 0) 1 ∧ decode [0x1C050000] = .ok (.next 5) 1 ∧ decode [0x1D000000] = .ok .exit 1 ∧
  decode [0x60020506, 0x44B80000, 0] = .ok (.icmp { XF.ofB 2 5 6 with var := 2 }) 3 ∧
  decode [0x6D000000, 0x10380000, 0x00130011] = .ok (.mode { XF.zero with w2 := 0x00130011 }) 3 ∧
  decode [0x6E000000, 0x00380000, 0] = .bad 1 ∧ decode [0x60000000, 0x50380000, 0] = .bad 2 ∧ decode [0x58000000, 0x00380000, 0] = .bad 7

/-- A write to NOTIFY sets TAIL to bits 15:0 of the value, of a function that is neither shut nor being reset. It is dropped and counted in BADNOTIFY, and changes nothing else, when a bit of 31:16 is set, when the function
owns no such queue, and when TAIL would move backwards or past HEAD plus the ring's size, modulo 2^16 (from R418). -/
def Obligations.NotifyMovesTheTail : Prop :=
  ∀ (s : State) (port fn fq : Nat) (value : BitVec 32),
    let fk := port * 33 + fn
    let f := s.func fk
    let v := value.toNat
    let dropped := Host.Outcome.next (s.setFunc fk { f with badNotify := State.countUp f.badNotify })
    s.funcShut fk = false →
      (s.funcQueue fk fq = none → exec (.notify port fn fq value) s = dropped)
      ∧ ∀ qi, s.funcQueue fk fq = some qi →
          let q := s.queue qi
          let d := q.desc.toNat
          let size := 2 ^ (bits d 238 235 + 1)
          let used := (bits d 303 288 + 65536 - bits d 319 304) % 65536
          let ahead := (v + 65536 - bits d 303 288) % 65536
          (65536 ≤ v → exec (.notify port fn fq value) s = dropped)
          ∧ (v < 65536 → size < used + ahead → exec (.notify port fn fq value) s = dropped)
          ∧ (v < 65536 → used + ahead ≤ size → exec (.notify port fn fq value) s = .next (s.setQueue qi { q with desc := BitVec.ofNat 512 (setBits d 303 288 v) }))

/-- The module power control register. At reset MBUDGET is 3,600, RLIM 250, ICL 150, BOOSTEN 0 and the reserved bits 0. A write that puts a field out of its range, or MBUDGET below the sum of the partitions' WATTS, is refused; any other is taken, and
the reserved bits read 0 (from R391). -/
def Obligations.ModulePowerControlIsChecked : Prop :=
  (let r := State.reset.pl.mgmt.mpc.toNat;
    bits r 63 51 = 3600 ∧ bits r 50 39 = 250 ∧ bits r 38 31 = 150 ∧ bits r 30 30 = 0 ∧ bits r 29 0 = 0) ∧
  (∀ (s : State) (value : BitVec 64),
    let v := value.toNat
    let good := 1000 ≤ bits v 63 51 ∧ bits v 63 51 ≤ 4200 ∧ 25 ≤ bits v 50 39 ∧ bits v 50 39 ≤ 2000 ∧ 32 ≤ bits v 38 31 ∧ bits v 38 31 ≤ 255 ∧ s.wattsBut 4096 ≤ bits v 63 51
    (¬good → exec (.modulePowerControlWrite value) s = .next s)
    ∧ (good → ∃ t, exec (.modulePowerControlWrite value) s = .next t ∧ t = { s with pl := { s.pl with mgmt := { s.pl.mgmt with mpc := t.pl.mgmt.mpc } } } ∧
        let r := t.pl.mgmt.mpc.toNat
        bits r 63 51 = bits v 63 51 ∧ bits r 50 39 = bits v 50 39 ∧ bits r 38 31 = bits v 38 31 ∧ bits r 30 30 = bits v 30 30 ∧ bits r 29 0 = 0))

/-- How a walk reads an entry. INVALID where V = 0; MALFORMED where a reserved bit is set, a leaf stands at level 4 or 3, a table pointer at level 0 or with CONT, A, D, R, W or X set, a leaf's PA has bits below its page size, or a run is not well formed:
its 16 entries, from an index that is a multiple of 16 on, are not all valid CONT leaves with equal R, W, X, LOC and PORT whose PAs step by the leaf size from an aligned base. A root entry with V = 0 gives NOROOT whatever else it holds, one with V = 1 and a
reserved bit MALFORMED. No walk writes (from R13, R15). -/
def Obligations.WalksEndAsTheEntriesSay : Prop :=
  (∀ (s : State) (asid : Nat),
    let r := (SMap.get 0 s.tr.roots asid).toNat
    (bitOf r 0 = false → s.rootOf asid = .error 3)
    ∧ (bitOf r 0 = true → (bits r 63 52 ≠ 0 ∨ bits r 11 1 ≠ 0) → s.rootOf asid = .error 2)
    ∧ (bitOf r 0 = true → bits r 63 52 = 0 → bits r 11 1 = 0 → s.rootOf asid = .ok (bits r 51 12 * 4096))) ∧
  (∀ (s : State) (asid va level table : Nat),
    let idx := bits va (20 + 9 * level) (12 + 9 * level)
    let e := s.pteAt (table + 8 * idx)
    let at' := fun j => s.pteAt (table + 8 * (idx / 16 * 16 + j))
    let pa := fun x => bits x 51 12 * 4096
    let runGood := pa (at' 0) % 2 ^ (12 + 9 * level + 4) = 0 ∧ ∀ j, j < 16 → bitOf (at' j) 0 = true ∧ bitOf (at' j) 1 = true ∧ bitOf (at' j) 9 = true ∧
      bits (at' j) 6 4 = bits (at' 0) 6 4 ∧ bits (at' j) 62 60 = bits (at' 0) 62 60 ∧ pa (at' j) = pa (at' 0) + j * 2 ^ (12 + 9 * level)
    (bitOf e 0 = false → s.readPte asid va level table = .fail 1)
    ∧ (bitOf e 0 = true → pteBad e level = true → s.readPte asid va level table = .fail 2)
    ∧ (bitOf e 0 = true → pteBad e level = false → bitOf e 1 = false → s.readPte asid va level table = .table (pa e))
    ∧ (bitOf e 0 = true → pteBad e level = false → bitOf e 1 = true → (bits e 62 61 = 0 ∨ s.cxlPort (bits e 60 60) = true) →
        (bitOf e 9 = true → ¬runGood → s.readPte asid va level table = .fail 2)
        ∧ ((bitOf e 9 = false ∨ runGood) →
            let size := 12 + 9 * level + (if bitOf e 9 then 4 else 0)
            ∃ t, s.readPte asid va level table = .leaf t ∧ t.size = size ∧ t.va = va / 2 ^ size * 2 ^ size ∧ t.pa = pa e / 2 ^ size * 2 ^ size ∧
              t.loc = bits e 62 61 ∧ t.port = bits e 60 60 ∧ t.r = bitOf e 4 ∧ t.w = bitOf e 5 ∧ t.x = bitOf e 6)))
end

