-- ==== Sys2Proof/Laws/SMap.lean ====
section
/-! SUPPORT. Laws/SMap.lean: reading a sparse table after a change, and the canonical form that every change keeps. -/

namespace Sys2Proof.SMap

variable {α : Type}

theorem find?_insert_ne (m : SMap α) (k : Nat) (v : α) (j : Nat) (h : j ≠ k) : find? (insert m k v) j = find? m j := by
  induction m with
  | nil => simp [insert, find?, Ne.symm h]
  | cons p rest ih =>
    obtain ⟨i, w⟩ := p
    by_cases hk : k < i
    · simp [insert, hk, find?, Ne.symm h]
    · simp [insert, hk, find?, ih]

theorem find?_erase_self (m : SMap α) (k : Nat) : find? (erase m k) k = none := by
  induction m with
  | nil => rfl
  | cons p rest ih =>
    obtain ⟨i, w⟩ := p
    by_cases hk : i = k <;> simp [erase, hk, find?, ih]

theorem find?_erase_ne (m : SMap α) (k j : Nat) (h : j ≠ k) : find? (erase m k) j = find? m j := by
  induction m with
  | nil => rfl
  | cons p rest ih =>
    obtain ⟨i, w⟩ := p
    by_cases hk : i = k
    · subst hk; simp [erase, find?, ih, Ne.symm h]
    · simp [erase, hk, find?, ih]

theorem find?_insert_self (m : SMap α) (k : Nat) (v : α) (h : find? m k = none) : find? (insert m k v) k = some v := by
  induction m with
  | nil => simp [insert, find?]
  | cons p rest ih =>
    obtain ⟨i, w⟩ := p
    have hne : i ≠ k := by intro e; simp [find?, e] at h
    have hr : find? rest k = none := by simpa [find?, hne] using h
    by_cases hk : k < i
    · simp [insert, hk, find?]
    · simp [insert, hk, find?, hne, ih hr]

theorem find?_put_self (m : SMap α) (k : Nat) (v : α) : find? (put m k v) k = some v :=
  find?_insert_self _ _ _ (find?_erase_self m k)

theorem find?_put_ne (m : SMap α) (k j : Nat) (v : α) (h : j ≠ k) : find? (put m k v) j = find? m j := by
  rw [put, find?_insert_ne _ _ _ _ h, find?_erase_ne _ _ _ h]

theorem get_eq (d : α) (m : SMap α) (k : Nat) : get d m k = (find? m k).getD d := by
  induction m with
  | nil => rfl
  | cons p rest ih =>
    obtain ⟨i, w⟩ := p
    by_cases hk : i = k <;> simp [get, find?, hk, ih]

@[simp] theorem get_put_self (d : α) (m : SMap α) (k : Nat) (v : α) : get d (put m k v) k = v := by
  rw [get_eq, find?_put_self]; rfl

theorem erase_eq_of_none (m : SMap α) (k : Nat) (h : find? m k = none) : erase m k = m := by
  induction m with
  | nil => rfl
  | cons p rest ih =>
    obtain ⟨i, w⟩ := p
    have hne : i ≠ k := by intro e; simp [find?, e] at h
    rw [erase, if_neg hne, ih (by simpa [find?, hne] using h)]

theorem erase_insert (m : SMap α) (k : Nat) (v : α) (h : find? m k = none) : erase (insert m k v) k = m := by
  induction m with
  | nil => simp [insert, erase]
  | cons p rest ih =>
    obtain ⟨i, w⟩ := p
    have hne : i ≠ k := by intro e; simp [find?, e] at h
    have hr : find? rest k = none := by simpa [find?, hne] using h
    by_cases hk : k < i
    · rw [insert, if_pos hk, erase, if_pos rfl, erase_eq_of_none _ _ h]
    · rw [insert, if_neg hk, erase, if_neg hne, ih hr]

/-- The second of two writes to a key stands. -/
@[simp] theorem put_put (m : SMap α) (k : Nat) (v w : α) : put (put m k v) k w = put m k w := by
  unfold put
  rw [erase_insert _ _ _ (find?_erase_self m k)]

theorem get_put_ne (d : α) (m : SMap α) (k j : Nat) (v : α) (h : j ≠ k) : get d (put m k v) j = get d m j := by
  rw [get_eq, get_eq, find?_put_ne _ _ _ _ h]

/-- Reading a table after a write to the same key gives the value written. -/
@[simp] theorem get_set_self [DecidableEq α] (d : α) (m : SMap α) (k : Nat) (v : α) : get d (set d m k v) k = v := by
  unfold set
  split
  · rw [get_eq, find?_erase_self]; simp_all
  · rw [get_eq, find?_insert_self _ _ _ (find?_erase_self m k)]; rfl

/-- A write leaves every other key alone. -/
theorem get_set_ne [DecidableEq α] (d : α) (m : SMap α) (k j : Nat) (v : α) (h : j ≠ k) : get d (set d m k v) j = get d m j := by
  unfold set
  split
  · rw [get_eq, get_eq, find?_erase_ne _ _ _ h]
  · rw [get_eq, get_eq, find?_insert_ne _ _ _ _ h, find?_erase_ne _ _ _ h]

/-! ## The canonical form -/

theorem wfFrom_mono [DecidableEq α] (d : α) (m : SMap α) (lo lo' : Nat) (h : lo ≤ lo') (hm : wfFrom d lo' m = true) : wfFrom d lo m = true := by
  cases m with
  | nil => rfl
  | cons p rest =>
    obtain ⟨i, w⟩ := p
    simp only [wfFrom, Bool.and_eq_true, decide_eq_true_eq] at hm ⊢
    exact ⟨⟨by omega, hm.1.2⟩, hm.2⟩

theorem wfFrom_erase [DecidableEq α] (d : α) (m : SMap α) (k lo : Nat) (hm : wfFrom d lo m = true) : wfFrom d lo (erase m k) = true := by
  induction m generalizing lo with
  | nil => rfl
  | cons p rest ih =>
    obtain ⟨i, w⟩ := p
    simp only [wfFrom, Bool.and_eq_true, decide_eq_true_eq] at hm
    by_cases hk : i = k
    · rw [erase, if_pos hk]
      exact wfFrom_mono d _ lo (i + 1) (by omega) (ih _ hm.2)
    · rw [erase, if_neg hk]
      simp only [wfFrom, Bool.and_eq_true, decide_eq_true_eq]
      exact ⟨hm.1, ih _ hm.2⟩

theorem wfFrom_insert [DecidableEq α] (d : α) (m : SMap α) (k lo : Nat) (v : α) (hv : v ≠ d) (hlo : lo ≤ k) (hk : find? m k = none)
    (hm : wfFrom d lo m = true) : wfFrom d lo (insert m k v) = true := by
  induction m generalizing lo with
  | nil => simp [insert, wfFrom, hlo, hv]
  | cons p rest ih =>
    obtain ⟨i, w⟩ := p
    simp only [wfFrom, Bool.and_eq_true, decide_eq_true_eq] at hm
    have hne : i ≠ k := by intro e; simp [find?, e] at hk
    have hr : find? rest k = none := by simpa [find?, hne] using hk
    by_cases hlt : k < i
    · rw [insert, if_pos hlt]
      simp only [wfFrom, Bool.and_eq_true, decide_eq_true_eq]
      exact ⟨⟨hlo, hv⟩, ⟨by omega, hm.1.2⟩, hm.2⟩
    · rw [insert, if_neg hlt]
      simp only [wfFrom, Bool.and_eq_true, decide_eq_true_eq]
      exact ⟨hm.1, ih _ (by omega) hr hm.2⟩

/-- A write keeps the canonical form: the default is never listed, and keys stay in order. -/
theorem wf_set [DecidableEq α] (d : α) (m : SMap α) (k : Nat) (v : α) (hm : wf d m = true) : wf d (set d m k v) = true := by
  unfold set
  split
  · exact wfFrom_erase d m k 0 hm
  · rename_i hv
    exact wfFrom_insert d _ k 0 v hv (Nat.zero_le k) (find?_erase_self m k) (wfFrom_erase d m k 0 hm)

end Sys2Proof.SMap
end

