-- ==== Sys2Proof/Laws/Crew.lean ====
section
/-! SUPPORT. Laws/Crew.lean: the crews of a state after an update, and what the shared operations at an issue can do. -/

namespace Sys2Proof.Machine

namespace State

@[simp] theorem crew_setCrew_self (s : State) (k : Nat) (c : Crew) : (s.setCrew k c).crew k = c := by
  simp [crew, setCrew]

theorem crew_setCrew_ne (s : State) (k j : Nat) (c : Crew) (h : j ≠ k) : (s.setCrew k c).crew j = s.crew j := by
  simp only [crew, setCrew]
  exact SMap.get_put_ne _ _ _ _ _ h

theorem find?_setCrew_ne (s : State) (k j : Nat) (c : Crew) (h : j ≠ k) :
    SMap.find? (s.setCrew k c).ex.crews j = SMap.find? s.ex.crews j := SMap.find?_put_ne _ _ _ _ h

@[simp] theorem setCrew_mem (s : State) (k : Nat) (c : Crew) : (s.setCrew k c).mem = s.mem := rfl
@[simp] theorem setCrew_coh (s : State) (k : Nat) (c : Crew) : (s.setCrew k c).coh = s.coh := rfl
@[simp] theorem setCrew_tr (s : State) (k : Nat) (c : Crew) : (s.setCrew k c).tr = s.tr := rfl
@[simp] theorem setCrew_fr (s : State) (k : Nat) (c : Crew) : (s.setCrew k c).fr = s.fr := rfl
@[simp] theorem setCrew_pl (s : State) (k : Nat) (c : Crew) : (s.setCrew k c).pl = s.pl := rfl
@[simp] theorem setCrew_now (s : State) (k : Nat) (c : Crew) : (s.setCrew k c).now = s.now := rfl
@[simp] theorem setCrew_events (s : State) (k : Nat) (c : Crew) : (s.setCrew k c).events = s.events := rfl
@[simp] theorem setCrew_cur (s : State) (k : Nat) (c : Crew) : (s.setCrew k c).cur = s.cur := rfl
@[simp] theorem setCrew_blocks (s : State) (k : Nat) (c : Crew) : (s.setCrew k c).ex.blocks = s.ex.blocks := rfl
@[simp] theorem setCrew_quads (s : State) (k : Nat) (c : Crew) : (s.setCrew k c).ex.quads = s.ex.quads := rfl
@[simp] theorem setCrew_cores (s : State) (k : Nat) (c : Crew) : (s.setCrew k c).ex.cores = s.ex.cores := rfl
@[simp] theorem endIssue_mem (s : State) : s.endIssue.mem = s.mem := rfl
@[simp] theorem endIssue_ex (s : State) : s.endIssue.ex = s.ex := rfl
@[simp] theorem endIssue_cur (s : State) : s.endIssue.cur = none := rfl
@[simp] theorem endIssue_rep (s : State) : s.endIssue.rep = none := rfl
@[simp] theorem crew_endIssue (s : State) (k : Nat) : s.endIssue.crew k = s.crew k := rfl

/-- Writing a crew twice is writing it once. -/
theorem find?_setCrew_self (s : State) (k : Nat) (c : Crew) : SMap.find? (s.setCrew k c).ex.crews k = some c := SMap.find?_put_self _ _ _

@[simp] theorem setCrew_setCrew (s : State) (k : Nat) (c d : Crew) : (s.setCrew k c).setCrew k d = s.setCrew k d := by
  simp [setCrew]

/-- Going on changes the crew of the issue alone. -/
theorem advance_eq (s : State) (x : Ctx) : s.advance x = s.setCrew x.crew (Safety.goOnAll x (s.crew x.crew)) := by
  unfold advance Safety.goOnAll Safety.goOn setPc modCrew
  cases hx : x.rep with
  | none => rfl
  | some p =>
    obtain ⟨i, n⟩ := p
    by_cases h : i < n <;> simp [h]

end State

/-! ## What an issue that changes one crew leaves as it was -/

/-- An issue that ends with crew `k` changed, once or more often, changes nothing else. -/
theorem crewOnly_set (s : State) (k : Nat) (c : Crew) : Safety.CrewOnly s (s.setCrew k c).endIssue k where
  mem := fun _ => rfl
  others := fun _ hj => State.find?_setCrew_ne s k _ c hj
  rest := rfl

theorem crewOnly_set_set (s : State) (k : Nat) (c d : Crew) : Safety.CrewOnly s ((s.setCrew k c).setCrew k d).endIssue k where
  mem := fun _ => rfl
  others := fun _ hj => by
    show SMap.find? ((s.setCrew k c).setCrew k d).ex.crews _ = _
    rw [State.find?_setCrew_ne _ _ _ _ hj, State.find?_setCrew_ne _ _ _ _ hj]
  rest := rfl

theorem crewOnly_trans {s t u : State} {k : Nat} (h : Safety.CrewOnly s t.endIssue k) (h' : Safety.CrewOnly t u.endIssue k) :
    Safety.CrewOnly s u.endIssue k where
  mem := fun key => (h'.mem key).trans (h.mem key)
  others := fun j hj => (h'.others j hj).trans (h.others j hj)
  rest := by
    have e : u.endIssue = { t.endIssue with cur := none, rep := none, ex := { t.endIssue.ex with crews := u.endIssue.ex.crews } } := h'.rest
    rw [h.rest] at e
    exact e

/-! ## Issue, gate and the two lanewise schemes -/

theorem issue_of_cur {s : State} {x : Ctx} (h : s.cur = some x) (a : Ctx → Crew → Lanes) (f : Ctx → Crew → Except Stop State) :
    issue s a f = .next (settle s x (a x (s.crew x.crew)) (f x (s.crew x.crew))) := by
  simp [issue, h]

/-- An instruction never leaves a state outside an issue. -/
theorem issue_none {s : State} (h : s.cur = none) (a : Ctx → Crew → Lanes) (f : Ctx → Crew → Except Stop State) :
    issue s a f = .fault .noIssuingGroup := by
  simp [issue, h]

/-- A body that ends in its effect ends the issue with it. -/
@[simp] theorem settle_ok (s : State) (x : Ctx) (a : Lanes) (t : State) : settle s x a (.ok t) = t.endIssue := rfl
@[simp] theorem settle_hold (s : State) (x : Ctx) (a : Lanes) : settle s x a (.error .hold) = s.stay := rfl
@[simp] theorem settle_trap (s : State) (x : Ctx) (a : Lanes) (t : Raise) : settle s x a (.error (.trap t)) = s.raise x a t := rfl

theorem gate_of_ok {c : Crew} {sh : Shape} {f : XF} {m : Lanes} (h : Safety.gateOk c sh f m = true) :
    gate c sh f m (c.active m f) = .ok () := by
  unfold Safety.gateOk at h
  split at h
  · rename_i u hu; cases u; exact hu
  · exact absurd h (by simp)

theorem may_iff {s : State} {x : Ctx} {sh : Shape} {f : XF} :
    Safety.may s x sh f = true ↔ s.cur = some x ∧ Safety.gateOk (s.crew x.crew) sh f x.lanes = true := by
  simp [Safety.may]

/-- Past the gate a guarded instruction does its own effect. -/
theorem guarded_of_may {s : State} {x : Ctx} {sh : Shape} {f : XF} (h : Safety.may s x sh f = true)
    (g : Ctx → Crew → Lanes → Except Stop State) :
    guarded s sh f g = .next (settle s x (Safety.act s x f) (g x (s.crew x.crew) (Safety.act s x f))) := by
  obtain ⟨hc, hg⟩ := may_iff.mp h
  unfold guarded
  rw [issue_of_cur hc]
  simp only [gate_of_ok hg]
  rfl

theorem outside_of_calm {s : State} {x : Ctx} {f : XF} (hc : s.cur = some x) (h : Safety.calm s x f = true) (run : State → Out) :
    outsideRegions s f run = run s := by
  unfold outsideRegions
  rw [hc]
  have : (lanesOf ((s.crew x.crew).active x.lanes f)).filter (fun l => ((s.crew x.crew).thread l).specAct) = [] := by
    rw [List.filter_eq_nil_iff]
    intro l hl
    have := List.all_eq_true.mp h l hl
    simpa using this
  simp only [this]
  rfl

end Sys2Proof.Machine
end

