-- ==== Sys2Proof/Laws/Exec.lean ====
section
/-! SUPPORT. Laws/Exec.lean: the meaning that each instruction calls, so that no proof unfolds the dispatch. -/

namespace Sys2Proof.Machine

theorem exec_nop (s : State) : exec .nop s = execNop s := rfl
theorem exec_nopX (s : State) : ∀ x, exec (.nopX x) s = execNopX x s := fun _ => rfl
theorem exec_iadd (s : State) : ∀ d a b, exec (.iadd d a b) s = execIadd d a b s := fun _ _ _ => rfl
theorem exec_iaddX (s : State) : ∀ x, exec (.iaddX x) s = execIaddX x s := fun _ => rfl
theorem exec_isub (s : State) : ∀ d a b, exec (.isub d a b) s = execIsub d a b s := fun _ _ _ => rfl
theorem exec_isubX (s : State) : ∀ x, exec (.isubX x) s = execIsubX x s := fun _ => rfl
theorem exec_imul (s : State) : ∀ d a b, exec (.imul d a b) s = execImul d a b s := fun _ _ _ => rfl
theorem exec_imulX (s : State) : ∀ x, exec (.imulX x) s = execImulX x s := fun _ => rfl
theorem exec_and (s : State) : ∀ d a b, exec (.and d a b) s = execAnd d a b s := fun _ _ _ => rfl
theorem exec_andX (s : State) : ∀ x, exec (.andX x) s = execAndX x s := fun _ => rfl
theorem exec_or (s : State) : ∀ d a b, exec (.or d a b) s = execOr d a b s := fun _ _ _ => rfl
theorem exec_orX (s : State) : ∀ x, exec (.orX x) s = execOrX x s := fun _ => rfl
theorem exec_xor (s : State) : ∀ d a b, exec (.xor d a b) s = execXor d a b s := fun _ _ _ => rfl
theorem exec_xorX (s : State) : ∀ x, exec (.xorX x) s = execXorX x s := fun _ => rfl
theorem exec_shl (s : State) : ∀ d a b, exec (.shl d a b) s = execShl d a b s := fun _ _ _ => rfl
theorem exec_shlX (s : State) : ∀ x, exec (.shlX x) s = execShlX x s := fun _ => rfl
theorem exec_shr (s : State) : ∀ d a b, exec (.shr d a b) s = execShr d a b s := fun _ _ _ => rfl
theorem exec_shrX (s : State) : ∀ x, exec (.shrX x) s = execShrX x s := fun _ => rfl
theorem exec_sra (s : State) : ∀ d a b, exec (.sra d a b) s = execSra d a b s := fun _ _ _ => rfl
theorem exec_sraX (s : State) : ∀ x, exec (.sraX x) s = execSraX x s := fun _ => rfl
theorem exec_iaddImm (s : State) : ∀ d a b, exec (.iaddImm d a b) s = execIaddImm d a b s := fun _ _ _ => rfl
theorem exec_iaddImmX (s : State) : ∀ x, exec (.iaddImmX x) s = execIaddImmX x s := fun _ => rfl
theorem exec_mov (s : State) : ∀ d a, exec (.mov d a) s = execMov d a s := fun _ _ => rfl
theorem exec_movX (s : State) : ∀ x, exec (.movX x) s = execMovX x s := fun _ => rfl
theorem exec_movi (s : State) : ∀ d imm, exec (.movi d imm) s = execMovi d imm s := fun _ _ => rfl
theorem exec_moviX (s : State) : ∀ x, exec (.moviX x) s = execMoviX x s := fun _ => rfl
theorem exec_moviB64 (s : State) : ∀ d lit, exec (.moviB64 d lit) s = execMoviB64 d lit s := fun _ _ => rfl
theorem exec_moviB64X (s : State) : ∀ x lit, exec (.moviB64X x lit) s = execMoviB64X x lit s := fun _ _ => rfl
theorem exec_fadd (s : State) : ∀ d a b, exec (.fadd d a b) s = execFadd d a b s := fun _ _ _ => rfl
theorem exec_faddX (s : State) : ∀ x, exec (.faddX x) s = execFaddX x s := fun _ => rfl
theorem exec_fmul (s : State) : ∀ d a b, exec (.fmul d a b) s = execFmul d a b s := fun _ _ _ => rfl
theorem exec_fmulX (s : State) : ∀ x, exec (.fmulX x) s = execFmulX x s := fun _ => rfl
theorem exec_ffma (s : State) : ∀ d a b, exec (.ffma d a b) s = execFfma d a b s := fun _ _ _ => rfl
theorem exec_ffmaX (s : State) : ∀ x, exec (.ffmaX x) s = execFfmaX x s := fun _ => rfl
theorem exec_fsub (s : State) : ∀ d a b, exec (.fsub d a b) s = execFsub d a b s := fun _ _ _ => rfl
theorem exec_fsubX (s : State) : ∀ x, exec (.fsubX x) s = execFsubX x s := fun _ => rfl
theorem exec_ldCB32 (s : State) : ∀ d a b, exec (.ldCB32 d a b) s = execLdCB32 d a b s := fun _ _ _ => rfl
theorem exec_ldCB32X (s : State) : ∀ x, exec (.ldCB32X x) s = execLdCB32X x s := fun _ => rfl
theorem exec_stCB32 (s : State) : ∀ d a b, exec (.stCB32 d a b) s = execStCB32 d a b s := fun _ _ _ => rfl
theorem exec_stCB32X (s : State) : ∀ x, exec (.stCB32X x) s = execStCB32X x s := fun _ => rfl
theorem exec_ldGB32 (s : State) : ∀ d a b, exec (.ldGB32 d a b) s = execLdGB32 d a b s := fun _ _ _ => rfl
theorem exec_ldGB32X (s : State) : ∀ x, exec (.ldGB32X x) s = execLdGB32X x s := fun _ => rfl
theorem exec_stGB32 (s : State) : ∀ d a b, exec (.stGB32 d a b) s = execStGB32 d a b s := fun _ _ _ => rfl
theorem exec_stGB32X (s : State) : ∀ x, exec (.stGB32X x) s = execStGB32X x s := fun _ => rfl
theorem exec_bra (s : State) : ∀ off, exec (.bra off) s = execBra off s := fun _ => rfl
theorem exec_braX (s : State) : ∀ x, exec (.braX x) s = execBraX x s := fun _ => rfl
theorem exec_brc (s : State) : ∀ k neg off, exec (.brc k neg off) s = execBrc k neg off s := fun _ _ _ => rfl
theorem exec_brcX (s : State) : ∀ x, exec (.brcX x) s = execBrcX x s := fun _ => rfl
theorem exec_loop (s : State) : ∀ m off, exec (.loop m off) s = execLoop m off s := fun _ _ => rfl
theorem exec_loopX (s : State) : ∀ x, exec (.loopX x) s = execLoopX x s := fun _ => rfl
theorem exec_endl (s : State) : ∀ k neg cnt, exec (.endl k neg cnt) s = execEndl k neg cnt s := fun _ _ _ => rfl
theorem exec_join (s : State) : ∀ off, exec (.join off) s = execJoin off s := fun _ => rfl
theorem exec_region (s : State) : exec .region s = execRegion s := rfl
theorem exec_sign (s : State) : ∀ cv, exec (.sign cv) s = execSign cv s := fun _ => rfl
theorem exec_signX (s : State) : ∀ x, exec (.signX x) s = execSignX x s := fun _ => rfl
theorem exec_next (s : State) : ∀ d, exec (.next d) s = execNext d s := fun _ => rfl
theorem exec_exit (s : State) : exec .exit s = execExit s := rfl
theorem exec_exitX (s : State) : ∀ x, exec (.exitX x) s = execExitX x s := fun _ => rfl
theorem exec_rep (s : State) : ∀ count sd sa sb sc, exec (.rep count sd sa sb sc) s = execRep count sd sa sb sc s := fun _ _ _ _ _ => rfl
theorem exec_repX (s : State) : ∀ count sd sa sb sc, exec (.repX count sd sa sb sc) s = execRepX count sd sa sb sc s := fun _ _ _ _ _ => rfl
theorem exec_fence (s : State) : ∀ scope, exec (.fence scope) s = execFence scope s := fun _ => rfl
theorem exec_fenceX (s : State) : ∀ x, exec (.fenceX x) s = execFenceX x s := fun _ => rfl
theorem exec_imulh (s : State) : ∀ x, exec (.imulh x) s = execImulh x s := fun _ => rfl
theorem exec_imad (s : State) : ∀ x, exec (.imad x) s = execImad x s := fun _ => rfl
theorem exec_idiv (s : State) : ∀ x, exec (.idiv x) s = execIdiv x s := fun _ => rfl
theorem exec_irem (s : State) : ∀ x, exec (.irem x) s = execIrem x s := fun _ => rfl
theorem exec_imin (s : State) : ∀ x, exec (.imin x) s = execImin x s := fun _ => rfl
theorem exec_imax (s : State) : ∀ x, exec (.imax x) s = execImax x s := fun _ => rfl
theorem exec_iabs (s : State) : ∀ x, exec (.iabs x) s = execIabs x s := fun _ => rfl
theorem exec_ineg (s : State) : ∀ x, exec (.ineg x) s = execIneg x s := fun _ => rfl
theorem exec_andn (s : State) : ∀ x, exec (.andn x) s = execAndn x s := fun _ => rfl
theorem exec_not (s : State) : ∀ x, exec (.not x) s = execNot x s := fun _ => rfl
theorem exec_rotl (s : State) : ∀ x, exec (.rotl x) s = execRotl x s := fun _ => rfl
theorem exec_clz (s : State) : ∀ x, exec (.clz x) s = execClz x s := fun _ => rfl
theorem exec_popc (s : State) : ∀ x, exec (.popc x) s = execPopc x s := fun _ => rfl
theorem exec_brev (s : State) : ∀ x, exec (.brev x) s = execBrev x s := fun _ => rfl
theorem exec_bfx (s : State) : ∀ x, exec (.bfx x) s = execBfx x s := fun _ => rfl
theorem exec_bfi (s : State) : ∀ x, exec (.bfi x) s = execBfi x s := fun _ => rfl
theorem exec_sel (s : State) : ∀ x, exec (.sel x) s = execSel x s := fun _ => rfl
theorem exec_icmp (s : State) : ∀ x, exec (.icmp x) s = execIcmp x s := fun _ => rfl
theorem exec_lea (s : State) : ∀ x, exec (.lea x) s = execLea x s := fun _ => rfl
theorem exec_idot4 (s : State) : ∀ x, exec (.idot4 x) s = execIdot4 x s := fun _ => rfl
theorem exec_pand (s : State) : ∀ x, exec (.pand x) s = execPand x s := fun _ => rfl
theorem exec_por (s : State) : ∀ x, exec (.por x) s = execPor x s := fun _ => rfl
theorem exec_pxor (s : State) : ∀ x, exec (.pxor x) s = execPxor x s := fun _ => rfl
theorem exec_pnot (s : State) : ∀ x, exec (.pnot x) s = execPnot x s := fun _ => rfl
theorem exec_pmov (s : State) : ∀ x, exec (.pmov x) s = execPmov x s := fun _ => rfl
theorem exec_fmin (s : State) : ∀ x, exec (.fmin x) s = execFmin x s := fun _ => rfl
theorem exec_fmax (s : State) : ∀ x, exec (.fmax x) s = execFmax x s := fun _ => rfl
theorem exec_fabs (s : State) : ∀ x, exec (.fabs x) s = execFabs x s := fun _ => rfl
theorem exec_fneg (s : State) : ∀ x, exec (.fneg x) s = execFneg x s := fun _ => rfl
theorem exec_fcmp (s : State) : ∀ x, exec (.fcmp x) s = execFcmp x s := fun _ => rfl
theorem exec_fclass (s : State) : ∀ x, exec (.fclass x) s = execFclass x s := fun _ => rfl
theorem exec_frnd (s : State) : ∀ x, exec (.frnd x) s = execFrnd x s := fun _ => rfl
theorem exec_fcvt (s : State) : ∀ x, exec (.fcvt x) s = execFcvt x s := fun _ => rfl
theorem exec_frcp (s : State) : ∀ x, exec (.frcp x) s = execFrcp x s := fun _ => rfl
theorem exec_frsq (s : State) : ∀ x, exec (.frsq x) s = execFrsq x s := fun _ => rfl
theorem exec_fsqrt (s : State) : ∀ x, exec (.fsqrt x) s = execFsqrt x s := fun _ => rfl
theorem exec_fexp2 (s : State) : ∀ x, exec (.fexp2 x) s = execFexp2 x s := fun _ => rfl
theorem exec_flog2 (s : State) : ∀ x, exec (.flog2 x) s = execFlog2 x s := fun _ => rfl
theorem exec_fsin (s : State) : ∀ x, exec (.fsin x) s = execFsin x s := fun _ => rfl
theorem exec_fcos (s : State) : ∀ x, exec (.fcos x) s = execFcos x s := fun _ => rfl
theorem exec_ftanh (s : State) : ∀ x, exec (.ftanh x) s = execFtanh x s := fun _ => rfl
theorem exec_qnt (s : State) : ∀ x, exec (.qnt x) s = execQnt x s := fun _ => rfl
theorem exec_dqnt (s : State) : ∀ x, exec (.dqnt x) s = execDqnt x s := fun _ => rfl
theorem exec_cbld (s : State) : ∀ x, exec (.cbld x) s = execCbld x s := fun _ => rfl
theorem exec_ctld (s : State) : ∀ x, exec (.ctld x) s = execCtld x s := fun _ => rfl
theorem exec_pack (s : State) : ∀ x, exec (.pack x) s = execPack x s := fun _ => rfl
theorem exec_unpk (s : State) : ∀ x, exec (.unpk x) s = execUnpk x s := fun _ => rfl
theorem exec_jtab (s : State) : ∀ x, exec (.jtab x) s = execJtab x s := fun _ => rfl
theorem exec_call (s : State) : ∀ x, exec (.call x) s = execCall x s := fun _ => rfl
theorem exec_ret (s : State) : ∀ x, exec (.ret x) s = execRet x s := fun _ => rfl
theorem exec_tkill (s : State) : ∀ x, exec (.tkill x) s = execTkill x s := fun _ => rfl
theorem exec_yield (s : State) : ∀ x, exec (.yield x) s = execYield x s := fun _ => rfl
theorem exec_tryRegion (s : State) : ∀ x, exec (.tryRegion x) s = execTryRegion x s := fun _ => rfl
theorem exec_commit (s : State) : ∀ x, exec (.commit x) s = execCommit x s := fun _ => rfl
theorem exec_abort (s : State) : ∀ x, exec (.abort x) s = execAbort x s := fun _ => rfl
theorem exec_trap (s : State) : ∀ x, exec (.trap x) s = execTrap x s := fun _ => rfl
theorem exec_tret (s : State) : ∀ x, exec (.tret x) s = execTret x s := fun _ => rfl
theorem exec_bkpt (s : State) : ∀ x, exec (.bkpt x) s = execBkpt x s := fun _ => rfl
theorem exec_ld (s : State) : ∀ x, exec (.ld x) s = execLd x s := fun _ => rfl
theorem exec_st (s : State) : ∀ x, exec (.st x) s = execSt x s := fun _ => rfl
theorem exec_ldfe (s : State) : ∀ x, exec (.ldfe x) s = execLdfe x s := fun _ => rfl
theorem exec_stfe (s : State) : ∀ x, exec (.stfe x) s = execStfe x s := fun _ => rfl
theorem exec_feset (s : State) : ∀ x, exec (.feset x) s = execFeset x s := fun _ => rfl
theorem exec_feclr (s : State) : ∀ x, exec (.feclr x) s = execFeclr x s := fun _ => rfl
theorem exec_pref (s : State) : ∀ x, exec (.pref x) s = execPref x s := fun _ => rfl
theorem exec_atom (s : State) : ∀ x, exec (.atom x) s = execAtom x s := fun _ => rfl
theorem exec_cas (s : State) : ∀ x, exec (.cas x) s = execCas x s := fun _ => rfl
theorem exec_fatom (s : State) : ∀ x, exec (.fatom x) s = execFatom x s := fun _ => rfl
theorem exec_sdrain (s : State) : ∀ x, exec (.sdrain x) s = execSdrain x s := fun _ => rfl
theorem exec_waitad (s : State) : ∀ x, exec (.waitad x) s = execWaitad x s := fun _ => rfl
theorem exec_waitc (s : State) : ∀ x, exec (.waitc x) s = execWaitc x s := fun _ => rfl
theorem exec_bar (s : State) : ∀ x, exec (.bar x) s = execBar x s := fun _ => rfl
theorem exec_barinit (s : State) : ∀ x, exec (.barinit x) s = execBarinit x s := fun _ => rfl
theorem exec_barkill (s : State) : ∀ x, exec (.barkill x) s = execBarkill x s := fun _ => rfl
theorem exec_barkillAb (s : State) : ∀ x, exec (.barkillAb x) s = execBarkillAb x s := fun _ => rfl
theorem exec_abinit (s : State) : ∀ x, exec (.abinit x) s = execAbinit x s := fun _ => rfl
theorem exec_abwait (s : State) : ∀ x, exec (.abwait x) s = execAbwait x s := fun _ => rfl
theorem exec_abtest (s : State) : ∀ x, exec (.abtest x) s = execAbtest x s := fun _ => rfl
theorem exec_shf (s : State) : ∀ x, exec (.shf x) s = execShf x s := fun _ => rfl
theorem exec_vote (s : State) : ∀ x, exec (.vote x) s = execVote x s := fun _ => rfl
theorem exec_ballot (s : State) : ∀ x, exec (.ballot x) s = execBallot x s := fun _ => rfl
theorem exec_redux (s : State) : ∀ x, exec (.redux x) s = execRedux x s := fun _ => rfl
theorem exec_copy (s : State) : ∀ x, exec (.copy x) s = execCopy x s := fun _ => rfl
theorem exec_chain (s : State) : ∀ x, exec (.chain x) s = execChain x s := fun _ => rfl
theorem exec_gather (s : State) : ∀ x, exec (.gather x) s = execGather x s := fun _ => rfl
theorem exec_qbind (s : State) : ∀ x, exec (.qbind x) s = execQbind x s := fun _ => rfl
theorem exec_qunb (s : State) : ∀ x, exec (.qunb x) s = execQunb x s := fun _ => rfl
theorem exec_qflush (s : State) : ∀ x, exec (.qflush x) s = execQflush x s := fun _ => rfl
theorem exec_panrsv (s : State) : ∀ x lit, exec (.panrsv x lit) s = execPanrsv x lit s := fun _ _ => rfl
theorem exec_panput (s : State) : ∀ x lit, exec (.panput x lit) s = execPanput x lit s := fun _ _ => rfl
theorem exec_panrel (s : State) : ∀ x, exec (.panrel x) s = execPanrel x s := fun _ => rfl
theorem exec_panqry (s : State) : ∀ x, exec (.panqry x) s = execPanqry x s := fun _ => rfl
theorem exec_mldb (s : State) : ∀ x, exec (.mldb x) s = execMldb x s := fun _ => rfl
theorem exec_mma (s : State) : ∀ x, exec (.mma x) s = execMma x s := fun _ => rfl
theorem exec_mmaw (s : State) : ∀ x, exec (.mmaw x) s = execMmaw x s := fun _ => rfl
theorem exec_mzero (s : State) : ∀ x, exec (.mzero x) s = execMzero x s := fun _ => rfl
theorem exec_msta (s : State) : ∀ x, exec (.msta x) s = execMsta x s := fun _ => rfl
theorem exec_mlda (s : State) : ∀ x, exec (.mlda x) s = execMlda x s := fun _ => rfl
theorem exec_scac (s : State) : ∀ x, exec (.scac x) s = execScac x s := fun _ => rfl
theorem exec_cvset (s : State) : ∀ x, exec (.cvset x) s = execCvset x s := fun _ => rfl
theorem exec_mstat (s : State) : ∀ x, exec (.mstat x) s = execMstat x s := fun _ => rfl
theorem exec_csrr (s : State) : ∀ x, exec (.csrr x) s = execCsrr x s := fun _ => rfl
theorem exec_csrw (s : State) : ∀ x, exec (.csrw x) s = execCsrw x s := fun _ => rfl
theorem exec_csrs (s : State) : ∀ x, exec (.csrs x) s = execCsrs x s := fun _ => rfl
theorem exec_csrc (s : State) : ∀ x, exec (.csrc x) s = execCsrc x s := fun _ => rfl
theorem exec_mode (s : State) : ∀ x, exec (.mode x) s = execMode x s := fun _ => rfl
theorem exec_time (s : State) : ∀ x, exec (.time x) s = execTime x s := fun _ => rfl
theorem exec_enrg (s : State) : ∀ x, exec (.enrg x) s = execEnrg x s := fun _ => rfl
theorem exec_quote (s : State) : ∀ x, exec (.quote x) s = execQuote x s := fun _ => rfl
theorem exec_accept (s : State) : ∀ x, exec (.accept x) s = execAccept x s := fun _ => rfl
theorem exec_decline (s : State) : ∀ x, exec (.decline x) s = execDecline x s := fun _ => rfl
theorem exec_sleep (s : State) : ∀ x, exec (.sleep x) s = execSleep x s := fun _ => rfl
theorem exec_blst (s : State) : ∀ x, exec (.blst x) s = execBlst x s := fun _ => rfl
theorem exec_halt (s : State) : ∀ x, exec (.halt x) s = execHalt x s := fun _ => rfl
theorem exec_walkRequest (s : State) : ∀ die asid va kind who, exec (.walkRequest die asid va kind who) s = execWalkRequest die asid va kind who s := fun _ _ _ _ _ => rfl
theorem exec_walkEntryRead (s : State) : ∀ die walk, exec (.walkEntryRead die walk) s = execWalkEntryRead die walk s := fun _ _ => rfl
theorem exec_tlbParityRefill (s : State) : ∀ cluster asid va, exec (.tlbParityRefill cluster asid va) s = execTlbParityRefill cluster asid va s := fun _ _ _ => rfl
theorem exec_invalidatePage (s : State) : ∀ port fn vpn, exec (.invalidatePage port fn vpn) s = execInvalidatePage port fn vpn s := fun _ _ _ => rfl
theorem exec_invalidateAsid (s : State) : ∀ port fn, exec (.invalidateAsid port fn) s = execInvalidateAsid port fn s := fun _ _ => rfl
theorem exec_invalidateAllAsids (s : State) : ∀ port fn, exec (.invalidateAllAsids port fn) s = execInvalidateAllAsids port fn s := fun _ _ => rfl
theorem exec_forcedInvalidation (s : State) : ∀ port fn kind vpn, exec (.forcedInvalidation port fn kind vpn) s = execForcedInvalidation port fn kind vpn s := fun _ _ _ _ => rfl
theorem exec_invalidationComplete (s : State) : ∀ port fn, exec (.invalidationComplete port fn) s = execInvalidationComplete port fn s := fun _ _ => rfl
theorem exec_fillRequest (s : State) : ∀ crew op k, exec (.fillRequest crew op k) s = execFillRequest crew op k s := fun _ _ _ => rfl
theorem exec_storeAtHome (s : State) : ∀ crew op k, exec (.storeAtHome crew op k) s = execStoreAtHome crew op k s := fun _ _ _ => rfl
theorem exec_pendingStorePerformed (s : State) : ∀ sector, exec (.pendingStorePerformed sector) s = execPendingStorePerformed sector s := fun _ => rfl
theorem exec_atomicAtHome (s : State) : ∀ crew op k, exec (.atomicAtHome crew op k) s = execAtomicAtHome crew op k s := fun _ _ _ => rfl
theorem exec_storeAck (s : State) : ∀ crew op k, exec (.storeAck crew op k) s = execStoreAck crew op k s := fun _ _ _ => rfl
theorem exec_portStoreReport (s : State) : ∀ crew op k, exec (.portStoreReport crew op k) s = execPortStoreReport crew op k s := fun _ _ _ => rfl
theorem exec_stRetire (s : State) : ∀ crew op, exec (.stRetire crew op) s = execStRetire crew op s := fun _ _ => rfl
theorem exec_loadReturn (s : State) : ∀ crew op, exec (.loadReturn crew op) s = execLoadReturn crew op s := fun _ _ => rfl
theorem exec_longLatencyResult (s : State) : ∀ crew op, exec (.longLatencyResult crew op) s = execLongLatencyResult crew op s := fun _ _ => rfl
theorem exec_fenceRelease (s : State) : ∀ crew lane, exec (.fenceRelease crew lane) s = execFenceRelease crew lane s := fun _ _ => rfl
theorem exec_ldfeRepresentation (s : State) : ∀ crew op k, exec (.ldfeRepresentation crew op k) s = execLdfeRepresentation crew op k s := fun _ _ _ => rfl
theorem exec_waitadReread (s : State) : ∀ crew lane, exec (.waitadReread crew lane) s = execWaitadReread crew lane s := fun _ _ => rfl
theorem exec_timeoutExpiry (s : State) : ∀ crew lane, exec (.timeoutExpiry crew lane) s = execTimeoutExpiry crew lane s := fun _ _ => rfl
theorem exec_hostSnoopOwnership (s : State) : ∀ port line, exec (.hostSnoopOwnership port line) s = execHostSnoopOwnership port line s := fun _ _ => rfl
theorem exec_hostSnoopData (s : State) : ∀ port line, exec (.hostSnoopData port line) s = execHostSnoopData port line s := fun _ _ => rfl
theorem exec_hostInboundWrite (s : State) : ∀ port fn addr data relaxed, exec (.hostInboundWrite port fn addr data relaxed) s = execHostInboundWrite port fn addr data relaxed s := fun _ _ _ _ _ => rfl
theorem exec_hostInboundRead (s : State) : ∀ port fn addr len, exec (.hostInboundRead port fn addr len) s = execHostInboundRead port fn addr len s := fun _ _ _ _ => rfl
theorem exec_l2WayMaskWrite (s : State) : ∀ die part value, exec (.l2WayMaskWrite die part value) s = execL2WayMaskWrite die part value s := fun _ _ _ => rfl
theorem exec_l2WayReductionDone (s : State) : ∀ die part, exec (.l2WayReductionDone die part) s = execL2WayReductionDone die part s := fun _ _ => rfl
theorem exec_commitLockRequest (s : State) : ∀ crew lane k, exec (.commitLockRequest crew lane k) s = execCommitLockRequest crew lane k s := fun _ _ _ => rfl
theorem exec_commitDecide (s : State) : ∀ crew lane, exec (.commitDecide crew lane) s = execCommitDecide crew lane s := fun _ _ => rfl
theorem exec_commitDecisionAtHome (s : State) : ∀ crew lane k, exec (.commitDecisionAtHome crew lane k) s = execCommitDecisionAtHome crew lane k s := fun _ _ _ => rfl
theorem exec_regionAbort (s : State) : ∀ crew lane, exec (.regionAbort crew lane) s = execRegionAbort crew lane s := fun _ _ => rfl
theorem exec_regionWctReport (s : State) : ∀ launch core, exec (.regionWctReport launch core) s = execRegionWctReport launch core s := fun _ _ => rfl
theorem exec_regionWctForward (s : State) : ∀ launch die, exec (.regionWctForward launch die) s = execRegionWctForward launch die s := fun _ _ => rfl
theorem exec_completionSignal (s : State) : ∀ producer consumer, exec (.completionSignal producer consumer) s = execCompletionSignal producer consumer s := fun _ _ => rfl
theorem exec_hostCompletionPost (s : State) : ∀ launch, exec (.hostCompletionPost launch) s = execHostCompletionPost launch s := fun _ => rfl
theorem exec_transferStart (s : State) : ∀ core ch, exec (.transferStart core ch) s = execTransferStart core ch s := fun _ _ => rfl
theorem exec_transferComplete (s : State) : ∀ core transfer, exec (.transferComplete core transfer) s = execTransferComplete core transfer s := fun _ _ => rfl
theorem exec_chunkComplete (s : State) : ∀ core cmd chunk, exec (.chunkComplete core cmd chunk) s = execChunkComplete core cmd chunk s := fun _ _ _ => rfl
theorem exec_homedContribution (s : State) : ∀ core entry, exec (.homedContribution core entry) s = execHomedContribution core entry s := fun _ _ => rfl
theorem exec_chainRecordRead (s : State) : ∀ core ch, exec (.chainRecordRead core ch) s = execChainRecordRead core ch s := fun _ _ => rfl
theorem exec_gatherStart (s : State) : ∀ die engine, exec (.gatherStart die engine) s = execGatherStart die engine s := fun _ _ => rfl
theorem exec_gatherRowComplete (s : State) : ∀ die engine row, exec (.gatherRowComplete die engine row) s = execGatherRowComplete die engine row s := fun _ _ _ => rfl
theorem exec_streamPrefetchRead (s : State) : ∀ crew port lane, exec (.streamPrefetchRead crew port lane) s = execStreamPrefetchRead crew port lane s := fun _ _ _ => rfl
theorem exec_streamPushWrite (s : State) : ∀ crew port lane, exec (.streamPushWrite crew port lane) s = execStreamPushWrite crew port lane s := fun _ _ _ => rfl
theorem exec_trapEntry (s : State) : ∀ crew lane, exec (.trapEntry crew lane) s = execTrapEntry crew lane s := fun _ _ => rfl
theorem exec_storeCheckFail (s : State) : ∀ crew op, exec (.storeCheckFail crew op) s = execStoreCheckFail crew op s := fun _ _ => rfl
theorem exec_panrsvArrival (s : State) : ∀ core port slot mode ncont nchunk key durUs smod score join, exec (.panrsvArrival core port slot mode ncont nchunk key durUs smod score join) s = execPanrsvArrival core port slot mode ncont nchunk key durUs smod score join s := fun _ _ _ _ _ _ _ _ _ _ _ => rfl
theorem exec_slotZeroingDone (s : State) : ∀ core slot, exec (.slotZeroingDone core slot) s = execSlotZeroingDone core slot s := fun _ _ => rfl
theorem exec_panrsvReply (s : State) : ∀ core idx st gen expiry, exec (.panrsvReply core idx st gen expiry) s = execPanrsvReply core idx st gen expiry s := fun _ _ _ _ _ => rfl
theorem exec_panputArrival (s : State) : ∀ core port slot gen mode off n data, exec (.panputArrival core port slot gen mode off n data) s = execPanputArrival core port slot gen mode off n data s := fun _ _ _ _ _ _ _ _ => rfl
theorem exec_panputAck (s : State) : ∀ core idx cause, exec (.panputAck core idx cause) s = execPanputAck core idx cause s := fun _ _ _ => rfl
theorem exec_slotExpiry (s : State) : ∀ core slot, exec (.slotExpiry core slot) s = execSlotExpiry core slot s := fun _ _ => rfl
theorem exec_panResponseTimeout (s : State) : ∀ core idx, exec (.panResponseTimeout core idx) s = execPanResponseTimeout core idx s := fun _ _ => rfl
theorem exec_portDown (s : State) : ∀ port, exec (.portDown port) s = execPortDown port s := fun _ => rfl
theorem exec_portRetrain (s : State) : ∀ port, exec (.portRetrain port) s = execPortRetrain port s := fun _ => rfl
theorem exec_portRetrainComplete (s : State) : ∀ port ok, exec (.portRetrainComplete port ok) s = execPortRetrainComplete port ok s := fun _ _ => rfl
theorem exec_flitCrcFail (s : State) : ∀ port, exec (.flitCrcFail port) s = execFlitCrcFail port s := fun _ => rfl
theorem exec_celoreStop (s : State) : ∀ port vc, exec (.celoreStop port vc) s = execCeloreStop port vc s := fun _ _ => rfl
theorem exec_celoreGo (s : State) : ∀ port vc, exec (.celoreGo port vc) s = execCeloreGo port vc s := fun _ _ => rfl
theorem exec_portTraining (s : State) : ∀ port pmod pport roundTrip, exec (.portTraining port pmod pport roundTrip) s = execPortTraining port pmod pport roundTrip s := fun _ _ _ _ => rfl
theorem exec_peerTableWrite (s : State) : ∀ port value, exec (.peerTableWrite port value) s = execPeerTableWrite port value s := fun _ _ => rfl
theorem exec_kernelLoad (s : State) : ∀ die asid record, exec (.kernelLoad die asid record) s = execKernelLoad die asid record s := fun _ _ _ => rfl
theorem exec_blockStart (s : State) : ∀ core slot, exec (.blockStart core slot) s = execBlockStart core slot s := fun _ _ => rfl
theorem exec_dcbWrite (s : State) : ∀ idx value, exec (.dcbWrite idx value) s = execDcbWrite idx value s := fun _ _ => rfl
theorem exec_signatureCount (s : State) : ∀ crew idx, exec (.signatureCount crew idx) s = execSignatureCount crew idx s := fun _ _ => rfl
theorem exec_matrixOpStart (s : State) : ∀ core quad, exec (.matrixOpStart core quad) s = execMatrixOpStart core quad s := fun _ _ => rfl
theorem exec_matrixOpComplete (s : State) : ∀ core quad, exec (.matrixOpComplete core quad) s = execMatrixOpComplete core quad s := fun _ _ => rfl
theorem exec_windrowDeadlineFire (s : State) : ∀ core entry, exec (.windrowDeadlineFire core entry) s = execWindrowDeadlineFire core entry s := fun _ _ => rfl
theorem exec_windrowBArrived (s : State) : ∀ core entry, exec (.windrowBArrived core entry) s = execWindrowBArrived core entry s := fun _ _ => rfl
theorem exec_windrowFireComplete (s : State) : ∀ core entry, exec (.windrowFireComplete core entry) s = execWindrowFireComplete core entry s := fun _ _ => rfl
theorem exec_slewLimiterStep (s : State) : ∀ cluster, exec (.slewLimiterStep cluster) s = execSlewLimiterStep cluster s := fun _ => rfl
theorem exec_controlIntervalBoundary (s : State) : exec .controlIntervalBoundary s = execControlIntervalBoundary s := rfl
theorem exec_railReachedPoint (s : State) : ∀ cluster, exec (.railReachedPoint cluster) s = execRailReachedPoint cluster s := fun _ => rfl
theorem exec_railFault (s : State) : ∀ sram unit, exec (.railFault sram unit) s = execRailFault sram unit s := fun _ _ => rfl
theorem exec_budgetWindowBoundary (s : State) : exec .budgetWindowBoundary s = execBudgetWindowBoundary s := rfl
theorem exec_telemetrySample (s : State) : exec .telemetrySample s = execTelemetrySample s := rfl
theorem exec_eventWindowEnd (s : State) : ∀ unit, exec (.eventWindowEnd unit) s = execEventWindowEnd unit s := fun _ => rfl
theorem exec_quoteRequest (s : State) : ∀ crew lane, exec (.quoteRequest crew lane) s = execQuoteRequest crew lane s := fun _ _ => rfl
theorem exec_acceptRequest (s : State) : ∀ crew lane, exec (.acceptRequest crew lane) s = execAcceptRequest crew lane s := fun _ _ => rfl
theorem exec_acceptTakesEffect (s : State) : exec .acceptTakesEffect s = execAcceptTakesEffect s := rfl
theorem exec_declineRequest (s : State) : ∀ crew lane, exec (.declineRequest crew lane) s = execDeclineRequest crew lane s := fun _ _ => rfl
theorem exec_launchStart (s : State) : ∀ launch, exec (.launchStart launch) s = execLaunchStart launch s := fun _ => rfl
theorem exec_launchReplay (s : State) : ∀ launch cause, exec (.launchReplay launch cause) s = execLaunchReplay launch cause s := fun _ _ => rfl
theorem exec_breachAllowanceExpiry (s : State) : ∀ launch, exec (.breachAllowanceExpiry launch) s = execBreachAllowanceExpiry launch s := fun _ => rfl
theorem exec_handlerTimeout (s : State) : ∀ crew, exec (.handlerTimeout crew) s = execHandlerTimeout crew s := fun _ => rfl
theorem exec_queueDescriptorWrite (s : State) : ∀ queue value, exec (.queueDescriptorWrite queue value) s = execQueueDescriptorWrite queue value s := fun _ _ => rfl
theorem exec_queueProgramLoad (s : State) : ∀ queue, exec (.queueProgramLoad queue) s = execQueueProgramLoad queue s := fun _ => rfl
theorem exec_notify (s : State) : ∀ port fn fq value, exec (.notify port fn fq value) s = execNotify port fn fq value s := fun _ _ _ _ => rfl
theorem exec_cqack (s : State) : ∀ port fn fq value, exec (.cqack port fn fq value) s = execCqack port fn fq value s := fun _ _ _ _ => rfl
theorem exec_packetStart (s : State) : ∀ die core, exec (.packetStart die core) s = execPacketStart die core s := fun _ _ => rfl
theorem exec_packetBudgetExhausted (s : State) : ∀ crew, exec (.packetBudgetExhausted crew) s = execPacketBudgetExhausted crew s := fun _ => rfl
theorem exec_preemptRequest (s : State) : ∀ tenant part, exec (.preemptRequest tenant part) s = execPreemptRequest tenant part s := fun _ _ => rfl
theorem exec_preemptWithdraw (s : State) : ∀ tenant part, exec (.preemptWithdraw tenant part) s = execPreemptWithdraw tenant part s := fun _ _ => rfl
theorem exec_graceTimerExpiry (s : State) : ∀ tenant part, exec (.graceTimerExpiry tenant part) s = execGraceTimerExpiry tenant part s := fun _ _ => rfl
theorem exec_drainTimerExpiry (s : State) : ∀ core slot, exec (.drainTimerExpiry core slot) s = execDrainTimerExpiry core slot s := fun _ _ => rfl
theorem exec_killTimerExpiry (s : State) : ∀ tenant part, exec (.killTimerExpiry tenant part) s = execKillTimerExpiry tenant part s := fun _ _ => rfl
theorem exec_blockStopComplete (s : State) : ∀ core slot, exec (.blockStopComplete core slot) s = execBlockStopComplete core slot s := fun _ _ => rfl
theorem exec_shadowExchangeDone (s : State) : ∀ core, exec (.shadowExchangeDone core) s = execShadowExchangeDone core s := fun _ => rfl
theorem exec_tenantResume (s : State) : ∀ tenant part, exec (.tenantResume tenant part) s = execTenantResume tenant part s := fun _ _ => rfl
theorem exec_ownerByteWrite (s : State) : ∀ array unit idx value, exec (.ownerByteWrite array unit idx value) s = execOwnerByteWrite array unit idx value s := fun _ _ _ _ => rfl
theorem exec_frozenContextKill (s : State) : ∀ launch, exec (.frozenContextKill launch) s = execFrozenContextKill launch s := fun _ => rfl
theorem exec_modulePowerControlWrite (s : State) : ∀ value, exec (.modulePowerControlWrite value) s = execModulePowerControlWrite value s := fun _ => rfl
theorem exec_rampTableWrite (s : State) : ∀ cluster value, exec (.rampTableWrite cluster value) s = execRampTableWrite cluster value s := fun _ _ => rfl
theorem exec_managementWrite (s : State) : ∀ reg a b value, exec (.managementWrite reg a b value) s = execManagementWrite reg a b value s := fun _ _ _ _ => rfl
theorem exec_ballastEnd (s : State) : ∀ core quad, exec (.ballastEnd core quad) s = execBallastEnd core quad s := fun _ _ => rfl
theorem exec_sleepWake (s : State) : ∀ crew lane, exec (.sleepWake crew lane) s = execSleepWake crew lane s := fun _ _ => rfl
theorem exec_hostPortTraining (s : State) : ∀ port cxlOffered lanes, exec (.hostPortTraining port cxlOffered lanes) s = execHostPortTraining port cxlOffered lanes s := fun _ _ _ => rfl
theorem exec_functionLevelReset (s : State) : ∀ port fn, exec (.functionLevelReset port fn) s = execFunctionLevelReset port fn s := fun _ _ => rfl
theorem exec_queueReset (s : State) : ∀ port fn value, exec (.queueReset port fn value) s = execQueueReset port fn value s := fun _ _ _ => rfl
theorem exec_queueResetDone (s : State) : ∀ port fn, exec (.queueResetDone port fn) s = execQueueResetDone port fn s := fun _ _ => rfl
theorem exec_msixVectorUnmask (s : State) : ∀ port fn vec, exec (.msixVectorUnmask port fn vec) s = execMsixVectorUnmask port fn vec s := fun _ _ _ => rfl
theorem exec_getVersion (s : State) : ∀ port, exec (.getVersion port) s = execGetVersion port s := fun _ => rfl
theorem exec_getCapabilities (s : State) : ∀ port, exec (.getCapabilities port) s = execGetCapabilities port s := fun _ => rfl
theorem exec_negotiateAlgorithms (s : State) : ∀ port asym hash, exec (.negotiateAlgorithms port asym hash) s = execNegotiateAlgorithms port asym hash s := fun _ _ _ => rfl
theorem exec_getDigests (s : State) : ∀ port, exec (.getDigests port) s = execGetDigests port s := fun _ => rfl
theorem exec_getCertificate (s : State) : ∀ port, exec (.getCertificate port) s = execGetCertificate port s := fun _ => rfl
theorem exec_challenge (s : State) : ∀ port nonce, exec (.challenge port nonce) s = execChallenge port nonce s := fun _ _ => rfl
theorem exec_getMeasurements (s : State) : ∀ port index, exec (.getMeasurements port index) s = execGetMeasurements port index s := fun _ _ => rfl
theorem exec_coldReset (s : State) : exec .coldReset s = execColdReset s := rfl
theorem exec_warmReset (s : State) : exec .warmReset s = execWarmReset s := rfl
theorem exec_powerDown (s : State) : exec .powerDown s = execPowerDown s := rfl
theorem exec_storeChecksPass (s : State) : ∀ crew op, exec (.storeChecksPass crew op) s = execStoreChecksPass crew op s := fun _ _ => rfl
theorem exec_invcmdRefused (s : State) : ∀ port fn kind, exec (.invcmdRefused port fn kind) s = execInvcmdRefused port fn kind s := fun _ _ _ => rfl
theorem exec_ptpTimeSync (s : State) : ∀ sec ns sync, exec (.ptpTimeSync sec ns sync) s = execPtpTimeSync sec ns sync s := fun _ _ _ => rfl

end Sys2Proof.Machine
end

