-- ==== Sys2Proof/Laws/Memory.lean ====
section
/-! SUPPORT. Laws/Memory.lean: every operation that writes or clears storage keeps the canonical form of the memory. -/

namespace Sys2Proof

theorem SMap.wfFrom_filter {α : Type} [DecidableEq α] (d : α) (q : Nat × α → Bool) (m : SMap α) (lo : Nat) (h : SMap.wfFrom d lo m = true) :
    SMap.wfFrom d lo (List.filter q m) = true := by
  induction m generalizing lo with
  | nil => rfl
  | cons p rest ih =>
    obtain ⟨i, w⟩ := p
    simp only [SMap.wfFrom, Bool.and_eq_true, decide_eq_true_eq] at h
    by_cases hq : q (i, w) = true
    · simp only [List.filter, hq, SMap.wfFrom, Bool.and_eq_true, decide_eq_true_eq]
      exact ⟨h.1, ih _ h.2⟩
    · simp only [List.filter, Bool.not_eq_true] at hq ⊢
      rw [hq]
      exact SMap.wfFrom_mono d _ lo (i + 1) (by omega) (ih _ h.2)

namespace Machine

namespace Mem

/-- Writing one byte keeps the canonical form. -/
theorem wf_setByte (m : Mem) (k : Nat) (b : Byte) (h : m.wf = true) : (m.setByte k b).wf = true :=
  SMap.wf_set 0 m.bytes k b h

/-- Writing a run of bytes keeps the canonical form. -/
theorem wf_write (bs : List Byte) (m : Mem) (k : Nat) (h : m.wf = true) : (m.write k bs).wf = true := by
  induction bs generalizing m k with
  | nil => exact h
  | cons b rest ih => exact ih _ _ (wf_setByte m k b h)

/-- Writing bytes at keys of their own keeps the canonical form. -/
theorem wf_writeAll (bs : List (Nat × Byte)) (m : Mem) (h : m.wf = true) : (m.writeAll bs).wf = true := by
  induction bs generalizing m with
  | nil => exact h
  | cons p rest ih => exact ih _ (wf_setByte m p.1 p.2 h)

/-- Clearing a part of storage keeps the canonical form. -/
theorem wf_clear (m : Mem) (f : Nat → Bool) (h : m.wf = true) : (m.clear f).wf = true :=
  SMap.wfFrom_filter 0 _ m.bytes 0 h

end Mem

namespace State

/-- The performance of a store at home or at a bank keeps the canonical form. -/
theorem performBytes_wf (s : State) (bs : List (Nat × Byte)) (h : s.mem.wf = true) : (s.performBytes bs).mem.wf = true :=
  Mem.wf_writeAll _ _ h

/-- Marking poison touches no byte. -/
theorem poisonKeys_wf (s : State) (ks : List Nat) (h : s.mem.wf = true) : (s.poisonKeys ks).mem.wf = true := h

/-- The performance of nibbles keeps the canonical form. -/
theorem performNibbles_wf (s : State) (bs : List (Nat × Byte)) (ms : List (Nat × BitVec 2)) (h : s.mem.wf = true) :
    (s.performNibbles bs ms).mem.wf = true :=
  Mem.wf_writeAll _ _ h

/-- A pending store keeps the canonical form when it is performed. -/
theorem pendBytes_wf (s : State) (p : Pending) (h : s.mem.wf = true) : (s.pendBytes p).mem.wf = true := by
  unfold pendBytes
  have hs := performNibbles_wf _ p.bytes p.masks (performBytes_wf s (p.bytes.filter fun b => !p.masks.any fun m => decide (m.1 = b.1)) h)
  dsimp only
  split
  · exact poisonKeys_wf _ _ hs
  · exact hs

/-- What a reset keeps of memory is canonical. -/
theorem outside_wf (s t : State) (h : s.mem.wf = true) : (s.outside t).mem.wf = true :=
  SMap.wfFrom_filter 0 _ s.mem.bytes 0 h

/-- A controller's record of poison leaves memory as it is. -/
@[simp] theorem recordPoison_mem (s : State) (sec : Nat) : (s.recordPoison sec).mem = s.mem := by
  unfold recordPoison
  dsimp only
  split
  · rfl
  · split <;> rfl

/-- So do many of them. -/
@[simp] theorem foldRecords_mem (secs : List Nat) (s : State) : (secs.foldl (fun s sec => s.recordPoison sec) s).mem = s.mem := by
  induction secs generalizing s with
  | nil => rfl
  | cons x rest ih => exact (ih _).trans (recordPoison_mem s x)

/-- Writing a launch's snapshots back keeps the canonical form. -/
theorem writeBack_wf (s : State) (d : Nat) (h : s.mem.wf = true) : (s.writeBack d).mem.wf = true := by
  unfold writeBack
  refine poisonKeys_wf _ _ ?_
  rw [foldRecords_mem]
  exact Mem.wf_writeAll _ _ (SMap.wfFrom_filter 0 _ s.mem.bytes 0 h)

/-- The memory of reset is canonical. -/
theorem reset_wf : State.reset.mem.wf = true := rfl

end State

end Machine

end Sys2Proof
end

