-- ==== Sys2Proof/Laws/PerInstr.lean ====
section
/-! SUPPORT. Laws/PerInstr.lean: the statements made for each instruction of the table by itself. -/

namespace Sys2Proof.Laws

/-- The layout of an encoded instruction (R191, R192): as many words as its length code says, word 0 first, and the length code in the two highest bits of that word. -/
def Layout.Statement (i : Instr) : Prop :=
  (encode i).length = lenWords i.lenCode.toNat ∧ (encode i).head? = some i.word0 ∧ i.word0.extractLsb' 30 2 = i.lenCode

/-- Every instruction has the layout that its length code says. -/
theorem Layout.all (i : Instr) : Layout.Statement i := by
  have hw : i.word0.extractLsb' 30 2 = i.lenCode := by
    unfold Instr.word0
    generalize i.lenCode = c
    ext j hj
    simp only [BitVec.getElem_extractLsb', BitVec.getLsbD_append]
    simp [show ¬ (30 + j < 8) by omega, show ¬ (30 + j - 8 < 8) by omega, show ¬ (30 + j - 8 - 8< 8) by omega, show ¬ (30 + j - 8 - 8 -8< 6) by omega]
    have e : 30 + j - 8 - 8 - 8 - 6 = j := by omega
    rw [e, BitVec.getLsbD_eq_getElem hj]
  refine ⟨?_, ?_, hw⟩
  all_goals
    unfold encode
    generalize i.lenCode = c
    rcases (by decide : ∀ c : BitVec 2, c = 0 ∨ c = 1 ∨ c = 2 ∨ c = 3) c with h | h | h | h <;> subst h <;> simp [lenWords]

theorem Layout.nop  : Layout.Statement (.nop) := Layout.all _
theorem Layout.nopX (x : XF) : Layout.Statement (.nopX x) := Layout.all _
theorem Layout.iadd (d a b : BitVec 8) : Layout.Statement (.iadd d a b) := Layout.all _
theorem Layout.iaddX (x : XF) : Layout.Statement (.iaddX x) := Layout.all _
theorem Layout.isub (d a b : BitVec 8) : Layout.Statement (.isub d a b) := Layout.all _
theorem Layout.isubX (x : XF) : Layout.Statement (.isubX x) := Layout.all _
theorem Layout.imul (d a b : BitVec 8) : Layout.Statement (.imul d a b) := Layout.all _
theorem Layout.imulX (x : XF) : Layout.Statement (.imulX x) := Layout.all _
theorem Layout.and (d a b : BitVec 8) : Layout.Statement (.and d a b) := Layout.all _
theorem Layout.andX (x : XF) : Layout.Statement (.andX x) := Layout.all _
theorem Layout.or (d a b : BitVec 8) : Layout.Statement (.or d a b) := Layout.all _
theorem Layout.orX (x : XF) : Layout.Statement (.orX x) := Layout.all _
theorem Layout.xor (d a b : BitVec 8) : Layout.Statement (.xor d a b) := Layout.all _
theorem Layout.xorX (x : XF) : Layout.Statement (.xorX x) := Layout.all _
theorem Layout.shl (d a b : BitVec 8) : Layout.Statement (.shl d a b) := Layout.all _
theorem Layout.shlX (x : XF) : Layout.Statement (.shlX x) := Layout.all _
theorem Layout.shr (d a b : BitVec 8) : Layout.Statement (.shr d a b) := Layout.all _
theorem Layout.shrX (x : XF) : Layout.Statement (.shrX x) := Layout.all _
theorem Layout.sra (d a b : BitVec 8) : Layout.Statement (.sra d a b) := Layout.all _
theorem Layout.sraX (x : XF) : Layout.Statement (.sraX x) := Layout.all _
theorem Layout.iaddImm (d a b : BitVec 8) : Layout.Statement (.iaddImm d a b) := Layout.all _
theorem Layout.iaddImmX (x : XF) : Layout.Statement (.iaddImmX x) := Layout.all _
theorem Layout.mov (d a : BitVec 8) : Layout.Statement (.mov d a) := Layout.all _
theorem Layout.movX (x : XF) : Layout.Statement (.movX x) := Layout.all _
theorem Layout.movi (d : BitVec 8) (imm : BitVec 16) : Layout.Statement (.movi d imm) := Layout.all _
theorem Layout.moviX (x : XF) : Layout.Statement (.moviX x) := Layout.all _
theorem Layout.moviB64 (d : BitVec 8) (lit : BitVec 64) : Layout.Statement (.moviB64 d lit) := Layout.all _
theorem Layout.moviB64X (x : XF) (lit : BitVec 64) : Layout.Statement (.moviB64X x lit) := Layout.all _
theorem Layout.fadd (d a b : BitVec 8) : Layout.Statement (.fadd d a b) := Layout.all _
theorem Layout.faddX (x : XF) : Layout.Statement (.faddX x) := Layout.all _
theorem Layout.fmul (d a b : BitVec 8) : Layout.Statement (.fmul d a b) := Layout.all _
theorem Layout.fmulX (x : XF) : Layout.Statement (.fmulX x) := Layout.all _
theorem Layout.ffma (d a b : BitVec 8) : Layout.Statement (.ffma d a b) := Layout.all _
theorem Layout.ffmaX (x : XF) : Layout.Statement (.ffmaX x) := Layout.all _
theorem Layout.fsub (d a b : BitVec 8) : Layout.Statement (.fsub d a b) := Layout.all _
theorem Layout.fsubX (x : XF) : Layout.Statement (.fsubX x) := Layout.all _
theorem Layout.ldCB32 (d a b : BitVec 8) : Layout.Statement (.ldCB32 d a b) := Layout.all _
theorem Layout.ldCB32X (x : XF) : Layout.Statement (.ldCB32X x) := Layout.all _
theorem Layout.stCB32 (d a b : BitVec 8) : Layout.Statement (.stCB32 d a b) := Layout.all _
theorem Layout.stCB32X (x : XF) : Layout.Statement (.stCB32X x) := Layout.all _
theorem Layout.ldGB32 (d a b : BitVec 8) : Layout.Statement (.ldGB32 d a b) := Layout.all _
theorem Layout.ldGB32X (x : XF) : Layout.Statement (.ldGB32X x) := Layout.all _
theorem Layout.stGB32 (d a b : BitVec 8) : Layout.Statement (.stGB32 d a b) := Layout.all _
theorem Layout.stGB32X (x : XF) : Layout.Statement (.stGB32X x) := Layout.all _
theorem Layout.bra (off : BitVec 24) : Layout.Statement (.bra off) := Layout.all _
theorem Layout.braX (x : XF) : Layout.Statement (.braX x) := Layout.all _
theorem Layout.brc (k : BitVec 3) (neg : Bool) (off : BitVec 16) : Layout.Statement (.brc k neg off) := Layout.all _
theorem Layout.brcX (x : XF) : Layout.Statement (.brcX x) := Layout.all _
theorem Layout.loop (m off : BitVec 12) : Layout.Statement (.loop m off) := Layout.all _
theorem Layout.loopX (x : XF) : Layout.Statement (.loopX x) := Layout.all _
theorem Layout.endl (k : BitVec 3) (neg cnt : Bool) : Layout.Statement (.endl k neg cnt) := Layout.all _
theorem Layout.join (off : BitVec 24) : Layout.Statement (.join off) := Layout.all _
theorem Layout.region  : Layout.Statement (.region) := Layout.all _
theorem Layout.sign (cv : BitVec 4) : Layout.Statement (.sign cv) := Layout.all _
theorem Layout.signX (x : XF) : Layout.Statement (.signX x) := Layout.all _
theorem Layout.next (d : BitVec 8) : Layout.Statement (.next d) := Layout.all _
theorem Layout.exit  : Layout.Statement (.exit) := Layout.all _
theorem Layout.exitX (x : XF) : Layout.Statement (.exitX x) := Layout.all _
theorem Layout.rep (count : BitVec 6) (sd sa sb sc : BitVec 2) : Layout.Statement (.rep count sd sa sb sc) := Layout.all _
theorem Layout.repX (count : BitVec 6) (sd sa sb sc : BitVec 2) : Layout.Statement (.repX count sd sa sb sc) := Layout.all _
theorem Layout.fence (scope : BitVec 2) : Layout.Statement (.fence scope) := Layout.all _
theorem Layout.fenceX (x : XF) : Layout.Statement (.fenceX x) := Layout.all _
theorem Layout.imulh (x : XF) : Layout.Statement (.imulh x) := Layout.all _
theorem Layout.imad (x : XF) : Layout.Statement (.imad x) := Layout.all _
theorem Layout.idiv (x : XF) : Layout.Statement (.idiv x) := Layout.all _
theorem Layout.irem (x : XF) : Layout.Statement (.irem x) := Layout.all _
theorem Layout.imin (x : XF) : Layout.Statement (.imin x) := Layout.all _
theorem Layout.imax (x : XF) : Layout.Statement (.imax x) := Layout.all _
theorem Layout.iabs (x : XF) : Layout.Statement (.iabs x) := Layout.all _
theorem Layout.ineg (x : XF) : Layout.Statement (.ineg x) := Layout.all _
theorem Layout.andn (x : XF) : Layout.Statement (.andn x) := Layout.all _
theorem Layout.not (x : XF) : Layout.Statement (.not x) := Layout.all _
theorem Layout.rotl (x : XF) : Layout.Statement (.rotl x) := Layout.all _
theorem Layout.clz (x : XF) : Layout.Statement (.clz x) := Layout.all _
theorem Layout.popc (x : XF) : Layout.Statement (.popc x) := Layout.all _
theorem Layout.brev (x : XF) : Layout.Statement (.brev x) := Layout.all _
theorem Layout.bfx (x : XF) : Layout.Statement (.bfx x) := Layout.all _
theorem Layout.bfi (x : XF) : Layout.Statement (.bfi x) := Layout.all _
theorem Layout.sel (x : XF) : Layout.Statement (.sel x) := Layout.all _
theorem Layout.icmp (x : XF) : Layout.Statement (.icmp x) := Layout.all _
theorem Layout.lea (x : XF) : Layout.Statement (.lea x) := Layout.all _
theorem Layout.idot4 (x : XF) : Layout.Statement (.idot4 x) := Layout.all _
theorem Layout.pand (x : XF) : Layout.Statement (.pand x) := Layout.all _
theorem Layout.por (x : XF) : Layout.Statement (.por x) := Layout.all _
theorem Layout.pxor (x : XF) : Layout.Statement (.pxor x) := Layout.all _
theorem Layout.pnot (x : XF) : Layout.Statement (.pnot x) := Layout.all _
theorem Layout.pmov (x : XF) : Layout.Statement (.pmov x) := Layout.all _
theorem Layout.fmin (x : XF) : Layout.Statement (.fmin x) := Layout.all _
theorem Layout.fmax (x : XF) : Layout.Statement (.fmax x) := Layout.all _
theorem Layout.fabs (x : XF) : Layout.Statement (.fabs x) := Layout.all _
theorem Layout.fneg (x : XF) : Layout.Statement (.fneg x) := Layout.all _
theorem Layout.fcmp (x : XF) : Layout.Statement (.fcmp x) := Layout.all _
theorem Layout.fclass (x : XF) : Layout.Statement (.fclass x) := Layout.all _
theorem Layout.frnd (x : XF) : Layout.Statement (.frnd x) := Layout.all _
theorem Layout.fcvt (x : XF) : Layout.Statement (.fcvt x) := Layout.all _
theorem Layout.frcp (x : XF) : Layout.Statement (.frcp x) := Layout.all _
theorem Layout.frsq (x : XF) : Layout.Statement (.frsq x) := Layout.all _
theorem Layout.fsqrt (x : XF) : Layout.Statement (.fsqrt x) := Layout.all _
theorem Layout.fexp2 (x : XF) : Layout.Statement (.fexp2 x) := Layout.all _
theorem Layout.flog2 (x : XF) : Layout.Statement (.flog2 x) := Layout.all _
theorem Layout.fsin (x : XF) : Layout.Statement (.fsin x) := Layout.all _
theorem Layout.fcos (x : XF) : Layout.Statement (.fcos x) := Layout.all _
theorem Layout.ftanh (x : XF) : Layout.Statement (.ftanh x) := Layout.all _
theorem Layout.qnt (x : XF) : Layout.Statement (.qnt x) := Layout.all _
theorem Layout.dqnt (x : XF) : Layout.Statement (.dqnt x) := Layout.all _
theorem Layout.cbld (x : XF) : Layout.Statement (.cbld x) := Layout.all _
theorem Layout.ctld (x : XF) : Layout.Statement (.ctld x) := Layout.all _
theorem Layout.pack (x : XF) : Layout.Statement (.pack x) := Layout.all _
theorem Layout.unpk (x : XF) : Layout.Statement (.unpk x) := Layout.all _
theorem Layout.jtab (x : XF) : Layout.Statement (.jtab x) := Layout.all _
theorem Layout.call (x : XF) : Layout.Statement (.call x) := Layout.all _
theorem Layout.ret (x : XF) : Layout.Statement (.ret x) := Layout.all _
theorem Layout.tkill (x : XF) : Layout.Statement (.tkill x) := Layout.all _
theorem Layout.yield (x : XF) : Layout.Statement (.yield x) := Layout.all _
theorem Layout.tryRegion (x : XF) : Layout.Statement (.tryRegion x) := Layout.all _
theorem Layout.commit (x : XF) : Layout.Statement (.commit x) := Layout.all _
theorem Layout.abort (x : XF) : Layout.Statement (.abort x) := Layout.all _
theorem Layout.trap (x : XF) : Layout.Statement (.trap x) := Layout.all _
theorem Layout.tret (x : XF) : Layout.Statement (.tret x) := Layout.all _
theorem Layout.bkpt (x : XF) : Layout.Statement (.bkpt x) := Layout.all _
theorem Layout.ld (x : XF) : Layout.Statement (.ld x) := Layout.all _
theorem Layout.st (x : XF) : Layout.Statement (.st x) := Layout.all _
theorem Layout.ldfe (x : XF) : Layout.Statement (.ldfe x) := Layout.all _
theorem Layout.stfe (x : XF) : Layout.Statement (.stfe x) := Layout.all _
theorem Layout.feset (x : XF) : Layout.Statement (.feset x) := Layout.all _
theorem Layout.feclr (x : XF) : Layout.Statement (.feclr x) := Layout.all _
theorem Layout.pref (x : XF) : Layout.Statement (.pref x) := Layout.all _
theorem Layout.atom (x : XF) : Layout.Statement (.atom x) := Layout.all _
theorem Layout.cas (x : XF) : Layout.Statement (.cas x) := Layout.all _
theorem Layout.fatom (x : XF) : Layout.Statement (.fatom x) := Layout.all _
theorem Layout.sdrain (x : XF) : Layout.Statement (.sdrain x) := Layout.all _
theorem Layout.waitad (x : XF) : Layout.Statement (.waitad x) := Layout.all _
theorem Layout.waitc (x : XF) : Layout.Statement (.waitc x) := Layout.all _
theorem Layout.bar (x : XF) : Layout.Statement (.bar x) := Layout.all _
theorem Layout.barinit (x : XF) : Layout.Statement (.barinit x) := Layout.all _
theorem Layout.barkill (x : XF) : Layout.Statement (.barkill x) := Layout.all _
theorem Layout.barkillAb (x : XF) : Layout.Statement (.barkillAb x) := Layout.all _
theorem Layout.abinit (x : XF) : Layout.Statement (.abinit x) := Layout.all _
theorem Layout.abwait (x : XF) : Layout.Statement (.abwait x) := Layout.all _
theorem Layout.abtest (x : XF) : Layout.Statement (.abtest x) := Layout.all _
theorem Layout.shf (x : XF) : Layout.Statement (.shf x) := Layout.all _
theorem Layout.vote (x : XF) : Layout.Statement (.vote x) := Layout.all _
theorem Layout.ballot (x : XF) : Layout.Statement (.ballot x) := Layout.all _
theorem Layout.redux (x : XF) : Layout.Statement (.redux x) := Layout.all _
theorem Layout.copy (x : XF) : Layout.Statement (.copy x) := Layout.all _
theorem Layout.chain (x : XF) : Layout.Statement (.chain x) := Layout.all _
theorem Layout.gather (x : XF) : Layout.Statement (.gather x) := Layout.all _
theorem Layout.qbind (x : XF) : Layout.Statement (.qbind x) := Layout.all _
theorem Layout.qunb (x : XF) : Layout.Statement (.qunb x) := Layout.all _
theorem Layout.qflush (x : XF) : Layout.Statement (.qflush x) := Layout.all _
theorem Layout.panrsv (x : XF) (lit : BitVec 64) : Layout.Statement (.panrsv x lit) := Layout.all _
theorem Layout.panput (x : XF) (lit : BitVec 64) : Layout.Statement (.panput x lit) := Layout.all _
theorem Layout.panrel (x : XF) : Layout.Statement (.panrel x) := Layout.all _
theorem Layout.panqry (x : XF) : Layout.Statement (.panqry x) := Layout.all _
theorem Layout.mldb (x : XF) : Layout.Statement (.mldb x) := Layout.all _
theorem Layout.mma (x : XF) : Layout.Statement (.mma x) := Layout.all _
theorem Layout.mmaw (x : XF) : Layout.Statement (.mmaw x) := Layout.all _
theorem Layout.mzero (x : XF) : Layout.Statement (.mzero x) := Layout.all _
theorem Layout.msta (x : XF) : Layout.Statement (.msta x) := Layout.all _
theorem Layout.mlda (x : XF) : Layout.Statement (.mlda x) := Layout.all _
theorem Layout.scac (x : XF) : Layout.Statement (.scac x) := Layout.all _
theorem Layout.cvset (x : XF) : Layout.Statement (.cvset x) := Layout.all _
theorem Layout.mstat (x : XF) : Layout.Statement (.mstat x) := Layout.all _
theorem Layout.csrr (x : XF) : Layout.Statement (.csrr x) := Layout.all _
theorem Layout.csrw (x : XF) : Layout.Statement (.csrw x) := Layout.all _
theorem Layout.csrs (x : XF) : Layout.Statement (.csrs x) := Layout.all _
theorem Layout.csrc (x : XF) : Layout.Statement (.csrc x) := Layout.all _
theorem Layout.mode (x : XF) : Layout.Statement (.mode x) := Layout.all _
theorem Layout.time (x : XF) : Layout.Statement (.time x) := Layout.all _
theorem Layout.enrg (x : XF) : Layout.Statement (.enrg x) := Layout.all _
theorem Layout.quote (x : XF) : Layout.Statement (.quote x) := Layout.all _
theorem Layout.accept (x : XF) : Layout.Statement (.accept x) := Layout.all _
theorem Layout.decline (x : XF) : Layout.Statement (.decline x) := Layout.all _
theorem Layout.sleep (x : XF) : Layout.Statement (.sleep x) := Layout.all _
theorem Layout.blst (x : XF) : Layout.Statement (.blst x) := Layout.all _
theorem Layout.halt (x : XF) : Layout.Statement (.halt x) := Layout.all _
theorem Layout.walkRequest (die asid va kind who : Nat) : Layout.Statement (.walkRequest die asid va kind who) := Layout.all _
theorem Layout.walkEntryRead (die walk : Nat) : Layout.Statement (.walkEntryRead die walk) := Layout.all _
theorem Layout.tlbParityRefill (cluster asid va : Nat) : Layout.Statement (.tlbParityRefill cluster asid va) := Layout.all _
theorem Layout.invalidatePage (port fn vpn : Nat) : Layout.Statement (.invalidatePage port fn vpn) := Layout.all _
theorem Layout.invalidateAsid (port fn : Nat) : Layout.Statement (.invalidateAsid port fn) := Layout.all _
theorem Layout.invalidateAllAsids (port fn : Nat) : Layout.Statement (.invalidateAllAsids port fn) := Layout.all _
theorem Layout.forcedInvalidation (port fn kind vpn : Nat) : Layout.Statement (.forcedInvalidation port fn kind vpn) := Layout.all _
theorem Layout.invalidationComplete (port fn : Nat) : Layout.Statement (.invalidationComplete port fn) := Layout.all _
theorem Layout.fillRequest (crew op k : Nat) : Layout.Statement (.fillRequest crew op k) := Layout.all _
theorem Layout.storeAtHome (crew op k : Nat) : Layout.Statement (.storeAtHome crew op k) := Layout.all _
theorem Layout.pendingStorePerformed (sector : Nat) : Layout.Statement (.pendingStorePerformed sector) := Layout.all _
theorem Layout.atomicAtHome (crew op k : Nat) : Layout.Statement (.atomicAtHome crew op k) := Layout.all _
theorem Layout.storeAck (crew op k : Nat) : Layout.Statement (.storeAck crew op k) := Layout.all _
theorem Layout.portStoreReport (crew op k : Nat) : Layout.Statement (.portStoreReport crew op k) := Layout.all _
theorem Layout.stRetire (crew op : Nat) : Layout.Statement (.stRetire crew op) := Layout.all _
theorem Layout.loadReturn (crew op : Nat) : Layout.Statement (.loadReturn crew op) := Layout.all _
theorem Layout.longLatencyResult (crew op : Nat) : Layout.Statement (.longLatencyResult crew op) := Layout.all _
theorem Layout.fenceRelease (crew lane : Nat) : Layout.Statement (.fenceRelease crew lane) := Layout.all _
theorem Layout.ldfeRepresentation (crew op k : Nat) : Layout.Statement (.ldfeRepresentation crew op k) := Layout.all _
theorem Layout.waitadReread (crew lane : Nat) : Layout.Statement (.waitadReread crew lane) := Layout.all _
theorem Layout.timeoutExpiry (crew lane : Nat) : Layout.Statement (.timeoutExpiry crew lane) := Layout.all _
theorem Layout.hostSnoopOwnership (port line : Nat) : Layout.Statement (.hostSnoopOwnership port line) := Layout.all _
theorem Layout.hostSnoopData (port line : Nat) : Layout.Statement (.hostSnoopData port line) := Layout.all _
theorem Layout.hostInboundWrite (port fn addr : Nat) (data : List (BitVec 8)) (relaxed : Bool) : Layout.Statement (.hostInboundWrite port fn addr data relaxed) := Layout.all _
theorem Layout.hostInboundRead (port fn addr len : Nat) : Layout.Statement (.hostInboundRead port fn addr len) := Layout.all _
theorem Layout.l2WayMaskWrite (die part : Nat) (value : BitVec 32) : Layout.Statement (.l2WayMaskWrite die part value) := Layout.all _
theorem Layout.l2WayReductionDone (die part : Nat) : Layout.Statement (.l2WayReductionDone die part) := Layout.all _
theorem Layout.commitLockRequest (crew lane k : Nat) : Layout.Statement (.commitLockRequest crew lane k) := Layout.all _
theorem Layout.commitDecide (crew lane : Nat) : Layout.Statement (.commitDecide crew lane) := Layout.all _
theorem Layout.commitDecisionAtHome (crew lane k : Nat) : Layout.Statement (.commitDecisionAtHome crew lane k) := Layout.all _
theorem Layout.regionAbort (crew lane : Nat) : Layout.Statement (.regionAbort crew lane) := Layout.all _
theorem Layout.regionWctReport (launch core : Nat) : Layout.Statement (.regionWctReport launch core) := Layout.all _
theorem Layout.regionWctForward (launch die : Nat) : Layout.Statement (.regionWctForward launch die) := Layout.all _
theorem Layout.completionSignal (producer consumer : Nat) : Layout.Statement (.completionSignal producer consumer) := Layout.all _
theorem Layout.hostCompletionPost (launch : Nat) : Layout.Statement (.hostCompletionPost launch) := Layout.all _
theorem Layout.transferStart (core ch : Nat) : Layout.Statement (.transferStart core ch) := Layout.all _
theorem Layout.transferComplete (core transfer : Nat) : Layout.Statement (.transferComplete core transfer) := Layout.all _
theorem Layout.chunkComplete (core cmd chunk : Nat) : Layout.Statement (.chunkComplete core cmd chunk) := Layout.all _
theorem Layout.homedContribution (core entry : Nat) : Layout.Statement (.homedContribution core entry) := Layout.all _
theorem Layout.chainRecordRead (core ch : Nat) : Layout.Statement (.chainRecordRead core ch) := Layout.all _
theorem Layout.gatherStart (die engine : Nat) : Layout.Statement (.gatherStart die engine) := Layout.all _
theorem Layout.gatherRowComplete (die engine row : Nat) : Layout.Statement (.gatherRowComplete die engine row) := Layout.all _
theorem Layout.streamPrefetchRead (crew port lane : Nat) : Layout.Statement (.streamPrefetchRead crew port lane) := Layout.all _
theorem Layout.streamPushWrite (crew port lane : Nat) : Layout.Statement (.streamPushWrite crew port lane) := Layout.all _
theorem Layout.trapEntry (crew lane : Nat) : Layout.Statement (.trapEntry crew lane) := Layout.all _
theorem Layout.storeCheckFail (crew op : Nat) : Layout.Statement (.storeCheckFail crew op) := Layout.all _
theorem Layout.panrsvArrival (core port slot mode ncont nchunk : Nat) (key : BitVec 32) (durUs smod score : Nat) (join : Bool) : Layout.Statement (.panrsvArrival core port slot mode ncont nchunk key durUs smod score join) := Layout.all _
theorem Layout.slotZeroingDone (core slot : Nat) : Layout.Statement (.slotZeroingDone core slot) := Layout.all _
theorem Layout.panrsvReply (core idx st gen expiry : Nat) : Layout.Statement (.panrsvReply core idx st gen expiry) := Layout.all _
theorem Layout.panputArrival (core port slot gen mode off n : Nat) (data : List (BitVec 8)) : Layout.Statement (.panputArrival core port slot gen mode off n data) := Layout.all _
theorem Layout.panputAck (core idx cause : Nat) : Layout.Statement (.panputAck core idx cause) := Layout.all _
theorem Layout.slotExpiry (core slot : Nat) : Layout.Statement (.slotExpiry core slot) := Layout.all _
theorem Layout.panResponseTimeout (core idx : Nat) : Layout.Statement (.panResponseTimeout core idx) := Layout.all _
theorem Layout.portDown (port : Nat) : Layout.Statement (.portDown port) := Layout.all _
theorem Layout.portRetrain (port : Nat) : Layout.Statement (.portRetrain port) := Layout.all _
theorem Layout.portRetrainComplete (port : Nat) (ok : Bool) : Layout.Statement (.portRetrainComplete port ok) := Layout.all _
theorem Layout.flitCrcFail (port : Nat) : Layout.Statement (.flitCrcFail port) := Layout.all _
theorem Layout.celoreStop (port vc : Nat) : Layout.Statement (.celoreStop port vc) := Layout.all _
theorem Layout.celoreGo (port vc : Nat) : Layout.Statement (.celoreGo port vc) := Layout.all _
theorem Layout.portTraining (port pmod pport roundTrip : Nat) : Layout.Statement (.portTraining port pmod pport roundTrip) := Layout.all _
theorem Layout.peerTableWrite (port : Nat) (value : BitVec 64) : Layout.Statement (.peerTableWrite port value) := Layout.all _
theorem Layout.kernelLoad (die asid record : Nat) : Layout.Statement (.kernelLoad die asid record) := Layout.all _
theorem Layout.blockStart (core slot : Nat) : Layout.Statement (.blockStart core slot) := Layout.all _
theorem Layout.dcbWrite (idx : Nat) (value : BitVec 128) : Layout.Statement (.dcbWrite idx value) := Layout.all _
theorem Layout.signatureCount (crew idx : Nat) : Layout.Statement (.signatureCount crew idx) := Layout.all _
theorem Layout.matrixOpStart (core quad : Nat) : Layout.Statement (.matrixOpStart core quad) := Layout.all _
theorem Layout.matrixOpComplete (core quad : Nat) : Layout.Statement (.matrixOpComplete core quad) := Layout.all _
theorem Layout.windrowDeadlineFire (core entry : Nat) : Layout.Statement (.windrowDeadlineFire core entry) := Layout.all _
theorem Layout.windrowBArrived (core entry : Nat) : Layout.Statement (.windrowBArrived core entry) := Layout.all _
theorem Layout.windrowFireComplete (core entry : Nat) : Layout.Statement (.windrowFireComplete core entry) := Layout.all _
theorem Layout.slewLimiterStep (cluster : Nat) : Layout.Statement (.slewLimiterStep cluster) := Layout.all _
theorem Layout.controlIntervalBoundary  : Layout.Statement (.controlIntervalBoundary) := Layout.all _
theorem Layout.railReachedPoint (cluster : Nat) : Layout.Statement (.railReachedPoint cluster) := Layout.all _
theorem Layout.railFault (sram : Bool) (unit : Nat) : Layout.Statement (.railFault sram unit) := Layout.all _
theorem Layout.budgetWindowBoundary  : Layout.Statement (.budgetWindowBoundary) := Layout.all _
theorem Layout.telemetrySample  : Layout.Statement (.telemetrySample) := Layout.all _
theorem Layout.eventWindowEnd (unit : Nat) : Layout.Statement (.eventWindowEnd unit) := Layout.all _
theorem Layout.quoteRequest (crew lane : Nat) : Layout.Statement (.quoteRequest crew lane) := Layout.all _
theorem Layout.acceptRequest (crew lane : Nat) : Layout.Statement (.acceptRequest crew lane) := Layout.all _
theorem Layout.acceptTakesEffect  : Layout.Statement (.acceptTakesEffect) := Layout.all _
theorem Layout.declineRequest (crew lane : Nat) : Layout.Statement (.declineRequest crew lane) := Layout.all _
theorem Layout.launchStart (launch : Nat) : Layout.Statement (.launchStart launch) := Layout.all _
theorem Layout.launchReplay (launch cause : Nat) : Layout.Statement (.launchReplay launch cause) := Layout.all _
theorem Layout.breachAllowanceExpiry (launch : Nat) : Layout.Statement (.breachAllowanceExpiry launch) := Layout.all _
theorem Layout.handlerTimeout (crew : Nat) : Layout.Statement (.handlerTimeout crew) := Layout.all _
theorem Layout.queueDescriptorWrite (queue : Nat) (value : BitVec 512) : Layout.Statement (.queueDescriptorWrite queue value) := Layout.all _
theorem Layout.queueProgramLoad (queue : Nat) : Layout.Statement (.queueProgramLoad queue) := Layout.all _
theorem Layout.notify (port fn fq : Nat) (value : BitVec 32) : Layout.Statement (.notify port fn fq value) := Layout.all _
theorem Layout.cqack (port fn fq : Nat) (value : BitVec 32) : Layout.Statement (.cqack port fn fq value) := Layout.all _
theorem Layout.packetStart (die core : Nat) : Layout.Statement (.packetStart die core) := Layout.all _
theorem Layout.packetBudgetExhausted (crew : Nat) : Layout.Statement (.packetBudgetExhausted crew) := Layout.all _
theorem Layout.preemptRequest (tenant part : Nat) : Layout.Statement (.preemptRequest tenant part) := Layout.all _
theorem Layout.preemptWithdraw (tenant part : Nat) : Layout.Statement (.preemptWithdraw tenant part) := Layout.all _
theorem Layout.graceTimerExpiry (tenant part : Nat) : Layout.Statement (.graceTimerExpiry tenant part) := Layout.all _
theorem Layout.drainTimerExpiry (core slot : Nat) : Layout.Statement (.drainTimerExpiry core slot) := Layout.all _
theorem Layout.killTimerExpiry (tenant part : Nat) : Layout.Statement (.killTimerExpiry tenant part) := Layout.all _
theorem Layout.blockStopComplete (core slot : Nat) : Layout.Statement (.blockStopComplete core slot) := Layout.all _
theorem Layout.shadowExchangeDone (core : Nat) : Layout.Statement (.shadowExchangeDone core) := Layout.all _
theorem Layout.tenantResume (tenant part : Nat) : Layout.Statement (.tenantResume tenant part) := Layout.all _
theorem Layout.ownerByteWrite (array unit idx : Nat) (value : BitVec 8) : Layout.Statement (.ownerByteWrite array unit idx value) := Layout.all _
theorem Layout.frozenContextKill (launch : Nat) : Layout.Statement (.frozenContextKill launch) := Layout.all _
theorem Layout.modulePowerControlWrite (value : BitVec 64) : Layout.Statement (.modulePowerControlWrite value) := Layout.all _
theorem Layout.rampTableWrite (cluster : Nat) (value : BitVec 96) : Layout.Statement (.rampTableWrite cluster value) := Layout.all _
theorem Layout.managementWrite (reg a b : Nat) (value : BitVec 64) : Layout.Statement (.managementWrite reg a b value) := Layout.all _
theorem Layout.ballastEnd (core quad : Nat) : Layout.Statement (.ballastEnd core quad) := Layout.all _
theorem Layout.sleepWake (crew lane : Nat) : Layout.Statement (.sleepWake crew lane) := Layout.all _
theorem Layout.hostPortTraining (port : Nat) (cxlOffered : Bool) (lanes : Nat) : Layout.Statement (.hostPortTraining port cxlOffered lanes) := Layout.all _
theorem Layout.functionLevelReset (port fn : Nat) : Layout.Statement (.functionLevelReset port fn) := Layout.all _
theorem Layout.queueReset (port fn : Nat) (value : BitVec 32) : Layout.Statement (.queueReset port fn value) := Layout.all _
theorem Layout.queueResetDone (port fn : Nat) : Layout.Statement (.queueResetDone port fn) := Layout.all _
theorem Layout.msixVectorUnmask (port fn vec : Nat) : Layout.Statement (.msixVectorUnmask port fn vec) := Layout.all _
theorem Layout.getVersion (port : Nat) : Layout.Statement (.getVersion port) := Layout.all _
theorem Layout.getCapabilities (port : Nat) : Layout.Statement (.getCapabilities port) := Layout.all _
theorem Layout.negotiateAlgorithms (port asym hash : Nat) : Layout.Statement (.negotiateAlgorithms port asym hash) := Layout.all _
theorem Layout.getDigests (port : Nat) : Layout.Statement (.getDigests port) := Layout.all _
theorem Layout.getCertificate (port : Nat) : Layout.Statement (.getCertificate port) := Layout.all _
theorem Layout.challenge (port : Nat) (nonce : BitVec 256) : Layout.Statement (.challenge port nonce) := Layout.all _
theorem Layout.getMeasurements (port index : Nat) : Layout.Statement (.getMeasurements port index) := Layout.all _
theorem Layout.coldReset  : Layout.Statement (.coldReset) := Layout.all _
theorem Layout.warmReset  : Layout.Statement (.warmReset) := Layout.all _
theorem Layout.powerDown  : Layout.Statement (.powerDown) := Layout.all _
theorem Layout.storeChecksPass (crew op : Nat) : Layout.Statement (.storeChecksPass crew op) := Layout.all _
theorem Layout.invcmdRefused (port fn kind : Nat) : Layout.Statement (.invcmdRefused port fn kind) := Layout.all _
theorem Layout.ptpTimeSync (sec ns sync : Nat) : Layout.Statement (.ptpTimeSync sec ns sync) := Layout.all _

end Sys2Proof.Laws
end

