-- ==== Sys2Proof/Laws/State.lean ====
section
/-! SUPPORT. Laws/State.lean: what each update of the state leaves as it was, field by field, and what it sets. -/

namespace Sys2Proof.Machine.State

@[simp] theorem setCrew_ctr (s : State) (k : Nat) (c : Crew) : (s.setCrew k c).ctr = s.ctr := rfl
@[simp] theorem setCrew_rep (s : State) (k : Nat) (c : Crew) : (s.setCrew k c).rep = s.rep := rfl
@[simp] theorem setCrew_rr (s : State) (k : Nat) (c : Crew) : (s.setCrew k c).rr = s.rr := rfl
@[simp] theorem setCrew_held (s : State) (k : Nat) (c : Crew) : (s.setCrew k c).held = s.held := rfl
@[simp] theorem setCrew_turn (s : State) (k : Nat) (c : Crew) : (s.setCrew k c).turn = s.turn := rfl
@[simp] theorem setCrew_gathers (s : State) (k : Nat) (c : Crew) : (s.setCrew k c).ex.gathers = s.ex.gathers := rfl
@[simp] theorem setBlock_now (s : State) (k : Nat) (v : Block) : (s.setBlock k v).now = s.now := rfl
@[simp] theorem setBlock_ctr (s : State) (k : Nat) (v : Block) : (s.setBlock k v).ctr = s.ctr := rfl
@[simp] theorem setBlock_events (s : State) (k : Nat) (v : Block) : (s.setBlock k v).events = s.events := rfl
@[simp] theorem setBlock_cur (s : State) (k : Nat) (v : Block) : (s.setBlock k v).cur = s.cur := rfl
@[simp] theorem setBlock_rep (s : State) (k : Nat) (v : Block) : (s.setBlock k v).rep = s.rep := rfl
@[simp] theorem setBlock_rr (s : State) (k : Nat) (v : Block) : (s.setBlock k v).rr = s.rr := rfl
@[simp] theorem setBlock_held (s : State) (k : Nat) (v : Block) : (s.setBlock k v).held = s.held := rfl
@[simp] theorem setBlock_turn (s : State) (k : Nat) (v : Block) : (s.setBlock k v).turn = s.turn := rfl
@[simp] theorem setBlock_mem (s : State) (k : Nat) (v : Block) : (s.setBlock k v).mem = s.mem := rfl
@[simp] theorem setBlock_coh (s : State) (k : Nat) (v : Block) : (s.setBlock k v).coh = s.coh := rfl
@[simp] theorem setBlock_tr (s : State) (k : Nat) (v : Block) : (s.setBlock k v).tr = s.tr := rfl
@[simp] theorem setBlock_fr (s : State) (k : Nat) (v : Block) : (s.setBlock k v).fr = s.fr := rfl
@[simp] theorem setBlock_pl (s : State) (k : Nat) (v : Block) : (s.setBlock k v).pl = s.pl := rfl
@[simp] theorem setBlock_ex_crews (s : State) (k : Nat) (v : Block) : (s.setBlock k v).ex.crews = s.ex.crews := rfl
@[simp] theorem setBlock_ex_quads (s : State) (k : Nat) (v : Block) : (s.setBlock k v).ex.quads = s.ex.quads := rfl
@[simp] theorem setBlock_ex_cores (s : State) (k : Nat) (v : Block) : (s.setBlock k v).ex.cores = s.ex.cores := rfl
@[simp] theorem setBlock_ex_gathers (s : State) (k : Nat) (v : Block) : (s.setBlock k v).ex.gathers = s.ex.gathers := rfl
@[simp] theorem block_setBlock_self (s : State) (k : Nat) (v : Block) : (s.setBlock k v).block k = v := SMap.get_put_self _ _ _ _
theorem block_setBlock_ne (s : State) (k : Nat) (v : Block) (j : Nat) (h : j ≠ k) : (s.setBlock k v).block j = s.block j := SMap.get_put_ne _ _ _ _ _ h
@[simp] theorem setQuad_now (s : State) (k : Nat) (v : Quad) : (s.setQuad k v).now = s.now := rfl
@[simp] theorem setQuad_ctr (s : State) (k : Nat) (v : Quad) : (s.setQuad k v).ctr = s.ctr := rfl
@[simp] theorem setQuad_events (s : State) (k : Nat) (v : Quad) : (s.setQuad k v).events = s.events := rfl
@[simp] theorem setQuad_cur (s : State) (k : Nat) (v : Quad) : (s.setQuad k v).cur = s.cur := rfl
@[simp] theorem setQuad_rep (s : State) (k : Nat) (v : Quad) : (s.setQuad k v).rep = s.rep := rfl
@[simp] theorem setQuad_rr (s : State) (k : Nat) (v : Quad) : (s.setQuad k v).rr = s.rr := rfl
@[simp] theorem setQuad_held (s : State) (k : Nat) (v : Quad) : (s.setQuad k v).held = s.held := rfl
@[simp] theorem setQuad_turn (s : State) (k : Nat) (v : Quad) : (s.setQuad k v).turn = s.turn := rfl
@[simp] theorem setQuad_mem (s : State) (k : Nat) (v : Quad) : (s.setQuad k v).mem = s.mem := rfl
@[simp] theorem setQuad_coh (s : State) (k : Nat) (v : Quad) : (s.setQuad k v).coh = s.coh := rfl
@[simp] theorem setQuad_tr (s : State) (k : Nat) (v : Quad) : (s.setQuad k v).tr = s.tr := rfl
@[simp] theorem setQuad_fr (s : State) (k : Nat) (v : Quad) : (s.setQuad k v).fr = s.fr := rfl
@[simp] theorem setQuad_pl (s : State) (k : Nat) (v : Quad) : (s.setQuad k v).pl = s.pl := rfl
@[simp] theorem setQuad_ex_crews (s : State) (k : Nat) (v : Quad) : (s.setQuad k v).ex.crews = s.ex.crews := rfl
@[simp] theorem setQuad_ex_blocks (s : State) (k : Nat) (v : Quad) : (s.setQuad k v).ex.blocks = s.ex.blocks := rfl
@[simp] theorem setQuad_ex_cores (s : State) (k : Nat) (v : Quad) : (s.setQuad k v).ex.cores = s.ex.cores := rfl
@[simp] theorem setQuad_ex_gathers (s : State) (k : Nat) (v : Quad) : (s.setQuad k v).ex.gathers = s.ex.gathers := rfl
@[simp] theorem quad_setQuad_self (s : State) (k : Nat) (v : Quad) : (s.setQuad k v).quad k = v := SMap.get_put_self _ _ _ _
theorem quad_setQuad_ne (s : State) (k : Nat) (v : Quad) (j : Nat) (h : j ≠ k) : (s.setQuad k v).quad j = s.quad j := SMap.get_put_ne _ _ _ _ _ h
@[simp] theorem setCore_now (s : State) (k : Nat) (v : Core) : (s.setCore k v).now = s.now := rfl
@[simp] theorem setCore_ctr (s : State) (k : Nat) (v : Core) : (s.setCore k v).ctr = s.ctr := rfl
@[simp] theorem setCore_events (s : State) (k : Nat) (v : Core) : (s.setCore k v).events = s.events := rfl
@[simp] theorem setCore_cur (s : State) (k : Nat) (v : Core) : (s.setCore k v).cur = s.cur := rfl
@[simp] theorem setCore_rep (s : State) (k : Nat) (v : Core) : (s.setCore k v).rep = s.rep := rfl
@[simp] theorem setCore_rr (s : State) (k : Nat) (v : Core) : (s.setCore k v).rr = s.rr := rfl
@[simp] theorem setCore_held (s : State) (k : Nat) (v : Core) : (s.setCore k v).held = s.held := rfl
@[simp] theorem setCore_turn (s : State) (k : Nat) (v : Core) : (s.setCore k v).turn = s.turn := rfl
@[simp] theorem setCore_mem (s : State) (k : Nat) (v : Core) : (s.setCore k v).mem = s.mem := rfl
@[simp] theorem setCore_coh (s : State) (k : Nat) (v : Core) : (s.setCore k v).coh = s.coh := rfl
@[simp] theorem setCore_tr (s : State) (k : Nat) (v : Core) : (s.setCore k v).tr = s.tr := rfl
@[simp] theorem setCore_fr (s : State) (k : Nat) (v : Core) : (s.setCore k v).fr = s.fr := rfl
@[simp] theorem setCore_pl (s : State) (k : Nat) (v : Core) : (s.setCore k v).pl = s.pl := rfl
@[simp] theorem setCore_ex_crews (s : State) (k : Nat) (v : Core) : (s.setCore k v).ex.crews = s.ex.crews := rfl
@[simp] theorem setCore_ex_blocks (s : State) (k : Nat) (v : Core) : (s.setCore k v).ex.blocks = s.ex.blocks := rfl
@[simp] theorem setCore_ex_quads (s : State) (k : Nat) (v : Core) : (s.setCore k v).ex.quads = s.ex.quads := rfl
@[simp] theorem setCore_ex_gathers (s : State) (k : Nat) (v : Core) : (s.setCore k v).ex.gathers = s.ex.gathers := rfl
@[simp] theorem core_setCore_self (s : State) (k : Nat) (v : Core) : (s.setCore k v).core k = v := SMap.get_put_self _ _ _ _
theorem core_setCore_ne (s : State) (k : Nat) (v : Core) (j : Nat) (h : j ≠ k) : (s.setCore k v).core j = s.core j := SMap.get_put_ne _ _ _ _ _ h
@[simp] theorem setGather_now (s : State) (k : Nat) (v : Gather) : (s.setGather k v).now = s.now := rfl
@[simp] theorem setGather_ctr (s : State) (k : Nat) (v : Gather) : (s.setGather k v).ctr = s.ctr := rfl
@[simp] theorem setGather_events (s : State) (k : Nat) (v : Gather) : (s.setGather k v).events = s.events := rfl
@[simp] theorem setGather_cur (s : State) (k : Nat) (v : Gather) : (s.setGather k v).cur = s.cur := rfl
@[simp] theorem setGather_rep (s : State) (k : Nat) (v : Gather) : (s.setGather k v).rep = s.rep := rfl
@[simp] theorem setGather_rr (s : State) (k : Nat) (v : Gather) : (s.setGather k v).rr = s.rr := rfl
@[simp] theorem setGather_held (s : State) (k : Nat) (v : Gather) : (s.setGather k v).held = s.held := rfl
@[simp] theorem setGather_turn (s : State) (k : Nat) (v : Gather) : (s.setGather k v).turn = s.turn := rfl
@[simp] theorem setGather_mem (s : State) (k : Nat) (v : Gather) : (s.setGather k v).mem = s.mem := rfl
@[simp] theorem setGather_coh (s : State) (k : Nat) (v : Gather) : (s.setGather k v).coh = s.coh := rfl
@[simp] theorem setGather_tr (s : State) (k : Nat) (v : Gather) : (s.setGather k v).tr = s.tr := rfl
@[simp] theorem setGather_fr (s : State) (k : Nat) (v : Gather) : (s.setGather k v).fr = s.fr := rfl
@[simp] theorem setGather_pl (s : State) (k : Nat) (v : Gather) : (s.setGather k v).pl = s.pl := rfl
@[simp] theorem setGather_ex_crews (s : State) (k : Nat) (v : Gather) : (s.setGather k v).ex.crews = s.ex.crews := rfl
@[simp] theorem setGather_ex_blocks (s : State) (k : Nat) (v : Gather) : (s.setGather k v).ex.blocks = s.ex.blocks := rfl
@[simp] theorem setGather_ex_quads (s : State) (k : Nat) (v : Gather) : (s.setGather k v).ex.quads = s.ex.quads := rfl
@[simp] theorem setGather_ex_cores (s : State) (k : Nat) (v : Gather) : (s.setGather k v).ex.cores = s.ex.cores := rfl
@[simp] theorem gather_setGather_self (s : State) (k : Nat) (v : Gather) : (s.setGather k v).gather k = v := SMap.get_put_self _ _ _ _
theorem gather_setGather_ne (s : State) (k : Nat) (v : Gather) (j : Nat) (h : j ≠ k) : (s.setGather k v).gather j = s.gather j := SMap.get_put_ne _ _ _ _ _ h
@[simp] theorem setLaunch_now (s : State) (k : Nat) (v : Launch) : (s.setLaunch k v).now = s.now := rfl
@[simp] theorem setLaunch_ctr (s : State) (k : Nat) (v : Launch) : (s.setLaunch k v).ctr = s.ctr := rfl
@[simp] theorem setLaunch_events (s : State) (k : Nat) (v : Launch) : (s.setLaunch k v).events = s.events := rfl
@[simp] theorem setLaunch_cur (s : State) (k : Nat) (v : Launch) : (s.setLaunch k v).cur = s.cur := rfl
@[simp] theorem setLaunch_rep (s : State) (k : Nat) (v : Launch) : (s.setLaunch k v).rep = s.rep := rfl
@[simp] theorem setLaunch_rr (s : State) (k : Nat) (v : Launch) : (s.setLaunch k v).rr = s.rr := rfl
@[simp] theorem setLaunch_held (s : State) (k : Nat) (v : Launch) : (s.setLaunch k v).held = s.held := rfl
@[simp] theorem setLaunch_turn (s : State) (k : Nat) (v : Launch) : (s.setLaunch k v).turn = s.turn := rfl
@[simp] theorem setLaunch_mem (s : State) (k : Nat) (v : Launch) : (s.setLaunch k v).mem = s.mem := rfl
@[simp] theorem setLaunch_coh (s : State) (k : Nat) (v : Launch) : (s.setLaunch k v).coh = s.coh := rfl
@[simp] theorem setLaunch_tr (s : State) (k : Nat) (v : Launch) : (s.setLaunch k v).tr = s.tr := rfl
@[simp] theorem setLaunch_ex (s : State) (k : Nat) (v : Launch) : (s.setLaunch k v).ex = s.ex := rfl
@[simp] theorem setLaunch_pl (s : State) (k : Nat) (v : Launch) : (s.setLaunch k v).pl = s.pl := rfl
@[simp] theorem setLaunch_fr_quotes (s : State) (k : Nat) (v : Launch) : (s.setLaunch k v).fr.quotes = s.fr.quotes := rfl
@[simp] theorem setLaunch_fr_edges (s : State) (k : Nat) (v : Launch) : (s.setLaunch k v).fr.edges = s.fr.edges := rfl
@[simp] theorem setLaunch_fr_reqs (s : State) (k : Nat) (v : Launch) : (s.setLaunch k v).fr.reqs = s.fr.reqs := rfl
@[simp] theorem setLaunch_fr_order (s : State) (k : Nat) (v : Launch) : (s.setLaunch k v).fr.order = s.fr.order := rfl
@[simp] theorem setLaunch_fr_queues (s : State) (k : Nat) (v : Launch) : (s.setLaunch k v).fr.queues = s.fr.queues := rfl
@[simp] theorem setLaunch_fr_tenants (s : State) (k : Nat) (v : Launch) : (s.setLaunch k v).fr.tenants = s.fr.tenants := rfl
@[simp] theorem setLaunch_fr_lastT (s : State) (k : Nat) (v : Launch) : (s.setLaunch k v).fr.lastT = s.fr.lastT := rfl
@[simp] theorem setLaunch_fr_dcbs (s : State) (k : Nat) (v : Launch) : (s.setLaunch k v).fr.dcbs = s.fr.dcbs := rfl
@[simp] theorem setLaunch_fr_preempts (s : State) (k : Nat) (v : Launch) : (s.setLaunch k v).fr.preempts = s.fr.preempts := rfl
@[simp] theorem setLaunch_fr_saved (s : State) (k : Nat) (v : Launch) : (s.setLaunch k v).fr.saved = s.fr.saved := rfl
@[simp] theorem setLaunch_fr_nextQid (s : State) (k : Nat) (v : Launch) : (s.setLaunch k v).fr.nextQid = s.fr.nextQid := rfl
@[simp] theorem setLaunch_fr_rampEnd (s : State) (k : Nat) (v : Launch) : (s.setLaunch k v).fr.rampEnd = s.fr.rampEnd := rfl
@[simp] theorem launch_setLaunch_self (s : State) (k : Nat) (v : Launch) : (s.setLaunch k v).launch k = v := SMap.get_put_self _ _ _ _
theorem launch_setLaunch_ne (s : State) (k : Nat) (v : Launch) (j : Nat) (h : j ≠ k) : (s.setLaunch k v).launch j = s.launch j := SMap.get_put_ne _ _ _ _ _ h
@[simp] theorem setQuote_now (s : State) (k : Nat) (v : Quote) : (s.setQuote k v).now = s.now := rfl
@[simp] theorem setQuote_ctr (s : State) (k : Nat) (v : Quote) : (s.setQuote k v).ctr = s.ctr := rfl
@[simp] theorem setQuote_events (s : State) (k : Nat) (v : Quote) : (s.setQuote k v).events = s.events := rfl
@[simp] theorem setQuote_cur (s : State) (k : Nat) (v : Quote) : (s.setQuote k v).cur = s.cur := rfl
@[simp] theorem setQuote_rep (s : State) (k : Nat) (v : Quote) : (s.setQuote k v).rep = s.rep := rfl
@[simp] theorem setQuote_rr (s : State) (k : Nat) (v : Quote) : (s.setQuote k v).rr = s.rr := rfl
@[simp] theorem setQuote_held (s : State) (k : Nat) (v : Quote) : (s.setQuote k v).held = s.held := rfl
@[simp] theorem setQuote_turn (s : State) (k : Nat) (v : Quote) : (s.setQuote k v).turn = s.turn := rfl
@[simp] theorem setQuote_mem (s : State) (k : Nat) (v : Quote) : (s.setQuote k v).mem = s.mem := rfl
@[simp] theorem setQuote_coh (s : State) (k : Nat) (v : Quote) : (s.setQuote k v).coh = s.coh := rfl
@[simp] theorem setQuote_tr (s : State) (k : Nat) (v : Quote) : (s.setQuote k v).tr = s.tr := rfl
@[simp] theorem setQuote_ex (s : State) (k : Nat) (v : Quote) : (s.setQuote k v).ex = s.ex := rfl
@[simp] theorem setQuote_pl (s : State) (k : Nat) (v : Quote) : (s.setQuote k v).pl = s.pl := rfl
@[simp] theorem setQuote_fr_launches (s : State) (k : Nat) (v : Quote) : (s.setQuote k v).fr.launches = s.fr.launches := rfl
@[simp] theorem setQuote_fr_edges (s : State) (k : Nat) (v : Quote) : (s.setQuote k v).fr.edges = s.fr.edges := rfl
@[simp] theorem setQuote_fr_reqs (s : State) (k : Nat) (v : Quote) : (s.setQuote k v).fr.reqs = s.fr.reqs := rfl
@[simp] theorem setQuote_fr_order (s : State) (k : Nat) (v : Quote) : (s.setQuote k v).fr.order = s.fr.order := rfl
@[simp] theorem setQuote_fr_queues (s : State) (k : Nat) (v : Quote) : (s.setQuote k v).fr.queues = s.fr.queues := rfl
@[simp] theorem setQuote_fr_tenants (s : State) (k : Nat) (v : Quote) : (s.setQuote k v).fr.tenants = s.fr.tenants := rfl
@[simp] theorem setQuote_fr_lastT (s : State) (k : Nat) (v : Quote) : (s.setQuote k v).fr.lastT = s.fr.lastT := rfl
@[simp] theorem setQuote_fr_dcbs (s : State) (k : Nat) (v : Quote) : (s.setQuote k v).fr.dcbs = s.fr.dcbs := rfl
@[simp] theorem setQuote_fr_preempts (s : State) (k : Nat) (v : Quote) : (s.setQuote k v).fr.preempts = s.fr.preempts := rfl
@[simp] theorem setQuote_fr_saved (s : State) (k : Nat) (v : Quote) : (s.setQuote k v).fr.saved = s.fr.saved := rfl
@[simp] theorem setQuote_fr_nextQid (s : State) (k : Nat) (v : Quote) : (s.setQuote k v).fr.nextQid = s.fr.nextQid := rfl
@[simp] theorem setQuote_fr_rampEnd (s : State) (k : Nat) (v : Quote) : (s.setQuote k v).fr.rampEnd = s.fr.rampEnd := rfl
@[simp] theorem quote_setQuote_self (s : State) (k : Nat) (v : Quote) : (s.setQuote k v).quote k = v := SMap.get_put_self _ _ _ _
theorem quote_setQuote_ne (s : State) (k : Nat) (v : Quote) (j : Nat) (h : j ≠ k) : (s.setQuote k v).quote j = s.quote j := SMap.get_put_ne _ _ _ _ _ h
@[simp] theorem setQueue_now (s : State) (k : Nat) (v : Queue) : (s.setQueue k v).now = s.now := rfl
@[simp] theorem setQueue_ctr (s : State) (k : Nat) (v : Queue) : (s.setQueue k v).ctr = s.ctr := rfl
@[simp] theorem setQueue_events (s : State) (k : Nat) (v : Queue) : (s.setQueue k v).events = s.events := rfl
@[simp] theorem setQueue_cur (s : State) (k : Nat) (v : Queue) : (s.setQueue k v).cur = s.cur := rfl
@[simp] theorem setQueue_rep (s : State) (k : Nat) (v : Queue) : (s.setQueue k v).rep = s.rep := rfl
@[simp] theorem setQueue_rr (s : State) (k : Nat) (v : Queue) : (s.setQueue k v).rr = s.rr := rfl
@[simp] theorem setQueue_held (s : State) (k : Nat) (v : Queue) : (s.setQueue k v).held = s.held := rfl
@[simp] theorem setQueue_turn (s : State) (k : Nat) (v : Queue) : (s.setQueue k v).turn = s.turn := rfl
@[simp] theorem setQueue_mem (s : State) (k : Nat) (v : Queue) : (s.setQueue k v).mem = s.mem := rfl
@[simp] theorem setQueue_coh (s : State) (k : Nat) (v : Queue) : (s.setQueue k v).coh = s.coh := rfl
@[simp] theorem setQueue_tr (s : State) (k : Nat) (v : Queue) : (s.setQueue k v).tr = s.tr := rfl
@[simp] theorem setQueue_ex (s : State) (k : Nat) (v : Queue) : (s.setQueue k v).ex = s.ex := rfl
@[simp] theorem setQueue_pl (s : State) (k : Nat) (v : Queue) : (s.setQueue k v).pl = s.pl := rfl
@[simp] theorem setQueue_fr_quotes (s : State) (k : Nat) (v : Queue) : (s.setQueue k v).fr.quotes = s.fr.quotes := rfl
@[simp] theorem setQueue_fr_launches (s : State) (k : Nat) (v : Queue) : (s.setQueue k v).fr.launches = s.fr.launches := rfl
@[simp] theorem setQueue_fr_edges (s : State) (k : Nat) (v : Queue) : (s.setQueue k v).fr.edges = s.fr.edges := rfl
@[simp] theorem setQueue_fr_reqs (s : State) (k : Nat) (v : Queue) : (s.setQueue k v).fr.reqs = s.fr.reqs := rfl
@[simp] theorem setQueue_fr_order (s : State) (k : Nat) (v : Queue) : (s.setQueue k v).fr.order = s.fr.order := rfl
@[simp] theorem setQueue_fr_tenants (s : State) (k : Nat) (v : Queue) : (s.setQueue k v).fr.tenants = s.fr.tenants := rfl
@[simp] theorem setQueue_fr_lastT (s : State) (k : Nat) (v : Queue) : (s.setQueue k v).fr.lastT = s.fr.lastT := rfl
@[simp] theorem setQueue_fr_dcbs (s : State) (k : Nat) (v : Queue) : (s.setQueue k v).fr.dcbs = s.fr.dcbs := rfl
@[simp] theorem setQueue_fr_preempts (s : State) (k : Nat) (v : Queue) : (s.setQueue k v).fr.preempts = s.fr.preempts := rfl
@[simp] theorem setQueue_fr_saved (s : State) (k : Nat) (v : Queue) : (s.setQueue k v).fr.saved = s.fr.saved := rfl
@[simp] theorem setQueue_fr_nextQid (s : State) (k : Nat) (v : Queue) : (s.setQueue k v).fr.nextQid = s.fr.nextQid := rfl
@[simp] theorem setQueue_fr_rampEnd (s : State) (k : Nat) (v : Queue) : (s.setQueue k v).fr.rampEnd = s.fr.rampEnd := rfl
@[simp] theorem queue_setQueue_self (s : State) (k : Nat) (v : Queue) : (s.setQueue k v).queue k = v := SMap.get_put_self _ _ _ _
theorem queue_setQueue_ne (s : State) (k : Nat) (v : Queue) (j : Nat) (h : j ≠ k) : (s.setQueue k v).queue j = s.queue j := SMap.get_put_ne _ _ _ _ _ h
@[simp] theorem setTenant_now (s : State) (k : Nat) (v : Tenant) : (s.setTenant k v).now = s.now := rfl
@[simp] theorem setTenant_ctr (s : State) (k : Nat) (v : Tenant) : (s.setTenant k v).ctr = s.ctr := rfl
@[simp] theorem setTenant_events (s : State) (k : Nat) (v : Tenant) : (s.setTenant k v).events = s.events := rfl
@[simp] theorem setTenant_cur (s : State) (k : Nat) (v : Tenant) : (s.setTenant k v).cur = s.cur := rfl
@[simp] theorem setTenant_rep (s : State) (k : Nat) (v : Tenant) : (s.setTenant k v).rep = s.rep := rfl
@[simp] theorem setTenant_rr (s : State) (k : Nat) (v : Tenant) : (s.setTenant k v).rr = s.rr := rfl
@[simp] theorem setTenant_held (s : State) (k : Nat) (v : Tenant) : (s.setTenant k v).held = s.held := rfl
@[simp] theorem setTenant_turn (s : State) (k : Nat) (v : Tenant) : (s.setTenant k v).turn = s.turn := rfl
@[simp] theorem setTenant_mem (s : State) (k : Nat) (v : Tenant) : (s.setTenant k v).mem = s.mem := rfl
@[simp] theorem setTenant_coh (s : State) (k : Nat) (v : Tenant) : (s.setTenant k v).coh = s.coh := rfl
@[simp] theorem setTenant_tr (s : State) (k : Nat) (v : Tenant) : (s.setTenant k v).tr = s.tr := rfl
@[simp] theorem setTenant_ex (s : State) (k : Nat) (v : Tenant) : (s.setTenant k v).ex = s.ex := rfl
@[simp] theorem setTenant_pl (s : State) (k : Nat) (v : Tenant) : (s.setTenant k v).pl = s.pl := rfl
@[simp] theorem setTenant_fr_quotes (s : State) (k : Nat) (v : Tenant) : (s.setTenant k v).fr.quotes = s.fr.quotes := rfl
@[simp] theorem setTenant_fr_launches (s : State) (k : Nat) (v : Tenant) : (s.setTenant k v).fr.launches = s.fr.launches := rfl
@[simp] theorem setTenant_fr_edges (s : State) (k : Nat) (v : Tenant) : (s.setTenant k v).fr.edges = s.fr.edges := rfl
@[simp] theorem setTenant_fr_reqs (s : State) (k : Nat) (v : Tenant) : (s.setTenant k v).fr.reqs = s.fr.reqs := rfl
@[simp] theorem setTenant_fr_order (s : State) (k : Nat) (v : Tenant) : (s.setTenant k v).fr.order = s.fr.order := rfl
@[simp] theorem setTenant_fr_queues (s : State) (k : Nat) (v : Tenant) : (s.setTenant k v).fr.queues = s.fr.queues := rfl
@[simp] theorem setTenant_fr_lastT (s : State) (k : Nat) (v : Tenant) : (s.setTenant k v).fr.lastT = s.fr.lastT := rfl
@[simp] theorem setTenant_fr_dcbs (s : State) (k : Nat) (v : Tenant) : (s.setTenant k v).fr.dcbs = s.fr.dcbs := rfl
@[simp] theorem setTenant_fr_preempts (s : State) (k : Nat) (v : Tenant) : (s.setTenant k v).fr.preempts = s.fr.preempts := rfl
@[simp] theorem setTenant_fr_saved (s : State) (k : Nat) (v : Tenant) : (s.setTenant k v).fr.saved = s.fr.saved := rfl
@[simp] theorem setTenant_fr_nextQid (s : State) (k : Nat) (v : Tenant) : (s.setTenant k v).fr.nextQid = s.fr.nextQid := rfl
@[simp] theorem setTenant_fr_rampEnd (s : State) (k : Nat) (v : Tenant) : (s.setTenant k v).fr.rampEnd = s.fr.rampEnd := rfl
@[simp] theorem tenant_setTenant_self (s : State) (k : Nat) (v : Tenant) : (s.setTenant k v).tenant k = v := SMap.get_put_self _ _ _ _
theorem tenant_setTenant_ne (s : State) (k : Nat) (v : Tenant) (j : Nat) (h : j ≠ k) : (s.setTenant k v).tenant j = s.tenant j := SMap.get_put_ne _ _ _ _ _ h
@[simp] theorem setDcb_now (s : State) (k : Nat) (v : Nat) : (s.setDcb k v).now = s.now := rfl
@[simp] theorem setDcb_ctr (s : State) (k : Nat) (v : Nat) : (s.setDcb k v).ctr = s.ctr := rfl
@[simp] theorem setDcb_events (s : State) (k : Nat) (v : Nat) : (s.setDcb k v).events = s.events := rfl
@[simp] theorem setDcb_cur (s : State) (k : Nat) (v : Nat) : (s.setDcb k v).cur = s.cur := rfl
@[simp] theorem setDcb_rep (s : State) (k : Nat) (v : Nat) : (s.setDcb k v).rep = s.rep := rfl
@[simp] theorem setDcb_rr (s : State) (k : Nat) (v : Nat) : (s.setDcb k v).rr = s.rr := rfl
@[simp] theorem setDcb_held (s : State) (k : Nat) (v : Nat) : (s.setDcb k v).held = s.held := rfl
@[simp] theorem setDcb_turn (s : State) (k : Nat) (v : Nat) : (s.setDcb k v).turn = s.turn := rfl
@[simp] theorem setDcb_mem (s : State) (k : Nat) (v : Nat) : (s.setDcb k v).mem = s.mem := rfl
@[simp] theorem setDcb_coh (s : State) (k : Nat) (v : Nat) : (s.setDcb k v).coh = s.coh := rfl
@[simp] theorem setDcb_tr (s : State) (k : Nat) (v : Nat) : (s.setDcb k v).tr = s.tr := rfl
@[simp] theorem setDcb_ex (s : State) (k : Nat) (v : Nat) : (s.setDcb k v).ex = s.ex := rfl
@[simp] theorem setDcb_pl (s : State) (k : Nat) (v : Nat) : (s.setDcb k v).pl = s.pl := rfl
@[simp] theorem setDcb_fr_quotes (s : State) (k : Nat) (v : Nat) : (s.setDcb k v).fr.quotes = s.fr.quotes := rfl
@[simp] theorem setDcb_fr_launches (s : State) (k : Nat) (v : Nat) : (s.setDcb k v).fr.launches = s.fr.launches := rfl
@[simp] theorem setDcb_fr_edges (s : State) (k : Nat) (v : Nat) : (s.setDcb k v).fr.edges = s.fr.edges := rfl
@[simp] theorem setDcb_fr_reqs (s : State) (k : Nat) (v : Nat) : (s.setDcb k v).fr.reqs = s.fr.reqs := rfl
@[simp] theorem setDcb_fr_order (s : State) (k : Nat) (v : Nat) : (s.setDcb k v).fr.order = s.fr.order := rfl
@[simp] theorem setDcb_fr_queues (s : State) (k : Nat) (v : Nat) : (s.setDcb k v).fr.queues = s.fr.queues := rfl
@[simp] theorem setDcb_fr_tenants (s : State) (k : Nat) (v : Nat) : (s.setDcb k v).fr.tenants = s.fr.tenants := rfl
@[simp] theorem setDcb_fr_lastT (s : State) (k : Nat) (v : Nat) : (s.setDcb k v).fr.lastT = s.fr.lastT := rfl
@[simp] theorem setDcb_fr_preempts (s : State) (k : Nat) (v : Nat) : (s.setDcb k v).fr.preempts = s.fr.preempts := rfl
@[simp] theorem setDcb_fr_saved (s : State) (k : Nat) (v : Nat) : (s.setDcb k v).fr.saved = s.fr.saved := rfl
@[simp] theorem setDcb_fr_nextQid (s : State) (k : Nat) (v : Nat) : (s.setDcb k v).fr.nextQid = s.fr.nextQid := rfl
@[simp] theorem setDcb_fr_rampEnd (s : State) (k : Nat) (v : Nat) : (s.setDcb k v).fr.rampEnd = s.fr.rampEnd := rfl
@[simp] theorem setPart_now (s : State) (k : Nat) (v : Part) : (s.setPart k v).now = s.now := rfl
@[simp] theorem setPart_ctr (s : State) (k : Nat) (v : Part) : (s.setPart k v).ctr = s.ctr := rfl
@[simp] theorem setPart_events (s : State) (k : Nat) (v : Part) : (s.setPart k v).events = s.events := rfl
@[simp] theorem setPart_cur (s : State) (k : Nat) (v : Part) : (s.setPart k v).cur = s.cur := rfl
@[simp] theorem setPart_rep (s : State) (k : Nat) (v : Part) : (s.setPart k v).rep = s.rep := rfl
@[simp] theorem setPart_rr (s : State) (k : Nat) (v : Part) : (s.setPart k v).rr = s.rr := rfl
@[simp] theorem setPart_held (s : State) (k : Nat) (v : Part) : (s.setPart k v).held = s.held := rfl
@[simp] theorem setPart_turn (s : State) (k : Nat) (v : Part) : (s.setPart k v).turn = s.turn := rfl
@[simp] theorem setPart_mem (s : State) (k : Nat) (v : Part) : (s.setPart k v).mem = s.mem := rfl
@[simp] theorem setPart_coh (s : State) (k : Nat) (v : Part) : (s.setPart k v).coh = s.coh := rfl
@[simp] theorem setPart_tr (s : State) (k : Nat) (v : Part) : (s.setPart k v).tr = s.tr := rfl
@[simp] theorem setPart_ex (s : State) (k : Nat) (v : Part) : (s.setPart k v).ex = s.ex := rfl
@[simp] theorem setPart_fr (s : State) (k : Nat) (v : Part) : (s.setPart k v).fr = s.fr := rfl
@[simp] theorem setPart_pl_grants (s : State) (k : Nat) (v : Part) : (s.setPart k v).pl.grants = s.pl.grants := rfl
@[simp] theorem setPart_pl_xgrants (s : State) (k : Nat) (v : Part) : (s.setPart k v).pl.xgrants = s.pl.xgrants := rfl
@[simp] theorem setPart_pl_ways (s : State) (k : Nat) (v : Part) : (s.setPart k v).pl.ways = s.pl.ways := rfl
@[simp] theorem setPart_pl_releasing (s : State) (k : Nat) (v : Part) : (s.setPart k v).pl.releasing = s.pl.releasing := rfl
@[simp] theorem setPart_pl_clusters (s : State) (k : Nat) (v : Part) : (s.setPart k v).pl.clusters = s.pl.clusters := rfl
@[simp] theorem setPart_pl_pools (s : State) (k : Nat) (v : Part) : (s.setPart k v).pl.pools = s.pl.pools := rfl
@[simp] theorem setPart_pl_poolUsed (s : State) (k : Nat) (v : Part) : (s.setPart k v).pl.poolUsed = s.pl.poolUsed := rfl
@[simp] theorem setPart_pl_quar (s : State) (k : Nat) (v : Part) : (s.setPart k v).pl.quar = s.pl.quar := rfl
@[simp] theorem setPart_pl_poisRec (s : State) (k : Nat) (v : Part) : (s.setPart k v).pl.poisRec = s.pl.poisRec := rfl
@[simp] theorem setPart_pl_units (s : State) (k : Nat) (v : Part) : (s.setPart k v).pl.units = s.pl.units := rfl
@[simp] theorem setPart_pl_ports (s : State) (k : Nat) (v : Part) : (s.setPart k v).pl.ports = s.pl.ports := rfl
@[simp] theorem setPart_pl_funcs (s : State) (k : Nat) (v : Part) : (s.setPart k v).pl.funcs = s.pl.funcs := rfl
@[simp] theorem setPart_pl_hosts (s : State) (k : Nat) (v : Part) : (s.setPart k v).pl.hosts = s.pl.hosts := rfl
@[simp] theorem setPart_pl_out (s : State) (k : Nat) (v : Part) : (s.setPart k v).pl.out = s.pl.out := rfl
@[simp] theorem setPart_pl_mgmt (s : State) (k : Nat) (v : Part) : (s.setPart k v).pl.mgmt = s.pl.mgmt := rfl
@[simp] theorem setPart_pl_loads (s : State) (k : Nat) (v : Part) : (s.setPart k v).pl.loads = s.pl.loads := rfl
@[simp] theorem part_setPart_self (s : State) (k : Nat) (v : Part) : (s.setPart k v).part k = v := SMap.get_put_self _ _ _ _
theorem part_setPart_ne (s : State) (k : Nat) (v : Part) (j : Nat) (h : j ≠ k) : (s.setPart k v).part j = s.part j := SMap.get_put_ne _ _ _ _ _ h
@[simp] theorem setCluster_now (s : State) (k : Nat) (v : Cluster) : (s.setCluster k v).now = s.now := rfl
@[simp] theorem setCluster_ctr (s : State) (k : Nat) (v : Cluster) : (s.setCluster k v).ctr = s.ctr := rfl
@[simp] theorem setCluster_events (s : State) (k : Nat) (v : Cluster) : (s.setCluster k v).events = s.events := rfl
@[simp] theorem setCluster_cur (s : State) (k : Nat) (v : Cluster) : (s.setCluster k v).cur = s.cur := rfl
@[simp] theorem setCluster_rep (s : State) (k : Nat) (v : Cluster) : (s.setCluster k v).rep = s.rep := rfl
@[simp] theorem setCluster_rr (s : State) (k : Nat) (v : Cluster) : (s.setCluster k v).rr = s.rr := rfl
@[simp] theorem setCluster_held (s : State) (k : Nat) (v : Cluster) : (s.setCluster k v).held = s.held := rfl
@[simp] theorem setCluster_turn (s : State) (k : Nat) (v : Cluster) : (s.setCluster k v).turn = s.turn := rfl
@[simp] theorem setCluster_mem (s : State) (k : Nat) (v : Cluster) : (s.setCluster k v).mem = s.mem := rfl
@[simp] theorem setCluster_coh (s : State) (k : Nat) (v : Cluster) : (s.setCluster k v).coh = s.coh := rfl
@[simp] theorem setCluster_tr (s : State) (k : Nat) (v : Cluster) : (s.setCluster k v).tr = s.tr := rfl
@[simp] theorem setCluster_ex (s : State) (k : Nat) (v : Cluster) : (s.setCluster k v).ex = s.ex := rfl
@[simp] theorem setCluster_fr (s : State) (k : Nat) (v : Cluster) : (s.setCluster k v).fr = s.fr := rfl
@[simp] theorem setCluster_pl_parts (s : State) (k : Nat) (v : Cluster) : (s.setCluster k v).pl.parts = s.pl.parts := rfl
@[simp] theorem setCluster_pl_grants (s : State) (k : Nat) (v : Cluster) : (s.setCluster k v).pl.grants = s.pl.grants := rfl
@[simp] theorem setCluster_pl_xgrants (s : State) (k : Nat) (v : Cluster) : (s.setCluster k v).pl.xgrants = s.pl.xgrants := rfl
@[simp] theorem setCluster_pl_ways (s : State) (k : Nat) (v : Cluster) : (s.setCluster k v).pl.ways = s.pl.ways := rfl
@[simp] theorem setCluster_pl_releasing (s : State) (k : Nat) (v : Cluster) : (s.setCluster k v).pl.releasing = s.pl.releasing := rfl
@[simp] theorem setCluster_pl_pools (s : State) (k : Nat) (v : Cluster) : (s.setCluster k v).pl.pools = s.pl.pools := rfl
@[simp] theorem setCluster_pl_poolUsed (s : State) (k : Nat) (v : Cluster) : (s.setCluster k v).pl.poolUsed = s.pl.poolUsed := rfl
@[simp] theorem setCluster_pl_quar (s : State) (k : Nat) (v : Cluster) : (s.setCluster k v).pl.quar = s.pl.quar := rfl
@[simp] theorem setCluster_pl_poisRec (s : State) (k : Nat) (v : Cluster) : (s.setCluster k v).pl.poisRec = s.pl.poisRec := rfl
@[simp] theorem setCluster_pl_units (s : State) (k : Nat) (v : Cluster) : (s.setCluster k v).pl.units = s.pl.units := rfl
@[simp] theorem setCluster_pl_ports (s : State) (k : Nat) (v : Cluster) : (s.setCluster k v).pl.ports = s.pl.ports := rfl
@[simp] theorem setCluster_pl_funcs (s : State) (k : Nat) (v : Cluster) : (s.setCluster k v).pl.funcs = s.pl.funcs := rfl
@[simp] theorem setCluster_pl_hosts (s : State) (k : Nat) (v : Cluster) : (s.setCluster k v).pl.hosts = s.pl.hosts := rfl
@[simp] theorem setCluster_pl_out (s : State) (k : Nat) (v : Cluster) : (s.setCluster k v).pl.out = s.pl.out := rfl
@[simp] theorem setCluster_pl_mgmt (s : State) (k : Nat) (v : Cluster) : (s.setCluster k v).pl.mgmt = s.pl.mgmt := rfl
@[simp] theorem setCluster_pl_loads (s : State) (k : Nat) (v : Cluster) : (s.setCluster k v).pl.loads = s.pl.loads := rfl
@[simp] theorem cluster_setCluster_self (s : State) (k : Nat) (v : Cluster) : (s.setCluster k v).cluster k = v := SMap.get_put_self _ _ _ _
theorem cluster_setCluster_ne (s : State) (k : Nat) (v : Cluster) (j : Nat) (h : j ≠ k) : (s.setCluster k v).cluster j = s.cluster j := SMap.get_put_ne _ _ _ _ _ h
@[simp] theorem setPort_now (s : State) (k : Nat) (v : Port) : (s.setPort k v).now = s.now := rfl
@[simp] theorem setPort_ctr (s : State) (k : Nat) (v : Port) : (s.setPort k v).ctr = s.ctr := rfl
@[simp] theorem setPort_events (s : State) (k : Nat) (v : Port) : (s.setPort k v).events = s.events := rfl
@[simp] theorem setPort_cur (s : State) (k : Nat) (v : Port) : (s.setPort k v).cur = s.cur := rfl
@[simp] theorem setPort_rep (s : State) (k : Nat) (v : Port) : (s.setPort k v).rep = s.rep := rfl
@[simp] theorem setPort_rr (s : State) (k : Nat) (v : Port) : (s.setPort k v).rr = s.rr := rfl
@[simp] theorem setPort_held (s : State) (k : Nat) (v : Port) : (s.setPort k v).held = s.held := rfl
@[simp] theorem setPort_turn (s : State) (k : Nat) (v : Port) : (s.setPort k v).turn = s.turn := rfl
@[simp] theorem setPort_mem (s : State) (k : Nat) (v : Port) : (s.setPort k v).mem = s.mem := rfl
@[simp] theorem setPort_coh (s : State) (k : Nat) (v : Port) : (s.setPort k v).coh = s.coh := rfl
@[simp] theorem setPort_tr (s : State) (k : Nat) (v : Port) : (s.setPort k v).tr = s.tr := rfl
@[simp] theorem setPort_ex (s : State) (k : Nat) (v : Port) : (s.setPort k v).ex = s.ex := rfl
@[simp] theorem setPort_fr (s : State) (k : Nat) (v : Port) : (s.setPort k v).fr = s.fr := rfl
@[simp] theorem setPort_pl_parts (s : State) (k : Nat) (v : Port) : (s.setPort k v).pl.parts = s.pl.parts := rfl
@[simp] theorem setPort_pl_grants (s : State) (k : Nat) (v : Port) : (s.setPort k v).pl.grants = s.pl.grants := rfl
@[simp] theorem setPort_pl_xgrants (s : State) (k : Nat) (v : Port) : (s.setPort k v).pl.xgrants = s.pl.xgrants := rfl
@[simp] theorem setPort_pl_ways (s : State) (k : Nat) (v : Port) : (s.setPort k v).pl.ways = s.pl.ways := rfl
@[simp] theorem setPort_pl_releasing (s : State) (k : Nat) (v : Port) : (s.setPort k v).pl.releasing = s.pl.releasing := rfl
@[simp] theorem setPort_pl_clusters (s : State) (k : Nat) (v : Port) : (s.setPort k v).pl.clusters = s.pl.clusters := rfl
@[simp] theorem setPort_pl_pools (s : State) (k : Nat) (v : Port) : (s.setPort k v).pl.pools = s.pl.pools := rfl
@[simp] theorem setPort_pl_poolUsed (s : State) (k : Nat) (v : Port) : (s.setPort k v).pl.poolUsed = s.pl.poolUsed := rfl
@[simp] theorem setPort_pl_quar (s : State) (k : Nat) (v : Port) : (s.setPort k v).pl.quar = s.pl.quar := rfl
@[simp] theorem setPort_pl_poisRec (s : State) (k : Nat) (v : Port) : (s.setPort k v).pl.poisRec = s.pl.poisRec := rfl
@[simp] theorem setPort_pl_units (s : State) (k : Nat) (v : Port) : (s.setPort k v).pl.units = s.pl.units := rfl
@[simp] theorem setPort_pl_funcs (s : State) (k : Nat) (v : Port) : (s.setPort k v).pl.funcs = s.pl.funcs := rfl
@[simp] theorem setPort_pl_hosts (s : State) (k : Nat) (v : Port) : (s.setPort k v).pl.hosts = s.pl.hosts := rfl
@[simp] theorem setPort_pl_out (s : State) (k : Nat) (v : Port) : (s.setPort k v).pl.out = s.pl.out := rfl
@[simp] theorem setPort_pl_mgmt (s : State) (k : Nat) (v : Port) : (s.setPort k v).pl.mgmt = s.pl.mgmt := rfl
@[simp] theorem setPort_pl_loads (s : State) (k : Nat) (v : Port) : (s.setPort k v).pl.loads = s.pl.loads := rfl
@[simp] theorem port_setPort_self (s : State) (k : Nat) (v : Port) : (s.setPort k v).port k = v := SMap.get_put_self _ _ _ _
theorem port_setPort_ne (s : State) (k : Nat) (v : Port) (j : Nat) (h : j ≠ k) : (s.setPort k v).port j = s.port j := SMap.get_put_ne _ _ _ _ _ h
@[simp] theorem setFunc_now (s : State) (k : Nat) (v : Func) : (s.setFunc k v).now = s.now := rfl
@[simp] theorem setFunc_ctr (s : State) (k : Nat) (v : Func) : (s.setFunc k v).ctr = s.ctr := rfl
@[simp] theorem setFunc_events (s : State) (k : Nat) (v : Func) : (s.setFunc k v).events = s.events := rfl
@[simp] theorem setFunc_cur (s : State) (k : Nat) (v : Func) : (s.setFunc k v).cur = s.cur := rfl
@[simp] theorem setFunc_rep (s : State) (k : Nat) (v : Func) : (s.setFunc k v).rep = s.rep := rfl
@[simp] theorem setFunc_rr (s : State) (k : Nat) (v : Func) : (s.setFunc k v).rr = s.rr := rfl
@[simp] theorem setFunc_held (s : State) (k : Nat) (v : Func) : (s.setFunc k v).held = s.held := rfl
@[simp] theorem setFunc_turn (s : State) (k : Nat) (v : Func) : (s.setFunc k v).turn = s.turn := rfl
@[simp] theorem setFunc_mem (s : State) (k : Nat) (v : Func) : (s.setFunc k v).mem = s.mem := rfl
@[simp] theorem setFunc_coh (s : State) (k : Nat) (v : Func) : (s.setFunc k v).coh = s.coh := rfl
@[simp] theorem setFunc_tr (s : State) (k : Nat) (v : Func) : (s.setFunc k v).tr = s.tr := rfl
@[simp] theorem setFunc_ex (s : State) (k : Nat) (v : Func) : (s.setFunc k v).ex = s.ex := rfl
@[simp] theorem setFunc_fr (s : State) (k : Nat) (v : Func) : (s.setFunc k v).fr = s.fr := rfl
@[simp] theorem setFunc_pl_parts (s : State) (k : Nat) (v : Func) : (s.setFunc k v).pl.parts = s.pl.parts := rfl
@[simp] theorem setFunc_pl_grants (s : State) (k : Nat) (v : Func) : (s.setFunc k v).pl.grants = s.pl.grants := rfl
@[simp] theorem setFunc_pl_xgrants (s : State) (k : Nat) (v : Func) : (s.setFunc k v).pl.xgrants = s.pl.xgrants := rfl
@[simp] theorem setFunc_pl_ways (s : State) (k : Nat) (v : Func) : (s.setFunc k v).pl.ways = s.pl.ways := rfl
@[simp] theorem setFunc_pl_releasing (s : State) (k : Nat) (v : Func) : (s.setFunc k v).pl.releasing = s.pl.releasing := rfl
@[simp] theorem setFunc_pl_clusters (s : State) (k : Nat) (v : Func) : (s.setFunc k v).pl.clusters = s.pl.clusters := rfl
@[simp] theorem setFunc_pl_pools (s : State) (k : Nat) (v : Func) : (s.setFunc k v).pl.pools = s.pl.pools := rfl
@[simp] theorem setFunc_pl_poolUsed (s : State) (k : Nat) (v : Func) : (s.setFunc k v).pl.poolUsed = s.pl.poolUsed := rfl
@[simp] theorem setFunc_pl_quar (s : State) (k : Nat) (v : Func) : (s.setFunc k v).pl.quar = s.pl.quar := rfl
@[simp] theorem setFunc_pl_poisRec (s : State) (k : Nat) (v : Func) : (s.setFunc k v).pl.poisRec = s.pl.poisRec := rfl
@[simp] theorem setFunc_pl_units (s : State) (k : Nat) (v : Func) : (s.setFunc k v).pl.units = s.pl.units := rfl
@[simp] theorem setFunc_pl_ports (s : State) (k : Nat) (v : Func) : (s.setFunc k v).pl.ports = s.pl.ports := rfl
@[simp] theorem setFunc_pl_hosts (s : State) (k : Nat) (v : Func) : (s.setFunc k v).pl.hosts = s.pl.hosts := rfl
@[simp] theorem setFunc_pl_out (s : State) (k : Nat) (v : Func) : (s.setFunc k v).pl.out = s.pl.out := rfl
@[simp] theorem setFunc_pl_mgmt (s : State) (k : Nat) (v : Func) : (s.setFunc k v).pl.mgmt = s.pl.mgmt := rfl
@[simp] theorem setFunc_pl_loads (s : State) (k : Nat) (v : Func) : (s.setFunc k v).pl.loads = s.pl.loads := rfl
@[simp] theorem func_setFunc_self (s : State) (k : Nat) (v : Func) : (s.setFunc k v).func k = v := SMap.get_put_self _ _ _ _
theorem func_setFunc_ne (s : State) (k : Nat) (v : Func) (j : Nat) (h : j ≠ k) : (s.setFunc k v).func j = s.func j := SMap.get_put_ne _ _ _ _ _ h
@[simp] theorem setWalk_now (s : State) (k : Nat) (v : WalkPool) : (s.setWalk k v).now = s.now := rfl
@[simp] theorem setWalk_ctr (s : State) (k : Nat) (v : WalkPool) : (s.setWalk k v).ctr = s.ctr := rfl
@[simp] theorem setWalk_events (s : State) (k : Nat) (v : WalkPool) : (s.setWalk k v).events = s.events := rfl
@[simp] theorem setWalk_cur (s : State) (k : Nat) (v : WalkPool) : (s.setWalk k v).cur = s.cur := rfl
@[simp] theorem setWalk_rep (s : State) (k : Nat) (v : WalkPool) : (s.setWalk k v).rep = s.rep := rfl
@[simp] theorem setWalk_rr (s : State) (k : Nat) (v : WalkPool) : (s.setWalk k v).rr = s.rr := rfl
@[simp] theorem setWalk_held (s : State) (k : Nat) (v : WalkPool) : (s.setWalk k v).held = s.held := rfl
@[simp] theorem setWalk_turn (s : State) (k : Nat) (v : WalkPool) : (s.setWalk k v).turn = s.turn := rfl
@[simp] theorem setWalk_mem (s : State) (k : Nat) (v : WalkPool) : (s.setWalk k v).mem = s.mem := rfl
@[simp] theorem setWalk_coh (s : State) (k : Nat) (v : WalkPool) : (s.setWalk k v).coh = s.coh := rfl
@[simp] theorem setWalk_ex (s : State) (k : Nat) (v : WalkPool) : (s.setWalk k v).ex = s.ex := rfl
@[simp] theorem setWalk_fr (s : State) (k : Nat) (v : WalkPool) : (s.setWalk k v).fr = s.fr := rfl
@[simp] theorem setWalk_pl (s : State) (k : Nat) (v : WalkPool) : (s.setWalk k v).pl = s.pl := rfl
@[simp] theorem setWalk_tr_roots (s : State) (k : Nat) (v : WalkPool) : (s.setWalk k v).tr.roots = s.tr.roots := rfl
@[simp] theorem setWalk_tr_tlb (s : State) (k : Nat) (v : WalkPool) : (s.setWalk k v).tr.tlb = s.tr.tlb := rfl
@[simp] theorem setWalk_tr_pins (s : State) (k : Nat) (v : WalkPool) : (s.setWalk k v).tr.pins = s.tr.pins := rfl
@[simp] theorem walkPool_setWalk_self (s : State) (k : Nat) (v : WalkPool) : (s.setWalk k v).walkPool k = v := SMap.get_put_self _ _ _ _
theorem walkPool_setWalk_ne (s : State) (k : Nat) (v : WalkPool) (j : Nat) (h : j ≠ k) : (s.setWalk k v).walkPool j = s.walkPool j := SMap.get_put_ne _ _ _ _ _ h
@[simp] theorem send_now (s : State) (k : Nat) (v : List Nat) : (s.send k v).now = s.now := rfl
@[simp] theorem send_ctr (s : State) (k : Nat) (v : List Nat) : (s.send k v).ctr = s.ctr := rfl
@[simp] theorem send_events (s : State) (k : Nat) (v : List Nat) : (s.send k v).events = s.events := rfl
@[simp] theorem send_cur (s : State) (k : Nat) (v : List Nat) : (s.send k v).cur = s.cur := rfl
@[simp] theorem send_rep (s : State) (k : Nat) (v : List Nat) : (s.send k v).rep = s.rep := rfl
@[simp] theorem send_rr (s : State) (k : Nat) (v : List Nat) : (s.send k v).rr = s.rr := rfl
@[simp] theorem send_held (s : State) (k : Nat) (v : List Nat) : (s.send k v).held = s.held := rfl
@[simp] theorem send_turn (s : State) (k : Nat) (v : List Nat) : (s.send k v).turn = s.turn := rfl
@[simp] theorem send_mem (s : State) (k : Nat) (v : List Nat) : (s.send k v).mem = s.mem := rfl
@[simp] theorem send_coh (s : State) (k : Nat) (v : List Nat) : (s.send k v).coh = s.coh := rfl
@[simp] theorem send_tr (s : State) (k : Nat) (v : List Nat) : (s.send k v).tr = s.tr := rfl
@[simp] theorem send_ex (s : State) (k : Nat) (v : List Nat) : (s.send k v).ex = s.ex := rfl
@[simp] theorem send_fr (s : State) (k : Nat) (v : List Nat) : (s.send k v).fr = s.fr := rfl
@[simp] theorem send_pl_parts (s : State) (k : Nat) (v : List Nat) : (s.send k v).pl.parts = s.pl.parts := rfl
@[simp] theorem send_pl_grants (s : State) (k : Nat) (v : List Nat) : (s.send k v).pl.grants = s.pl.grants := rfl
@[simp] theorem send_pl_xgrants (s : State) (k : Nat) (v : List Nat) : (s.send k v).pl.xgrants = s.pl.xgrants := rfl
@[simp] theorem send_pl_ways (s : State) (k : Nat) (v : List Nat) : (s.send k v).pl.ways = s.pl.ways := rfl
@[simp] theorem send_pl_releasing (s : State) (k : Nat) (v : List Nat) : (s.send k v).pl.releasing = s.pl.releasing := rfl
@[simp] theorem send_pl_clusters (s : State) (k : Nat) (v : List Nat) : (s.send k v).pl.clusters = s.pl.clusters := rfl
@[simp] theorem send_pl_pools (s : State) (k : Nat) (v : List Nat) : (s.send k v).pl.pools = s.pl.pools := rfl
@[simp] theorem send_pl_poolUsed (s : State) (k : Nat) (v : List Nat) : (s.send k v).pl.poolUsed = s.pl.poolUsed := rfl
@[simp] theorem send_pl_quar (s : State) (k : Nat) (v : List Nat) : (s.send k v).pl.quar = s.pl.quar := rfl
@[simp] theorem send_pl_poisRec (s : State) (k : Nat) (v : List Nat) : (s.send k v).pl.poisRec = s.pl.poisRec := rfl
@[simp] theorem send_pl_units (s : State) (k : Nat) (v : List Nat) : (s.send k v).pl.units = s.pl.units := rfl
@[simp] theorem send_pl_ports (s : State) (k : Nat) (v : List Nat) : (s.send k v).pl.ports = s.pl.ports := rfl
@[simp] theorem send_pl_funcs (s : State) (k : Nat) (v : List Nat) : (s.send k v).pl.funcs = s.pl.funcs := rfl
@[simp] theorem send_pl_hosts (s : State) (k : Nat) (v : List Nat) : (s.send k v).pl.hosts = s.pl.hosts := rfl
@[simp] theorem send_pl_mgmt (s : State) (k : Nat) (v : List Nat) : (s.send k v).pl.mgmt = s.pl.mgmt := rfl
@[simp] theorem send_pl_loads (s : State) (k : Nat) (v : List Nat) : (s.send k v).pl.loads = s.pl.loads := rfl
@[simp] theorem due_now (s : State) (v : List Instr) : (s.due v).now = s.now := rfl
@[simp] theorem due_ctr (s : State) (v : List Instr) : (s.due v).ctr = s.ctr := rfl
@[simp] theorem due_cur (s : State) (v : List Instr) : (s.due v).cur = s.cur := rfl
@[simp] theorem due_rep (s : State) (v : List Instr) : (s.due v).rep = s.rep := rfl
@[simp] theorem due_rr (s : State) (v : List Instr) : (s.due v).rr = s.rr := rfl
@[simp] theorem due_held (s : State) (v : List Instr) : (s.due v).held = s.held := rfl
@[simp] theorem due_turn (s : State) (v : List Instr) : (s.due v).turn = s.turn := rfl
@[simp] theorem due_mem (s : State) (v : List Instr) : (s.due v).mem = s.mem := rfl
@[simp] theorem due_coh (s : State) (v : List Instr) : (s.due v).coh = s.coh := rfl
@[simp] theorem due_tr (s : State) (v : List Instr) : (s.due v).tr = s.tr := rfl
@[simp] theorem due_ex (s : State) (v : List Instr) : (s.due v).ex = s.ex := rfl
@[simp] theorem due_fr (s : State) (v : List Instr) : (s.due v).fr = s.fr := rfl
@[simp] theorem due_pl (s : State) (v : List Instr) : (s.due v).pl = s.pl := rfl
@[simp] theorem fresh_now (s : State) : s.fresh.now = s.now := rfl
@[simp] theorem fresh_events (s : State) : s.fresh.events = s.events := rfl
@[simp] theorem fresh_cur (s : State) : s.fresh.cur = s.cur := rfl
@[simp] theorem fresh_rep (s : State) : s.fresh.rep = s.rep := rfl
@[simp] theorem fresh_rr (s : State) : s.fresh.rr = s.rr := rfl
@[simp] theorem fresh_held (s : State) : s.fresh.held = s.held := rfl
@[simp] theorem fresh_turn (s : State) : s.fresh.turn = s.turn := rfl
@[simp] theorem fresh_mem (s : State) : s.fresh.mem = s.mem := rfl
@[simp] theorem fresh_coh (s : State) : s.fresh.coh = s.coh := rfl
@[simp] theorem fresh_tr (s : State) : s.fresh.tr = s.tr := rfl
@[simp] theorem fresh_ex (s : State) : s.fresh.ex = s.ex := rfl
@[simp] theorem fresh_fr (s : State) : s.fresh.fr = s.fr := rfl
@[simp] theorem fresh_pl (s : State) : s.fresh.pl = s.pl := rfl
@[simp] theorem due_events (s : State) (v : List Instr) : (s.due v).events = s.events ++ v := rfl
@[simp] theorem send_out (s : State) (k : Nat) (v : List Nat) : (s.send k v).pl.out = s.pl.out ++ [⟨k, v⟩] := rfl
@[simp] theorem fresh_ctr (s : State) : s.fresh.ctr = s.ctr + 1 := rfl

end Sys2Proof.Machine.State
end

