-- ==== Sys2Proof/Laws/Write.lean ====
section
/-! SUPPORT. Laws/Write.lean: what writing D or a predicate leaves of the crew, said once for every instruction that does it. -/

namespace Sys2Proof.Machine

open Safety

/-! ## Lane sets -/

theorem hasLane_oneLane (l j : Nat) (hl : l < 64) : hasLane (oneLane l) j = decide (j = l) := by
  unfold hasLane oneLane
  simp only [BitVec.getLsbD_shiftLeft, BitVec.getLsbD_one]
  by_cases h : j = l
  · subst h; simp [hl]
  · by_cases h64 : j < 64 <;> by_cases hlt : j < l <;> simp [h, h64, hlt] <;> omega

theorem mem_lanesOf {m : Lanes} {l : Nat} : l ∈ lanesOf m ↔ hasLane m l = true := by
  unfold lanesOf allLanes
  rw [List.mem_filter, List.mem_range]
  constructor
  · exact fun h => h.2
  · intro h
    refine ⟨?_, h⟩
    unfold hasLane at h
    exact BitVec.lt_of_getLsbD h

theorem lt_of_mem_lanesOf {m : Lanes} {l : Nat} (h : l ∈ lanesOf m) : l < 64 := by
  unfold lanesOf allLanes at h
  exact List.mem_range.mp (List.mem_filter.mp h).1

theorem nodup_lanesOf (m : Lanes) : (lanesOf m).Nodup := (List.nodup_range).filter _

@[simp] theorem lanesOf_zero : lanesOf 0 = [] := by
  rw [lanesOf, List.filter_eq_nil_iff]
  intro l _
  simp [hasLane]

theorem mapLanes_congr (c : Crew) (m : Lanes) (f g : Nat → Thread → Thread) (h : ∀ l t, hasLane m l = true → f l t = g l t) :
    c.mapLanes m f = c.mapLanes m g := by
  unfold Crew.mapLanes
  congr 1
  apply List.map_congr_left
  rintro ⟨l, t⟩ _
  by_cases hl : hasLane m l = true
  · simp [hl, h l t hl]
  · simp [hl]

@[simp] theorem mapLanes_zero (c : Crew) (f : Nat → Thread → Thread) : c.mapLanes 0 f = c := by
  unfold Crew.mapLanes
  have : c.threads.map (fun p : Nat × Thread => (p.1, if hasLane 0 p.1 = true then f p.1 p.2 else p.2)) = c.threads := by
    conv => rhs; rw [← List.map_id c.threads]
    apply List.map_congr_left
    rintro ⟨l, t⟩ _
    simp [hasLane]
  show { c with threads := _ } = c
  rw [show (c.threads.map fun x => match x with | (l, t) => (l, if hasLane 0 l = true then f l t else t)) = c.threads from this]

/-! ## Register writes -/

theorem applyWrites_append (c : Crew) (h : Bool) (a b : List RegWrite) : c.applyWrites h (a ++ b) = (c.applyWrites h a).applyWrites h b := by
  induction a generalizing c with
  | nil => rfl
  | cons w rest ih => simp only [List.cons_append, Crew.applyWrites]; exact ih _

theorem mapLanes_mapLanes (c : Crew) (m : Lanes) (f g : Nat → Thread → Thread) :
    (c.mapLanes m f).mapLanes m g = c.mapLanes m fun l t => g l (f l t) := by
  unfold Crew.mapLanes
  simp only [List.map_map]
  congr 1
  apply List.map_congr_left
  rintro ⟨l, t⟩ _
  by_cases hl : hasLane m l = true <;> simp [hl]

/-- The writes of one lane's result change that lane's D. -/
theorem applyWrites_lane (c : Crew) (h w : Bool) (l n v : Nat) :
    c.applyWrites h (regWrites (some l) w n v) = c.mapLanes (oneLane l) fun _ t => wrN t w n v := by
  cases w <;> simp [regWrites, Crew.applyWrites, wrN, mapLanes_mapLanes]

theorem applyWrites_s (c : Crew) (h w : Bool) (n v : Nat) : c.applyWrites h (regWrites none w n v) = wrSN c h w n v := by
  cases w <;> simp [regWrites, Crew.applyWrites, wrSN]

/-- The writes of several lanes' results change each one's D. -/
theorem applyWrites_lanes (c : Crew) (h w : Bool) (n : Nat) (val : Nat → Nat) (ls : List Nat) (hlt : ∀ l ∈ ls, l < 64) (hnd : ls.Nodup) :
    c.applyWrites h (ls.flatMap fun l => regWrites (some l) w n (val l)) =
      { c with threads := c.threads.map fun p => (p.1, if p.1 ∈ ls then wrN p.2 w n (val p.1) else p.2) } := by
  induction ls generalizing c with
  | nil => simp [Crew.applyWrites]
  | cons l rest ih =>
    rw [List.flatMap_cons, applyWrites_append, applyWrites_lane, ih _ (fun j hj => hlt j (List.mem_cons_of_mem _ hj)) (List.nodup_cons.mp hnd).2]
    have hl : l < 64 := hlt l (List.mem_cons_self ..)
    have hn : l ∉ rest := (List.nodup_cons.mp hnd).1
    unfold Crew.mapLanes
    simp only [List.map_map]
    congr 1
    apply List.map_congr_left
    rintro ⟨j, t⟩ _
    simp only [Function.comp, hasLane_oneLane _ _ hl, decide_eq_true_eq, List.mem_cons]
    by_cases hj : j = l
    · subst hj; simp [hn]
    · simp [hj]

/-- Writing D and going on leave the crew as `wrote` says, and change nothing else. -/
theorem writeD_eq (s : State) (x : Ctx) (sh : Shape) (f : XF) (a : Lanes) (w long : Bool) (val : Nat → Nat) :
    writeD s x sh f a w long val = s.setCrew x.crew (wrote (s.crew x.crew) x sh f a w long val) := by
  unfold writeD wrote
  by_cases ha : a = 0
  · simp [ha, State.advance_eq]
  simp only [ha, if_false]
  cases hp : pushPort sh f with
  | some p => simp [State.advance_eq]
  | none =>
    simp only [State.advance_eq, State.crew_setCrew_self, State.setCrew_setCrew]
    congr 2
    by_cases hl : (long || !(popPorts sh f).isEmpty) = true
    · simp [hl]
    · simp only [hl]
      unfold dWrites
      by_cases hs : f.sd = true
      · simp only [hs, if_true]
        cases hlow : lowLane a with
        | none =>
          exfalso
          apply ha
          unfold lowLane at hlow
          have hnil : lanesOf a = [] := List.head?_eq_none_iff.mp hlow
          apply BitVec.eq_of_getLsbD_eq
          intro i hi
          have : ¬ hasLane a i = true := fun h => by
            have := mem_lanesOf.mpr h
            rw [hnil] at this
            exact absurd this (by simp)
          simpa [hasLane] using this
        | some l => simp [applyWrites_s]
      · simp only [hs]
        rw [if_neg (by simp), if_neg (by simp), applyWrites_lanes _ _ _ _ _ _ (fun l hl => lt_of_mem_lanesOf hl) (nodup_lanesOf a)]
        unfold Crew.mapLanes
        simp only [mem_lanesOf]
        simp

/-- Writing a predicate and going on change the crew alone. -/
theorem writeP_eq (s : State) (x : Ctx) (sh : Shape) (f : XF) (a : Lanes) (val : Nat → Bool) :
    writeP s x sh f a val = s.setCrew x.crew (goOnAll x (Crew.mapLanes
      (if a = 0 then s.crew x.crew else (s.crew x.crew).pop (popPorts sh f) a) a fun l t => t.wrPred f.d.toNat (val l))) := by
  unfold writeP
  simp [State.advance_eq]

/-! ## The lanewise schemes -/

theorem ready_may {s : State} {x : Ctx} {sh : Shape} {f : XF} (h : ready s x sh f = true) : may s x sh f = true := by
  unfold ready at h
  exact (Bool.and_eq_true _ _ ▸ h).1

/-- An instruction that runs outside regions where it uses a port is its run. -/
theorem portRun_of_ready {s : State} {x : Ctx} {sh : Shape} {f : XF} (h : ready s x sh f = true) (run : State → Out) :
    (if usesPort sh f then outsideRegions s f run else run s) = run s := by
  split
  · rename_i hp
    have hc : calm s x f = true := by
      simp only [ready, hp, Bool.not_true, Bool.false_or, Bool.and_eq_true] at h
      exact h.2
    exact outside_of_calm (may_iff.mp (ready_may h)).1 hc run
  · rfl

/-- Everything a lanewise instruction does when it is ready: D takes the values, and nothing else changes. -/
theorem lanewise_of_ready {s : State} {x : Ctx} {sh : Shape} {f : XF} (h : ready s x sh f = true) (w long : Bool) (g : Crew → Bool → Nat → Nat) :
    lanewise s sh f w long g = .next (s.setCrew x.crew (wrote (s.crew x.crew) x sh f (act s x f) w long
      (g (s.crew x.crew) ((s.crew x.crew).inHandler x.lanes)))).endIssue := by
  unfold lanewise
  rw [portRun_of_ready h]
  obtain ⟨hc, hg⟩ := may_iff.mp (ready_may h)
  rw [issue_of_cur hc]
  simp only [gate_of_ok hg, settle_ok, writeD_eq]
  rfl

theorem lanewiseP_of_ready {s : State} {x : Ctx} {sh : Shape} {f : XF} (h : ready s x sh f = true) (g : Crew → Bool → Nat → Bool) :
    lanewiseP s sh f g = .next (s.setCrew x.crew (goOnAll x (Crew.mapLanes
      (if act s x f = 0 then s.crew x.crew else (s.crew x.crew).pop (popPorts sh f) (act s x f)) (act s x f)
      fun l t => t.wrPred f.d.toNat (g (s.crew x.crew) ((s.crew x.crew).inHandler x.lanes) l)))).endIssue := by
  unfold lanewiseP
  rw [portRun_of_ready h]
  obtain ⟨hc, hg⟩ := may_iff.mp (ready_may h)
  rw [issue_of_cur hc]
  simp only [gate_of_ok hg, settle_ok, writeP_eq]
  rfl

/-! ## From a meaning's text to its statement -/

/-- An instruction that ends its issue with D written leaves what `WritesD` says. -/
theorem writesD_intro {s : State} {x : Ctx} {i : Instr} {f : XF} {w long : Bool} {val : Nat → Nat}
    (e : exec i s = .next (s.setCrew x.crew (wrote (s.crew x.crew) x i.shape f (act s x f) w long val)).endIssue) :
    WritesD s x i f w long val :=
  ⟨_, e, crewOnly_set _ _ _, by rw [State.crew_endIssue, State.crew_setCrew_self]⟩

/-- A lanewise instruction whose lanes compute `val` does what `WritesD` says. -/
theorem writesD_of_lanewise {s : State} {x : Ctx} {i : Instr} {f : XF} {w long : Bool} {val : Nat → Nat} (g : Crew → Bool → Nat → Nat)
    (h : ready s x i.shape f = true) (e : exec i s = lanewise s i.shape f w long g)
    (hv : ∀ l, g (s.crew x.crew) ((s.crew x.crew).inHandler x.lanes) l = val l) : WritesD s x i f w long val := by
  apply writesD_intro
  rw [e, lanewise_of_ready h, show g _ _ = val from funext hv]

theorem writesP_of_lanewise {s : State} {x : Ctx} {i : Instr} {f : XF} {val : Nat → Bool} (g : Crew → Bool → Nat → Bool)
    (h : ready s x i.shape f = true) (e : exec i s = lanewiseP s i.shape f g)
    (hv : ∀ l, g (s.crew x.crew) ((s.crew x.crew).inHandler x.lanes) l = val l) : WritesP s x i f val := by
  refine ⟨_, e.trans (lanewiseP_of_ready h g), crewOnly_set _ _ _, ?_⟩
  rw [State.crew_endIssue, State.crew_setCrew_self]
  rw [show (fun l (t : Thread) => t.wrPred f.d.toNat (g (s.crew x.crew) ((s.crew x.crew).inHandler x.lanes) l)) =
    fun l t => t.wrPred f.d.toNat (val l) from by funext l t; rw [hv l]]

/-! ## Floating-point schemes -/

theorem bad_zero_of_untrapped {m : BitVec 13} {a : Lanes} {fl : Nat → BitVec 5} (h : ((lanesOf a).all fun l => decide (fl l &&& fmEnables m = 0)) = true) :
    laneSet (fun l => hasLane a l && decide (fl l &&& fmEnables m ≠ 0)) = 0 := by
  unfold laneSet
  have key : ∀ (ls : List Nat) (z : Lanes), ls.foldl (fun m' l => if (hasLane a l && decide (fl l &&& fmEnables m ≠ 0)) = true then m' ||| oneLane l else m') z = z := by
    intro ls
    induction ls with
    | nil => intro z; rfl
    | cons l rest ih =>
      intro z
      rw [List.foldl_cons]
      have : (hasLane a l && decide (fl l &&& fmEnables m ≠ 0)) = false := by
        by_cases hl : hasLane a l = true
        · have := List.all_eq_true.mp h l (mem_lanesOf.mpr hl)
          simp_all
        · simp_all
      rw [this]
      exact ih z
  exact key allLanes 0

/-- With no enabled flag raised, a computation's flags are recorded and its write goes on. -/
theorem withFlags_of_untrapped {s : State} {x : Ctx} {a : Lanes} {fl : Nat → BitVec 5}
    (h : ((lanesOf a).all fun l => decide (fl l &&& fmEnables x.fmode = 0)) = true) (write : State → State) :
    withFlags s x a fl write = .ok (write (s.setCrew x.crew (orFlags (s.crew x.crew) a fl))) := by
  unfold withFlags
  simp only [bad_zero_of_untrapped h, if_true]

/-- Everything a floating-point instruction does when it is ready and no enabled flag is raised. -/
theorem fpLanes_of_ready {s : State} {x : Ctx} {sh : Shape} {f : XF} (h : ready s x sh f = true) (long : Bool)
    (g : Ctx → Crew → Bool → Nat → FlagRes) (hu : untrapped s x f (g x (s.crew x.crew) ((s.crew x.crew).inHandler x.lanes)) = true) :
    fpLanes s sh f long g = .next (s.setCrew x.crew (wrote (orFlags (s.crew x.crew) (act s x f)
      (laneFlags f.sd (act s x f) (g x (s.crew x.crew) ((s.crew x.crew).inHandler x.lanes)))) x sh f (act s x f) false
      (long && decide (fmEnables x.fmode = 0)) fun l => (g x (s.crew x.crew) ((s.crew x.crew).inHandler x.lanes) l).1)).endIssue := by
  unfold fpLanes
  rw [portRun_of_ready h, guarded_of_may (ready_may h)]
  simp only [withFlags_of_untrapped hu, settle_ok, writeD_eq, State.crew_setCrew_self, State.setCrew_setCrew]

/-- A floating-point instruction whose lanes compute `res` does what `WritesF` says. -/
theorem writesF_of_fpLanes {s : State} {x : Ctx} {i : Instr} {f : XF} {long : Bool} {res : Nat → FlagRes} (g : Ctx → Crew → Bool → Nat → FlagRes)
    (h : ready s x i.shape f = true) (hu : untrapped s x f res = true) (e : exec i s = fpLanes s i.shape f long g)
    (hv : ∀ l, g x (s.crew x.crew) ((s.crew x.crew).inHandler x.lanes) l = res l) :
    WritesF s x i f (long && decide (fmEnables x.fmode = 0)) res := by
  have hr : g x (s.crew x.crew) ((s.crew x.crew).inHandler x.lanes) = res := funext hv
  refine ⟨_, e.trans (fpLanes_of_ready h long g (hr ▸ hu)), crewOnly_set _ _ _, ?_⟩
  rw [State.crew_endIssue, State.crew_setCrew_self, hr]

end Sys2Proof.Machine
end

