-- ==== Sys2Proof/Tests/Slice0.lean ====
section
/-! SUPPORT. Slice0.lean: the model's own tests. Words against the encoding tables of the spec, ill-formed terms, single issues against values
worked out from the instruction chapters, and for each statement a state that meets its hypotheses. -/

open Sys2Proof Sys2Proof.Machine Sys2Proof.Safety

namespace Sys2Proof.Tests

-- One declaration after another: checking them side by side takes more address space than the check allows.
set_option Elab.async false

/-! ## Decoding -/

/-- Every word list decodes to its instruction, whole, and the instruction encodes to it. -/
def decodesAll (l : List (List Word × Instr)) : Bool :=
  l.all fun p => decide (decode p.1 = .ok p.2 p.1.length) && decide (encode p.2 = p.1)

theorem test_decode_int_b : decodesAll
    [([0x00000000], .nop),
     ([0x01030102], .iadd 3 1 2),
     ([0x02030102], .isub 3 1 2),
     ([0x03030102], .imul 3 1 2),
     ([0x04030102], .and 3 1 2),
     ([0x05030102], .or 3 1 2),
     ([0x06030102], .xor 3 1 2),
     ([0x07030102], .shl 3 1 2),
     ([0x08030102], .shr 3 1 2),
     ([0x09030102], .sra 3 1 2),
     ([0x0A0301FE], .iaddImm 3 1 0xFE),
     ([0x0B030100], .mov 3 1),
     ([0x0C07FED4], .movi 7 0xFED4),
     ([0x8C050000, 0x89ABCDEF, 0x01234567], .moviB64 5 0x0123456789ABCDEF)] = true := by decide +kernel

theorem test_decode_fp_mem_b : decodesAll
    [([0x0D030102], .fadd 3 1 2),
     ([0x0E030102], .fmul 3 1 2),
     ([0x0F030102], .ffma 3 1 2),
     ([0x10030102], .fsub 3 1 2),
     ([0x11030140], .ldCB32 3 1 0x40),
     ([0x12030140], .stCB32 3 1 0x40),
     ([0x13060440], .ldGB32 6 4 0x40),
     ([0x14060440], .stGB32 6 4 0x40)] = true := by decide +kernel

theorem test_decode_control_b : decodesAll
    [([0x15000003], .bra 3),
     ([0x1650FFFE], .brc 2 true 0xFFFE),
     ([0x17003005], .loop 3 5),
     ([0x18E80000], .endl 7 false true),
     ([0x19FFFFFB], .join 0xFFFFFB),
     ([0x1A000000], .region),
     ([0x1B020000], .sign 2),
     ([0x1C050000], .next 5),
     ([0x1D000000], .exit),
     ([0x1E035000], .rep 3 1 1 0 0),
     ([0x5E035000, 0x00380000, 0x00000000], .repX 3 1 1 0 0),
     ([0x1F020000], .fence 2)] = true := by decide +kernel

theorem test_decode_base_x : decodesAll
    [([0x40000000, 0x00100000, 0x00000000], .nopX { XF.zero with pix := 2 }),
     ([0x41030102, 0x001C0000, 0x00000000], .iaddX { XF.ofB 3 1 2 with pix := 3, pneg := true }),
     ([0x42030102, 0x00380001, 0x00000000], .isubX { XF.ofB 3 1 2 with own := 1 }),
     ([0x43030102, 0x00380020, 0x00000000], .imulX { XF.ofB 3 1 2 with sa := true }),
     ([0x44030100, 0x00380080, 0x000000FF], .andX { XF.ofB 3 1 0 with c := 1, w2 := 0xFF }),
     ([0x45030102, 0x003A0000, 0x00000000], .orX { XF.ofB 3 1 2 with fea := true }),
     ([0x46030102, 0x00390000, 0x00000000], .xorX { XF.ofB 3 1 2 with feb := true }),
     ([0x47030102, 0x00380010, 0x00000000], .shlX { XF.ofB 3 1 2 with sb := true }),
     ([0x48030102, 0x00380000, 0x00000000], .shrX (XF.ofB 3 1 2)),
     ([0x49030102, 0x00380001, 0x00000000], .sraX { XF.ofB 3 1 2 with own := 1 }),
     ([0x4A030100, 0x00380000, 0xFFFFFFFE], .iaddImmX { XF.ofB 3 1 0 with w2 := 0xFFFFFFFE }),
     ([0x4B030100, 0x00380020, 0x00000000], .movX { XF.ofB 3 1 0 with sa := true }),
     ([0x4C030000, 0x00380000, 0x12345678], .moviX { XF.ofB 3 0 0 with w2 := 0x12345678 }),
     ([0x4D030102, 0x00380001, 0x00000000], .faddX { XF.ofB 3 1 2 with own := 1 }),
     ([0x4E030102, 0x00380000, 0x00000000], .fmulX (XF.ofB 3 1 2)),
     ([0x4F030102, 0x00380200, 0x00000000], .ffmaX { XF.ofB 3 1 2 with c := 4 }),
     ([0x50030102, 0x00380000, 0x00000000], .fsubX (XF.ofB 3 1 2))] = true := by decide +kernel

theorem test_decode_literal_x : decodesAll
    [([0xCC050000, 0x00380040, 0x00000000, 0x89ABCDEF, 0x01234567], .moviB64X { XF.ofB 5 0 0 with sd := true } 0x0123456789ABCDEF),
     ([0xEB040809, 0x00380070, 0x40040000, 0x00400000, 0x00010000], .panrsv { XF.ofB 4 8 9 with sd := true, sa := true, sb := true, w2 := 0x40040000 } 0x1000000400000),
     ([0xEB000809, 0x04380030, 0x40040000, 0x00400000, 0x00010000], .panput { XF.ofB 0 8 9 with sa := true, sb := true, w2 := 0x40040000 } 0x1000000400000)] = true := by decide +kernel

theorem test_decode_mem_x : decodesAll
    [([0x51060400, 0x00380000, 0x00000140], .ldCB32X { XF.ofB 6 4 0 with w2 := 0x140 }),
     ([0x52060400, 0x00380000, 0xFFFFFFFC], .stCB32X { XF.ofB 6 4 0 with w2 := 0xFFFFFFFC }),
     ([0x53060400, 0x00380000, 0x00000140], .ldGB32X { XF.ofB 6 4 0 with w2 := 0x140 }),
     ([0x54060400, 0x00380000, 0x00000140], .stGB32X { XF.ofB 6 4 0 with w2 := 0x140 }),
     ([0x66060400, 0x01780000, 0x00000020], .ld { XF.ofB 6 4 0 with var := 5, w2 := 0x20 }),
     ([0x66060400, 0x05380000, 0x00000020], .st { XF.ofB 6 4 0 with var := 4, w2 := 0x20 }),
     ([0x66060400, 0x09380381, 0x00000000], .ldfe { XF.ofB 6 4 0 with var := 4, c := 7, own := 1 }),
     ([0x66060400, 0x0D380000, 0x00000000], .stfe { XF.ofB 6 4 0 with var := 4 }),
     ([0x66000400, 0x10380000, 0x00000000], .feset (XF.ofB 0 4 0)),
     ([0x66000400, 0x14380001, 0x00000000], .feclr { XF.ofB 0 4 0 with own := 1 }),
     ([0x66000400, 0x18380000, 0x00000000], .pref (XF.ofB 0 4 0))] = true := by decide +kernel

theorem test_decode_control_x : decodesAll
    [([0x55000000, 0x00380000, 0x00000040], .braX { XF.zero with w2 := 0x40 }),
     ([0x56500000, 0x00380000, 0xFFFFFFF0], .brcX { XF.ofB 80 0 0 with w2 := 0xFFFFFFF0 }),
     ([0x57000008, 0x00380000, 0x00000100], .loopX { XF.ofB 0 0 8 with w2 := 0x100 }),
     ([0x5B030000, 0x00380000, 0x00000000], .signX (XF.ofB 3 0 0)),
     ([0x5D000000, 0x00080000, 0x00000000], .exitX { XF.zero with pix := 1 }),
     ([0x5F020000, 0x00380000, 0x00000000], .fenceX (XF.ofB 2 0 0)),
     ([0x65000400, 0x00380000, 0x00000003], .jtab { XF.ofB 0 4 0 with w2 := 0x3 }),
     ([0x65000000, 0x04380100, 0x00000040], .call { XF.zero with c := 2, w2 := 0x40 }),
     ([0x65000000, 0x08380000, 0x00000000], .ret (XF.zero)),
     ([0x65000200, 0x0C380000, 0x00000000], .tkill (XF.ofB 0 2 0)),
     ([0x65000000, 0x10380000, 0x00000008], .yield { XF.zero with w2 := 0x8 }),
     ([0x65000000, 0x14380080, 0x00000040], .tryRegion { XF.zero with c := 1, w2 := 0x40 }),
     ([0x65000000, 0x18380000, 0x00000000], .commit (XF.zero)),
     ([0x65000000, 0x1C380000, 0x00000005], .abort { XF.zero with w2 := 0x5 }),
     ([0x65000000, 0x20380000, 0x00000003], .trap { XF.zero with w2 := 0x3 }),
     ([0x65000000, 0x24380000, 0x00000000], .tret (XF.zero)),
     ([0x65000000, 0x28380000, 0x00000001], .bkpt { XF.zero with w2 := 0x1 })] = true := by decide +kernel

theorem test_decode_int_x : decodesAll
    [([0x60030102, 0x00780000, 0x00000000], .imulh { XF.ofB 3 1 2 with var := 1 }),
     ([0x60030102, 0x04380200, 0x00000000], .imad { XF.ofB 3 1 2 with c := 4 }),
     ([0x60030102, 0x08380000, 0x00000000], .idiv (XF.ofB 3 1 2)),
     ([0x60030102, 0x0C780000, 0x00000000], .irem { XF.ofB 3 1 2 with var := 1 }),
     ([0x60030102, 0x10380000, 0x00000000], .imin (XF.ofB 3 1 2)),
     ([0x60030102, 0x14780000, 0x00000000], .imax { XF.ofB 3 1 2 with var := 1 }),
     ([0x60030100, 0x18380000, 0x00000000], .iabs (XF.ofB 3 1 0)),
     ([0x60030100, 0x1C380000, 0x00000000], .ineg (XF.ofB 3 1 0)),
     ([0x60030102, 0x20380000, 0x00000000], .andn (XF.ofB 3 1 2)),
     ([0x60030100, 0x24380000, 0x00000000], .not (XF.ofB 3 1 0)),
     ([0x60030102, 0x28380000, 0x00000000], .rotl (XF.ofB 3 1 2)),
     ([0x60030100, 0x2C380000, 0x00000000], .clz (XF.ofB 3 1 0)),
     ([0x60030100, 0x30380000, 0x00000000], .popc (XF.ofB 3 1 0)),
     ([0x60030100, 0x34380000, 0x00000000], .brev (XF.ofB 3 1 0)),
     ([0x60030100, 0x38380100, 0x00000000], .bfx { XF.ofB 3 1 0 with c := 2 }),
     ([0x60030102, 0x3C380200, 0x00000000], .bfi { XF.ofB 3 1 2 with c := 4 }),
     ([0x60030102, 0x40380280, 0x00000000], .sel { XF.ofB 3 1 2 with c := 5 }),
     ([0x60020506, 0x44B80000, 0x00000000], .icmp { XF.ofB 2 5 6 with var := 2 }),
     ([0x60030102, 0x48380000, 0x00000002], .lea { XF.ofB 3 1 2 with w2 := 0x2 }),
     ([0x60030102, 0x4C380200, 0x00000000], .idot4 { XF.ofB 3 1 2 with c := 4 }),
     ([0x61010203, 0x00380001, 0x00000000], .pand { XF.ofB 1 2 3 with own := 1 }),
     ([0x61010203, 0x04380000, 0x00000000], .por (XF.ofB 1 2 3)),
     ([0x61010203, 0x08380000, 0x00000000], .pxor (XF.ofB 1 2 3)),
     ([0x61010200, 0x0C380000, 0x00000000], .pnot (XF.ofB 1 2 0)),
     ([0x61010200, 0x10380000, 0x00000000], .pmov (XF.ofB 1 2 0))] = true := by decide +kernel

theorem test_decode_fp_x : decodesAll
    [([0x62030102, 0x00380000, 0x00000000], .fmin (XF.ofB 3 1 2)),
     ([0x62030102, 0x04380002, 0x00000000], .fmax { XF.ofB 3 1 2 with own := 2 }),
     ([0x62030100, 0x08380000, 0x00000000], .fabs (XF.ofB 3 1 0)),
     ([0x62030100, 0x0C380001, 0x00000000], .fneg { XF.ofB 3 1 0 with own := 1 }),
     ([0x62020102, 0x10B80000, 0x00000000], .fcmp { XF.ofB 2 1 2 with var := 2 }),
     ([0x62030100, 0x14380000, 0x00000000], .fclass (XF.ofB 3 1 0)),
     ([0x62030100, 0x18380000, 0x00000400], .frnd { XF.ofB 3 1 0 with w2 := 0x400 }),
     ([0x62030100, 0x1C380000, 0x00000010], .fcvt { XF.ofB 3 1 0 with w2 := 0x10 }),
     ([0x63030100, 0x00380000, 0x00000000], .frcp (XF.ofB 3 1 0)),
     ([0x63030100, 0x04380000, 0x00000000], .frsq (XF.ofB 3 1 0)),
     ([0x63030100, 0x08380000, 0x00000000], .fsqrt (XF.ofB 3 1 0)),
     ([0x63030100, 0x0C380000, 0x00000000], .fexp2 (XF.ofB 3 1 0)),
     ([0x63030100, 0x10380000, 0x00000000], .flog2 (XF.ofB 3 1 0)),
     ([0x63030100, 0x14380000, 0x00000000], .fsin (XF.ofB 3 1 0)),
     ([0x63030100, 0x18380000, 0x00000000], .fcos (XF.ofB 3 1 0)),
     ([0x63030100, 0x1C380000, 0x00000000], .ftanh (XF.ofB 3 1 0)),
     ([0x64030102, 0x00380000, 0x00000000], .qnt (XF.ofB 3 1 2)),
     ([0x64030102, 0x04780000, 0x00000000], .dqnt { XF.ofB 3 1 2 with var := 1 }),
     ([0x64030800, 0x08380020, 0x00000000], .cbld { XF.ofB 3 8 0 with sa := true }),
     ([0x64030800, 0x0C380020, 0x00000000], .ctld { XF.ofB 3 8 0 with sa := true }),
     ([0x64030102, 0x10380000, 0x00000000], .pack (XF.ofB 3 1 2)),
     ([0x64030100, 0x14380000, 0x00000001], .unpk { XF.ofB 3 1 0 with w2 := 0x1 })] = true := by decide +kernel

theorem test_decode_sync_x : decodesAll
    [([0x67030402, 0x00380000, 0x00000000], .atom (XF.ofB 3 4 2)),
     ([0x67030402, 0x04380280, 0x00000000], .cas { XF.ofB 3 4 2 with c := 5 }),
     ([0x67030402, 0x08380000, 0x00000000], .fatom (XF.ofB 3 4 2)),
     ([0x68000000, 0x00380000, 0x00000000], .sdrain (XF.zero)),
     ([0x68030402, 0x04380000, 0x00000004], .waitad { XF.ofB 3 4 2 with w2 := 0x4 }),
     ([0x68030000, 0x08780000, 0x00000002], .waitc { XF.ofB 3 0 0 with var := 1, w2 := 0x2 }),
     ([0x68030000, 0x0C380000, 0x00000001], .bar { XF.ofB 3 0 0 with w2 := 0x1 }),
     ([0x68030000, 0x10380000, 0x00000101], .barinit { XF.ofB 3 0 0 with w2 := 0x101 }),
     ([0x68030000, 0x14380000, 0x00000001], .barkill { XF.ofB 3 0 0 with w2 := 0x1 }),
     ([0x68030400, 0x18380000, 0x00002001], .abinit { XF.ofB 3 4 0 with w2 := 0x2001 }),
     ([0x68030400, 0x1C380000, 0x00000000], .abwait (XF.ofB 3 4 0)),
     ([0x68030400, 0x20780000, 0x00000000], .abtest { XF.ofB 3 4 0 with var := 1 }),
     ([0x68030400, 0x14780000, 0x00000000], .barkillAb { XF.ofB 3 4 0 with var := 1 }),
     ([0x69030102, 0x00380500, 0x00000000], .shf { XF.ofB 3 1 2 with c := 10 }),
     ([0x69010200, 0x04380000, 0x00000000], .vote (XF.ofB 1 2 0)),
     ([0x69030200, 0x08380000, 0x00000000], .ballot (XF.ofB 3 2 0)),
     ([0x69030100, 0x0C380000, 0x00000000], .redux (XF.ofB 3 1 0))] = true := by decide +kernel

theorem test_decode_engine_matrix_x : decodesAll
    [([0x6A001000, 0x00380020, 0x00000001], .copy { XF.ofB 0 16 0 with sa := true, w2 := 0x1 }),
     ([0x6A030800, 0x04380020, 0x00000001], .chain { XF.ofB 3 8 0 with sa := true, w2 := 0x1 }),
     ([0x6A001000, 0x08380020, 0x00000003], .gather { XF.ofB 0 16 0 with sa := true, w2 := 0x3 }),
     ([0x6A011000, 0x0C380020, 0x00000000], .qbind { XF.ofB 1 16 0 with sa := true }),
     ([0x6A010000, 0x10380000, 0x00000000], .qunb (XF.ofB 1 0 0)),
     ([0x6A010000, 0x14380000, 0x00000000], .qflush (XF.ofB 1 0 0)),
     ([0x6B030000, 0x08380000, 0x00000002], .panrel { XF.ofB 3 0 0 with w2 := 0x2 }),
     ([0x6B080000, 0x0C380000, 0x00000002], .panqry { XF.ofB 8 0 0 with w2 := 0x2 }),
     ([0x6C000800, 0x00380820, 0x0007FF88], .mldb { XF.ofB 0 8 0 with c := 16, sa := true, w2 := 0x7FF88 }),
     ([0x6C030400, 0x04380120, 0x0007FF88], .mma { XF.ofB 3 4 0 with c := 2, sa := true, w2 := 0x7FF88 }),
     ([0x6C04080A, 0x08382830, 0x002103E8], .mmaw { XF.ofB 4 8 10 with c := 80, sa := true, sb := true, w2 := 0x2103E8 }),
     ([0x6C010000, 0x0C380800, 0x00000000], .mzero { XF.ofB 1 0 0 with c := 16 }),
     ([0x6C010800, 0x10380820, 0x00000000], .msta { XF.ofB 1 8 0 with c := 16, sa := true }),
     ([0x6C010800, 0x14380820, 0x00000000], .mlda { XF.ofB 1 8 0 with c := 16, sa := true }),
     ([0x6C010800, 0x18380820, 0x00000000], .scac { XF.ofB 1 8 0 with c := 16, sa := true }),
     ([0x6C010000, 0x1C380000, 0x00000005], .cvset { XF.ofB 1 0 0 with w2 := 0x5 }),
     ([0x6C030000, 0x20380080, 0x00000000], .mstat { XF.ofB 3 0 0 with c := 1 })] = true := by decide +kernel

theorem test_decode_system_x : decodesAll
    [([0x6D032100, 0x00380000, 0x00000000], .csrr (XF.ofB 3 33 0)),
     ([0x6D210300, 0x04380000, 0x00000000], .csrw (XF.ofB 33 3 0)),
     ([0x6D210300, 0x08380000, 0x00000000], .csrs (XF.ofB 33 3 0)),
     ([0x6D210300, 0x0C380000, 0x00000000], .csrc (XF.ofB 33 3 0)),
     ([0x6D000000, 0x10380000, 0x00130011], .mode { XF.zero with w2 := 0x130011 }),
     ([0x6D030000, 0x14380000, 0x00000000], .time (XF.ofB 3 0 0)),
     ([0x6D030000, 0x18380000, 0x00000000], .enrg (XF.ofB 3 0 0)),
     ([0x6D030405, 0x1C380030, 0x00000000], .quote { XF.ofB 3 4 5 with sa := true, sb := true }),
     ([0x6D030400, 0x20380020, 0x00000000], .accept { XF.ofB 3 4 0 with sa := true }),
     ([0x6D030400, 0x24380020, 0x00000000], .decline { XF.ofB 3 4 0 with sa := true }),
     ([0x6D000000, 0x28380000, 0x00000064], .sleep { XF.zero with w2 := 0x64 }),
     ([0x6D000000, 0x2C380000, 0x00080010], .blst { XF.zero with w2 := 0x80010 }),
     ([0x6D000000, 0x30380000, 0x00000007], .halt { XF.zero with w2 := 0x7 })] = true := by decide +kernel

/-- Words written out in the spec's own examples (chapters 08 to 15 and 21 to 25). -/
theorem test_decode_spec_words_1 : decodesAll
    [([0x47030100, 0x00380080, 0x00000005], .shlX { XF.ofB 3 1 0 with c := 1, w2 := 5 }),
     ([0x41020406, 0x00380103, 0x00000000], .iaddX { XF.ofB 2 4 6 with c := 2, own := 3 }),
     ([0x4A030100, 0x00380002, 0xFFFFFFFE], .iaddImmX { XF.ofB 3 1 0 with own := 2, w2 := 0xFFFFFFFE }),
     ([0x60020100, 0x45380000, 0x00000000], .icmp { XF.ofB 2 1 0 with var := 4 }),
     ([0x4D040500, 0x00380081, 0x3FC03FC0], .faddX { XF.ofB 4 5 0 with c := 1, own := 1, w2 := 0x3FC03FC0 }),
     ([0x62020506, 0x10B80000, 0x00000000], .fcmp { XF.ofB 2 5 6 with var := 2 }),
     ([0x62080102, 0x1C780000, 0x00000030], .fcvt { XF.ofB 8 1 2 with var := 1, w2 := 0x30 }),
     ([0x62080304, 0x1CB80000, 0x00000030], .fcvt { XF.ofB 8 3 4 with var := 2, w2 := 0x30 }),
     ([0x63030900, 0x08380000, 0x00000000], .fsqrt (XF.ofB 3 9 0)),
     ([0x64060200, 0x00780000, 0x00000006], .qnt { XF.ofB 6 2 0 with var := 1, w2 := 6 }),
     ([0x64020400, 0x08380021, 0x00000100], .cbld { XF.ofB 2 4 0 with sa := true, own := 1, w2 := 0x100 }),
     ([0x66060420, 0x01380000, 0x00000040], .ld { XF.ofB 6 4 0x20 with var := 4, w2 := 0x40 }),
     ([0x660704A0, 0x05380000, 0x00000040], .st { XF.ofB 7 4 0xA0 with var := 4, w2 := 0x40 }),
     ([0x68000000, 0x00380000, 0x00000000], .sdrain (XF.zero)),
     ([0x67020405, 0x04380300, 0x00000048], .cas { XF.ofB 2 4 5 with c := 6, w2 := 0x48 }),
     ([0x69020100, 0x00B80280, 0x00000003], .shf { XF.ofB 2 1 0 with var := 2, c := 5, w2 := 3 }),
     ([0x65000000, 0x14780100, 0x00000040], .tryRegion { XF.zero with var := 1, c := 2, w2 := 0x40 }),
     ([0x65000000, 0x18380000, 0x00000000], .commit (XF.zero)),
     ([0x6C020000, 0x1C380000, 0x00000040], .cvset { XF.ofB 2 0 0 with w2 := 0x40 }),
     ([0x6A001000, 0x00380020, 0x00000003], .copy { XF.ofB 0 16 0 with sa := true, w2 := 3 }),
     ([0x6A030800, 0x04380061, 0x00000002], .chain { XF.ofB 3 8 0 with sd := true, sa := true, own := 1, w2 := 2 }),
     ([0x6A001800, 0x08380020, 0x00000001], .gather { XF.ofB 0 24 0 with sa := true, w2 := 1 })] = true := by decide +kernel

/-- Words written out in the spec's own examples (chapters 08 to 15 and 21 to 25). -/
theorem test_decode_spec_words_2 : decodesAll
    [([0x6A000800, 0x0C380020, 0x00000000], .qbind { XF.ofB 0 8 0 with sa := true }),
     ([0xEB040102, 0x00380070, 0x500C1000, 0x80FFFFFC, 0x0012FFFC], .panrsv { XF.ofB 4 1 2 with sd := true, sa := true, sb := true, w2 := 0x500C1000 } 0x0012FFFC80FFFFFC),
     ([0xEB000804, 0x04380030, 0x500C3000, 0x80FFFFFC, 0x0012FFFC], .panput { XF.ofB 0 8 4 with sa := true, sb := true, w2 := 0x500C3000 } 0x0012FFFC80FFFFFC),
     ([0x6D210000, 0x0C380080, 0x00000001], .csrc { XF.ofB 0x21 0 0 with c := 1, w2 := 1 }),
     ([0x6D000000, 0x10380000, 0x00130011], .mode { XF.zero with w2 := 0x130011 }),
     ([0x65000000, 0x20380000, 0x00000005], .trap { XF.zero with w2 := 5 }),
     ([0x6D100000, 0x04380080, 0x00000401], .csrw { XF.ofB 0x10 0 0 with c := 1, w2 := 0x401 }),
     ([0x8C050000, 0x00001000, 0x00000010], .moviB64 5 0x1000001000),
     ([0x60060608, 0x08380000, 0x00000000], .idiv (XF.ofB 6 6 8)),
     ([0x60010602, 0x44780000, 0x00000000], .icmp { XF.ofB 1 6 2 with var := 1 }),
     ([0x60030208, 0x48780000, 0x00000006], .lea { XF.ofB 3 2 8 with var := 1, w2 := 6 }),
     ([0x62090800, 0x1C380000, 0x00000007], .fcvt { XF.ofB 9 8 0 with w2 := 7 }),
     ([0x65001F00, 0x0C380020, 0x00000000], .tkill { XF.ofB 0 31 0 with sa := true }),
     ([0x5D000000, 0x00080000, 0x00000000], .exitX { XF.zero with pix := 1 }),
     ([0x68020201, 0x04783A00, 0x00000000], .waitad { XF.ofB 2 2 1 with var := 1, c := 0x74 }),
     ([0x61000200, 0x10B80000, 0x00000000], .pmov { XF.ofB 0 2 0 with var := 2 }),
     ([0x68090000, 0x08B80A00, 0x00000000], .waitc { XF.ofB 9 0 0 with var := 2, c := 20 }),
     ([0x6C040600, 0x10380820, 0x00000000], .msta { XF.ofB 4 6 0 with c := 16, sa := true }),
     ([0x6C000000, 0x00380820, 0x0007FF88], .mldb { XF.zero with c := 16, sa := true, w2 := 0x7FF88 }),
     ([0x68090000, 0x10380000, 0x00000400], .barinit { XF.ofB 9 0 0 with w2 := 0x400 }),
     ([0x68090000, 0x0C380600, 0x00000000], .bar { XF.ofB 9 0 0 with c := 12 }),
     ([0x6D000200, 0x28780700, 0x00000000], .sleep { XF.ofB 0 2 0 with var := 1, c := 14 }),
     ([0x6D000000, 0x2C380000, 0x00100020], .blst { XF.zero with w2 := 0x100020 })] = true := by decide +kernel

/-- Word lists that are no instruction, with the ILLEGAL detail of R205: OPCODE, FUNCTION, FORM, FIELD, FETCH. -/
theorem test_words_refused :
    ([([0x2E000000], 1), ([0x20000000], 1), ([0x6E000000, 0x00380000, 0], 1), ([0xA0000000, 0, 0], 1), ([0x60000000, 0x50380000, 0], 2),
      ([0x41030102, 0x00780000, 0], 2), ([0x58000000, 0x00380000, 0], 7), ([0xC1030102, 0x00380000, 0, 0, 0], 7), ([0x6B040102, 0x00380070, 0], 7),
      ([0x00000001], 8), ([0x16410000], 8), ([0x1D000100], 8), ([0x41030102, 0x00380000], 10), ([], 10)] : List (List Word × Nat)).all
      (fun p => decide (decode p.1 = .bad p.2)) = true := by decide +kernel

/-! ## Ill-formed terms -/

/-- Each term is ill-formed with its ILLEGAL detail, and so are the words that it would encode to. -/
def refusedWith (l : List (Instr × Nat)) : Bool :=
  l.all fun p => decide (p.1.illegal = some p.2) && !p.1.wf && decide (decode (encode p.1) = .bad p.2)

/-- An ill-formed term for each check of the X-form fields of every instruction (R193 to R200), with the ILLEGAL detail of R205. -/
theorem test_ill_formed_1 : refusedWith
    [(.nopX { XF.zero with sa := true }, 3),
     (.copy { XF.ofB 0 16 0 with w2 := 0x1 }, 3),
     (.iaddX { XF.ofB 3 1 2 with qp := true }, 3),
     (.iaddX { XF.ofB 3 1 2 with sd := true }, 3),
     (.nopX { XF.zero with pneg := true }, 4),
     (.tkill { XF.ofB 0 2 0 with pix := 1 }, 4),
     (.iaddX { XF.ofB 3 1 2 with pix := 1, sd := true, sa := true, sb := true }, 4),
     (.moviX { XF.ofB 3 0 0 with fea := true }, 5),
     (.shlX { XF.ofB 3 1 0 with feb := true, c := 1 }, 5),
     (.iaddX { XF.ofB 3 64 0 with sa := true }, 6),
     (.moviB64X (XF.ofB 128 0 0) 0x0, 6),
     (.lea { XF.ofB 32 1 2 with sd := true, sa := true, sb := true }, 6),
     (.ld { XF.ofB 2 4 0 with var := 6 }, 6),
     (.panqry (XF.ofB 251 0 0), 6),
     (.panqry { XF.ofB 59 0 0 with sd := true }, 6),
     (.pand (XF.ofB 8 0 0), 6),
     (.cvset (XF.ofB 16 0 0), 6),
     (.mzero { XF.ofB 16 0 0 with c := 16 }, 6),
     (.copy { XF.ofB 0 49 0 with sa := true }, 6),
     (.nopX (XF.ofB 1 0 0), 8),
     (.copy { XF.ofB 0 17 0 with sa := true }, 8),
     (.movX { XF.ofB 3 1 0 with w2 := 0x1 }, 8),
     (.iaddX { XF.ofB 3 0 0 with var := 1 }, 2),
     (.tret { XF.zero with pix := 2 }, 4)] = true := by decide +kernel

/-- An ill-formed term for each check of integers (R210 to R220), with the ILLEGAL detail of R205. -/
theorem test_ill_formed_2 : refusedWith
    [(.imin { XF.zero with own := 2 }, 3),
     (.iaddX { XF.zero with c := 2 }, 3),
     (.iaddX { XF.zero with c := 4 }, 8),
     (.iaddImmX { XF.zero with c := 2 }, 3),
     (.iaddImmX { XF.zero with c := 4 }, 8),
     (.clz { XF.zero with var := 1 }, 2),
     (.clz { XF.zero with own := 2 }, 3),
     (.imulh { XF.zero with var := 3 }, 2),
     (.imad { XF.zero with var := 3 }, 2),
     (.imad { XF.zero with own := 2 }, 3),
     (.bfx { XF.zero with var := 4 }, 2),
     (.bfx { XF.zero with own := 2 }, 3),
     (.bfx { XF.zero with var := 2, w2 := 0x10000 }, 8),
     (.bfi { XF.zero with var := 2 }, 2),
     (.bfi { XF.zero with own := 2 }, 3),
     (.bfi { XF.zero with var := 1, w2 := 0x10000 }, 8),
     (.sel { XF.zero with var := 1 }, 2),
     (.sel { XF.zero with own := 2 }, 3),
     (.icmp { XF.zero with var := 10 }, 2),
     (.lea { XF.zero with var := 2 }, 2),
     (.lea { XF.zero with own := 1 }, 3),
     (.lea { XF.zero with w2 := 0x10 }, 8),
     (.idot4 { XF.zero with var := 3 }, 2),
     (.idot4 { XF.zero with own := 2 }, 3),
     (.movX { XF.zero with own := 2 }, 3),
     (.moviX { XF.zero with own := 1 }, 3),
     (.moviB64X { XF.zero with own := 1 } 0x0, 3),
     (.sdrain { XF.zero with var := 1 }, 2),
     (.sdrain { XF.zero with own := 1 }, 3),
     (.pand { XF.zero with var := 1 }, 2),
     (.pnot { XF.zero with own := 2 }, 3),
     (.pmov { XF.zero with var := 3 }, 2),
     (.pmov { XF.zero with own := 2 }, 3),
     (.pmov { XF.zero with var := 2, sd := true }, 3)] = true := by decide +kernel

/-- An ill-formed term for each check of floating point and narrow formats (chapter 12), with the ILLEGAL detail of R205. -/
theorem test_ill_formed_3 : refusedWith
    [(.fmin { XF.zero with var := 1 }, 2),
     (.faddX { XF.zero with own := 3 }, 3),
     (.faddX { XF.zero with c := 2 }, 8),
     (.ffmaX { XF.zero with own := 3 }, 3),
     (.fabs { XF.zero with var := 1 }, 2),
     (.frcp { XF.zero with own := 3 }, 3),
     (.fcmp { XF.zero with var := 8 }, 2),
     (.frnd { XF.zero with var := 1 }, 2),
     (.frnd { XF.zero with own := 3 }, 3),
     (.frnd { XF.zero with w2 := 0x100 }, 8),
     (.frnd { XF.zero with w2 := 0x1 }, 8),
     (.frnd { XF.zero with w2 := 0x800 }, 8),
     (.fcvt { XF.zero with var := 3 }, 2),
     (.fcvt { XF.zero with own := 1 }, 3),
     (.fcvt { XF.zero with w2 := 0x1000 }, 8),
     (.fcvt { XF.zero with w2 := 0x300 }, 8),
     (.fcvt { XF.zero with w2 := 0xD }, 8),
     (.fcvt { XF.zero with w2 := 0x55 }, 8),
     (.fcvt { XF.zero with var := 1, w2 := 0x8 }, 8),
     (.fcvt { XF.zero with var := 2, w2 := 0x10 }, 8),
     (.fcvt { XF.zero with w2 := 0x800 }, 8),
     (.qnt { XF.zero with var := 2 }, 2),
     (.qnt { XF.zero with own := 1 }, 3),
     (.qnt { XF.zero with var := 1, w2 := 0x10 }, 8),
     (.qnt { XF.zero with w2 := 0x4 }, 8),
     (.dqnt { XF.zero with var := 3 }, 2),
     (.dqnt { XF.zero with own := 1 }, 3),
     (.dqnt { XF.zero with w2 := 0x10 }, 8),
     (.dqnt { XF.zero with var := 1, w2 := 0x4 }, 8),
     (.dqnt { XF.zero with var := 2, w2 := 0x8 }, 8),
     (.cbld { XF.zero with var := 1, sa := true }, 2),
     (.cbld { XF.zero with sa := true, own := 3 }, 3),
     (.cbld (XF.zero), 3),
     (.cbld { XF.ofB 16 0 0 with sa := true }, 8),
     (.ctld { XF.ofB 4 0 0 with sa := true }, 8),
     (.pack { XF.zero with var := 4 }, 2),
     (.pack { XF.zero with own := 1 }, 3),
     (.unpk { XF.zero with var := 3 }, 2),
     (.unpk { XF.zero with own := 2 }, 3),
     (.unpk { XF.zero with w2 := 0x2 }, 8)] = true := by decide +kernel

/-- An ill-formed term for each check of control (R223 to R236, R276), with the ILLEGAL detail of R205. -/
theorem test_ill_formed_4 : refusedWith
    [(.braX { XF.zero with own := 1 }, 3),
     (.braX { XF.zero with w2 := 0x2 }, 8),
     (.brcX { XF.zero with own := 1 }, 3),
     (.brcX { XF.zero with w2 := 0x2 }, 8),
     (.brcX (XF.ofB 1 0 0), 8),
     (.loopX { XF.ofB 0 0 1 with own := 1 }, 3),
     (.loopX (XF.zero), 8),
     (.signX { XF.zero with own := 1 }, 3),
     (.signX (XF.ofB 16 0 0), 8),
     (.fenceX { XF.zero with own := 1 }, 3),
     (.fenceX (XF.ofB 4 0 0), 8),
     (.jtab { XF.zero with var := 1, w2 := 0x1 }, 2),
     (.jtab { XF.zero with own := 1, w2 := 0x1 }, 3),
     (.jtab (XF.zero), 8),
     (.jtab { XF.zero with w2 := 0x1001 }, 8),
     (.call { XF.zero with var := 1, c := 1 }, 2),
     (.call { XF.zero with c := 1, own := 1 }, 3),
     (.call (XF.zero), 8),
     (.call { XF.zero with c := 33 }, 8),
     (.tkill { XF.zero with var := 1 }, 2),
     (.tkill { XF.zero with own := 1 }, 3),
     (.yield { XF.zero with var := 1, w2 := 0x1 }, 2),
     (.yield { XF.zero with own := 1, w2 := 0x1 }, 3),
     (.yield (XF.zero), 8),
     (.yield { XF.zero with w2 := 0x100 }, 8),
     (.trap { XF.zero with w2 := 0x100 }, 8),
     (.halt { XF.zero with w2 := 0x10000 }, 8),
     (.tryRegion { XF.zero with var := 2 }, 2),
     (.tryRegion { XF.zero with own := 1 }, 3),
     (.tryRegion { XF.zero with c := 9 }, 8),
     (.loop 3 0, 8),
     (.endl 3 false true, 8),
     (.endl 7 true true, 8),
     (.rep 3 3 0 0 0, 8),
     (.repX 3 0 3 0 0, 8),
     (.rep 3 0 0 3 0, 8),
     (.rep 3 0 0 0 3, 8)] = true := by decide +kernel

/-- An ill-formed term for each check of memory, atomics and synchronisation (chapter 13), with the ILLEGAL detail of R205. -/
theorem test_ill_formed_5 : refusedWith
    [(.ld { XF.zero with var := 7 }, 2),
     (.ld { XF.zero with own := 1 }, 3),
     (.ld { XF.zero with var := 6, sd := true, sa := true }, 3),
     (.ld (XF.ofB 0 0 5), 8),
     (.ld (XF.ofB 0 0 64), 8),
     (.ld (XF.ofB 0 0 36), 8),
     (.ld (XF.ofB 0 0 9), 8),
     (.st { XF.zero with var := 1 }, 2),
     (.st { XF.zero with var := 8 }, 2),
     (.st { XF.zero with own := 1 }, 3),
     (.st (XF.ofB 0 0 5), 8),
     (.st (XF.ofB 0 0 8), 8),
     (.st (XF.ofB 0 0 36), 8),
     (.st (XF.ofB 0 0 64), 8),
     (.ldCB32X { XF.zero with own := 1 }, 3),
     (.ldfe { XF.ofB 0 0 1 with var := 3 }, 2),
     (.ldfe { XF.ofB 0 0 5 with var := 4 }, 8),
     (.ldfe { XF.ofB 0 0 9 with var := 4 }, 8),
     (.stfe { XF.ofB 0 0 1 with var := 7 }, 2),
     (.stfe { XF.ofB 0 0 1 with var := 4, own := 1 }, 3),
     (.stfe { XF.ofB 0 0 8 with var := 4 }, 8),
     (.feset { XF.zero with var := 1 }, 2),
     (.feclr { XF.zero with own := 2 }, 3),
     (.pref { XF.zero with var := 2 }, 2),
     (.pref { XF.zero with own := 1 }, 3),
     (.pref (XF.ofB 0 0 1), 8),
     (.pref (XF.ofB 0 0 32), 8),
     (.pref { XF.ofB 0 0 8 with var := 1 }, 8),
     (.atom { XF.zero with var := 11 }, 2),
     (.atom { XF.zero with w2 := 0x80 }, 8),
     (.atom { XF.zero with w2 := 0x4 }, 8),
     (.fatom { XF.zero with var := 4 }, 2),
     (.fatom { XF.zero with own := 1 }, 3),
     (.cas { XF.zero with var := 1 }, 2),
     (.cas { XF.zero with own := 2 }, 3),
     (.waitad { XF.zero with var := 10 }, 2),
     (.waitc { XF.zero with var := 6 }, 2),
     (.waitc { XF.zero with own := 1 }, 3),
     (.waitc { XF.zero with c := 32 }, 8),
     (.waitc { XF.zero with w2 := 0x40 }, 8),
     (.bar { XF.zero with var := 1 }, 2),
     (.bar { XF.zero with own := 1 }, 3),
     (.bar { XF.zero with c := 32 }, 8),
     (.bar { XF.zero with w2 := 0x20 }, 8),
     (.barinit { XF.zero with var := 1 }, 2),
     (.barinit { XF.zero with own := 1 }, 3),
     (.barinit { XF.zero with w2 := 0x20 }, 8),
     (.barinit { XF.zero with w2 := 0x2000 }, 8),
     (.barkill { XF.zero with var := 2 }, 2),
     (.barkill { XF.zero with own := 1 }, 3),
     (.barkill { XF.zero with w2 := 0x20 }, 8),
     (.abinit { XF.zero with var := 1, w2 := 0x2001 }, 2),
     (.abinit { XF.zero with own := 3 }, 8),
     (.abinit { XF.zero with w2 := 0x20000 }, 8),
     (.abwait { XF.zero with var := 2 }, 2),
     (.abwait { XF.zero with c := 32 }, 8),
     (.abtest { XF.zero with w2 := 0x1000 }, 8),
     (.abwait { XF.zero with var := 1, w2 := 0x1 }, 8),
     (.shf { XF.zero with own := 2 }, 3),
     (.shf { XF.zero with c := 12 }, 8),
     (.shf { XF.zero with c := 16 }, 8),
     (.vote { XF.zero with var := 3 }, 2),
     (.vote { XF.zero with own := 1 }, 3),
     (.ballot { XF.zero with var := 1 }, 2),
     (.ballot { XF.zero with own := 1 }, 3),
     (.redux { XF.zero with var := 8 }, 2),
     (.redux { XF.zero with own := 2 }, 3)] = true := by decide +kernel

/-- An ill-formed term for each check of engines and pans (chapter 15), with the ILLEGAL detail of R205. -/
theorem test_ill_formed_6 : refusedWith
    [(.copy { XF.ofB 0 16 0 with var := 1, sa := true }, 2),
     (.copy { XF.ofB 0 16 0 with sa := true, own := 1 }, 3),
     (.copy { XF.ofB 0 16 0 with sa := true, w2 := 0x8 }, 8),
     (.gather { XF.ofB 0 16 0 with sa := true, w2 := 0x100 }, 8),
     (.chain { XF.zero with var := 1, sa := true }, 2),
     (.chain (XF.zero), 3),
     (.chain { XF.zero with sa := true, own := 2 }, 8),
     (.chain { XF.zero with sa := true, w2 := 0x8 }, 8),
     (.qbind { XF.ofB 0 8 0 with var := 1, sa := true }, 2),
     (.qbind { XF.ofB 0 8 0 with sa := true, own := 1 }, 3),
     (.qbind { XF.ofB 0 8 0 with sa := true, qp := true }, 3),
     (.qbind { XF.ofB 8 8 0 with sa := true }, 8),
     (.qbind { XF.ofB 0 8 0 with sa := true, w2 := 0x4 }, 8),
     (.qunb { XF.zero with var := 1 }, 2),
     (.qunb { XF.zero with own := 1 }, 3),
     (.qflush { XF.zero with qp := true }, 3),
     (.qflush (XF.ofB 8 0 0), 8),
     (.panrsv { XF.zero with var := 1, sd := true, sa := true, sb := true } 0x0, 2),
     (.panrsv { XF.zero with sd := true, sa := true, sb := true, own := 1 } 0x0, 3),
     (.panrsv { XF.zero with sd := true, sa := true } 0x0, 3),
     (.panput { XF.zero with var := 1, sa := true, sb := true } 0x0, 2),
     (.panput { XF.zero with sa := true, sb := true, own := 1 } 0x0, 3),
     (.panput { XF.zero with sa := true } 0x0, 3),
     (.panrel { XF.zero with var := 2 }, 2),
     (.panrel { XF.zero with own := 1 }, 3),
     (.panrel { XF.zero with w2 := 0x40 }, 8),
     (.panqry { XF.zero with var := 1 }, 2),
     (.panqry { XF.zero with own := 1 }, 3),
     (.panqry { XF.zero with w2 := 0x40 }, 8)] = true := by decide +kernel

/-- An ill-formed term for each check of the matrix unit (chapter 14), with the ILLEGAL detail of R205. -/
theorem test_ill_formed_7 : refusedWith
    [(.mldb { XF.zero with var := 7, sa := true }, 2),
     (.mldb { XF.zero with w2 := 0x7FF88 }, 3),
     (.mldb { XF.zero with sa := true, sb := true, w2 := 0x7FF88 }, 3),
     (.mldb { XF.ofB 0 0 48 with sa := true, w2 := 0x7FF88 }, 8),
     (.mldb { XF.ofB 0 0 64 with sa := true, w2 := 0x7FF88 }, 8),
     (.mldb { XF.ofB 0 0 208 with sa := true, w2 := 0x7FF88 }, 8),
     (.mldb { XF.zero with sa := true }, 8),
     (.mldb { XF.zero with sa := true, w2 := 0x7FF87 }, 8),
     (.mldb { XF.ofB 0 0 1 with sa := true, w2 := 0x7FF88 }, 8),
     (.mldb { XF.ofB 0 0 4 with var := 3, sa := true, w2 := 0x7FF84 }, 8),
     (.mldb { XF.zero with c := 17, sa := true, w2 := 0x7FF88 }, 8),
     (.mldb { XF.zero with c := 32, sa := true, w2 := 0x7FF88 }, 8),
     (.mldb { XF.zero with sa := true, own := 3, w2 := 0x7FF88 }, 8),
     (.mma { XF.zero with var := 7, sa := true, w2 := 0x7FF88 }, 2),
     (.mma { XF.zero with w2 := 0x7FF88 }, 3),
     (.mma { XF.zero with sa := true, sb := true, w2 := 0x7FF88 }, 3),
     (.mma { XF.zero with c := 96, sa := true, sb := true }, 8),
     (.mma { XF.zero with c := 32, sa := true }, 3),
     (.mma { XF.zero with sa := true }, 8),
     (.mma { XF.ofB 0 0 16 with sa := true, w2 := 0x7FF88 }, 8),
     (.mma { XF.ofB 0 0 1 with sa := true, w2 := 0x7FF88 }, 8),
     (.mma { XF.zero with var := 2, c := 32, sa := true, sb := true }, 8),
     (.mma { XF.zero with c := 32, sa := true, sb := true, own := 1 }, 8),
     (.mma { XF.zero with c := 64, sa := true, sb := true }, 8),
     (.mmaw { XF.zero with var := 7, sa := true, sb := true }, 2),
     (.mmaw { XF.zero with sa := true }, 3),
     (.mmaw { XF.zero with var := 2, sa := true, sb := true }, 8),
     (.mmaw { XF.zero with c := 96, sa := true, sb := true, w2 := 0x2103E8 }, 8),
     (.mmaw { XF.zero with sa := true, sb := true, w2 := 0x702103E8 }, 8),
     (.mmaw { XF.zero with sa := true, sb := true, w2 := 0x102103E8 }, 8),
     (.mmaw { XF.zero with sa := true, sb := true, w2 := 0x42103E8 }, 8),
     (.mmaw { XF.zero with sa := true, sb := true, w2 := 0x6103E8 }, 8),
     (.mmaw { XF.zero with sa := true, sb := true, w2 := 0x3F03E8 }, 8),
     (.mmaw { XF.zero with sa := true, sb := true, w2 := 0x2003E8 }, 8),
     (.mmaw { XF.zero with sa := true, sb := true, w2 := 0x211FFF }, 8),
     (.mzero { XF.zero with var := 1 }, 2),
     (.mzero { XF.zero with own := 1 }, 8),
     (.msta (XF.zero), 3),
     (.mlda { XF.zero with sa := true, own := 1 }, 8),
     (.scac { XF.zero with var := 1, sa := true }, 2),
     (.scac (XF.zero), 3),
     (.cvset { XF.zero with var := 1 }, 2),
     (.cvset { XF.zero with own := 1 }, 3),
     (.cvset { XF.zero with w2 := 0x401 }, 8),
     (.mstat { XF.zero with var := 2 }, 2),
     (.mstat { XF.zero with own := 1 }, 3),
     (.mstat { XF.zero with c := 16 }, 8)] = true := by decide +kernel

/-- An ill-formed term for each check of system (chapter 15), with the ILLEGAL detail of R205. -/
theorem test_ill_formed_8 : refusedWith
    [(.csrr { XF.zero with var := 1 }, 2),
     (.csrr { XF.zero with own := 1 }, 3),
     (.csrr (XF.ofB 0 8 0), 6),
     (.csrw { XF.ofB 33 0 0 with var := 1 }, 2),
     (.csrs { XF.ofB 33 0 0 with own := 1 }, 3),
     (.csrc { XF.ofB 33 0 0 with c := 2 }, 8),
     (.csrw (XF.ofB 21 0 0), 6),
     (.mode { XF.zero with var := 1 }, 2),
     (.mode { XF.zero with own := 1 }, 3),
     (.mode { XF.zero with w2 := 0x2000 }, 8),
     (.mode { XF.zero with w2 := 0x20000000 }, 8),
     (.time { XF.zero with var := 1 }, 2),
     (.enrg { XF.zero with var := 2 }, 2),
     (.time { XF.zero with own := 1 }, 3),
     (.quote { XF.zero with var := 1, sa := true, sb := true }, 2),
     (.quote { XF.zero with sa := true, sb := true, own := 1 }, 3),
     (.quote { XF.zero with sa := true }, 3),
     (.accept (XF.zero), 3),
     (.sleep { XF.zero with var := 2 }, 2),
     (.sleep { XF.zero with own := 1, w2 := 0x1 }, 3),
     (.sleep (XF.zero), 8),
     (.sleep { XF.zero with var := 1, c := 32 }, 8),
     (.blst { XF.zero with var := 2 }, 2),
     (.blst { XF.zero with own := 1, w2 := 0x100020 }, 3),
     (.blst (XF.zero), 8),
     (.blst { XF.zero with w2 := 0x110020 }, 8),
     (.blst { XF.zero with w2 := 0x100000 }, 8),
     (.blst { XF.zero with w2 := 0x200020 }, 8)] = true := by decide +kernel

/-! ## Single issues -/

/-- Lanes 0 and 1 of crew 0 issue at PC 0. -/
def ctx : Ctx := { crew := 0, lanes := 3, pc := 0, next := 12 }

/-- Registers from a list of numbers and values. -/
def regs (l : List (Nat × Nat)) : SMap Word := l.foldl (fun m p => SMap.set 0 m p.1 (BitVec.ofNat 32 p.2)) []

/-- A persistent kernel runs with one crew of two threads, whose v registers hold the values of `l`. -/
def st (l : List (Nat × Nat)) : State :=
  let s := withCode State.reset []
  let t : Thread := { live := true, v := regs l }
  { s with cur := some ctx, ex := { s.ex with crews := s.ex.crews.map fun p => (p.1, { p.2 with threads := [(0, t), (1, t)] }) } }

/-- The state that an instruction leaves; reset where it stops. -/
def run (i : Instr) (s : State) : State :=
  match exec i s with
  | .next t => t
  | _ => State.reset

/-- Lane 0 of crew 0. -/
def lane0 (s : State) : Thread := (s.crew 0).thread 0

/-- Each instruction, on the registers given, leaves the value in lane 0's register and goes on. -/
def yields (l : List (Instr × List (Nat × Nat) × Nat × Nat)) : Bool :=
  l.all fun p => let t := lane0 (run p.1 (st p.2.1)); decide ((t.rd p.2.2.1).toNat = p.2.2.2 ∧ t.pc = 12 ∧ t.vE = 0)

/-- Each instruction leaves its register EMPTY, and the value comes with the event that follows. -/
def yieldsLater (l : List (Instr × List (Nat × Nat) × Nat × Nat)) : Bool :=
  l.all fun p =>
    let s := run p.1 (st p.2.1)
    let t := lane0 (run (.longLatencyResult 0 0) s)
    (lane0 s).vE.getLsbD p.2.2.1 && decide ((t.rd p.2.2.1).toNat = p.2.2.2 ∧ t.vE = 0)

/-- B-forms (R210 to R214): wraps, shift counts of the width and more, sign extension. -/
theorem test_integer_b_forms : yields
    [(.nop, [(3, 7)], 3, 7), (.iadd 3 1 2, [(1, 0xFFFFFFFF), (2, 2)], 3, 1), (.isub 3 1 2, [(1, 1), (2, 2)], 3, 0xFFFFFFFF),
     (.imul 3 1 2, [(1, 0x10001), (2, 0x10001)], 3, 0x20001), (.and 3 1 2, [(1, 0xF0F0), (2, 0xFF00)], 3, 0xF000),
     (.or 3 1 2, [(1, 0xF0F0), (2, 0xFF00)], 3, 0xFFF0), (.xor 1 1 2, [(1, 0xF0F0), (2, 0xFF00)], 1, 0x0FF0),
     (.shl 3 1 2, [(1, 1), (2, 32)], 3, 0), (.shr 3 1 2, [(1, 0x80000000), (2, 31)], 3, 1), (.sra 3 1 2, [(1, 0x80000000), (2, 40)], 3, 0xFFFFFFFF),
     (.iaddImm 3 1 0xFE, [(1, 1)], 3, 0xFFFFFFFF), (.mov 3 1, [(1, 9)], 3, 9), (.movi 3 0x8000, [], 3, 0xFFFF8000),
     (.moviB64 2 0x0123456789ABCDEF, [], 5, 0x01234567)] = true := by decide +kernel

/-- X-forms: saturation (R212), 64 bits, immediates, wide destinations. -/
theorem test_integer_x_forms : yields
    [(.nopX XF.zero, [], 3, 0), (.iaddX { XF.ofB 3 1 2 with own := 2 }, [(1, 0x7FFFFFFF), (2, 1)], 3, 0x7FFFFFFF),
     (.isubX { XF.ofB 3 1 2 with own := 2, c := 2 }, [(1, 1), (2, 2)], 3, 0), (.imulX { XF.ofB 3 1 2 with own := 1 }, [(2, 0xFFFFFFFF), (4, 2)], 7, 1),
     (.andX { XF.ofB 3 1 0 with c := 1, w2 := 0xFF }, [(1, 0x1234)], 3, 0x34), (.orX { XF.ofB 3 1 2 with own := 1 }, [(3, 1), (5, 2)], 7, 3),
     (.xorX { XF.ofB 3 1 0 with c := 1, own := 1, w2 := 0xFFFFFFFF }, [], 7, 0xFFFFFFFF), (.shlX { XF.ofB 3 1 8 with own := 1 }, [(2, 1), (8, 33)], 7, 2),
     (.shrX { XF.ofB 3 1 0 with c := 1, own := 1, w2 := 63 }, [(3, 0x80000000)], 6, 1), (.sraX { XF.ofB 3 1 0 with c := 1, w2 := 4 }, [(1, 0x80000000)], 3, 0xF8000000),
     (.iaddImmX { XF.ofB 3 1 0 with own := 1, w2 := 0xFFFFFFFF }, [], 7, 0xFFFFFFFF), (.movX { XF.ofB 3 1 0 with own := 1 }, [(3, 5)], 7, 5),
     (.moviX { XF.ofB 3 0 0 with w2 := 0xFFFF8000 }, [], 3, 0xFFFF8000), (.moviB64X (XF.ofB 3 0 0) 0x500000000, [], 7, 5)] = true := by decide +kernel

/-- The INT group (R216 to R220). -/
theorem test_integer_group : yields
    [(.imulh (XF.ofB 3 1 2), [(1, 0xFFFFFFFF), (2, 1)], 3, 0xFFFFFFFF), (.imulh { XF.ofB 3 1 2 with var := 2 }, [(1, 0xFFFFFFFF), (2, 0xFFFFFFFF)], 3, 0xFFFFFFFF),
     (.imad { XF.ofB 3 1 2 with c := 4, var := 1 }, [(1, 0x7FFFFFFF), (2, 2)], 3, 0x7FFFFFFF), (.imin (XF.ofB 3 1 2), [(1, 0xFFFFFFFF), (2, 1)], 3, 0xFFFFFFFF),
     (.imax { XF.ofB 3 1 2 with var := 1 }, [(1, 0xFFFFFFFF), (2, 1)], 3, 0xFFFFFFFF), (.iabs (XF.ofB 3 1 0), [(1, 0x80000000)], 3, 0x80000000),
     (.iabs { XF.ofB 3 1 0 with var := 1 }, [(1, 0x80000000)], 3, 0x7FFFFFFF), (.ineg (XF.ofB 3 1 0), [(1, 5)], 3, 0xFFFFFFFB),
     (.andn (XF.ofB 3 1 2), [(1, 0xFF), (2, 0x0F)], 3, 0xF0), (.not (XF.ofB 3 1 0), [], 3, 0xFFFFFFFF), (.rotl (XF.ofB 3 1 2), [(1, 0x80000001), (2, 33)], 3, 3),
     (.clz (XF.ofB 3 1 0), [(1, 1)], 3, 31), (.clz { XF.ofB 3 1 0 with own := 1 }, [], 3, 64), (.popc { XF.ofB 3 1 0 with own := 1 }, [(2, 0xF0F0), (3, 1)], 3, 9),
     (.brev (XF.ofB 3 1 0), [(1, 1)], 3, 0x80000000), (.bfx { XF.ofB 3 1 0 with c := 4, var := 1 }, [(1, 0xABCD), (4, 0x0804)], 3, 0xFFFFFFBC),
     (.bfx { XF.ofB 3 1 0 with var := 2, w2 := 0x2010 }, [(1, 0xABCD0000)], 3, 0xABCD), (.bfi { XF.ofB 3 1 2 with c := 4 }, [(1, 0xFFFF), (2, 0xA), (4, 0x0404)], 3, 0xFFAF),
     (.sel { XF.ofB 3 1 2 with c := 0 }, [(1, 5), (2, 6)], 3, 6), (.sel { XF.ofB 3 1 2 with c := 7 }, [(1, 5), (2, 6)], 3, 5),
     (.lea { XF.ofB 3 1 2 with w2 := 4 }, [(4, 0xFFFFFFFF)], 7, 0), (.lea { XF.ofB 3 1 0 with w2 := 4 }, [(0, 0xFFFFFFFF), (2, 16)], 6, 0),
     (.idot4 { XF.ofB 3 1 2 with c := 4 }, [(1, 0xFF0201FF), (2, 0x01010103), (4, 10)], 3, 9)] = true := by decide +kernel

/-- Division (R217): truncation, a zero divisor, overflow. -/
theorem test_division : yieldsLater
    [(.idiv (XF.ofB 3 1 2), [(1, 0xFFFFFFF9), (2, 2)], 3, 0xFFFFFFFD), (.idiv (XF.ofB 3 1 2), [(1, 0x80000000), (2, 0xFFFFFFFF)], 3, 0x80000000),
     (.irem (XF.ofB 3 1 2), [(1, 0xFFFFFFF9), (2, 2)], 3, 0xFFFFFFFF), (.irem { XF.ofB 3 1 2 with var := 1 }, [(1, 5)], 3, 5)] = true := by decide +kernel

/-- Each instruction, from predicates 0b0110 (p1 and p2), leaves the predicates given. -/
def predicates (l : List (Instr × List (Nat × Nat) × BitVec 8)) : Bool :=
  l.all fun p =>
    let s := st p.2.1
    let t := lane0 (run p.1 (s.modCrew 0 fun c => c.mapLanes 3 fun _ t => { t with p := 0x06 }))
    decide (t.p = p.2.2 ∧ t.pc = 12)

/-- Predicates (R195, R219, R221, R244): signed and unsigned, negated sources, p7. -/
theorem test_predicates : predicates
    [(.icmp { XF.ofB 3 1 2 with var := 2 }, [(1, 0xFFFFFFFF), (2, 1)], 0x0E), (.icmp { XF.ofB 3 1 2 with var := 6 }, [(1, 0xFFFFFFFF), (2, 1)], 0x06),
     (.pand (XF.ofB 3 1 2), [], 0x0E), (.pand { XF.ofB 7 1 2 with own := 1 }, [], 0x06), (.por (XF.ofB 3 0 1), [], 0x0E), (.pxor { XF.ofB 1 1 7 with own := 2 }, [], 0x06),
     (.pnot (XF.ofB 2 2 0), [], 0x02), (.pmov { XF.ofB 3 1 0 with var := 1 }, [(1, 4)], 0x0E), (.pmov { XF.ofB 1 2 0 with own := 1 }, [], 0x04),
     (.fcmp { XF.ofB 3 1 2 with var := 2 }, [(1, 0xBF800000), (2, 0)], 0x0E), (.fcmp { XF.ofB 3 1 2 with var := 0 }, [(1, 0x7FC00000), (2, 0x7FC00000)], 0x06)]
      = true := by decide +kernel

/-- Floating point (R176 to R179, R239 to R248) and the fields of a word (R255). -/
theorem test_floating_point : yields
    [(.fadd 3 1 2, [(1, 0x3F800000), (2, 0x40000000)], 3, 0x40400000), (.fsub 3 1 2, [(1, 0x3F800000), (2, 0x3F800000)], 3, 0),
     (.fmul 3 1 2, [(1, 0x3FC00000), (2, 0x40000000)], 3, 0x40400000), (.ffma 3 1 2, [(1, 0x40000000), (2, 0x40400000), (3, 0x3F800000)], 3, 0x40E00000),
     (.faddX { XF.ofB 4 5 0 with c := 1, own := 1, w2 := 0x3FC03FC0 }, [(5, 0x3F80C000)], 4, 0x4020BF00), (.fsubX (XF.ofB 3 1 2), [(1, 0x7F800000), (2, 0x7F800000)], 3, 0x7FC00000),
     (.fmulX { XF.ofB 3 1 2 with own := 2 }, [(1, 0x3C004000), (2, 0x4000B800)], 3, 0x4000BC00), (.ffmaX { XF.ofB 3 1 2 with c := 4 }, [(1, 0x40000000), (2, 0x40400000), (4, 0xC0C00000)], 3, 0),
     (.fmin (XF.ofB 3 1 2), [(1, 0x80000000), (2, 0)], 3, 0x80000000), (.fmax (XF.ofB 3 1 2), [(1, 0x7FC00000), (2, 0x3F800000)], 3, 0x3F800000),
     (.fabs { XF.ofB 3 1 0 with own := 1 }, [(1, 0xBF80C000)], 3, 0x3F804000), (.fneg (XF.ofB 3 1 0), [(1, 0x7FC00000)], 3, 0xFFC00000),
     (.fclass (XF.ofB 3 1 0), [(1, 0x80000001)], 3, 4), (.frnd (XF.ofB 3 1 0), [(1, 0x40200000)], 3, 0x40000000), (.fcvt { XF.ofB 3 1 0 with w2 := 7 }, [(1, 3)], 3, 0x40400000),
     (.fcvt { XF.ofB 3 1 0 with w2 := 0x70 }, [(1, 0xC0200000)], 3, 0xFFFFFFFE), (.pack (XF.ofB 3 1 2), [(1, 0x11112222), (2, 0x33334444)], 3, 0x44442222),
     (.unpk { XF.ofB 3 1 0 with own := 1, w2 := 1 }, [(1, 0x80010002)], 3, 0xFFFF8001), (.pmov { XF.ofB 3 7 0 with var := 2 }, [], 3, 1)] = true := by decide +kernel

/-- The special functions (R249, R250): exact results and special operands, written by the event that follows. -/
theorem test_special_functions : yieldsLater
    [(.frcp (XF.ofB 3 1 0), [(1, 0x40000000)], 3, 0x3F000000), (.frsq (XF.ofB 3 1 0), [], 3, 0x7F800000), (.fsqrt (XF.ofB 3 1 0), [(1, 0x41100000)], 3, 0x40400000),
     (.fsqrt (XF.ofB 3 1 0), [(1, 0x80000000)], 3, 0x80000000), (.fexp2 (XF.ofB 3 1 0), [(1, 0x40400000)], 3, 0x41000000), (.flog2 (XF.ofB 3 1 0), [(1, 0x41000000)], 3, 0x40400000),
     (.fsin (XF.ofB 3 1 0), [(1, 0x80000000)], 3, 0x80000000), (.fcos (XF.ofB 3 1 0), [], 3, 0x3F800000), (.ftanh (XF.ofB 3 1 0), [(1, 0xFF800000)], 3, 0xBF800000)]
      = true := by decide +kernel

/-- The curve of R186 in slot 1, and a codebook entry. -/
def withTables (s : State) : State :=
  s.modQuad 0 fun q => { q with
    books := SMap.set 0 q.books 20 0x4048
    curves := ((([0xC1800000, 0xC1000000, 0xC0800000, 0xC0000000, 0xBF800000, 0xBF000000, 0xBE800000, 0xBE000000, 0, 0x3E000000, 0x3E800000, 0x3F000000, 0x3F800000,
      0x40000000, 0x40800000, 0x41000000, 0x41800000] : List Nat).map (BitVec.ofNat 32)).zipIdx).foldl (fun m p => SMap.put m (17 + p.2) p.1) q.curves }

/-- The examples of R186, R251 and R252, and a packed conversion of R248 under SAT8. -/
theorem test_narrow_formats :
    (let at' := fun i l => (lane0 (run i (withTables (st l))))
     decide (((at' (.qnt { XF.ofB 6 2 0 with var := 1, w2 := 6 }) [(2, 0x40400000), (6, 0xFFFFFFFF)]).rd 6) = 0xFF58FFFF)
     && decide ((at' (.qnt { XF.ofB 6 2 0 with var := 1, w2 := 4 }) [(2, 0x40466666)]).rd 6 = 89)
     && decide ((at' (.qnt (XF.ofB 6 2 3)) [(2, 0x43FA0000), (3, 0x3F800000)]).rd 6 = 127)
     && decide ((at' (.dqnt { XF.ofB 6 2 0 with w2 := 4 }) [(2, 89)]).rd 6 = 0x4048) && decide ((at' (.dqnt { XF.ofB 6 2 0 with w2 := 4 }) [(2, 88)]).rd 6 = 0x4040)
     && decide ((at' (.dqnt { XF.ofB 6 2 0 with var := 2, w2 := 0x11 }) [(2, 0x43)]).rd 6 = 0x4048)
     && decide ((lane0 (run (.fcvt { XF.ofB 8 3 4 with var := 2, w2 := 0x30 }) { (st [(3, 0x43FA0000), (4, 0xBA83126F), (8, 0x7E79)]) with
          cur := some { ctx with fmode := 0x0010 } })).rd 8 = 0x817E7E79)) = true := by decide +kernel

/-! ## Control, traps and regions -/

/-- The state of `st` with a change of crew 0. -/
def stC (l : List (Nat × Nat)) (f : Crew → Crew) : State := (st l).modCrew 0 f

/-- p1 is true in lane 0 alone. -/
def p1At0 (c : Crew) : Crew := c.mapLanes 1 fun _ t => { t with p := 2 }

/-- Each instruction sends the two lanes to the PCs given. -/
def goes (l : List (Instr × (Crew → Crew) × Nat × Nat)) : Bool :=
  l.all fun p =>
    let c := (run p.1 (stC [(4, 9)] p.2.1)).crew 0
    decide ((c.thread 0).pc = p.2.2.1 ∧ (c.thread 1).pc = p.2.2.2)

/-- Both lanes stand in a loop that ends at PC 0: trip 1 of 4, or the last. -/
def looping (trip : Nat) (c : Crew) : Crew := c.mapLanes 3 fun _ t => { t with loops := [⟨0x100, 0x104, 0, 4, trip⟩] }

/-- Transfers (R223 to R228): offsets in words or bytes from the PC, the lanes that are not taken, loops and calls. -/
theorem test_transfers : goes
    [(.bra 5, id, 20, 20), (.bra 0xFFFFFF, id, 0xFFFFFFFC, 0xFFFFFFFC), (.brc 1 false 5, p1At0, 20, 12), (.brc 1 true 5, p1At0, 12, 20), (.braX { XF.zero with w2 := 0x40 }, id, 64, 64),
     (.braX { XF.zero with pix := 1, w2 := 0x40 }, p1At0, 64, 12), (.brcX { XF.ofB 0x30 0 0 with w2 := 0x40 }, p1At0, 12, 64), (.loop 3 5, id, 12, 12),
     (.loopX { XF.ofB 0 0 8 with pix := 1, w2 := 9 }, p1At0, 12, 36), (.endl 7 false true, looping 1, 0x104, 0x104), (.endl 7 false true, looping 4, 12, 12),
     (.endl 1 false false, fun c => looping 1 (p1At0 c), 0x104, 12), (.call { XF.zero with c := 1, w2 := 0x200 }, id, 0x200, 0x200),
     (.ret XF.zero, fun c => c.mapLanes 3 fun _ t => { t with rets := [⟨0x300, 0⟩] }, 0x300, 0x300), (.ret { XF.zero with pix := 1 }, fun c => (p1At0 c).mapLanes 3 fun _ t => { t with rets := [⟨0x300, 0⟩] }, 0x300, 12)]
      = true := by decide +kernel

/-- JTAB clamps its index to the last entry of the table of BRAs that follows it (R225). -/
theorem test_jump_table :
    (let s := st [(1, 9)]
     let s := s.setLaunch 1 { s.launch 1 with q := { (s.launch 1).q with code := encode (.jtab { XF.ofB 0 1 0 with w2 := 2 }) ++ [0x15000001, 0x15000002, 0x15000003] } }
     decide ((lane0 (run (.jtab { XF.ofB 0 1 0 with w2 := 2 }) s)).pc = 20)) = true := by decide +kernel

/-- The stacks' entries (R226, R227), a fork's entry (R144), REGION (R152), YIELD (R234), REP (R236). -/
theorem test_control_records :
    (decide ((lane0 (run (.loop 3 5) (st []))).loops = [⟨0, 12, 20, 4, 1⟩])
     && decide ((lane0 (run (.endl 7 false true) (stC [] (looping 1)))).loops = [⟨0x100, 0x104, 0, 4, 2⟩]) && decide ((lane0 (run (.endl 7 false true) (stC [] (looping 4)))).loops = [])
     && decide ((lane0 (run (.call { XF.zero with c := 1, w2 := 0x200 }) (st []))).rets = [⟨12, 0⟩])
     && decide (((run (.brc 1 false 5) (stC [] p1At0)).crew 0).conv.map (fun e => (e.key, e.kind, e.mask)) = [(0, 0, 3)])
     && decide (((run (.join 0xFFFFFF) (stC [] fun c => { c with conv := [⟨0xFFFFFFFC, 0, 3, 0⟩, ⟨0, 0, 3, 0⟩] })).crew 0).conv = [⟨0, 0, 3, 0⟩])
     && decide ((lane0 (run .region (st []))).trecCount = 1 ∧ (lane0 (run .region (st []))).trecEntry = 12) && decide ((lane0 (run (.yield { XF.zero with w2 := 8 }) (st []))).yield = 8)) = true := by
  decide +kernel

/-- REP begins its repeats where the target allows them (R236, R202). -/
theorem test_rep :
    (let code := fun (w : Word) => (let s := st []; s.setLaunch 1 { s.launch 1 with q := { (s.launch 1).q with code := [0x1E035000, w] } })
     let u := run (.rep 3 1 1 0 0) (code 0x0D081028)
     decide (u.rep = some ⟨0, 3, 1, 1, 0, 0⟩ ∧ (lane0 u).repcnt = 0x80000000 ∧ (lane0 u).pc = 0) && decide ((lane0 (run (.rep 3 1 1 0 0) (code 0x15000001))).tcause = 0)
     && decide ((run (.repX 3 1 1 0 0) (code 0x15000001)).rep = none)) = true := by decide +kernel

/-- EXIT and TKILL end threads (R233, R235); NEXT waits in a persistent block (R232) with the step of the cursor. -/
theorem test_ends :
    (decide (((run .exit { st [] with cur := some { ctx with lanes := 1 } }).crew 0).live = 2) && decide (((run (.exitX { XF.zero with pix := 1 }) (stC [] p1At0)).crew 0).live = 2)
     && decide (((run (.tkill (XF.ofB 0 1 0)) (st [(2, 2)])).crew 0).live = 1)) = true := by decide +kernel

/-- A crew whose handler is at 0x400. -/
def vectored (c : Crew) : Crew := { c with tvec := 0x401 }

/-- TRAP, BKPT and TRET (R321, R327, R372, R373). -/
theorem test_traps :
    (let t := lane0 (run (.trap { XF.zero with w2 := 5 }) (stC [] vectored))
     let b := lane0 (run (.bkpt { XF.zero with w2 := 6 }) (stC [] vectored))
     let r := lane0 (run (.tret XF.zero) (stC [] fun c => c.mapLanes 3 fun _ t => { t with tmaskM := true, tpc := 0x44 }))
     decide (t.pc = 0x640 ∧ t.tcause = 0x90000005 ∧ t.tpc = 12 ∧ t.tmaskM = true) && decide (b.pc = 0x680 ∧ b.tcause = 0xA0000006) && decide (r.pc = 0x44 ∧ r.tmaskM = false)
     && decide (((run (.trap { XF.zero with w2 := 5 }) (stC [] vectored)).crew 0).bank = 0x3_00000000_00000000_00000000_90000005#192)) = true := by decide +kernel

/-- Inside a region of lane 0 at depth 1. -/
def inRegion (c : Crew) : Crew :=
  { c with threads := c.threads.map fun p => if p.1 = 0 then (0, { p.2 with spec := 0x88000000, region := some {}, ckpt := some { n := 16, v := [(3, 7)], p := 0, target := 0x80 } }) else p }

/-- TRY saves and begins, COMMIT ends, ABORT notes the code (R276 to R279). -/
theorem test_regions :
    (let t := lane0 (run (.tryRegion { XF.zero with c := 1, w2 := 0x40 }) (st [(3, 7)]))
     let one := fun i => run i { (stC [] inRegion) with cur := some { ctx with lanes := 1 } }
     decide (t.specAct = true ∧ t.specDepth = 1 ∧ (t.ckpt.map fun k => (k.n, k.target, k.v.filter fun p => decide (p.2 ≠ 0))) = some (16, 0x40, [(3, 7)]))
     && decide ((lane0 (one (.commit XF.zero))).specAct = false ∧ (lane0 (one (.commit XF.zero))).pc = 12)
     && decide ((((one (.abort { XF.zero with w2 := 42 })).crew 0).regionOf 0).map (·.abort) = some (some (1, 42, 0, 0)))
     && decide ((lane0 (run (.regionAbort 0 0) (one (.abort { XF.zero with w2 := 42 })))).pc = 0x80 ∧ (lane0 (run (.regionAbort 0 0) (one (.abort { XF.zero with w2 := 42 })))).rd 3 = 7)) = true := by
  decide +kernel

/-! ## Memory, synchronisation, exchanges -/

/-- The address space of launch 1 maps one 4 KiB page at 0x10000 of `.g` to HBM address 0x2000, read and write, inside the footprint. -/
def mapped (s : State) : State :=
  let r : FpRegion := { base := 0x10000, len := 4096, rd := true, w := true, atom := true, eng := true, frames := [2] }
  let l := s.launch 1
  { s.setLaunch 1 { l with q := { l.q with regions := [r], asid := 1 } } with
    tr := { s.tr with pins := [(0, [{ tr := { asid := 1, va := 0x10000, size := 12, pa := 0x2000, loc := 0, port := 0, r := true, w := true, x := true }, launches := [1] }])] }
    pl := { s.pl with grants := [(0, (0, 1))] } }

/-- The bytes of the block's window from an offset on, as one number. -/
def window (s : State) (a n : Nat) : Nat := leNat ((s.scrKeys 0 0 a n).map s.mem.byte)

/-- Stores (R260): both lanes' words in lane order, one byte, the lane's own slice, which comes back by LD (R259). -/
theorem test_stores :
    (decide (window (run (.stCB32 6 4 0x40) (st [(4, 0x100), (6, 0xA1B2C3D4)])) 0x140 4 = 0xA1B2C3D4)
     && decide (window (run (.stCB32X { XF.ofB 6 4 0 with w2 := 0xFFFFFFFC }) (st [(4, 0x100), (6, 0xA1B2C3D4)])) 0xFC 4 = 0xA1B2C3D4)
     && decide (window (run (.st { XF.ofB 6 4 1 with w2 := 2 }) (st [(4, 0x100), (6, 0xA1B2C3D4)])) 0x102 2 = 0xD4)
     && (let s := run (.st { XF.ofB 6 4 4 with var := 5, w2 := 8 }) (st [(4, 16), (12, 0x11), (13, 0x22)])
         decide ((lane0 (run (.ld { XF.ofB 2 4 4 with var := 5, w2 := 8 }) { s with cur := some ctx })).rd 4 = 0x11 ∧ (lane0 (run (.ld { XF.ofB 2 4 4 with var := 5, w2 := 8 }) { s with cur := some ctx })).rd 5 = 0x22))) = true := by
  decide +kernel

/-- Loads (R258, R259): the register is EMPTY until LOAD_RETURN, which brings a signed halfword, a word, a word of `.g` filled from its home. -/
theorem test_loads :
    (let s0 := run (.stCB32 6 4 0x40) (st [(4, 0x100), (6, 0xA1B2C3D4)])
     let back := fun (s : State) (i : Instr) op => lane0 (run (.loadReturn 0 op) (run i { s with cur := some ctx }))
     (lane0 (run (.ldCB32 3 4 0x40) { s0 with cur := some ctx })).vE.getLsbD 3
     && decide ((back s0 (.ldCB32 3 4 0x40) 1).rd 3 = 0xA1B2C3D4) && decide ((back s0 (.ldCB32X { XF.ofB 3 4 0 with w2 := 0x40 }) 1).rd 3 = 0xA1B2C3D4)
     && decide ((back s0 (.ld { XF.ofB 3 4 1 with var := 3, w2 := 0x42 }) 1).rd 3 = 0xFFFFA1B2)) = true := by decide +kernel

/-- `.g` (R61, R66, R260): a store passes its checks, is accepted at its home and performed when its WCT has come; a load is filled from there. -/
theorem test_global :
    (let s := mapped (st [(8, 0x10000), (6, 7)])
     let t := run (.stGB32 6 4 0x40) s
     let u := run (.storeAtHome 0 0 1) (run (.storeAtHome 0 0 0) (run (.storeChecksPass 0 0) t))
     let v := run (.pendingStorePerformed ((memKey 1 0x2040) / 64)) { u with now := 5 }
     let w := run (.loadReturn 0 1) (run (.fillRequest 0 1 0) (run (.fillRequest 0 1 1) (run (.ldGB32 3 4 0x40) { v with cur := some ctx })))
     let f := run (.stGB32X { XF.ofB 6 4 0 with w2 := 4 }) s
     let g := run (.ldGB32X { XF.ofB 3 4 0 with w2 := 4 }) s
     decide (t.mem.byte (memKey 1 0x2040) = 0 ∧ (t.crew 0).ops.length = 1 ∧ v.mem.byte (memKey 1 0x2040) = 7) && decide ((lane0 w).rd 3 = 7)
     && decide ((f.crew 0).ops.length = 1 ∧ (lane0 g).vE.getLsbD 3 = true) && decide ((lane0 (run (.pref (XF.ofB 0 4 0)) s)).pc = 12)) = true := by decide +kernel

/-- The window holds a word at an offset. -/
def holding (a w : Nat) (s : State) : State := s.performBytes ((s.scrKeys 0 0 a 4).zip (leBytes 4 w))

/-- Atomics on chip (R40, R268): both lanes in order, and the value found, which comes by the event that follows. -/
theorem test_atomics :
    (let s := holding 0x100 5 (st [(4, 0x100), (2, 7), (5, 5), (6, 9)])
     let back := fun i => run (.longLatencyResult 0 0) (run i s)
     decide (window (run (.atom { XF.ofB 3 4 2 with w2 := 1 }) s) 0x100 4 = 19) && decide ((lane0 (back (.atom { XF.ofB 3 4 2 with w2 := 1 }))).rd 3 = 5)
     && decide ((((back (.atom { XF.ofB 3 4 2 with w2 := 1 })).crew 0).thread 1).rd 3 = 12) && decide (window (run (.atom { XF.ofB 3 4 2 with var := 9, w2 := 1 }) s) 0x100 4 = 7)
     && decide (window (run (.cas { XF.ofB 3 4 5 with c := 6, w2 := 1 }) s) 0x100 4 = 9) && decide ((((back (.cas { XF.ofB 3 4 5 with c := 6, w2 := 1 })).crew 0).thread 1).rd 3 = 9)
     && decide (window (run (.fatom { XF.ofB 3 4 2 with w2 := 1 }) (holding 0x100 0x3F800000 (st [(4, 0x100), (2, 0x40000000)]))) 0x100 4 = 0x40A00000)) = true := by decide +kernel

/-- The full/empty bit of the granule at an offset of the window. -/
def full (s : State) (a : Nat) : Bool := s.feBit 0 0 a

/-- Full and empty (R41, R264, R265): STFE fills, LDFE.clr takes and empties, FESET and FECLR reach both granules of a count of 2. -/
theorem test_full_empty :
    (let s := { (st [(4, 0x100), (6, 7)]) with cur := some { ctx with lanes := 1 } }
     let t := { (run (.stfe { XF.ofB 6 4 1 with var := 4 }) s) with cur := some { ctx with lanes := 1 } }
     let u := run (.ldfe { XF.ofB 3 4 1 with var := 4, c := 1, own := 2 }) t
     full t 0x100 && decide (window t 0x100 4 = 7) && !full u 0x100 && decide ((lane0 u).rd 3 = 7 ∧ (lane0 u).pred 1 = true)
     && full (run (.feset (XF.ofB 0 4 1)) s) 0x110 && !full (run (.feclr (XF.ofB 0 4 1)) { (run (.feset (XF.ofB 0 4 1)) s) with cur := some { ctx with lanes := 1 } }) 0x110) = true := by
  decide +kernel

/-- Waits (R72, R262, R269, R270, R325): those whose condition holds go on; a SLEEP and a WAITAD wait. -/
theorem test_waits :
    (let s := holding 0x100 5 (st [(4, 0x100), (2, 5)])
     (lane0 (run (.fence 2) s)).blocked.isSome && decide ((lane0 (run (.fence 2) { s with now := 1 })).pc = 12) && decide ((lane0 (run (.fenceX XF.zero) s)).pc = 12) && decide ((lane0 (run (.sdrain XF.zero) s)).pc = 12)
     && decide ((lane0 (run (.waitc { XF.ofB 3 0 0 with var := 1 }) s)).rd 3 = 0 ∧ (lane0 (run (.waitc { XF.ofB 3 0 0 with var := 1 }) s)).pc = 12)
     && decide ((lane0 (run (.waitc { XF.ofB 3 0 0 with var := 1 }) { (run (.stCB32 2 4 0) s) with cur := some ctx })).rd 3 = 1)
     && (lane0 (run (.sleep { XF.zero with w2 := 100 }) s)).blocked.isSome && decide ((lane0 (run (.sleepWake 0 0) { (run (.sleep { XF.zero with w2 := 100 }) s) with now := 100 })).pc = 12)
     && (let w := run (.waitad { XF.ofB 3 4 2 with c := 0x2A, own := 1 }) s
         let e := run (.waitadReread 0 1) (run (.waitadReread 0 0) w)
         (lane0 w).blocked.isSome && decide ((lane0 e).rd 3 = 5 ∧ (lane0 e).pred 1 = true ∧ (lane0 e).pc = 12))) = true := by decide +kernel

/-- Block barriers (R271): one crew arms for itself and passes; a killed barrier answers KILLED. -/
theorem test_block_barriers :
    (let again := fun s => { s with cur := some ctx }
     let a := again (run (.barinit { XF.ofB 3 0 0 with w2 := 0x101 }) (st []))
     let k := again (run (.barkill { XF.ofB 3 0 0 with w2 := 1 }) a)
     decide ((lane0 a).rd 3 = 0x10000) && decide ((lane0 (run (.bar { XF.ofB 3 0 0 with c := 12, w2 := 1 }) a)).pc = 12)
     && decide ((lane0 (run (.bar { XF.ofB 3 0 0 with c := 12, w2 := 1 }) k)).rd 3 = 0x10006) && decide ((lane0 (run (.bar { XF.ofB 3 0 0 with c := 12, w2 := 2 }) a)).rd 3 = 5)) = true := by
  decide +kernel

/-- Arrival barriers in `.c` (R114, R118, R119, R272): armed, not yet complete, killed. -/
theorem test_arrival_barriers :
    (let again := fun s => { s with cur := some ctx }
     let s := st [(4, 0x100), (10, 0x10000), (16, 0x10000)]
     let s := mapped s
     let a := again (run (.abinit { XF.ofB 3 4 5 with own := 1, w2 := 0x2001 }) s)
     let k := again (run (.barkillAb { XF.ofB 3 4 0 with own := 1, var := 1 }) a)
     decide ((lane0 a).rd 3 = 0x10000) && decide ((lane0 (run (.abtest { XF.ofB 3 4 0 with own := 1, var := 1 }) a)).rd 3 = 0x10007)
     && decide ((lane0 (run (.abwait { XF.ofB 3 4 0 with own := 1, var := 1 }) a)).rd 3 = 0x10001) && decide ((lane0 (run (.abtest { XF.ofB 3 4 0 with own := 1, var := 1 }) k)).rd 3 = 0x10006)) = true := by
  decide +kernel

/-- Lane 1 holds 11 in v1, lane 0 holds 10. -/
def tens (c : Crew) : Crew := c.mapLanes 3 fun l t => t.wr 1 (BitVec.ofNat 32 (10 + l))

/-- Exchanges (R273, R274): SHF down by one in sub-groups of 2, the votes on p1, the sum. -/
theorem test_exchanges :
    (let s := stC [] fun c => tens (p1At0 c)
     let c := (run (.shf { XF.ofB 2 1 0 with var := 2, c := 1, w2 := 1 }) s).crew 0
     decide ((c.thread 0).rd 2 = 11 ∧ (c.thread 1).rd 2 = 10) && (lane0 (run (.vote (XF.ofB 2 1 0)) s)).pred 2 && !(lane0 (run (.vote { XF.ofB 2 1 0 with var := 1 }) s)).pred 2
     && decide ((lane0 (run (.ballot (XF.ofB 2 1 0)) s)).rd 4 = 1) && decide ((lane0 (run (.redux (XF.ofB 2 1 0)) s)).rd 2 = 21)) = true := by decide +kernel

/-! ## System, streams, engines, pans, the matrix unit -/

/-- Special registers (R319 to R326): reads, writes of the writable bits, FMODE, time, ballast. -/
theorem test_special_registers :
    (let s := { stC [(1, 0xFFFFFFFF)] (fun c => { (c.mapLanes 3 fun _ t => { t with fflags := 0x1F }) with errstat := 7 }) with now := 77 }
     decide ((((run (.csrr (XF.ofB 3 0 0)) s).crew 0).thread 1).rd 3 = 1) && decide ((lane0 (run (.csrr (XF.ofB 3 0x21 0)) s)).rd 3 = 0x1F)
     && decide (((run (.csrw (XF.ofB 0x10 1 0)) s).crew 0).tvec = 0xFFFFFC01) && decide ((lane0 (run (.csrc { XF.ofB 0x21 0 0 with c := 1, w2 := 1 }) s)).fflags = 0x1E)
     && decide ((lane0 (run (.csrs { XF.ofB 0x14 0 0 with c := 1, w2 := 1 }) s)).tmaskM = true) && decide (((run (.csrw { XF.ofB 0x32 0 0 with c := 1, w2 := 5 }) s).crew 0).errstat = 2)
     && decide (((run (.mode { XF.zero with w2 := 0x130011 }) s).crew 0).fmode = 0x11) && decide ((lane0 (run (.time (XF.ofB 2 0 0)) s)).rd 4 = 77)
     && decide ((lane0 (run (.enrg { XF.ofB 2 0 0 with var := 1 }) s)).rd 4 = 0) && decide (((run (.blst { XF.zero with w2 := 0x100020 }) s).quad 0).ballast.map (·.level) = some 16)) = true := by
  decide +kernel

/-- In a kernel the instructions of the queue profile raise ILLEGAL with detail USE (R328, R355). -/
theorem test_queue_profile :
    ([.quote { XF.ofB 3 4 5 with sa := true, sb := true }, .accept { XF.ofB 3 4 0 with sa := true }, .decline { XF.ofB 3 4 0 with sa := true }, .halt XF.zero] : List Instr).all
      (fun i => decide ((lane0 (run i (stC [] vectored))).tcause = 0x40000010 ∧ (lane0 (run i (stC [] vectored))).pc = 0x500)) = true := by decide +kernel

/-- s registers from a list, and 256 registers per thread. -/
def withS (l : List (Nat × Nat)) (c : Crew) : Crew := { c with s := regs l }

/-- Streams (R110, R111, R313, R314): bound in `.c`, read ahead, popped, flushed, freed. -/
theorem test_streams :
    (let again := fun s => { s with cur := some ctx }
     let b := again (run (.qbind { XF.ofB 0 8 0 with sa := true, w2 := 1 }) (holding 0x104 9 (holding 0x100 5 (stC [] (withS [(8, 0x100), (10, 2), (11, 4)])))))
     let p := run (.streamPrefetchRead 0 0 1) (run (.streamPrefetchRead 0 0 0) b)
     let r := run (.longLatencyResult 0 0) (again (run (.movX { XF.ofB 3 248 0 with qp := true }) p))
     decide ((SMap.find? (b.crew 0).streams 0).map (fun q => (q.base, q.count, q.step)) = some (0x100, 2, 4)) && decide ((lane0 r).rd 3 = 5)
     && decide (((SMap.find? ((run (.qflush XF.zero) p).crew 0).streams 0).map (·.fetched)) = some []) && decide ((SMap.find? ((run (.qunb XF.zero) p).crew 0).streams 0) = none)) = true := by
  decide +kernel

/-- The image of an inline copy of 16 bytes in `.c` from 0x100 to 0x200 in s16 on (R103). -/
def copyImage (c : Crew) : Crew := withS [(16, 1), (17, 0x24000000), (19, 0x10000), (26, 0x200), (28, 0x100)] c

/-- Partition 0 owns the copy channels of core 0 and a gather engine of die 0. -/
def withEngines (s : State) : State := (s.setChan 0 0 { s.chan 0 0 with owner := 0x80#8 }).setGather 0 { owner := 0x80#8 }

theorem test_copy :
    (let s := withEngines (holding 0x100 0xCAFE (stC [] copyImage))
     let q := run (.copy { XF.ofB 0 16 0 with sa := true }) s
     decide ((q.chan 0 0).queue.map (fun c => (c.ssp, c.src, c.dsp, c.dst, c.xb)) = [(1, 0x100, 1, 0x200, 16)])) = true := by
  decide +kernel

/-- CHAIN on an idle channel (R102, R311), and a GATHER of one row (R108, R312). -/
theorem test_chain_and_gather :
    (let s := withEngines (stC [] (withS [(8, 0x100), (24, 0x10000), (25, 0x400), (26, 8), (27, 0x200)]))
     let q := run (.chain { XF.ofB 3 8 0 with sa := true, own := 1 }) s
     let g := run (.gather { XF.ofB 0 24 0 with sa := true, w2 := 1 }) { s with pl := { s.pl with xgrants := [(0, (0, 0x1000))] } }
     decide (((q.chan 0 0).chain.map (fun c => (c.sp, c.addr))) = some (1, 0x100) ∧ (lane0 q).rd 3 = 0)
     && decide ((lane0 (run (.chain { XF.ofB 3 8 0 with sa := true, own := 1 }) { q with cur := some ctx })).rd 3 = 3)
     && decide ((g.gather 0).queue.map (fun c => (c.tsp, c.idx, c.n, c.nrows, c.len, c.dst)) = [(3, 0x400, 1, 8, 32, 0x200)])) = true := by decide +kernel

/-- The matrix unit: MZERO enters the queue, is started; SIGN, CVSET and MSTAT (R284, R286, R296, R299). -/
theorem test_matrix_unit :
    (let again := fun s => { s with cur := some ctx }
     let s := st []
     let a := run (.mzero { XF.ofB 1 0 0 with c := 16 }) s
     let v := again (run (.cvset { XF.ofB 2 0 0 with w2 := 5 }) s)
     let g := run (.signatureCount 0 0) (run (.sign 2) v)
     decide ((a.quad 0).mq.length = 1 ∧ (a.crew 0).outstanding 3 = 1) && decide (((run (.matrixOpStart 0 0) a).quad 0).running.length = 1)
     && decide ((g.cv 0 2).signed = 2 ∧ (g.cv 0 2).count = 5) && decide ((lane0 (run (.mstat { XF.ofB 3 0 0 with c := 2 }) (again g))).rd 3 = 2 * 2048 + 5)
     && decide (((run (.signX (XF.ofB 2 0 0)) v).crew 0).signs = [(2, 2, 0)])) = true := by decide +kernel

/-- R188's example of a group sum, and R189's saturation. -/
theorem test_group_sums :
    (decide (groupSum (some (.fin false 1 0) :: List.replicate 15 (some (.fin false 1 (-25)))) = 0x3F800004)
     && decide (groupSum [some (.inf false), some (.inf true)] = 0x7FC00000)) = true := by decide +kernel

/-! ## Witnesses: states that meet the hypotheses of the statements -/

/-- The crew may issue each instruction, with active lanes. -/
def readyAll (s : State) (l : List Instr) : Bool := l.all fun i => ready s ctx i.shape i.xf && decide (act s ctx i.xf ≠ 0)

/-- The crew may issue each instruction outside speculative regions, with active lanes. -/
def readyOutAll (s : State) (l : List Instr) : Bool := l.all fun i => readyOut s ctx i.shape i.xf && decide (act s ctx i.xf ≠ 0)

def mayAll (s : State) (l : List Instr) : Bool := l.all fun i => may s ctx i.shape i.xf

/-- All four class selects, an absent predicate lane, and a queue port that holds an element. -/
def ported : State := stC [] fun c => { p1At0 c with streams := [(0, { space := 1, base := 0x100, count := 2, step := 4, fetched := [(0, [(5, false)]), (1, [(6, false)])] })] }

theorem witness_IntegerFormsWriteTheResult :
    (readyAll (st []) [.iadd 3 1 2, .isub 255 254 255, .imul 0 0 0, .and 3 1 2, .or 3 1 2, .xor 3 1 2, .shl 3 1 2, .shr 3 1 2, .sra 3 1 2, .iaddImm 3 1 0x80,
      .iaddImmX { XF.ofB 3 1 0 with w2 := 0x80000000 }, .iaddX { XF.ofB 3 1 2 with own := 3, c := 2 }, .isubX { XF.ofB 3 1 0 with c := 1, w2 := 0xFFFFFFFF }, .imulX { XF.ofB 63 63 63 with sd := true, sa := true, sb := true },
      .andX (XF.ofB 3 1 2), .orX { XF.ofB 127 0 127 with own := 1 }, .xorX (XF.ofB 3 1 2), .andn (XF.ofB 3 1 2), .imin { XF.ofB 3 1 2 with var := 1 }, .imax (XF.ofB 3 1 2), .imulh { XF.ofB 3 1 2 with var := 2 }]
     && readyAll ported [.iaddX { XF.ofB 3 248 2 with qp := true }, .iaddX { XF.ofB 3 1 2 with pix := 1 }]) = true := by decide +kernel

theorem witness_ShiftsAndMovesWriteTheResult :
    readyAll (st []) [.shlX { XF.ofB 3 1 0 with c := 1, w2 := 32 }, .shrX { XF.ofB 3 1 2 with own := 1 }, .sraX (XF.ofB 3 1 2), .rotl (XF.ofB 3 1 2), .mov 255 0, .movX { XF.ofB 3 63 0 with sd := true, sa := true }, .movi 3 0x8000,
      .moviX { XF.ofB 3 0 0 with sd := true }, .moviB64 127 0, .moviB64X { XF.ofB 31 0 0 with sd := true } 0] = true := by decide +kernel

theorem witness_IntegerGroupWritesTheResult :
    readyAll (st []) [.not (XF.ofB 3 1 0), .iabs { XF.ofB 3 1 0 with var := 1 }, .ineg (XF.ofB 3 1 0), .clz { XF.ofB 3 1 0 with own := 1 }, .popc (XF.ofB 3 1 0), .brev (XF.ofB 3 1 0), .bfx { XF.ofB 3 1 0 with var := 3, w2 := 0x2020 },
      .bfx { XF.ofB 3 1 0 with c := 4 }, .bfi { XF.ofB 3 1 2 with var := 1 }, .imad { XF.ofB 3 1 2 with c := 4, var := 2 }, .sel { XF.ofB 3 1 2 with c := 7 }, .lea { XF.ofB 3 1 2 with var := 1, w2 := 15 }, .idot4 { XF.ofB 3 1 2 with c := 4, var := 2 },
      .idiv { XF.ofB 3 1 2 with own := 1 }, .irem { XF.ofB 3 1 0 with c := 1, var := 1 }] = true := by decide +kernel

theorem witness_PredicatesAreWritten :
    (readyAll (st []) [.icmp { XF.ofB 7 1 2 with var := 9 }, .pand { XF.ofB 3 1 2 with own := 3 }, .por (XF.ofB 7 7 7), .pxor (XF.ofB 3 1 2), .pnot (XF.ofB 3 1 0), .pmov (XF.ofB 3 1 0), .pmov { XF.ofB 3 63 0 with var := 1, sa := true },
      .pmov { XF.ofB 255 7 0 with var := 2 }] && readyAll ported [.icmp { XF.ofB 3 248 2 with qp := true }]) = true := by decide +kernel

/-- Issues under FMODE with every trap enabled. -/
def trapping (s : State) : State := { s with cur := some { ctx with fmode := 0x1F00 } }
def ctxT : Ctx := { ctx with fmode := 0x1F00 }

theorem witness_FloatingPointComputes :
    (readyAll (st []) [.fadd 3 1 2, .fsub 3 1 2, .fmul 3 1 2, .faddX { XF.ofB 3 1 2 with own := 2 }, .fsubX { XF.ofB 3 1 0 with c := 1 }, .fmulX { XF.ofB 3 1 2 with own := 1 }, .fmin (XF.ofB 3 1 2), .fmax (XF.ofB 3 1 2), .ffma 3 1 2,
      .ffmaX { XF.ofB 3 1 2 with c := 4 }, .frnd { XF.ofB 3 1 0 with w2 := 0x700 }]
     && (let s := trapping (st [(1, 0x3F800000), (2, 0x3F800000)])
         let i := Instr.faddX (XF.ofB 3 1 2)
         ready s ctxT i.shape i.xf && untrapped s ctxT i.xf (fun l => fp2 addOp 0 0x1F00 (fldA s ctxT i.xf false l) (opB s ctxT i.xf false l)))) = true := by decide +kernel

theorem witness_SignClassAndCompare :
    (readyAll (st []) [.fabs { XF.ofB 3 1 0 with own := 1 }, .fneg (XF.ofB 3 1 0), .fclass { XF.ofB 3 1 0 with own := 2 }, .fcmp { XF.ofB 7 1 2 with var := 7 }]
     && (let s := trapping (st [(1, 0x3F800000)]); let i := Instr.fcmp { XF.ofB 3 1 2 with var := 2 }; ready s ctxT i.shape i.xf && decide (fmEnables ctxT.fmode ≠ 0))) = true := by decide +kernel

theorem witness_ConversionsAndSpecialFunctions :
    (readyAll (st []) [.fcvt { XF.ofB 3 1 0 with w2 := 0x87 }, .fcvt { XF.ofB 3 1 2 with var := 2, w2 := 0x30 }, .frcp (XF.ofB 3 1 0), .frsq (XF.ofB 3 1 0), .fsqrt { XF.ofB 3 1 0 with own := 1 }, .fexp2 (XF.ofB 3 1 0), .flog2 (XF.ofB 3 1 0), .fsin (XF.ofB 3 1 0),
      .fcos (XF.ofB 3 1 0), .ftanh (XF.ofB 3 1 0)]
     && (let s := trapping (st [(1, 0x40000000)]); let i := Instr.frcp (XF.ofB 3 1 0)
         ready s ctxT i.shape i.xf && untrapped s ctxT i.xf (fun l => perElem 0 fun fm e => sfuOp 0 fm 0x1F00 (elemIn fm 0x1F00 (fldA s ctxT i.xf false l) e)))) = true := by decide +kernel

theorem witness_EnabledFlagsTrapArith :
    (let s := trapping (st [(1, 0x7F800000), (2, 0x7F800000)])
     let i := Instr.fsubX (XF.ofB 3 1 2)
     ready s ctxT i.shape i.xf && !untrapped s ctxT i.xf (fun l => fp2 subOp 0 0x1F00 (fldA s ctxT i.xf false l) (opB s ctxT i.xf false l))) = true := by decide +kernel

theorem witness_NarrowFormatsCompute :
    readyAll (withTables (st [])) [.qnt { XF.ofB 6 2 3 with w2 := 3 }, .qnt { XF.ofB 6 2 0 with var := 1, w2 := 15 }, .dqnt { XF.ofB 6 2 0 with w2 := 15 }, .dqnt { XF.ofB 6 2 3 with var := 1 }, .dqnt { XF.ofB 6 2 0 with var := 2, w2 := 0xF7 },
      .pack { XF.ofB 3 1 2 with var := 3 }, .unpk { XF.ofB 3 1 0 with var := 2, w2 := 7 }] = true := by decide +kernel

theorem witness_CallsAndLoopsUseTheirStacks :
    (let full := stC [] fun c => c.mapLanes 3 fun _ t => { t with rets := [⟨0x40, 0⟩], loops := List.replicate 8 ⟨0x100, 0x104, 0, 4, 4⟩ }
     mayAll (st []) [.call { XF.zero with c := 1, w2 := 0x200 }, .ret XF.zero, .loop 0xFFF 0xFFF, .loopX { XF.ofB 255 255 255 with w2 := 0xFFFFFFFF }]
     && mayAll full [.call { XF.zero with c := 1 }, .ret XF.zero, .loop 0 1, .endl 7 false true, .endl 7 false false]
     && ((lanesOf ctx.lanes).all fun l => decide (((full.crew 0).thread l).loops.length = 8 ∧ ((full.crew 0).thread l).rets.length = 1)) && together full ctx (fun _ => 12)
     && together (st []) ctx (fun _ => 12) && ((lanesOf ctx.lanes).all fun l => decide (((st []).crew 0 |>.thread l).rets.length < 1))) = true := by decide +kernel

theorem witness_BranchesMoveTheLanes :
    (let s := stC [] p1At0
     let s := s.setLaunch 1 { s.launch 1 with q := { (s.launch 1).q with code := encode (.jtab { XF.ofB 0 1 0 with w2 := 1 }) ++ [0x15000001, 0x15000002] } }
     let pcOf := fun l => if l = 0 then 20 else 12
     mayAll s [.bra 0xFFFFFF, .braX { XF.zero with pix := 1, w2 := 0xFFFFFFFC }, .brc 1 false 5, .brcX { XF.ofB 0xF0 0 0 with w2 := 4 }] && readyAll s [.jtab { XF.ofB 0 1 0 with w2 := 1 }] && together s ctx pcOf && splits ctx.lanes pcOf
     && braTable (s.codeOf 0) 12 1) = true := by decide +kernel

theorem witness_SimpleControlGoesOnOrEnds :
    (let s := stC [(2, 3)] p1At0
     let n := s.modBlock 0 fun b => { b with persist := false }
     mayAll s [.nop, .nopX { XF.zero with pix := 1 }, .join 0xFFFFFF, .region, .yield { XF.zero with w2 := 255 }, .exit, .exitX { XF.zero with pix := 1 }, .tkill (XF.ofB 0 1 0), .next 255] && mayAll n [.next 0]
     && !(s.crew 0).openChecks 3 && ((s.crew 0).launch.isSome && (s.block 0).persist) && !(n.block 0).persist) = true := by decide +kernel

theorem witness_RepStartsOrRefusesItsTarget :
    (let code := fun (w : List Word) => (let s := st []; s.setLaunch 1 { s.launch 1 with q := { (s.launch 1).q with code := w } })
     let s := code [0x1E3F5400, 0x0D081028]
     let r := code [0x5E035000, 0x00380000, 0, 0x15000001]
     decide (s.cur = some ctx) && decide (repDetail (fetch (s.codeOf 0) 4) ⟨0, 63, 1, 1, 1, 0⟩ (s.crew 0).nregs = none) && decide (fetch (r.codeOf 0) 12 = .ok (.bra 1) 1) && noRepeat (.bra 1)) = true := by decide +kernel

/-- Every space of the crew has room: a footprint page in `.g`, a span in `.k`, a grant in `.x`. -/
def roomy (s : State) : State :=
  let s := mapped s
  let l := s.launch 1
  { s.setLaunch 1 { l with q := { l.q with spans := [(0, (0, 0x80000))] } } with pl := { s.pl with xgrants := [(0, (0, 0x80000))] } }

/-- Nothing of the crew's own stands in the way of an access: no packet, no acquire, room for the operation. -/
def free (s : State) (cls : Nat) : Bool := (s.crew 0).queue.isNone && !State.acqPending (s.crew 0) 3 && (s.crew 0).clsRoom cls

/-- Every access of a load, or of a store, is in place. -/
def placed (s : State) (f : XF) (m : MemForm) (nd : Need) : Bool :=
  (s.accesses 0 m.sp (sizeBytes m.size) nd (memAddr (s.crew 0) false f m) (memLanes f.sd (act s ctx f))).2.isEmpty

/-- The last word of each space. -/
def atTop : State := roomy (st [(4, 0x7FFFC), (5, 2044), (6, 7), (8, 0x10FFC)])

theorem witness_OnChipLoadsReadTheirBytes :
    (readyOutAll atTop [.ldCB32 3 4 0, .ldCB32X (XF.ofB 3 4 0), .ld { XF.ofB 3 4 1 with var := 4 }, .ld { XF.ofB 3 4 2 with var := 4 }, .ld { XF.ofB 3 4 3 with var := 4 }, .ld { XF.ofB 3 5 4 with var := 4 }]
     && free atTop 0 && placed atTop (XF.ofB 3 4 0) ⟨1, 4, 0, false, 0, 0⟩ .load && ([(4, 1), (4, 2), (4, 3), (5, 4)] : List (BitVec 8 × BitVec 8)).all fun p =>
       placed atTop { XF.ofB 3 p.1 p.2 with var := 4 } (memForm { XF.ofB 3 p.1 p.2 with var := 4 }) .load) = true := by decide +kernel

theorem witness_GlobalLoadsEnterAnOperation :
    (readyOutAll atTop [.ldGB32 3 4 0, .ldGB32X (XF.ofB 3 4 0), .ld { XF.ofB 3 4 0x20 with var := 4 }, .pref (XF.ofB 0 4 0)] && free atTop 0 && placed atTop (XF.ofB 3 4 0) ⟨0, 4, 0, false, 0, 0⟩ .load
     && ((atTop.accesses 0 0 4 .load (memAddr (atTop.crew 0) false (XF.ofB 3 4 0) ⟨0, 4, 0, false, 0, 0⟩) [0, 1]).1.all fun q => !atTop.commitHolds 0 0 (Acc.sector q) && !atTop.locked (Acc.sector q))) = true := by decide +kernel

/-- Lanes 0 and 1 name granules 0x100 and 0x110, both FULL. -/
def granules : State :=
  let s := stC [(6, 7)] fun c => c.mapLanes 3 fun l t => t.wr 4 (BitVec.ofNat 32 (0x100 + 16 * l))
  (s.setFe 0 0 0x100 true).setFe 0 0 0x110 true

theorem witness_FullAndEmptyGranules :
    (let f := { XF.ofB 3 4 1 with var := 4, c := 1, own := 2 }
     let m : MemForm := { sp := 1, size := 4, disp := 0 }
     let r := granules.accesses 0 1 4 .load (memAddr (granules.crew 0) false f m) (memLanes false (act granules ctx f))
     readyOutAll granules [.ldfe f, .ldfe { XF.ofB 3 4 0xA9 with var := 4, own := 1 }, .stfe { XF.ofB 6 4 1 with var := 4 }, .feset (XF.ofB 0 4 255), .feclr { XF.ofB 0 4 0 with own := 0 }] && free granules 0 && free granules 1 && r.2.isEmpty
     && ((r.1.map (·.gran)).all fun g => SMap.get false granules.mem.fe g) && decide (r.1.map (·.gran)).Nodup && !storeMismatch granules ctx 3 (memAddr (granules.crew 0) false f m) (fun _ => 0)
     && ([0, 1] : List Nat).all fun l => decide (memAddr (granules.crew 0) false f m l % 16 = 0) && (match granules.place 0 l 1 (memAddr (granules.crew 0) false f m l) 4096 .store with
       | .ok _ => true
       | .error _ => false)) = true := by decide +kernel

theorem witness_OnChipStoresWriteTheirBytes :
    (readyOutAll atTop [.stCB32 6 4 0, .stCB32X (XF.ofB 6 4 0), .st { XF.ofB 6 4 1 with var := 4 }, .st { XF.ofB 6 4 2 with var := 4 }, .st { XF.ofB 6 4 3 with var := 4 }, .st { XF.ofB 6 5 4 with var := 4 }]
     && free atTop 1 && (([(4, 1), (4, 2), (4, 3), (5, 4)] : List (BitVec 8 × BitVec 8)).all fun p =>
       let f := { XF.ofB 6 p.1 p.2 with var := 4 }
       placed atTop f (memForm f) .store && !storeMismatch atTop ctx 3 (memAddr (atTop.crew 0) false f (memForm f)) (storeData (atTop.crew 0) false f 4) && decide (memAddr (atTop.crew 0) false f (memForm f) 0 % 4 = 0))
     && ([1, 0] : List Nat).all fun sp => decide (memAddr (atTop.crew 0) false (XF.ofB 6 4 1) ⟨sp, 4, 1, false, 0, 0⟩ 1 % 4 ≠ 0)) = true := by decide +kernel

theorem witness_GlobalStoresLeaveIssue :
    (let f := { XF.ofB 6 4 0 with var := 4 }
     readyOutAll atTop [.stGB32 6 4 0, .stGB32X (XF.ofB 6 4 0), .st f] && free atTop 1 && placed atTop f (memForm f) .store && !storeMismatch atTop ctx 3 (memAddr (atTop.crew 0) false f (memForm f)) (storeData (atTop.crew 0) false f 4)
     && decide (memAddr (atTop.crew 0) false f (memForm f) 1 % 4 = 0) && decide ((atTop.quad 0).sfq.length + atTop.openStores 0 < 32)) = true := by decide +kernel

theorem witness_AtomicsAreOneOperation :
    (let s := { atTop with now := 1 }
     readyOutAll s [.atom { XF.ofB 3 4 2 with w2 := 1 }, .atom { XF.ofB 0 4 2 with own := 2, var := 10, w2 := 0x70 }, .cas { XF.ofB 3 4 2 with c := 5, own := 1, w2 := 3 }, .fatom { XF.ofB 3 4 2 with var := 3, w2 := 2 }, .atom { XF.ofB 3 4 2 with sd := true, sa := true, sb := true, w2 := 1 }]
     && free s 1 && (([0, 1, 2, 3] : List Nat).all fun sp => (s.accesses 0 sp 4 .atom (memAddr (s.crew 0) false (XF.ofB 3 4 2) { sp := sp, size := 4, disp := 0 }) [0, 1]).2.isEmpty)
     && ((lanesOf 3).all fun l => s.fenceOk 0 l 3) && !s.protectedCrew 0) = true := by decide +kernel

theorem witness_FencesAndWaitsGoOnOrWait :
    (let s := { st [(4, 0x7FFFC), (8, 0)] with now := 1 }
     let w := { (run (.stCB32 2 5 0) (run (.ldCB32 3 4 0) { s with cur := some { ctx with lanes := 3 } } |> fun t => { t with cur := some ctx })) with cur := some ctx }
     readyOutAll s [.fence 3, .fence 0, .fenceX (XF.ofB 3 0 0), .sdrain XF.zero, .waitc { XF.ofB 3 0 0 with var := 5, w2 := 63 }, .sleep { XF.zero with w2 := 1 }, .sleep { XF.ofB 0 4 0 with var := 1, c := 31 }, .waitad { XF.ofB 3 4 2 with c := 0xE0, own := 1 }]
     && readyOutAll w [.fence 0, .waitc { XF.ofB 6 0 0 with var := 1 }, .waitc { XF.ofB 6 0 0 with var := 1, c := 31 }] && !(s.crew 0).openChecks 3 && (lanesOf 3).all (fun l => s.fenceOk 0 l 3 && s.drained 0 l)
     && !(lanesOf 3).all (fun l => w.fenceOk 0 l 0) && decide (0 < (w.crew 0).outstanding 1) && decide ((s.crew 0).outstanding 5 ≤ 63)
     && (s.accesses 0 1 4 .load (memAddr (s.crew 0) false (XF.ofB 3 4 2) { sp := 1, size := 4, disp := 0 }) [0, 1]).2.isEmpty && (s.crew 0).queue.isNone && !State.acqPending (s.crew 0) 3) = true := by decide +kernel

theorem witness_BlockBarriersArriveAndRelease :
    (let again := fun s => { s with cur := some ctx }
     let s := st []
     let armed := again (run (.barinit { XF.ofB 3 0 0 with w2 := 0x101 }) s)
     let arrived := armed.setBar 0 { block := 0, id := 1, state := 1, count := 2, gen := 1, mask := 1 }
     let killed := armed.setBar 0 { block := 0, id := 1, state := 2, gen := 1 }
     let many := s.modCore 0 fun c => { c with bars := (List.range 32).map fun j => { block := 9, id := j } }
     let bars := [Instr.barinit { XF.ofB 3 0 0 with w2 := 0x1001 }, .barkill { XF.ofB 3 0 0 with w2 := 1 }, .bar { XF.ofB 3 0 0 with c := 31, w2 := 1 }]
     readyOutAll s bars && readyOutAll armed bars && readyOutAll arrived bars && readyOutAll killed bars && readyOutAll many [.barinit { XF.ofB 3 0 0 with w2 := 0x101 }]
     && decide ((s.barEnt 0 1) = none ∧ (many.barEnt 0 1) = none ∧ 32 ≤ (many.core 0).bars.length ∧ (arrived.barEnt 0 1).map (·.mask) = some 1 ∧ (killed.barEnt 0 1).map (·.state) = some 2 ∧ (armed.barEnt 0 1).map (·.state) = some 1
       ∧ bits 0x1001 12 8 = 16 ∧ bits 0x101 12 8 = 1)) = true := by decide +kernel

/-- An arrival barrier of one chunk, armed in the window at 0x100. -/
def armedAb : State := { (run (.abinit { XF.ofB 3 4 5 with own := 1, w2 := 0x2001 }) (mapped (st [(4, 0x100), (10, 0x10000)]))) with cur := some ctx }

theorem witness_ArrivalBarriersAnswer :
    (let f := { XF.ofB 3 4 5 with own := 1, w2 := 0 }
     let k := { (run (.barkillAb { XF.ofB 3 4 0 with own := 1, var := 1 }) armedAb) with cur := some ctx }
     let s := mapped (st [(4, 0x100), (10, 0x10000)])
     let r := armedAb.abRefOf 0 1 0x100
     let all := armedAb.abCond (armedAb.holderOf 0) r (State.abChunks true 0 1 0)
     readyOutAll armedAb [.abtest f, .abwait { f with c := 31 }, .barkillAb { XF.ofB 3 4 0 with own := 1, var := 1 }, .abinit { f with w2 := 0x2001 }] && readyOutAll k [.abtest f, .barkillAb { XF.ofB 3 4 0 with own := 1, var := 1 }] && readyOutAll s [.abinit { f with w2 := 0x1E000 ||| 4096 }]
     && decide (abAddr (armedAb.crew 0) false f 3 = 0x100) && (armedAb.abFault 0 1 0x100 64).isNone && !armedAb.abBusy 0 r && decide (all = 0) && decide ((armedAb.abHdr 0 true r).state = 1 ∧ (armedAb.abHdr 0 true r).waiters = 0)
     && decide ((k.abHdr 0 true (k.abRefOf 0 1 0x100)).state = 4) && (s.abFault 0 1 0x100 (abBytes 4096 15)).isNone && (s.abFault 0 0 0x10000 64).isNone && (s.abFree 0 none).isSome && !State.acqPending (armedAb.crew 0) 3) = true := by decide +kernel

theorem witness_ExchangesAcrossTheCrew :
    (let s := stC [] fun c => tens (p1At0 c)
     mayAll s [.vote { XF.ofB 7 1 0 with var := 2 }, .vote { XF.ofB 3 7 0 with sd := true }, .ballot (XF.ofB 127 1 0)] && readyAll s [.redux { XF.ofB 2 1 0 with var := 7 }, .redux { XF.ofB 2 1 0 with own := 1 }]
     && shfReady s ctx { XF.ofB 2 1 0 with var := 10, c := 11, w2 := 63 } some && decide (voters false (act s ctx XF.zero) = [0, 1])) = true := by decide +kernel

theorem witness_EngineCommandsAreQueued :
    (let s := withEngines { stC [] copyImage with now := 1 }
     let v := imageOf (s.crew 0) false 16 16
     let b := withEngines ((armedAb.modCrew 0 copyImage).modCrew 0 (fun c => { c with s := SMap.put (SMap.put c.s 17 0x24800000) 20 0x100 }))
     let vb := imageOf (b.crew 0) false 16 16
     let r := b.abRefOf 0 (recBarSp vb) (recBar vb)
     let ch := withEngines (stC [(16, 0x10000), (17, 0)] (withS [(8, 0x7FFC0), (9, 0)]))
     let rn := { (run (.chain { XF.ofB 3 8 0 with sa := true, own := 1 }) ch) with cur := some ctx }
     let g := withEngines ({ stC [] (withS [(24, 0x10000), (25, 0x400), (26, 8), (27, 0x200)]) with pl := { (st []).pl with xgrants := [(0, (0, 0x8000))] } })
     let vg := imageOf (g.crew 0) false 24 8
     readyOutAll s [.copy { XF.ofB 0 16 0 with sa := true }] && readyOutAll b [.copy { XF.ofB 0 16 0 with sa := true }] && !copyFormBad v false && bitOf v 0 && (s.copyFault 0 (copyOf v 0 0 0 0 (s.engCtx 0))).isNone && (s.crew 0).clsRoom 2 && decide (recBar v = 0)
     && decide ((s.chan 0 0).owner.toNat = 128 + s.crewPart 0) && !copyFormBad vb false && decide (recBar vb = 0x100) && (b.barFault 0 (recBarSp vb) 0x100).isNone && !b.abBusy 0 r && (b.barTake r 0).isOk
     && readyOutAll ch [.chain { XF.ofB 3 8 0 with sa := true, own := 1 }] && readyOutAll rn [.chain { XF.ofB 3 8 0 with sa := true, own := 1 }] && (ch.rangeFault 0 1 0x7FFC0 64 {}).isNone && (ch.chan 0 0).chain.isNone && decide ((rn.chan 0 0).chain.map (·.parked) = some false)
     && readyOutAll g [.gather { XF.ofB 0 24 0 with sa := true, w2 := 255 }] && !gatherFormBad vg && (g.gatherFault 0 (gatherOf vg 4096 0 0 0 0 (g.engCtx 0))).isNone && (g.crew 0).clsRoom 4 && decide (g.shortest (g.gathersOf 0 0) = some 0)) = true := by decide +kernel

theorem witness_StreamsAreBoundAndFreed :
    (let s := stC [] (withS [(8, 0x100), (10, 65536), (11, 4)])
     let p := stC [] fun c => { c with streams := [(3, { count := 1 }), (4, { count := 1 })] }
     readyOutAll s [.qbind { XF.ofB 0 8 0 with sa := true, w2 := 1 }, .qbind { XF.ofB 7 8 0 with sa := true, w2 := 1 }] && decide ((s.crew 0).live &&& ~~~3#64 = 0 ∧ 256 ≤ (s.crew 0).nregs) && decide (SMap.find? (s.crew 0).streams 7 = none)
     && (s.rangeFault 0 1 0x100 0x40000 .engRead).isNone && (s.rangeFault 0 1 0x100 0x40000 .engWrite).isNone
     && readyOutAll p [.qunb (XF.ofB 3 0 0), .qunb (XF.ofB 4 0 0), .qflush (XF.ofB 3 0 0), .qflush (XF.ofB 4 0 0)] && !(p.crew 0).openPushes 4) = true := by decide +kernel

/-- Port 0 is trained to a module 0, and the route to it leads from core 0 one core to the east; s1 is a key, s2 the parameters, s4 a generation. -/
def panned (slot : PanSlot) : State :=
  let s := (stC [] (withS [(1, 7), (2, 0x10001), (4, 0)])).setPort 0 { owner := 0x80#8, peer := 0x0000040000000000 }
  let l := s.launch 1
  let s := s.setLaunch 1 { l with q := { l.q with pan := 0x0000000000001001 } }
  s.modCore 0 fun c => { c with sender := [(0, { lit := 0xFFFFFC, hdr := 0x40, slot := 0, gen := 0, mode := 0, port := 0, launch := 1 })], pan := [(64, slot)] }

theorem witness_PansReservePutAndRelease :
    (let s := panned { state := 3 }
     let rsv := { XF.ofB 8 1 2 with sd := true, sa := true, sb := true, w2 := 0x40001000 }
     let put := { XF.ofB 0 6 4 with sa := true, sb := true, w2 := 0x40000000 }
     let full := s.modCore 0 fun c => { c with sender := (List.range 32).map fun j => (j, { lit := 0, hdr := 0, slot := 0, gen := 0, mode := 0, port := 0, launch := 9 }) }
     readyOutAll s [.panrsv rsv 0xFFFFFC, .panput put 0xFFFFFC, .panrel XF.zero, .panrel { XF.zero with var := 1 }, .panqry (XF.ofB 250 0 0)] && readyOutAll full [.panrsv rsv 0xFFFFFC] && !unroutable 0xFFFFFC 0x40 && decide ((s.port 0).owner.toNat = 128 + s.crewPart 0)
     && !s.routeBad 0 0xFFFFFC 0x40 && !rsvFormBad 0x40001000 0x10001 && decide (s.senderHeld 0 = 1 ∧ full.senderHeld 0 = 32) && (s.crew 0).clsRoom 5 && !(s.port 0).down && !putFormBad 0x40000000 0 0 && (s.rangeFault 0 1 0 512 {}).isNone
     && decide ((s.sendEnt 0 1 0xFFFFFC 0x40 0 0).map (·.2.mode) = some 0) && decide (0 < s.nslot 0)
     && readyOutAll (panned { state := 1 }) [.panrel XF.zero] && readyOutAll (panned { state := 0 }) [.panrel XF.zero] && readyOutAll (panned { state := 4, refs := 1 }) [.panrel XF.zero] && decide ((s.slot 0 64).state = 3)) = true := by decide +kernel

theorem witness_MatrixInstructionsArePosted :
    (let dir := fun (f : XF) => { f with c := 16 }
     let cvd := fun (f : XF) => { f with c := 2 }
     let s := (st []).setCv 0 2 { count := 1024 }
     let tile := { XF.zero with sa := true, w2 := 0x7FF88 }
     let t := { XF.ofB 15 8 0 with sa := true }
     readyOutAll s [.mldb (dir tile), .mldb (cvd tile), .mma (dir tile), .mma (cvd tile), .mmaw { dir { tile with b := 10 } with sb := true, w2 := 0x2103E8 }, .mzero (dir (XF.ofB 15 0 0)), .mzero (cvd (XF.ofB 15 0 0)), .msta (dir t), .msta (cvd t), .mlda (dir t), .scac { dir t with b := 3 },
       .cvset { XF.ofB 15 0 0 with w2 := 1024 }, .mstat { XF.ofB 3 0 0 with c := 2 }, .sign 2, .signX (XF.ofB 2 0 0)]
     && decide (mldbCheck tile s 0 0 = none) && !mldbWait tile s 0 && decide (mmaCheck tile s 0 0 0 = none) && decide (mmawCheck { dir tile with w2 := 0x2103E8 } s 0 0 = none) && decide (s.mxRange 0 1 0 16384 64 .store = none ∧ s.mxRange 0 1 0 16384 64 .load = none ∧ s.mxRange 0 1 0 512 64 .load = none)
     && decide ((s.crew 0).live &&& ~~~3#64 = 0) && (s.crew 0).clsRoom 3 && decide ((s.quad 0).mq.length < 16 ∧ (s.quad 0).fired = [] ∧ (s.cv 0 2).count ≠ 0 ∧ (s.cv 0 2).posted.length < 4 ∧ (s.cv 0 15).signed = 0 ∧ (s.cv 0 15).posted = [])) = true := by decide +kernel

/-- Seventeen breakpoints that rise, in the window at 0x100. -/
def curveBytes : State :=
  (([0xC1800000, 0xC1000000, 0xC0800000, 0xC0000000, 0xBF800000, 0xBF000000, 0xBE800000, 0xBE000000, 0, 0x3E000000, 0x3E800000, 0x3F000000, 0x3F800000, 0x40000000, 0x40800000, 0x41000000, 0x41800000] : List Nat).zipIdx).foldl
    (fun s p => holding (0x100 + 4 * p.2) p.1 s) (stC [] (withS [(8, 0x100)]))

theorem witness_TableLoadsFillTheirSlot :
    (let s := curveBytes
     let read := fun n => (List.range n).filterMap fun j => (s.access 0 0 1 (0x100 + 16 * j) 16 .load).toOption
     readyOutAll s [.cbld { XF.ofB 15 8 0 with sa := true }, .ctld { XF.ofB 3 8 0 with sa := true }] && !State.acqPending (s.crew 0) 3 && !s.slotInUse 0 2 15 && !s.slotInUse 0 3 3 && decide ((read 2).length = 2 ∧ (read 5).length = 5)
     && (match s.readTable 0 ctx (read 5) with
       | some (_, bs, bad) => !bad && curveValid (fun b => leNat ((bs.drop (4 * b)).take 4))
       | none => false) && (s.readTable 0 ctx (read 2)).isSome) = true := by decide +kernel

theorem witness_SpecialRegistersAreReadAndWritten :
    (let s := stC [(1, 0xFFFFFFFF)] id
     (([0x00, 0x07, 0x10, 0x13, 0x20, 0x22, 0x28, 0x30, 0x3A, 0x41] : List (BitVec 8)).all fun n => readyAll s [.csrr (XF.ofB 4 n 0)])
     && (([0x10, 0x11, 0x12, 0x14, 0x20, 0x21, 0x22] : List (BitVec 8)).all fun n => readyOutAll s [.csrw (XF.ofB n 1 0), .csrs { XF.ofB n 0 0 with c := 1, w2 := 1 }, .csrc (XF.ofB n 1 0)]) && readyOutAll s [.csrw (XF.ofB 0x32 1 0)]
     && mayAll s [.mode { XF.zero with w2 := 0x1FFF1FFF }] && readyAll s [.time { XF.ofB 31 0 0 with sd := true }, .enrg (XF.ofB 127 0 0), .enrg { XF.ofB 2 0 0 with var := 1 }]) = true := by decide +kernel

/-- The crew runs a queue's packet. -/
def packet : State :=
  let s := mapped (stC [(8, 0x10000), (10, 0x10100)] fun c => { c with launch := none, queue := some 0 })
  s.setQueue 0 { regions := [{ base := 0x10000, len := 4096, rd := true, w := true, atom := false, eng := false }] }

theorem witness_QueueProfileAsksTheFrontEnd :
    (let l := [Instr.quote { XF.ofB 3 4 5 with sa := true, sb := true }, .accept { XF.ofB 3 4 0 with sa := true }, .decline { XF.ofB 3 4 0 with sa := true }, .halt { XF.zero with w2 := 0xFFFF }]
     mayAll (st []) l && mayAll packet l && ((st []).crew 0).queue.isNone && decide ((packet.crew 0).queue = some 0) && decide (packet.quoteCheck 0 0x10000 0x10100 = none)) = true := by decide +kernel

theorem witness_TrapsEnterAndTretReturns :
    (let l := [Instr.trap { XF.zero with w2 := 255 }, .bkpt XF.zero]
     let s := stC [] vectored
     let inside := stC [] fun c => (vectored c).mapLanes 3 fun _ t => { t with tmaskM := true }
     let other := stC [] fun c => { (vectored c) with threads := (c.threads ++ [(2, { live := true, tmaskM := true })]) }
     readyOutAll s l && readyOutAll (st []) l && readyOutAll inside l && readyOutAll other l && mayAll inside [.tret XF.zero] && mayAll s [.tret XF.zero] && (s.crew 0).tvec.getLsbD 0 && !((st []).crew 0).tvec.getLsbD 0) = true := by
  decide +kernel

theorem witness_BallastIsSetAndEnded :
    (let s := { st [] with now := 5 }
     let own := s.modQuad 0 fun q => { q with ballast := some { level := 16, endAt := 9, crew := 0 } }
     let other := s.modQuad 0 fun q => { q with ballast := some { level := 1, endAt := 9, crew := 7 } }
     let off := Instr.blst { XF.zero with var := 1 }
     mayAll s [.blst { XF.zero with w2 := 0x10FFFF }, .blst { XF.zero with w2 := 0x10001 }, off] && mayAll own [off] && mayAll other [off] && own.sameBlock 0 0 && !other.sameBlock 0 7) = true := by decide +kernel

theorem witness_RegionsBeginAndEnd :
    (let s := st [(3, 7)]
     let deep := fun (d : Nat) => stC [] fun c => c.mapLanes 3 fun _ t => { t with spec := BitVec.ofNat 32 (0x80000000 + d * 2 ^ 27), region := some {}, ckpt := some { n := 0, v := [], p := 0, target := 0 } }
     let one := { deep 1 with cur := some { ctx with lanes := 1 }, ex := { (deep 1).ex with crews := (deep 1).ex.crews.map fun p => (p.1, { p.2 with threads := p.2.threads.take 1 }) } }
     mayAll s [.tryRegion { XF.zero with c := 8, w2 := 0x40 }] && mayAll (deep 3) [.tryRegion { XF.zero with c := 8 }, .commit XF.zero, .abort { XF.zero with w2 := 255 }] && may one { ctx with lanes := 1 } (Instr.commit XF.zero).shape XF.zero
     && ((lanesOf 3).all fun l => (((deep 3).crew 0).thread l).specAct && decide ((((deep 3).crew 0).thread l).specDepth = 3)) && !((deep 3).crew 0).regionBusy (((deep 3).crew 0).allMembers 0) && !((one.crew 0).regionBusy ((one.crew 0).allMembers 1))
     && (match ((one.crew 0).thread 0).region with
       | some r => r.allows 0 && r.ssb.isEmpty
       | none => false) && !(s.crew 0).predsPend 3 (List.range 7)) = true := by decide +kernel

/-! ## Witnesses: the events -/

/-- HBM holds an entry of a page table at 0x1000. -/
def entryAt1000 (e : Nat) (s : State) : State := { s with mem := s.mem.write (memKey 1 0x1000) (leBytes 8 e) }

/-- The walker pool of die 0. -/
def walking (w : WalkPool) : State :=
  let s := State.reset.setWalk 0 w
  { s with tr := { s.tr with roots := [(1, 0x1001)] } }

def aPage : Xlate := { asid := 1, va := 0x10000, size := 12, pa := 0x2000, loc := 0, port := 0, r := true, w := true, x := true }

theorem witness_TranslationEventsAct :
    (let r : WalkReq := { asid := 1, va := 0x1000, kind := 0, who := 0 }
     let other : Nat → Walk := fun n => { id := n, req := { r with asid := 2 }, level := 0, table := 0 }
     let k : Walk := { id := 0, req := { r with va := 0 }, level := 0, table := 0x1000 }
     let reads := fun (s : State) (k : Walk) => s.readPte k.req.asid k.req.va k.level k.table
     let busy := walking { walks := (List.range 63).map other }
     let t : State := { State.reset with tr := { State.reset.tr with tlb := [(0, { tr := aPage, pinned := true, bad := true })], pins := [(0, [{ tr := aPage, launches := [1] }])] } }
     (decide (State.busyWalkers (busy.walkPool 0) < 64) && (busy.walkPool 0).queue.isEmpty && ((busy.walkPool 0).walks.all fun k => !(decide (k.req.asid = 1) && !k.discard && State.sameDown k.req.va 0x1000 k.level))
       && decide ((busy.rootOf 1).toOption = some 0x1000))
     && decide (((walking { queue := List.replicate 511 r }).walkPool 0).queue.length = 511) && decide (((walking { queue := List.replicate 512 r }).walkPool 0).queue.length = 512)
     && (let s := walking { walks := [{ k with discard := true }] }; decide (((s.walkPool 0).walks.find? fun k => decide (k.id = 0)) = some { k with discard := true }) && k.running)
     && (let s := walking { walks := [k] }
         decide (((s.walkPool 0).walks.find? fun k => decide (k.id = 0)) = some k) && decide (reads s k = .fail 1) && decide (reads (entryAt1000 0x2073 s) k = .leaf { aPage with va := 0 }))
     && (let s := entryAt1000 0x2001 (walking { walks := [{ k with level := 4 }] }); decide (reads s { k with level := 4 } = .table 0x2000))
     && decide ((List.find? (fun e : Nat × TlbEnt => decide (e.1 / 8192 = 0) && e.2.pinned && e.2.tr.covers 1 0x10FFF) t.tr.tlb).isSome
       ∧ ((SMap.get [] t.tr.pins (0 / 5)).find? fun p => p.tr.covers 1 0x10FFF && !p.forced).isSome)
     && decide ((State.reset.func (funcKey 1 32)).resetting = false ∧ (State.reset.func (funcKey 1 32)).invcmd.toNat % 4 ≠ 1 ∧ (State.reset.func (funcKey 0 0)).invcmd.toNat % 4 ≠ 1)
     && decide (((State.reset.setFunc 0 { invList := [(2, 0, 0)] }).func (funcKey 0 0)).invList = [(2, 0, 0)])) = true := by decide +kernel

/-- An operation of the crew with number 0. -/
def opened (o : Op) : State := mapped (stC [] fun c => { c with ops := [o], nextOp := 1 })

/-- An access of lane 1 to the first word of the page, or to a word of another storage. -/
def anAcc : Acc := { lane := 1, space := 0, addr := 0x10000, keys := (List.range 4).map fun j => memKey 1 0x2000 + j, data := [1, 2, 3, 4], loc := 0 }

theorem witness_HomeEventsServeAccesses :
    (let sec := Acc.sector anAcc
     let op := fun k (a : Acc) => ({ id := 0, kind := k, cls := 1, pc := 0, lanes := 3, accs := [a] } : Op)
     let isFree := fun k => let o := op k anAcc; let s := opened o
       decide ((s.crew 0).findOp 0 = some o) && decide ((o.accs.drop 0).head? = some anAcc) && !s.locked sec && s.inTurn 0 o 0 sec && !(s.crew 0).frozen && s.inGrants (s.crewPart 0) (anAcc.keys.headD 0) && !s.commitHolds (coreOf 0) (s.crewPart 0) sec
         && decide (s.pendCount (homeDie (anAcc.keys.headD 0)) < 2048)
     let granule : Acc := { anAcc with space := 1, gran := memKey 6 0 }
     let fe := { opened (op .ldfe granule) with mem := { State.reset.mem with fe := [(memKey 6 0, true)] } }
     let done := { anAcc with stage := 2, wct := 5 }
     isFree .load && isFree .store && isFree .atomic && (op .store anAcc).checked && decide (SMap.find? ((opened (op .store anAcc)).crew 0).threads 1 ≠ none)
     && ([.portStoreReport 0 0 0, .storeAck 0 0 0] : List Instr).all (fun _ => decide ({ anAcc with stage := 1, loc := 3 : Acc }.stage = 1))
     && SMap.get false fe.mem.fe granule.gran && decide ((fe.crew 0).findOp 0 = some (op .ldfe granule))
     && (([.store, .push] : List OpKind).all fun k => (op k done).accs.all fun a => decide (2 ≤ a.stage) && (decide (a.space ≠ 0) || decide (a.wct < 6)))
     && decide (({ op .atomic { anAcc with stage := 1 } with dests := [(some 1, 3)] } : Op).dests ≠ []) && decide (({ op .store anAcc with checked := false, bad := 2 } : Op).bad &&& ((opened (op .store anAcc)).crew 0).live ≠ 0)) = true := by decide +kernel

/-- Function 0 of port 0 belongs to partition 0, and its address space maps the page. -/
def hosted : State :=
  let s := mapped ({ State.reset with now := 5 }.setFunc 0 { owner := 0x80, tenant := 1 })
  let s := (s.setDcb 1 (2 ^ 98)).tlbInstall (State.queueCluster 0) aPage
  s.setWayEnt 0 3 0xC

theorem witness_HostEventsReachMemory :
    (let secs := State.hostSectors 1 0
     let s := hosted
     let s' := secs.foldl State.performDue s
     let keysOf := fun (w : Bool) n => (s.inboundKeys 0 0 0x10FFC w n).toOption
     let bits' := fun (s : State) (e v : Nat) => ((s.wayEnt 0 e) &&& ~~~(BitVec.ofNat 32 v &&& 0x60000000#32))
     let over' := fun (e v : Nat) => let new := (BitVec.ofNat 32 v).setWidth 24
       (List.range 32).any fun p => decide (p ≠ e) && decide ((new &&& ~~~((bits' s e v).setWidth 24)) &&& ((s.wayEnt 0 p).setWidth 24 ||| s.releasingOf 0 p) ≠ 0)
     let gone := (s.setWayEnt 0 5 0x80000003#32).setReleasing 0 5 4
     (secs.all fun sec => decide ((s'.leaseOf sec).e1 + 4 < s.now)) && s'.hostSettled secs && s.funcShut 1 && !s.funcShut 0 && decide (((keysOf false 4).getD []).length = 4 ∧ ((keysOf true 4).getD []).length = 4)
     && (((keysOf true 4).getD []).all fun key => s.inGrants ((s.func 0).owner.toNat % 32) key && !s.locked (sectorOf key) && decide (s.pendCount (homeDie (sectorOf key * 64)) < 2048)) && decide (s.codeOwners ((keysOf true 4).getD []) = [])
     && over' 31 4 && !over' 31 3 && !over' 3 0x1C && (s.residentOn 0 31).isEmpty && !(bits' s 31 3).getLsbD 31 && (bits' gone 5 3).getLsbD 31 && (gone.wayEnt 0 5).getLsbD 31 && decide (gone.releasingOf 0 5 = 4 ∧ gone.coh.l2 = [])) = true := by decide +kernel

/-- Lane 0 is inside a blocking instruction issued by lanes 0 and 1. -/
def blockedOn (b : Blocked) : State := { stC [] (fun c => c.mapLanes 1 fun _ t => { t with blocked := some { b with lanes := 3 } }) with now := 100 }

theorem witness_WaitsEndWhenTheyMay :
    (let at' := fun (k : WaitKind) => { blockedOn { kind := k, deadline := some 100 } with pl := (mapped State.reset).pl }
     let on := fun (k : WaitKind) => let s := at' k
       decide (((s.crew 0).thread 0).blocked = some { kind := k, deadline := some 100, lanes := 3 }) && decide ((s.block (s.crew 0).block).stop < 3)
     let mates := fun (k : WaitKind) => (lanesOf (((at' k).crew 0).waitMates 0 &&& 3))
     on (.fence 3) && (mates (.fence 3)).all (fun l => (at' (.fence 3)).fenceOk 0 l 3) && on .sdrain && (mates .sdrain).all (fun l => (at' .sdrain).drained 0 l)
     && on .sleep && (mates .sleep).all (fun l => match (((at' .sleep).crew 0).thread l).blocked with
       | some o => o.due 100
       | none => true)
     && on (.waitc 0 0 0) && on (.waitad 1 0x7FFFC 0 0 0) && ((at' (.waitad 1 0x7FFFC 0 0 0)).waitadRead 0 0 1 0x7FFFC).isSome) = true := by decide +kernel

/-- Lane 0 is inside a region that has written one byte of HBM. -/
def committing (r : Region) : State :=
  mapped (stC [] fun c => c.mapLanes 1 fun _ t => { t with spec := 0x88000000, region := some { r with ssb := [{ key := memKey 1 0x2000, val := 7, lane := 0 }] } })

theorem witness_CommitsAndAborts :
    (let sec := sectorOf (memKey 1 0x2000)
     let isIn := fun (r : Region) => match ((committing r).crew 0).regionOf 0 with
       | some q => decide (q.sectors = [sec] ∧ q.asked = r.asked ∧ q.answers = r.answers ∧ q.decided = r.decided ∧ q.abort = r.abort)
       | none => false
     let s := committing { asked := 1 }
     let held := { s with coh := { s.coh with locks := [⟨sec, 9, 0⟩] } }
     let answered : Region := { asked := 1, answers := [⟨sec, 5, false⟩] }
     isIn { asked := 1 } && !(s.crew 0).frozen && held.locked sec && !s.locked sec && !s.onTheWay 0 (s.crewPart 0) sec (fun _ _ _ => true) true && decide (s.pendCount (homeDie (sec * 64)) < 2048) && s.inGrants (s.crewPart 0) (sec * 64)
     && isIn answered && answered.allows 5 && isIn { answered with answers := [⟨sec, 0, true⟩] } && isIn { answered with reads := [⟨3, 5⟩] } && !({ answered with reads := [⟨3, 5⟩] } : Region).allows 5
     && isIn { answered with decided := some 5 } && isIn { abort := some (2, 0, 0, 0) } && !((committing { abort := some (2, 0, 0, 0) }).crew 0).regionBusy (((committing { abort := some (2, 0, 0, 0) }).crew 0).members 0)) = true := by decide +kernel

/-- Launch 1 has ended on core 0, which keeps a WCT of its region 0. -/
def ended (l : Launch) : State :=
  let s := mapped { st [] with now := 6 }
  (s.setLaunch 1 { s.launch 1 with phase := 2, dieWct := l.dieWct, wct := l.wct, forwarded := l.forwarded, callerAt := l.callerAt }).modCore 0 fun c => { c with regionWct := [(64, 5)] }

theorem witness_LaunchesEndAndReport :
    (let s := ended {}
     let reported := s.modCore 0 fun c => { c with reported := [1] }
     let all := ended { forwarded := [0], wct := [(0, 5)] }
     let edged := { all with fr := { all.fr with edges := [{ prod := 1, cons := 7, regions := [0] }] } }
     let late := ((st []).setLaunch 1 { (st []).launch 1 with callerAt := some 0 }).modCrew 0 fun c => { c with entryAt := some 0, threads := c.threads.map fun p => (p.1, { p.2 with tmaskM := true }) }
     (SMap.find? s.fr.launches 1).isSome && (s.launchCores 1).contains 0 && !(s.core 0).reported.contains 1 && ((s.launchCores 1).any fun c => decide (dieOf c = 0)) && !(s.launch 1).forwarded.contains 0
     && ((reported.launchCores 1).all fun c => decide (dieOf c ≠ 0) || (reported.core c).reported.contains 1) && all.allForwarded 1 && all.regionsPast 1 [0] && all.regionsPast 1 (all.awaited 1) && !all.queueResetting (all.launch 1).q.queue && all.firstEnded 1
     && (edged.fr.edges.find? fun e => decide (e.prod = 1 ∧ e.cons = 7) && !e.raised).isSome && decide ((late.launch 1).phase = 1 ∧ (late.launch 1).q.hbudget = 0 ∧ (late.launch 1).q.hallow * 1000 ≤ late.now) && State.handlerBusy (late.crew 0)
     && decide ((late.crew 0).launch = some 1 ∧ (late.crew 0).entryAt = some 0)) = true := by decide +kernel

/-- A record in `.c` at 0x100, of a chain that channel 0 follows. -/
def chained (v : Nat) : State :=
  let s := withEngines (stC [] (withS [(8, 0x100)]))
  let s := run (.chain { XF.ofB 3 8 0 with sa := true, own := 1 }) s
  s.performBytes ((s.scrKeys 0 0 0x100 64).zip (leBytes 64 v))

/-- A record of 16 bytes in `.c` from 0x1000 to 0x2000, and one that moves no byte. -/
def goodRecord : Nat := 0x1000 * 2 ^ 384 + 0x2000 * 2 ^ 320 + 16 * 2 ^ 108 + 2 ^ 61 + 2 ^ 58 + 1

theorem witness_EnginesMoveTheirCommands :
    (let q := run (.copy { XF.ofB 0 16 0 with sa := true }) (withEngines (stC [] copyImage))
     let t : Transfer := { id := 0, cmd := 0, ch := 0, chunk := 0, wct := 0, done := true }
     let flies := fun (t : Transfer) (bar : Option AbRef) => { (q.modCore 0 fun c => { c with transfers := [t] }).setChan 0 0 { q.chan 0 0 with queue := (q.chan 0 0).queue.map fun c => { c with bar := bar } } with now := 1 }
     let found := fun (s : State) => ((s.core 0).transfers.find? fun t => decide (t.cmd = 0 ∧ t.chunk = 0)).isSome
     let bar := flies t (some ⟨1, 0, 1, 0, 0⟩)
     let reads := fun (v : Nat) => let s := chained v
       match (s.chan 0 0).chain with
       | some n =>
         let keys := (s.engKeys n.ctx n.sp n.addr 64).getD []
         let view := s.engView n.ctx
         let c := { copyOf v (s.core 0).nextCmd n.crew n.op n.pc n.ctx with record := some (n.sp, n.addr) }
         !n.parked && decide ((s.chan 0 0).cur = none) && !(s.chan 0 0).frozen && s.engReady n.crew n.op && decide (keys.length = 64) && !s.engBlocked keys false && !(s.engRead keys).2 && decide (leNat (s.engRead keys).1 = v)
           && decide (view.1.rangeFault view.2 n.sp n.addr 64 (if n.sp = 0 then { r := true, w := true, e := true } else {}) = none ∧ recBar v = 0) && !s.restParks n v && (decide (v ≠ goodRecord) || decide (view.1.copyFault view.2 c = none))
       | none => false
     let g := run (.gather { XF.ofB 0 24 0 with sa := true, w2 := 1 }) (withEngines { stC [] (withS [(24, 0x10000), (25, 0x400), (26, 8), (27, 0x200)]) with pl := { (st []).pl with xgrants := [(0, (0, 0x1000))] } })
     let begun := g.setGather 0 { g.gather 0 with queue := (g.gather 0).queue.map fun c => { c with started := true } }
     let e : AbEnt := { key := 0x100, prt := 0, home := 0, launch := 1, fwd := [(0, 0, 0)] }
     let homed := (st []).modCore 0 fun c => { c with ab := [(63, e)] }
     let a : Acc := { anAcc with keys := [], found := true }
     let str : Stream := { space := 1, base := 0x100, count := 16, step := 4, fetched := [(1, List.replicate 15 (0, false))], queued := [(1, 0, 5, 0)] }
     let p := stC [] fun c => { c with streams := [(3, str)], ops := [{ id := 0, kind := .push, cls := 1, pc := 0, lanes := 2, accs := [a] }], nextOp := 1 }
     let keys := ((p.engKeys (p.engCtx 0) 1 (str.addr 1 15) 4).getD [])
     decide (q.nextChan 0 = some 0) && (q.chanNext (q.chan 0 0)).isSome && decide (127 < 128 ∧ (q.core 0).transfers.length = 0)
     && found (flies { t with done := false } none) && found (flies { t with wct := 1 } none) && found (flies t none) && found bar && decide ((State.cmdOf ((flies t none).chan 0 0) 0).bind (·.bar) = none)
     && decide (((State.cmdOf (bar.chan 0 0) 0).bind (·.bar)) = some ⟨1, 0, 1, 0, 0⟩) && !bar.barLocked ⟨1, 0, 1, 0, 0⟩ (some 0)
     && reads 0 && reads 1 && copyFormBad 1 true && reads goodRecord && bitOf goodRecord 0 && !copyFormBad goodRecord true
     && decide (g.gatherNow 0 = none) && (g.gather 0).queue.head?.any (fun c => g.engReady c.crew c.op) && (begun.gatherNow 0).any (fun c => decide (0 < c.n ∧ 0 < c.stop) && !(c.rows.any fun r => decide (r.1 = 0)) && !(begun.launch c.ctx.launch).frozen)
     && decide (SMap.find? (homed.core 0).ab 63 = some e) && homed.abReady ⟨1, 63, 1, 0, 0⟩ (some 0) && homed.abReady ⟨1, 63, 1, 0, 0⟩ none
     && decide (SMap.find? (p.crew 0).streams 3 = some str ∧ keys.length = 4) && !(p.crew 0).frozen && hasLane (p.crew 0).live 1 && p.engReady 0 str.bound && !p.engBlocked keys true && p.inGrants (p.engCtx 0).prt (keys.headD 0) && ((p.crew 0).findOp 0).isSome) = true := by decide +kernel

/-- A pan of one slot of two chunks under key 0x77 on core 0, granted to launch 1. -/
def withPan (p : PanSlot) : State :=
  let s := st []
  (s.setLaunch 1 { s.launch 1 with q := { (s.launch 1).q with pan := 0x0000007700002001, spans := [(0, (0, 0x80000))] } }).modCore 0 fun c => { c with pan := [(64, p)] }

theorem witness_PansAndPortsAnswer :
    (let s := withPan {}
     let r : PanReq := { crew := 0, op := 0, isPut := false, ctx := (st []).engCtx 0, lit := 0, w2 := 0, arg := 0, pos := 0, port := 0, sentAt := 0, sent := true }
     let req := fun (r : PanReq) => (st []).modCore 0 fun c => { c with panReqs := [(3, r)], sender := (List.range 31).map fun j => (j, { lit := 0, hdr := 0, slot := 0, gen := 0, mode := 0, port := 0, launch := 9 }) }
     let q : Port := {}
     let times := fun (n : Nat) => List.replicate n 0
     let held : SendEnt := { lit := 0, hdr := 0, slot := 0, gen := 0, mode := 0, port := 5, launch := 1 }
     decide ((s.panLaunches 0).find? (fun d => decide (bits (s.launch d).q.pan.toNat 63 32 = 0x77)) = some 1) && decide (bits (s.launch 1).q.pan.toNat 6 0 = 1 ∧ bits (s.launch 1).q.pan.toNat 23 12 = 2)
     && decide ((s.panLaunches 0).filter (fun d => decide (0 < bits (s.launch d).q.pan.toNat 6 0)) = [1] ∧ (s.panLaunches 0).filter (fun d => decide (1 < bits (s.launch d).q.pan.toNat 6 0)) = [])
     && decide ((s.slot 0 (State.slotKey 1 0)).state = 0 ∧ ((withPan { state := 1 }).slot 0 (State.slotKey 1 0)).state = 1) && (let p := (withPan { state := 2, expiry := 0, gen := 1, mode := 2, nchunk := 2 }).slot 0 64;
         decide (p.expiry.toNat ≤ 0 ∧ p.gen.toNat = 1 ∧ p.gen.toNat ≠ 2 ∧ p.mode = 2 ∧ p.mode ≠ 0 ∧ 1 + 1 ≤ p.nchunk ∧ p.nchunk < 1 + 2))
     && decide (SMap.find? ((req r).core 0).panReqs 3 = some r ∧ (List.range 32).find? (fun j => (SMap.find? ((req r).core 0).sender j).isNone) = some 31 ∧ SMap.find? ((req { r with isPut := true }).core 0).panReqs 3 = some { r with isPut := true })
     && decide (({ req r with now := 4000000 } : State).now = r.sentAt + 2 * ((req r).port 0).flight + 4000000)
     && decide (q.down = false ∧ q.retrain = false ∧ ((times 14).filter fun t => decide (0 < t + 10000)).length + 1 < 16 ∧ ((times 15).filter fun t => decide (0 < t + 10000)).length + 1 = 16 ∧ ((times 3).filter fun t => decide (0 < t + 1000000000)).length + 1 = 4)
     && decide ((st []).portUsers 5 = []) && !(st []).portHeld 5 && ((st []).modCore 0 fun c => { c with sender := [(0, held)] }).portHeld 5 && decide (bits (0#64).toNat 41 26 < 1)) = true := by decide +kernel

theorem witness_MatrixUnitsWork :
    (let sg := stC [] fun c => { c with signs := [(2, 2, 1)] }
     let late := sg.modCrew 0 fun c => { c with ops := [{ id := 0, kind := .store, cls := 1, pc := 0, lanes := 1, accs := [{ anAcc with space := 1 }] }] }
     let isLate := fun (s : State) => (s.crew 0).ops.any fun o => decide (o.id < 1) && (decide (o.kind = .store) || decide (o.kind = .atomic)) && o.accs.any fun a => decide (a.space ≠ 0) && decide (a.stage = 0)
     let queued := run (.mzero { XF.ofB 1 0 0 with c := 16 }) (st [])
     let running := run (.matrixOpStart 0 0) queued
     let o : MxOp := { crew := 0, op := 0, instr := .mmaw { XF.zero with b := 10, w2 := 0x2103E8 } }
     let w : WEnt := { key := [], part := 0, contribs := [{ op := o, quad := 0, rows := 1, deadline := 5 }], rows := 1 }
     let fire : Running := { op := none, fire := some 3, start := 0 }
     let holds := fun (w : WEnt) => ((st []).setWEnt 0 3 w).wEnt 0 3
     decide (((sg.crew 0).signs.drop 0).head? = some (2, 2, 1)) && isLate late && !isLate sg
     && decide ((running.quad 0).running ≠ []) && (running.quad 0).running.all (fun r => r.op.isSome) && (State.mxChosen { (st []).quad 0 with choice := some o }).isSome && decide ((queued.quad 0).running = [] ∧ State.mxChosen (queued.quad 0) = none)
     && (queued.mxPick 0).isSome && decide (holds w = some w ∧ wDeadline w = 5) && isOpen w && !isOpen { w with fired := some 0 } && decide (({ w with fired := some 0 } : WEnt).fired.isSome ∧ w.arrived = false)
     && decide (((st []).modQuad 2 fun q => { q with running := [fire] }).fireOf 0 3 = some (2, fire))) = true := by decide +kernel

theorem witness_PowerEventsAct :
    (let table : Nat := 0x81e71a61651240e30a206102
     let good := fun (v : Nat) (s : State) => decide (1 ≤ bits v 5 0 ∧ bits v 95 90 = 32) && ((List.range 15).all fun j => decide (bits v (6 * j + 5) (6 * j) ≤ bits v (6 * j + 11) (6 * j + 6))) && (State.clusterQuads 19).all fun q => !s.draws q && !(s.quad q).ramp
     let rising : State := { State.reset.setCluster 0 { clock := 3, target := 4, railAt := 0, rail := 650 } with now := 5000 }
     let stepped : Nat → State := fun n => { State.reset.setCluster 19 { stepAt := 1 } with now := n }
     let late : State := { State.reset with now := 1000000, pl := { State.reset.pl with units := [(0, { since := 0 })], mgmt := { State.reset.pl.mgmt with window := 1000000 } } }
     let lit : Nat → State := fun n => { State.reset.modQuad 639 (fun q => { q with ballast := some { level := 1, endAt := 7, crew := 0 } }) with now := n }
     good table State.reset && !good 0 State.reset && !good (table + 2 ^ 90) State.reset && decide ((State.reset.cluster 19).stepAt = 0 ∧ ((stepped 1).cluster 19).stepAt ≠ 0 ∧ (stepped 1).now < ((stepped 1).cluster 19).stepAt + (stepped 1).clkNs 152 4
       ∧ ((stepped 100).cluster 19).stepAt + (stepped 100).clkNs 152 4 ≤ (stepped 100).now)
     && decide ((rising.cluster 0).clock < (rising.cluster 0).target ∧ rising.railNow (rising.cluster 0) = State.pointMv 4 ∧ ({ rising with now := 4999 } : State).railNow (rising.cluster 0) ≠ State.pointMv 4)
     && Nat.ble ((late.pl.mgmt.interval + 1) * 10000) late.now && Nat.ble ((late.pl.mgmt.samples + 1) * 100000) late.now && Nat.ble ((late.pl.mgmt.msWindow + 1) * 1000000) late.now && !Nat.ble ((State.reset.pl.mgmt.interval + 1) * 10000) State.reset.now
     && (SMap.find? late.pl.units 0).any (fun c => Nat.ble (c.since + late.pl.mgmt.window) late.now) && ((lit 7).quad 639).ballast.any (fun b => decide (b.endAt ≤ (lit 7).now) && decide ((lit 6).now < b.endAt))) = true := by decide +kernel

/-- The first 2^30 bytes of ASID 1 are those of HBM, and partition 0 has a tenant and a job: DCBs 1, 2 and 3; quadrant 1 is free. -/
def priceable (records : List (Nat × Nat)) : State :=
  let s := mapped (stC [] id)
  let s := { s with tr := { s.tr with roots := [(1, 0x1001)] } }
  let m := ([(0x1000, 0x2001), (0x2000, 0x3001), (0x3000, 0x73)] ++ records).foldl (fun (m : Mem) (p : Nat × Nat) => m.write (memKey 1 p.1) (leBytes 64 p.2)) s.mem
  let dcb := fun (par lvl : Nat) (n : Nat) => par * 2 ^ 116 + lvl * 2 ^ 113 + 2 ^ 110 + 2 ^ 98 + n * 2 ^ 76
  (((({ s with mem := m }.setDcb 1 (dcb 0 1 8191)).setDcb 2 (dcb 1 2 0)).setDcb 3 (dcb 2 3 0)).setQuad 1 { owner := 0x80 }).tlbInstall (State.queueCluster 0)
    { asid := 1, va := 0, size := 30, pa := 0, loc := 0, port := 0, r := true, w := true, x := true }

/-- Where the front end finds an address for crew 0. -/
def feAt (s : State) : Nat → Except Miss Nat := s.feKey 0 (State.feCrew 0) (s.crewAsid 0)

/-- The state once the answered walks of crew 0 are used up. -/
def used (s : State) : State := s.dropEnds 0 (State.feCrew 0)

/-- A request at 0x4000 that names the kernel record at 0x6000, whose code, an EXIT, is at 0x8000; it asks for one quadrant of partition 0. -/
def asking : State :=
  let s := priceable [(0x4000, 0x6000 * 2 ^ 448 + 2 ^ 416 + 2 ^ 342 + 3 * 2 ^ 322 + 2 ^ 315), (0x4040, 4096 * 2 ^ 64 + 0x7001), (0x6000, 0x8000 * 2 ^ 192 + 4 * 2 ^ 160 + 2 ^ 96), (0x8000, 0x1D000000)]
  { s with fr := { s.fr with reqs := [{ id := 0, crew := 0, op := 0, qid := 0, req := 0x4000, recVa := 0x5000, time := 0 }] } }

/-- One quadrant out of one can be picked in one way. -/
theorem pick_one (ctr q : Nat) : State.pickFree ctr 1 [q] = [q] := by simp [State.pickFree, Nat.mod_one]

/-- What the request names. -/
def asked : Option Asked := (asking.readAsked (feAt asking) 0x4000).toOption

/-- The request can be priced on quadrant 1. -/
theorem asked_read : (match asked with
    | some a => decide ((used asking).requestStatus a = none) && decide (partsOf (bits a.hdr 447 416) = [0] ∧ bits a.hdr 351 342 = 1 ∧ (used asking).freeQuads 0 = [1]) && ((used asking).priceOn a 0 [[1]]).isOk
    | none => false) = true := by decide +kernel

theorem witness_FrontEndServesRequests_priced :
    ∃ a q, asking.readAsked (feAt asking) 0x4000 = .ok a ∧ (used asking).requestStatus a = none ∧ (used asking).price a 0 = .ok q := by
  have h := asked_read
  unfold asked at h
  cases hr : asking.readAsked (feAt asking) 0x4000 with
  | error e => simp [hr, Except.toOption] at h
  | ok a =>
    simp only [hr, Except.toOption, Bool.and_eq_true, decide_eq_true_eq] at h
    obtain ⟨⟨hs, hp, hn, hf⟩, hk⟩ := h
    have he : (used asking).price a 0 = (used asking).priceOn a 0 [[1]] := by simp only [State.price, hp, hn, List.map, hf, pick_one]
    cases hq : (used asking).priceOn a 0 [[1]] with
    | error e => simp [hq, Except.isOk, Except.toBool] at hk
    | ok q => exact ⟨a, q, rfl, hs, he.trans hq⟩

/-- A request of lane 0 at the front end. -/
def requested (kind qid : Nat) (s : State) : State :=
  { s with fr := { s.fr with reqs := [{ id := 0, crew := 0, op := 0, qid := BitVec.ofNat 64 qid, recVa := 0x5000, time := 0, kind := kind }], quotes := SMap.put s.fr.quotes 5 { valid := 1 } } }

theorem witness_FrontEndServesRequests :
    (let void := (requested 0 0 (priceable [])).fr.reqs.map fun r => { r with req := 0x6000 }
     let refused := { priceable [] with fr := { (priceable []).fr with reqs := void } }
     let a := refused.readAsked (feAt refused) 0x6000
     let unmapped := { requested 0 0 (st []) with now := 1 }
     let wait := requested 1 5 (st [])
     let start := (st []).setLaunch 7 { startAt := 1 }
     let one : SlotEnt := { core := 0, slot := 0, block := 0, tiles := [⟨0, 0, 0, 0⟩] }
     let opens : State := let s := st []; s.setLaunch 1 { s.launch 1 with q := { (s.launch 1).q with slots := [one] } }
     let serves : State → List Nat := fun s => (List.filter (fun p : Nat × Launch => p.2.q.slots.any fun e => decide (e.core = 0 ∧ e.slot = 0) && s.slotOpen p.1 e) s.fr.launches).map (·.1)
     let trapped := stC [] fun c => { vectored c with async := [{ cls := 11, detail := 1, pc := 0 }] }
     (refused.findReq 0 0 0).any (fun r => decide (r.req = 0x6000) && (feAt refused r.recVa).isOk) && a.isOk && (match a with
       | .ok a => ((used refused).requestStatus a).isSome
       | .error _ => false)
     && (unmapped.findReq 0 0 0).any (fun r => decide ((unmapped.readAsked (feAt unmapped) r.req).toOption = none) && match unmapped.readAsked (feAt unmapped) r.req with
       | .error (.walk _ _) => true
       | _ => false)
     && (asking.findReq 0 0 0).any (fun r => decide (r.req = 0x4000) && (feAt asking r.recVa).isOk) && decide (asking.crewAsid 0 = 1)
     && !wait.pl.mgmt.routesOld && (wait.findReq 0 0 1).any (fun r => decide (wait.answerStatus r.qid.toNat = none)) && decide (wait.answerStatus 1 = some qsUnknownQid ∧ ({ wait with now := 1 } : State).answerStatus 5 = some qsExpired)
     && ((requested 2 5 (st [])).findReq 0 0 2).isSome && !wait.acceptWaits 5 && decide ((start.launch 7).phase = 0 ∧ start.now < (start.launch 7).startAt ∧ (start.launch 7).startAt ≤ ({ start with now := 1 } : State).now) && !(start.launch 7).frozen
     && decide (serves (st []) = [] ∧ serves opens = [1] ∧ opens.slotEnt 1 0 0 = some one)
     && (((trapped.crew 0).groups (trapped.codeOf 0)).find? fun g => hasLane g.lanes 0).any (fun g => (trapped.takeWaiting 0 g).isSome) && ((((st []).crew 0).groups ((st []).codeOf 0)).find? fun g => hasLane g.lanes 0).any (fun g => ((st []).takeWaiting 0 g).isNone)) = true := by
  decide +kernel

/-- A descriptor: tenant 2, the program's record at 0x6000, rings of 4 entries, and a state. -/
def ring (state tail : Nat) : BitVec 512 := BitVec.ofNat 512 (0x6000 * 2 ^ 256 * 2 ^ 64 + tail * 2 ^ 288 + 2 * 2 ^ 244 + 2 ^ 235 + 2 ^ 231 + state * 2 ^ 229)

theorem witness_QueuesAreServed :
    (let program := (priceable [(0x6000, 0x8000 * 2 ^ 192 + 4 * 2 ^ 160), (0x8000, 0x1D000000)]).setQueue 4095 { desc := ring 0 0, loading := true }
     let at' := program.feKey 0 (State.feQueue 4095) (program.qAsid (program.queue 4095))
     let f : Func := { owner := 0x80, queues := [(0, 9)], msixOn := true, pba := 1#256 <<< 255 }
     let owned := ((st []).setFunc 0 f).setQueue 9 { desc := ring 1 0 }
     let busy := (owned.setFunc 0 { f with qrstBusy := [9] })
     let ready := (st []).setQueue 9 { desc := ring 1 1 }
     let runs := fun n => stC [] fun c => { c with launch := none, queue := some 0, issues := n }
     decide (bits (ring 3 0).toNat 238 235 ≠ 0 ∧ bits (ring 3 0).toNat 234 231 ≠ 0 ∧ bits (ring 3 0).toNat 230 229 = 3 ∧ bits (0#512).toNat 238 235 = 0 ∧ bits (ring 1 0).toNat 230 229 = 1 ∧ bits (ring 2 0).toNat 230 229 ≠ 1)
     && (program.queue 4095).loading && !(program.queue 4095).inFlight && !program.queueResetting 4095 && !((st []).setQueue 9 {}).queueResetting 9 && (match program.readProgram at' (program.queue 4095), program.readProgram at' {} with
       | .ok (.ok _), .ok (.error _) => true
       | _, _ => false)
     && (State.func (owned.setFunc 0 { f with resetting := true }) 0).resetting && !owned.funcShut 0 && decide (owned.funcQueue 0 0 = some 9 ∧ owned.funcQueue 0 1 = none)
     && decide (bits (ring 1 0).toNat 271 256 = bits (ring 1 0).toNat 287 272) && decide (ready.chooseQueue 0 = some 9 ∧ dieOf 167 = 0) && (ready.queueRoom 167 (ready.queue 9)).isSome
     && decide (((runs 4096).crew 0).queue = some 0 ∧ 4096 ≤ ((runs 4096).crew 0).issues ∧ ((runs 4095).crew 0).issues < 4096) && f.msixOn && f.pba.getLsbD 255 && decide (f.qrstBusy = [] ∧ (busy.func 0).qrstBusy.find? busy.resetDone = some 9)
     && decide (({ f with queues := [] } : Func).queues = [] ∧ f.resetting = false)) = true := by decide +kernel

/-- The tenant is being pre-empted on partition 0. -/
def preempted (p : Preempt) (now : Nat) : State := let s := st []; { s with now := now, fr := { s.fr with preempts := [p] } }

theorem witness_PreemptionClimbsItsRungs :
    (let p : Preempt := { tenant := 7, part := 0, since := 0 }
     let dueG : Nat := bits (State.dcb State.reset 7) 43 32 * 10000
     let dueK : Nat := bits (State.dcb State.reset 7) 31 20 * 100000
     let stops : Nat → Nat → State := fun (n now : Nat) => { (st []).modBlock 0 (fun b => { b with stop := n }) with now := now }
     let saved : Saved := { block := { core := 0 }, crews := [], window := [], fe := [], slices := [], tiles := [], pois := [], places := [], quads := [], bars := [], recs := [] }
     let at0 : State := { (st [])  with fr := { (st []).fr with saved := [saved] } }
     decide ((st []).preemptOf 7 0 = none ∧ (st []).tenantBlocks 7 0 = []) && decide ((preempted p 0).preemptOf 7 0 = some p ∧ ((preempted p 0).dropPreempt 7 0).tenantBlocks 7 0 = []) && decide (p.rung = 1 ∧ ({ p with rung := 3 } : Preempt).rung = 3)
     && Nat.ble (p.since + bits ((preempted p dueG).dcb 7) 43 32 * 10000) (preempted p dueG).now && !Nat.ble (p.since + bits ((preempted p 0).dcb 7) 43 32 * 10000) 0 && Nat.ble (p.since + bits ((preempted p dueK).dcb 7) 31 20 * 100000) (preempted p dueK).now
     && decide ((stops 2 0).blockAt 0 0 (fun b => decide (b.stop = 2)) = some 0 ∧ (stops 3 0).blockAt 0 0 (fun b => decide (3 ≤ b.stop) && decide (b.stop ≤ 5)) = some 0 ∧ (stops 4 0).blockAt 0 0 (fun b => decide (3 ≤ b.stop) && decide (b.stop ≤ 5)) = some 0
       ∧ (stops 5 0).blockAt 0 0 (fun b => decide (3 ≤ b.stop) && decide (b.stop ≤ 5)) = some 0)
     && Nat.ble (bits ((stops 2 0).ppcOf 0) 23 16 * 1000) 20000 && ((stops 3 0).haltBlock 0).settled 0 && ((stops 4 0).haltBlock 0).settled 0 && ((stops 5 0).haltBlock 0).settled 0 && !(((stops 3 0).modCrew 0 fun c => { c with sE := 1 }).haltBlock 0).settled 0
     && decide ((at0.fr.saved.filter fun b => decide (b.block.core = 0) && b.inShadow.isNone) ≠ []) && ((st []).setLaunch 1 { frozen := true }).fr.launches.any fun l => l.2.frozen) = true := by decide +kernel

theorem witness_ManagementWritesAndAttests :
    (let s := State.reset
     let tenantOf1 := 2 ^ 116 + 2 * 2 ^ 113 + 2 ^ 98
     decide (s.dcbRefused 0 tenantOf1 = true) && !(priceable []).dcbRefused 4095 tenantOf1 && decide (bits tenantOf1 115 113 ≠ 1)
     && !(s.unit 0 639).retired && decide ((s.quad 639).owner ≠ 0x9F#8 &&& 0x9F#8) && !s.ownerBusy 0 0x9F (fun c => decide (c = 159)) && (st []).ownerBusy 0x80 0x81 (fun c => decide (c = 0))
     && decide (3 ≤ (s.setHostPort 1 { spdm := 3 } |>.hostPort 1).spdm ∧ (s.hostPort 1).spdm < 1)) = true := by decide +kernel

def badImage (n : Nat) : State := let s := st []; { s with pl := { s.pl with mgmt := { s.pl.mgmt with badImage := n } } }

/-- Bring-up stops at the step whose image fails (R423). -/
theorem test_bad_image :
    (match exec .coldReset (badImage 2), exec .warmReset (badImage 6), exec .coldReset (badImage 0) with
     | .next a, .next b, .next c => decide (a.pl.mgmt.step = 2 ∧ a.pl.mgmt.logicUp = false ∧ b.pl.mgmt.step = 6 ∧ c.pl.mgmt.step = 7)
     | _, _, _ => false) = true := by decide +kernel

theorem witness_ResetsLeaveWhatTheySay :
    (match exec (.ptpTimeSync 1 999999999 2) (st []) with
     | .next t => decide (t.pl.mgmt.sync = 2)
     | _ => false) = true := by decide +kernel

theorem witness_DecodeEncodeAgree :
    (([.iadd 255 255 255, .brc 7 true 0x8000, .iaddX { XF.ofB 3 1 2 with pix := 3, pneg := true }, .ld { XF.ofB 3 4 1 with var := 4 }, .cbld { XF.ofB 15 8 0 with sa := true }, .exit] : List Instr).all fun i => i.wf && !i.isEvent) = true := by decide +kernel

/-- The state answers a next state when the module takes a step. -/
def moves (s : State) : Bool :=
  match step s with
  | .next _ => true
  | _ => false

/-- A kernel of one crew of 64 threads stands before an IADD. -/
def beforeIadd : State := State.reset.withFetchWord 32 0x01030102

theorem witness_NoStoreStaysOverdue : (moves beforeIadd && moves (st [])) = true := by decide +kernel

theorem witness_TheGateDecidesTheIssue :
    (let sh := (Instr.iaddX XF.zero).shape
     let ok := fun (c : Crew) (f : XF) => decide (sh.use = false ∧ usesPort sh f = false) && ((operands sh f).all fun o => !o.aliasBound f.qp c) && !c.predsPend 3 (predNames sh f)
     let f : XF := XF.ofB 3 1 2
     let beyond := fun (c : Crew) (f : XF) => (operands sh f).any fun o => o.fld.beyond o.sel f.qp c.nregs o.n
     let waits := fun (c : Crew) (f : XF) => (operands sh f).any fun o => (o.fld.isSource || o.fld.isDest) && decide (c.emptyLanes (c.inHandler 3) o.sel (o.fld.regs o.sel o.n) (c.active 3 f) ≠ 0)
     let trapped := fun (c : Crew) (f : XF) => ([0, 1] : List Nat).any fun l => (operands sh f).any fun o => o.fld.isSource && o.fe && hasLane (c.emptyLanes (c.inHandler 3) o.sel (o.fld.regs o.sel o.n) (c.active 3 f)) l
     let pois := fun (c : Crew) (f : XF) => ([0, 1] : List Nat).any fun l => (operands sh f).any fun o => o.fld.isSource && hasLane (c.poisonLanes (c.inHandler 3) o.sel (o.fld.regs o.sel o.n) (c.active 3 f)) l
     let c := (st []).crew 0
     let small := { c with nregs := 16 }
     let fe := c.mapLanes 2 fun _ t => t.setEmpty 1
     let bad := c.mapLanes 2 fun _ t => t.setPois 1
     ok c f && decide (c.active 3 f ≠ 0 ∧ c.active 3 { f with pix := 1 } = 0) && ok c { f with pix := 1 } && gateOk c sh f 3 && !beyond c f && !waits c f && !pois c f
     && ok small (XF.ofB 3 15 16) && beyond small (XF.ofB 3 15 16) && !beyond small (XF.ofB 3 15 15)
     && ok fe f && waits fe f && !beyond fe f && !trapped fe f && ok fe { f with fea := true } && trapped fe { f with fea := true } && !beyond fe { f with fea := true }
     && ok bad f && pois bad f && !waits bad f && !beyond bad f) = true := by decide +kernel

theorem witness_ExceptionsSaveAndVector :
    (let s := stC [] vectored
     let c := s.crew 0
     ((lanesOf 3).all fun l => !(c.thread l).specAct && !(c.thread l).tmaskM) && c.tvec.getLsbD 0 && !State.handlerBusy c && decide (c.launch = some 1 ∧ c.traps < (s.launch 1).q.ntrap)
     && (([(3, 0), (5, 0), (8, 1), (9, 0), (15, 0)] : List (Nat × Nat)).all fun p => decide (State.trapBreach p.1 p.2 false = none)) && decide (State.countedTrap 3 = true ∧ State.countedTrap 8 = false)) = true := by decide +kernel

theorem witness_PartedPairsReplayTheLaunch :
    (let s := stC [] p1At0
     let s := s.setLaunch 1 { s.launch 1 with q := { (s.launch 1).q with prot := true } }
     let c := s.crew 0
     let taken := laneSet fun l => hasLane ctx.lanes l && ((c.thread l).pred 1 != false)
     may s ctx (Instr.brc 1 false 5).shape .zero && decide (c.launch = some 1) && !together s ctx fun l => if hasLane taken l then wrapInt 32 (ctx.pc + 4 * (5 : Int)) else ctx.next) = true := by decide +kernel

/-- A group of a kernel's crew may issue what stands at its PC. -/
def canIssue (s : State) (code : List Word) : Bool :=
  let c := s.crew 0
  match c.groups code with
  | [g] => decide (s.waitingTraps 0 g.lanes = []) && !c.mustWait code [g] g && decide (yieldOf c g = 0) && !skidHolds c g.lanes && c.queue.isNone
  | _ => false

theorem witness_AStepRunsTheDecodedInstruction :
    (let s := beforeIadd
     let c := s.crew 0
     let reps := withCode State.reset [0x1E035000, 0x01030102]
     let ill := withCode State.reset [0x6E000000, 0x00380000, 0]
     canIssue s (s.codeOf 0) && decide (s.events = [] ∧ s.turn = false ∧ s.ex.crews.length = 1) && mayIssue s c
     && (match c.groups (s.codeOf 0) with
       | [g] => decide (fetch (s.codeOf 0) g.pc = .ok (.iadd 3 1 2) 1) && (match tryGroup s 0 (s.codeOf 0) [g] false g with
         | some (.next t) => !t.held && decide (t.rep = none)
         | _ => false)
       | _ => false)
     && canIssue reps (reps.codeOf 0) && (match (reps.crew 0).groups (reps.codeOf 0) with
       | [g] => let x := groupCtx reps 0 g 1
         decide (fetch (reps.codeOf 0) g.pc = .ok (.rep 3 1 1 0 0) 1) && (match exec (.rep 3 1 1 0 0) { reps.modCrew 0 (fun c => countSkid (c.release g) g.lanes) with cur := some x, held := false, rep := none } with
         | .next t => t.rep.isSome && decide (fetch (reps.codeOf 0) x.next = .ok (.iadd 3 1 2) 1) && (t.crew 0).queue.isNone
         | _ => false)
       | _ => false)
     && canIssue ill (ill.codeOf 0) && (match (ill.crew 0).groups (ill.codeOf 0) with
       | [g] => decide (fetch (ill.codeOf 0) g.pc = .bad 1)
       | _ => false)) = true := by decide +kernel

theorem witness_NotifyMovesTheTail :
    (let s := ((st []).setFunc 0 { owner := 0x80, queues := [(0, 9)] }).setQueue 9 { desc := ring 1 3 }
     let d := (s.queue 9).desc.toNat
     let used := (bits d 303 288 + 65536 - bits d 319 304) % 65536
     let ahead := fun v => (v + 65536 - bits d 303 288) % 65536
     !s.funcShut 0 && decide (s.funcQueue 0 1 = none ∧ s.funcQueue 0 0 = some 9) && decide (2 ^ (bits d 238 235 + 1) = 4 ∧ used + ahead 4 = 4 ∧ 4 < used + ahead 5 ∧ 4 < used + ahead 2)) = true := by decide +kernel

theorem witness_ModulePowerControlIsChecked :
    (let good := fun (v : Nat) => Nat.ble 1000 (bits v 63 51) && Nat.ble (bits v 63 51) 4200 && Nat.ble 25 (bits v 50 39) && Nat.ble (bits v 50 39) 2000 && Nat.ble 32 (bits v 38 31) && Nat.ble (bits v 38 31) 255 && Nat.ble (State.reset.wattsBut 4096) (bits v 63 51)
     let mk := fun (b r i : Nat) => b * 2 ^ 51 + r * 2 ^ 39 + i * 2 ^ 31
     good (mk 1000 25 32) && good (mk 4200 2000 255) && !good (mk 999 25 32) && !good (mk 4201 25 32) && !good (mk 1000 24 32) && !good (mk 1000 2001 32) && !good (mk 1000 25 31)) = true := by decide +kernel

theorem witness_WalksEndAsTheEntriesSay :
    (let root := fun (v : Nat) => (SMap.get 0 ({ State.reset with tr := { State.reset.tr with roots := [(1, BitVec.ofNat 64 v)] } }).tr.roots 1).toNat
     let e := fun (v : Nat) => (entryAt1000 v State.reset).pteAt 0x1000
     let run := fun (last : Nat) => { State.reset with mem := State.reset.mem.write (memKey 1 0x1000) ((List.range 16).flatMap fun j => leBytes 8 (0x10273 + 0x1000 * (if j = 15 then last else j))) }
     let at' := fun (s : State) j => s.pteAt (0x1000 + 8 * j)
     let good := fun (s : State) => decide (bits (at' s 0) 51 12 * 4096 % 2 ^ 16 = 0) && (List.range 16).all fun j => bitOf (at' s j) 0 && bitOf (at' s j) 1 && bitOf (at' s j) 9 && decide (bits (at' s j) 6 4 = bits (at' s 0) 6 4 ∧ bits (at' s j) 62 60 = bits (at' s 0) 62 60)
       && Nat.beq (bits (at' s j) 51 12 * 4096) (bits (at' s 0) 51 12 * 4096 + j * 2 ^ 12)
     !bitOf (root 0x1000) 0 && bitOf (root (2 ^ 52 + 1)) 0 && decide (bits (root (2 ^ 52 + 1)) 63 52 ≠ 0) && bitOf (root 0x1001) 0 && decide (bits (root 0x1001) 63 52 = 0 ∧ bits (root 0x1001) 11 1 = 0)
     && !bitOf (e 0x72) 0 && bitOf (e 0x477) 0 && pteBad (e 0x477) 0 && pteBad (e 0x1073) 1 && bitOf (e 0x2001) 0 && !pteBad (e 0x2001) 4 && !bitOf (e 0x2001) 1 && pteBad (e 0x2001) 0 && bitOf (e 0x2073) 1 && !pteBad (e 0x2073) 0 && decide (bits (e 0x2073) 62 61 = 0)
     && good (run 15) && !good (run 14) && bitOf (at' (run 15) 0) 9 && !pteBad (at' (run 15) 0) 0) = true := by decide +kernel

theorem witness_MemoryReadsBack : (decide (∀ p ∈ [(0, (1 : BitVec 8)), (2, 3)], p.1 ≠ 1) && !State.reset.quarantined (memKey 1 0)) = true := by decide +kernel

/-! ## Witnesses of further clauses -/

/-- Lanes 0 and 1 name granules 0x100 and 0x110, both EMPTY. -/
def emptyGranules : State := stC [(6, 7)] fun c => c.mapLanes 3 fun l t => t.wr 4 (BitVec.ofNat 32 (0x100 + 16 * l))

theorem witness_FullAndEmptyGranules_empty :
    (([{ XF.ofB 3 4 1 with var := 4, c := 1, own := 2 }, { XF.ofB 3 4 0xA9 with var := 4, c := 1, own := 3 }, { XF.ofB 3 4 1 with var := 4, c := 1, own := 1 }] : List XF).all fun f =>
      let r := emptyGranules.accesses 0 1 4 .load (memAddr (emptyGranules.crew 0) false f { sp := 1, size := 4, disp := 0 }) (memLanes false (act emptyGranules ctx f))
      readyOut emptyGranules ctx (Instr.ldfe f).shape f && decide (f.space = 1) && free emptyGranules 0 && r.2.isEmpty && (r.1.map (·.gran)).all fun g => decide (SMap.get false emptyGranules.mem.fe g = false)) = true := by
  decide +kernel

/-- Lane 0 is out of the window, lane 1 misaligned. -/
def unplaced : State := roomy (stC [(6, 7)] fun c => c.mapLanes 3 fun l t => (t.wr 4 (BitVec.ofNat 32 (if l = 0 then 0x80000 else 0x101))).wr 8 0x10001)

theorem witness_OnChipStoresWriteTheirBytes_fails :
    (([(1, 4), (0, 8)] : List (Nat × Nat)).all fun p =>
      let f := { XF.ofB 6 4 (BitVec.ofNat 8 p.1) with var := 4 }
      let addr := memAddr (unplaced.crew 0) false f (memForm f)
      readyOut unplaced ctx (Instr.st f).shape f && free unplaced 1 && !storeMismatch unplaced ctx 3 addr (storeData (unplaced.crew 0) false f 4) && decide (addr 1 % 4 ≠ 0)
        && (decide (p.1 = 0) || decide ((unplaced.place 0 0 1 (addr 0) 4 .store).toOption = none))) = true := by decide +kernel

theorem witness_BlockBarriersArriveAndRelease_last :
    (([1, 2] : List Nat).all fun n =>
      let s := (st []).setBar 0 { block := 0, id := 1, state := 1, count := n }
      let c := s.crew 0
      readyOut s ctx (Instr.bar { XF.ofB 3 0 0 with c := 31, w2 := 1 }).shape { XF.ofB 3 0 0 with c := 31, w2 := 1 } && decide (c.live ≠ 0 ∧ c.live &&& ~~~(c.atBar 1 ||| 3) = 0 ∧ c.idx < 16) && ((lanesOf c.live).all fun l => s.fenceOk 0 l 0)
        && (s.block c.block).crews.contains 0 && decide (c.block = 0 ∧ (s.barEnt 0 1).map (·.mask.getLsbD c.idx) = some false ∧ ((List.range 16).filter (0#16 ||| (1#16 <<< c.idx)).getLsbD).length = 1)) = true := by decide +kernel

theorem witness_ArrivalBarriersAnswer_busyFull :
    (let f := { XF.ofB 3 4 5 with own := 1, w2 := 0x2001 }
     let held := armedAb.abPutHdr 0 3 (armedAb.abRefOf 0 1 0x100) { armedAb.abHdr 0 true (armedAb.abRefOf 0 1 0x100) with refs := 1 }
     let other : AbEnt := { key := 0x40000, prt := 0, home := 0, launch := 9 }
     let full := (mapped (st [(4, 0x100), (10, 0x10000)])).modCore 0 fun c => { c with ab := (List.range 64).map fun j => (j, other) }
     let off := mapped (st [(4, 0x104), (10, 0x10000)])
     readyOut held ctx (Instr.abinit f).shape f && decide ((held.abHdr 0 true (held.abRefOf 0 1 0x100)).refs = 1) && !held.abBusy 0 (held.abRefOf 0 1 0x100) (abBytes 1 1)
     && readyOut full ctx (Instr.abinit f).shape f && (full.abFree 0 none).isNone && decide ((full.abRefOf 0 1 0x100).sp = 2 ∧ (full.abHdr 0 true (full.abRefOf 0 1 0x100)).refs = 0 ∧ (full.abHdr 0 true (full.abRefOf 0 1 0x100)).waiters = 0)
     && readyOut off ctx (Instr.abtest f).shape f && decide (abAddr (off.crew 0) false f 3 = 0x104 ∧ off.abFault 0 1 0x104 64 = none)) = true := by decide +kernel

theorem witness_MatrixInstructionsArePosted_waits :
    (let s := (st []).setCv 0 2 { count := 1024 }
     !(s.crew 0).chipOpen (s.crew 0).nextOp && readyOut s ctx (Instr.mstat { XF.ofB 3 0 0 with var := 1 }).shape { XF.ofB 3 0 0 with var := 1 } && decide ((s.cv 0 2).signed + 2 ≤ 2047 ∧ (s.cv 0 2).count ≠ 0)) = true := by decide +kernel

theorem witness_TableLoadsFillTheirSlot_invalid :
    (let s := stC [] (withS [(8, 0x100)])
     let a := (List.range 5).filterMap fun j => (s.access 0 0 1 (0x100 + 16 * j) 16 .load).toOption
     readyOut s ctx (Instr.ctld { XF.ofB 3 8 0 with sa := true }).shape { XF.ofB 3 8 0 with sa := true } && decide (a.length = 5) && (match s.readTable 0 ctx a with
       | some (_, bs, bad) => !bad && !curveValid (fun b => leNat ((bs.drop (4 * b)).take 4))
       | none => false)) = true := by decide +kernel

/-- The lanes of `m` are `d` levels deep in a region, or in the crew's region. -/
def deepIn (d : Nat) (cr : Bool) (m : Lanes) (r : Region) : State :=
  mapped (stC [] fun c =>
    { c.mapLanes m (fun _ t => { t with spec := BitVec.ofNat 32 (0x80000000 + d * 2 ^ 27 + (if cr then 2 ^ 30 else 0)), region := if cr then none else some r, ckpt := some { n := 0, v := [], p := 0, target := 0 } }) with
      region := if cr then some r else none })

theorem witness_RegionsBeginAndEnd_more :
    (let crewTry := { XF.zero with c := 8, w2 := 0x40, var := 1 }
     let w : Region := { ssb := [{ key := memKey 1 0x2000, val := 7, lane := 0 }] }
     let inIt := fun (s : State) (d : Nat) (cr : Bool) => (lanesOf 3).all fun l => ((s.crew 0).thread l).specAct && decide (((s.crew 0).thread l).specDepth = d ∧ ((s.crew 0).thread l).specCrew = cr)
     mayAll (st []) [.tryRegion crewTry] && mayAll (deepIn 4 true 3 {}) [.tryRegion crewTry] && inIt (deepIn 4 true 3 {}) 4 true && mayAll (deepIn 1 false 3 {}) [.tryRegion crewTry] && inIt (deepIn 1 false 3 {}) 1 false
     && mayAll (deepIn 1 true 3 w) [.commit XF.zero] && inIt (deepIn 1 true 3 w) 1 true && decide (w.sectors ≠ []) && !((deepIn 1 true 3 w).crew 0).regionBusy (((deepIn 1 true 3 w).crew 0).allMembers 3) && !((deepIn 1 true 3 w).crew 0).openChecks 3
     && decide (((deepIn 1 true 3 w).crew 0).regionOf 1 = some w) && mayAll (st []) [.commit XF.zero, .abort XF.zero]) = true := by decide +kernel

theorem witness_TranslationEventsAct_more :
    (let r : WalkReq := { asid := 1, va := 0x1000, kind := 0, who := 0 }
     let k : Walk := { id := 0, req := { r with va := 0 }, level := 0, table := 0x1000 }
     let s := walking { walks := [k] }
     ((s.walkPool 0).walks.find? fun k => decide (k.req.asid = 1) && !k.discard && State.sameDown k.req.va 0x1000 k.level).isSome
     && (match (walking {}).rootOf 3 with
       | .error _ => true
       | .ok _ => false) && decide ((State.reset.setFunc 0 { invcmd := 1 }).func 0 = { invcmd := 1 })) = true := by decide +kernel

theorem witness_HomeEventsServeAccesses_more :
    (let sec := Acc.sector anAcc
     let h : Acc := { anAcc with loc := 2, keys := (List.range 4).map fun j => memKey 2 0x2000 + j }
     let op := fun k (a : Acc) => ({ id := 0, kind := k, cls := 1, pc := 0, lanes := 3, accs := [a] } : Op)
     let s := opened (op .load h)
     let bad := fun (m : Bool) (lv : Lanes) => (opened { op .store anAcc with checked := false, bad := 2, masked := m }).modCrew 0 fun c => c.mapLanes (~~~lv) fun _ t => { t with live := false }
     let prot := s.setLaunch 1 { s.launch 1 with q := { (s.launch 1).q with prot := true } }
     !s.locked (Acc.sector h) && s.inTurn 0 (op .load h) 0 (Acc.sector h) && s.inGrants (s.crewPart 0) (memKey 2 0x2000) && !s.commitHolds (coreOf 0) (s.crewPart 0) (Acc.sector h) && decide (prot.pairLanes 0 1 = 3 ∧ s.pairLanes 0 1 = 2)
     && decide (((bad false 1).crew 0).live &&& 2 = 0 ∧ ((bad true 3).crew 0).live &&& 2 ≠ 0) && decide ((opened { op .longLat anAcc with writes := [⟨none, 3, 4⟩] }).coh.pend = [])
     && (let t := run (.storeAtHome 0 0 0) { opened (op .store anAcc) with now := 1 }; (t.coh.pend.any fun p => decide (p.sector = sec ∧ 1 < p.wct)))) = true := by decide +kernel

theorem witness_HostEventsReachMemory_more :
    (let s := hosted
     (match s.inboundKeys 0 0 0x20000 false 4, s.inboundKeys 0 0 0x20000 true 1 with
       | .error (.walk _ _), .error (.walk _ _) => true
       | _, _ => false)
     && (let g := (s.setWayEnt 0 5 0x80000003#32).setReleasing 0 5 4
         (List.filter (fun p : Nat × L2Way => decide (p.1 / 32 / 32768 = 0) && decide (p.2.part = 5) && (g.releasingOf 0 5).getLsbD (p.1 % 32)) g.coh.l2).isEmpty)) = true := by decide +kernel

theorem witness_LaunchesEndAndReport_post :
    (let all := ended { forwarded := [0], wct := [(0, 5)] }
     let qi := (all.launch 1).q.queue
     let asid := match all.completionKey qi with
       | .error (.walk a _) => a
       | _ => 0
     let va := match all.completionKey qi with
       | .error (.walk _ v) => v
       | _ => 0
     let bad := all.setWalk 0 { ends := [⟨⟨asid, va, 2, State.feQueue qi⟩, none, 1⟩] }
     let good := all.tlbInstall (State.queueCluster 0) { asid := asid, va := 0, size := 30, pa := 0, loc := 0, port := 0, r := true, w := true, x := true }
     match all.completionKey qi, bad.completionKey qi, good.completionKey qi with
     | .error (.walk _ _), .error (.walkFail _), .ok _ => bad.firstEnded 1 && good.firstEnded 1
     | _, _, _ => false) = true := by decide +kernel

theorem witness_EnginesMoveTheirCommands_more :
    (let keysOf := fun (s : State) => match (s.chan 0 0).chain with
       | some n => (s.engKeys n.ctx n.sp n.addr 64).getD []
       | none => []
     let p := fun (v j : Nat) => let s := chained v; s.poisonKeys (((keysOf s).drop j).take 8)
     let str : Stream := { space := 1, base := 0x100, count := 16, step := 4, prot := true, queued := [(0, 0, 5, 0), (1, 0, 6, 0)] }
     let q := stC [] fun c => { c with streams := [(5, str)], ops := [{ id := 0, kind := .push, cls := 1, pc := 0, lanes := 3, accs := [{ anAcc with keys := [], found := true }, { anAcc with lane := 0, keys := [], found := true }] }], nextOp := 1 }
     let e : AbEnt := { key := 0x100, prt := 0, home := 0, launch := 1, fwd := [(1, 0, 0)] }
     let homed := (st []).modCore 0 fun c => { c with ab := [(63, e)] }
     ((p goodRecord 0).engRead ((keysOf (chained goodRecord)).take 1)).2 && !((p goodRecord 40).engRead ((keysOf (chained goodRecord)).take 1)).2 && ((p goodRecord 40).engRead (keysOf (chained goodRecord))).2
     && State.pushReady (q.crew 0) str 0 (q.pairLanes 0 1) && decide (((str.queued.filter fun x => decide (x.2.2.2 = 0)).map fun x => (x.1, x.2.2.1)) ≠ [(0, 6), (1, 6)]) && homed.abReady ⟨1, 63, 1, 0, 0⟩ none) = true := by decide +kernel

/-- A pan of one slot of two chunks under key 0x77 on core 9, where port 0 comes in. -/
def withPan9 (p : PanSlot) : State :=
  let s := withPan {}
  (s.setLaunch 1 { s.launch 1 with q := { (s.launch 1).q with spans := [(9, (0, 0x80000))] } }).modCore 9 fun c => { c with pan := [(64, p)] }

theorem witness_PansAndPortsAnswer_arrivals :
    (let j : PanSlot := { state := 2, mode := 1, ncont := 3, joined := 1, gen := 1, nchunk := 2, owed := [(2, 3, 4)] }
     decide (State.arrivalCore 0 0xFFFFFC = some 9 ∧ State.arrivalCore 0 0 = none) && decide ((withPan9 {}).panLaunches 9 = [1] ∧ (withPan9 {}).panLaunches 0 = []) && !(withPan9 {}).portShut 0 && ((withPan9 {}).setPort 0 { retrain := true }).portShut 0
     && decide (((withPan9 j).slot 9 64).joined < ((withPan9 j).slot 9 64).ncont ∧ ((withPan9 j).slot 9 64).owed ≠ [] ∧ ((withPan9 { j with joined := 3 }).slot 9 64).joined = 3 ∧ ((withPan9 { j with owed := [] }).slot 9 64).owed = [])
     && decide (((withPan9 { state := 4, gen := 1, cause := 2 }).slot 9 64).state = 4 ∧ ((withPan9 {}).slot 9 64).state = 0 ∧ ((withPan9 { state := 3 }).slot 9 64).state = 3)
     && (j.owed.all fun o => (withPan9 j).portOpen o.1 1 && ((withPan9 j).port o.1).vc1.isEmpty)) = true := by decide +kernel

theorem witness_ManagementWritesAndAttests_more :
    (let tenant := 2 ^ 116 + 2 * 2 ^ 113 + 2 ^ 98
     let s := priceable []
     let v := State.dcbCopy tenant (s.dcb (bits tenant 127 116))
     !s.dcbRefused 4095 v && decide (bits v 115 113 ≠ 1) && inHbmRange (98302 * 2097152) 2097152 && inHbmRange 0 0) = true := by decide +kernel

theorem witness_AStepRunsTheDecodedInstruction_profile :
    (let s := withCode State.reset [0x01030102]
     match (s.crew 0).groups (s.codeOf 0) with
     | [g] =>
       let w := (s.fetched 0 g.pc).modCrew 0 fun c => countSkid (c.release g) g.lanes
       !outOfProfile w 0 (.iadd 3 1 2) && outOfProfile w 0 (.halt XF.zero)
     | _ => false) = true := by decide +kernel

/-! ## Steps and events -/

/-- A step issues the IADD that the module has placed, and every thread of the crew goes on (R141, R191). -/
theorem test_step_issues : (match step (State.reset.withFetchWord 32 0x01030102) with
    | .next t => decide (((t.crew 0).thread 0).pc = 4 ∧ ((t.crew 0).thread 63).pc = 4 ∧ (t.crew 0).issues = 1)
    | _ => false) = true := by decide +kernel

/-- A store of `.g` passes its checks, is accepted at its home with WCT 4, performed then, and retired after it (R66, R69, R78). -/
theorem test_store_reaches_memory :
    (let s := mapped (st [(8, 0x10010), (6, 0xA1B2C3D4)])
     let s := run (.stGB32 6 4 0) { s with cur := some { ctx with lanes := 1 } }
     let s := run (.storeAtHome 0 0 0) (run (.storeChecksPass 0 0) s)
     let p := run (.pendingStorePerformed (sectorOf (memKey 1 0x2000))) { s with now := 4 }
     let r := fun n => run (.stRetire 0 0) { run (.storeAck 0 0 0) s with now := n }
     decide (s.mem.bytes = [] ∧ leNat (p.mem.read (memKey 1 0x2010) 4) = 0xA1B2C3D4) && decide ((((r 4).crew 0).ops).length = 1 ∧ ((r 5).crew 0).ops = [])) = true := by decide +kernel

/-- A store waits for the lease of another holder, and 4 ns more (R66): the byte stands in memory no earlier. -/
theorem test_store_waits_for_leases :
    (let s := mapped { st [] with now := 100 }
     let s := s.setWayEnt 0 0 3
     let f := s.fillSector 40 0 (sectorOf (memKey 1 0x2000)) 512
     decide (f.2 = some 612) && decide ((f.1.acceptStore 1 0 1 (sectorOf (memKey 1 0x2000)) [(memKey 1 0x2000, 7)]).2 = 616)
     && decide ((f.1.acceptStore 1 0 1 (sectorOf (memKey 1 0x2000)) [(memKey 1 0x2000, 7)]).1.mem.byte (memKey 1 0x2000) = 0)) = true := by decide +kernel

/-- A walk reads an entry of each level and ends with the page (R13, R25). -/
theorem test_walk :
    (let s := walking {}
     let s := { s with mem := ([(0x1000, 0x2001), (0x2000, 0x3001), (0x3000, 0x40000073)] : List (Nat × Nat)).foldl (fun m p => m.write (memKey 1 p.1) (leBytes 8 p.2)) s.mem }
     let a := run (.walkRequest 0 1 0x12345 0 0) s
     let e := run (.walkEntryRead 0 0) (run (.walkEntryRead 0 0) (run (.walkEntryRead 0 0) a))
     decide ((a.walkPool 0).walks.map (·.level) = [4]) && decide ((e.walkPool 0).walks = []) && decide ((e.walkPool 0).ends.map (fun w => (w.status, w.tr.map fun t => (t.size, t.pa))) = [(0, some (30, 0x40000000))])) = true := by decide +kernel

/-- A refused request is answered with its status, in D and in the record (R333, R341): its job is no active job. -/
theorem test_quote_refused :
    (let s := requested 0 0 (priceable [])
     let s := { s with fr := { s.fr with reqs := s.fr.reqs.map fun (r : FrontReq) => { r with req := 0x6000 } } }
     let t := run (.quoteRequest 0 0) (s.modCrew 0 fun c => { c with ops := [{ id := 0, kind := .quote, cls := 6, pc := 0, lanes := 1, dests := [(some 0, 3)] }] })
     decide ((lane0 t).rd 3 = 0x18) && decide (t.fr.reqs = [])) = true := by decide +kernel

/-- NOTIFY and CQACK (R418, R419), one that is dropped, and MBUDGET out of its range (R391). -/
theorem test_host_writes :
    (let s := ((st []).setFunc 0 { owner := 0x80, queues := [(0, 9)] }).setQueue 9 { desc := ring 1 0 }
     let n := run (.notify 0 0 0 4) s
     decide (State.qTail (n.queue 9) = 4) && decide (((run (.notify 0 0 0 5) s).func 0).badNotify = 1) && decide (((run (.cqack 0 0 0 1) s).func 0).badNotify = 1)
     && decide ((run (.modulePowerControlWrite (BitVec.ofNat 64 (999 * 2 ^ 51 + 25 * 2 ^ 39 + 32 * 2 ^ 31))) s).pl.mgmt.mpc = s.pl.mgmt.mpc)) = true := by decide +kernel

/-- A request gives a block its PREEMPT notice, and the group takes the trap (R377, R380). -/
theorem test_preempt_notice :
    (let s := run (.preemptRequest 0 0) (stC [] vectored)
     let t := run (.trapEntry 0 0) s
     (s.crew 0).notice && decide ((lane0 t).tcause = 0x88000001 ∧ (lane0 t).pc = 0x400 + 0x200)) = true := by decide +kernel

end Sys2Proof.Tests
end

section
/-! PROOF. How a walk reads a root entry, an entry and a run (R11, R13, R15, R29): each function of Walk.lean case by case, then O60. -/

namespace Sys2Proof.Proofs.Walk

open Sys2Proof.Machine Sys2Proof.Machine.State Sys2Proof.Safety

/-! ## Root entries (R11, R15) -/

section
variable (s : State) (asid : Nat)

/-- The root entry that an ASID has. -/
def rootEntry : Nat := (SMap.get 0 s.tr.roots asid).toNat

theorem rootOf_eq : s.rootOf asid =
    if !bitOf (rootEntry s asid) 0 then .error walkNoroot
    else if bits (rootEntry s asid) 63 52 ≠ 0 ∨ bits (rootEntry s asid) 11 1 ≠ 0 then .error walkMalformed
    else .ok (ptePa (rootEntry s asid)) := rfl

theorem rootOf_of_not_valid (hv : bitOf (rootEntry s asid) 0 = false) : s.rootOf asid = .error walkNoroot := by
  simp [rootOf_eq, hv]

theorem rootOf_of_reserved (hv : bitOf (rootEntry s asid) 0 = true) (hr : bits (rootEntry s asid) 63 52 ≠ 0 ∨ bits (rootEntry s asid) 11 1 ≠ 0) :
    s.rootOf asid = .error walkMalformed := by
  rw [rootOf_eq, hv, if_neg (by decide), if_pos hr]

theorem rootOf_of_valid (hv : bitOf (rootEntry s asid) 0 = true) (hhi : bits (rootEntry s asid) 63 52 = 0) (hlo : bits (rootEntry s asid) 11 1 = 0) :
    s.rootOf asid = .ok (ptePa (rootEntry s asid)) := by
  simp [rootOf_eq, hv, hhi, hlo]

end

/-! ## What makes an entry malformed (R14, R15) -/

theorem bitOf_eq_decide_bits (x i : Nat) : bitOf x i = decide (bits x i i ≠ 0) := by
  simp [bitOf, bits]

theorem pteReserved_eq (e : Nat) :
    pteReserved e = decide (bits e 63 63 ≠ 0 ∨ bits e 59 52 ≠ 0 ∨ bits e 11 10 ≠ 0 ∨ bits e 3 2 ≠ 0) := by
  simp only [pteReserved, bitOf_eq_decide_bits, Bool.decide_or, Bool.or_assoc]

/-- A leaf is malformed by its reserved bits, its level and the bits of its PA below the page size. -/
theorem pteBad_leaf (e level : Nat) (hl : bitOf e 1 = true) :
    pteBad e level = true ↔ pteReserved e = true ∨ 3 ≤ level ∨ ptePa e % 2 ^ leafSize level ≠ 0 := by
  simp only [pteBad, hl, ← pteReserved_eq, ptePa, leafSize, Bool.true_and, Bool.not_true, Bool.false_and, Bool.or_false, Bool.or_eq_true, decide_eq_true_eq, or_assoc]

/-- A table pointer is malformed by its reserved bits, its level and the bits that only a leaf may set. -/
theorem pteBad_table (e level : Nat) (hl : bitOf e 1 = false) :
    pteBad e level = true ↔ pteReserved e = true ∨ level = 0 ∨ bitOf e 9 = true ∨ bits e 8 4 ≠ 0 := by
  simp only [pteBad, hl, ← pteReserved_eq, Bool.false_and, Bool.not_false, Bool.true_and, Bool.or_false, Bool.or_eq_true, decide_eq_true_eq, or_assoc]

/-! ## Runs (R13) -/

/-- R13 of the sixteen entries `f 0` to `f 15` of a run of leaves of `2 ^ size` bytes. -/
def RunGood (f : Nat → Nat) (size : Nat) : Prop :=
  ptePa (f 0) % 2 ^ (size + 4) = 0 ∧ ∀ j, j < 16 → bitOf (f j) 0 = true ∧ bitOf (f j) 1 = true ∧ bitOf (f j) 9 = true ∧
    bits (f j) 6 4 = bits (f 0) 6 4 ∧ bits (f j) 62 60 = bits (f 0) 62 60 ∧ ptePa (f j) = ptePa (f 0) + j * 2 ^ size

/-- The packed attributes agree exactly when R, W, X and LOC, PORT agree: the lower field has three bits. -/
theorem pteAttr_eq_iff (e e' : Nat) : pteAttr e = pteAttr e' ↔ bits e 6 4 = bits e' 6 4 ∧ bits e 62 60 = bits e' 62 60 := by
  have rwxBound : ∀ x, bits x 6 4 < 8 := fun x => Nat.mod_lt _ (by decide)
  have he := rwxBound e
  have he' := rwxBound e'
  unfold pteAttr
  omega

theorem zip_range_map (f : Nat → Nat) (n : Nat) : (List.range n).zip ((List.range n).map f) = (List.range n).map fun j => (j, f j) := by
  simpa using List.zip_map' (f := id) (g := f) (l := List.range n)

theorem runOk_iff_runGood (f : Nat → Nat) (size : Nat) : runOk ((List.range 16).map f) size = true ↔ RunGood f size := by
  have hhead : ((List.range 16).map f).headD 0 = f 0 := rfl
  have hlen : ((List.range 16).map f).length = 16 := by simp
  unfold runOk RunGood
  simp only [hhead, hlen, zip_range_map, List.all_map, List.all_eq_true, List.mem_range, Function.comp, Bool.and_eq_true, decide_eq_true_eq, pteAttr_eq_iff, and_assoc]

/-! ## Entries of a table (R13 to R15, R29) -/

section
variable (s : State) (asid va level table : Nat)

/-- The entry that a walk of `va` reads in a table of a level. -/
def entry : Nat := s.pteAt (table + 8 * vaIdx va level)

/-- Entry `j` of the aligned group of sixteen that holds the entry of `va`. -/
def runEntry (j : Nat) : Nat := s.pteAt (table + 8 * (vaIdx va level / 16 * 16 + j))

/-- The run that holds the entry of `va` is well formed. -/
def RunAtGood : Prop := RunGood (runEntry s va level table) (leafSize level)

/-- Log2 of the page that a leaf entry maps: sixteen leaves when it is one of a run. -/
def pageSize (e level : Nat) : Nat := leafSize level + if bitOf e 9 then 4 else 0

/-- The page that a leaf entry maps `va` into. -/
def pageOf (e : Nat) : Xlate :=
  { asid := asid, va := va / 2 ^ pageSize e level * 2 ^ pageSize e level, size := pageSize e level, pa := ptePa e / 2 ^ pageSize e level * 2 ^ pageSize e level,
    loc := bits e 62 61, port := bits e 60 60, r := bitOf e 4, w := bitOf e 5, x := bitOf e 6 }

theorem runOk_leafEntries_iff :
    runOk ((leafEntries va level table true).map s.pteAt) (leafSize level) = true ↔ RunAtGood s va level table := by
  have hentries : (leafEntries va level table true).map s.pteAt = (List.range 16).map (runEntry s va level table) := by
    simp only [leafEntries, if_true, List.map_map]; rfl
  rw [hentries, runOk_iff_runGood, RunAtGood]

theorem readPte_of_not_valid (hv : bitOf (entry s va level table) 0 = false) : s.readPte asid va level table = .fail walkInvalid := by
  unfold entry at hv
  simp [State.readPte, hv]

/-- A malformed valid table pointer. -/
theorem readPte_pointer_of_bad (hv : bitOf (entry s va level table) 0 = true) (hl : bitOf (entry s va level table) 1 = false)
    (hbad : pteBad (entry s va level table) level = true) : s.readPte asid va level table = .fail walkMalformed := by
  rw [pteBad_table _ _ hl] at hbad
  unfold entry at hv hl hbad
  rcases hbad with hr | rfl | hcont | hflags
  · simp [State.readPte, hv, hr]
  · simp [State.readPte, hv, hl]
  · simp [State.readPte, hv, hl, hcont]
  · simp [State.readPte, hv, hl, hflags]

/-- A malformed valid leaf. -/
theorem readPte_leaf_of_bad (hv : bitOf (entry s va level table) 0 = true) (hl : bitOf (entry s va level table) 1 = true)
    (hbad : pteBad (entry s va level table) level = true) : s.readPte asid va level table = .fail walkMalformed := by
  rw [pteBad_leaf _ _ hl] at hbad
  unfold entry at hv hl hbad
  rcases hbad with hr | hlevel | hpa
  · simp [State.readPte, hv, hr]
  · simp [State.readPte, hv, hl, hlevel]
  · simp [State.readPte, hv, hl, hpa]

/-- A valid leaf with nothing wrong in itself whose port is fit for its LOC: its run alone decides. -/
theorem readPte_leaf (hv : bitOf (entry s va level table) 0 = true) (hl : bitOf (entry s va level table) 1 = true)
    (hbad : pteBad (entry s va level table) level = false)
    (hport : bits (entry s va level table) 62 61 = 0 ∨ s.cxlPort (bits (entry s va level table) 60 60) = true) :
    s.readPte asid va level table =
      if bitOf (entry s va level table) 9 && !runOk ((leafEntries va level table true).map s.pteAt) (leafSize level) then .fail walkMalformed
      else .leaf (pageOf asid va level (entry s va level table)) := by
  obtain ⟨hr, hlevel, hpa⟩ : pteReserved (entry s va level table) = false ∧ ¬3 ≤ level ∧ ptePa (entry s va level table) % 2 ^ leafSize level = 0 := by
    simpa [pteBad_leaf _ _ hl] using (Bool.eq_false_iff.mp hbad)
  unfold entry at *
  rcases hport with hloc | hcxl
  · cases hrun : bitOf (s.pteAt (table + 8 * vaIdx va level)) 9 <;>
      simp [State.readPte, hv, hl, hr, hlevel, hpa, hloc, hrun, pageOf, pageSize]
  · cases hrun : bitOf (s.pteAt (table + 8 * vaIdx va level)) 9 <;>
      simp [State.readPte, hv, hl, hr, hlevel, hpa, hcxl, hrun, pageOf, pageSize]

theorem readPte_of_bad (hv : bitOf (entry s va level table) 0 = true) (hbad : pteBad (entry s va level table) level = true) :
    s.readPte asid va level table = .fail walkMalformed := by
  cases hl : bitOf (entry s va level table) 1 with
  | true => exact readPte_leaf_of_bad s asid va level table hv hl hbad
  | false => exact readPte_pointer_of_bad s asid va level table hv hl hbad

theorem readPte_table (hv : bitOf (entry s va level table) 0 = true) (hbad : pteBad (entry s va level table) level = false)
    (hl : bitOf (entry s va level table) 1 = false) : s.readPte asid va level table = .table (ptePa (entry s va level table)) := by
  obtain ⟨hr, hlevel, hcont, hflags⟩ : pteReserved (entry s va level table) = false ∧ ¬level = 0 ∧ bitOf (entry s va level table) 9 = false ∧ bits (entry s va level table) 8 4 = 0 := by
    simpa [pteBad_table _ _ hl] using (Bool.eq_false_iff.mp hbad)
  unfold entry at hv hl hr hcont hflags ⊢
  simp [State.readPte, hv, hl, hr, hlevel, hcont, hflags]

section
variable (hv : bitOf (entry s va level table) 0 = true) (hbad : pteBad (entry s va level table) level = false)
  (hl : bitOf (entry s va level table) 1 = true)
  (hport : bits (entry s va level table) 62 61 = 0 ∨ s.cxlPort (bits (entry s va level table) 60 60) = true)
include hv hbad hl hport

theorem readPte_of_not_runAtGood (hc : bitOf (entry s va level table) 9 = true) (hrun : ¬RunAtGood s va level table) :
    s.readPte asid va level table = .fail walkMalformed := by
  rw [← runOk_leafEntries_iff, Bool.not_eq_true] at hrun
  rw [readPte_leaf s asid va level table hv hl hbad hport, hc, hrun]; rfl

theorem readPte_page (hgood : bitOf (entry s va level table) 9 = false ∨ RunAtGood s va level table) :
    s.readPte asid va level table = .leaf (pageOf asid va level (entry s va level table)) := by
  rw [readPte_leaf s asid va level table hv hl hbad hport, if_neg]
  rcases hgood with hc | hrun
  · simp [hc]
  · simp [(runOk_leafEntries_iff s va level table).mpr hrun]

end

end

/-- Settles O60: root entries by validity and reserved bits; table entries by validity, by what is malformed in the entry, and for a leaf by its run. -/
theorem walksEndAsTheEntriesSay : Obligations.WalksEndAsTheEntriesSay := by
  unfold Obligations.WalksEndAsTheEntriesSay
  constructor
  · intro s asid
    exact ⟨rootOf_of_not_valid s asid, rootOf_of_reserved s asid, rootOf_of_valid s asid⟩
  · intro s asid va level table
    refine ⟨readPte_of_not_valid s asid va level table, readPte_of_bad s asid va level table, readPte_table s asid va level table, ?leaf⟩
    intro hv hbad hl hport
    refine ⟨readPte_of_not_runAtGood s asid va level table hv hbad hl hport, fun hgood => ?page⟩
    exact ⟨_, readPte_page s asid va level table hv hbad hl hport hgood, rfl, rfl, rfl, rfl, rfl, rfl, rfl, rfl⟩

end Sys2Proof.Proofs.Walk
end

section
/-! PROOF. The module power control register (R391): a word with its low bits cleared, which writes are taken and what the register then reads, then O59. -/

namespace Sys2Proof.Proofs.PowerControl

open Sys2Proof.Machine

/-! ## The fields of a word whose low bits are cleared -/

section
variable {k hi lo : Nat} (x : Nat)

theorem bits_lt_two_pow : bits x hi lo < 2 ^ (hi + 1 - lo) :=
  Nat.mod_lt _ (Nat.two_pow_pos _)

/-- A field from bit `k` on does not see that the bits below `k` were cleared. -/
theorem bits_clearLow_of_le (h : k ≤ lo) : bits (x / 2 ^ k * 2 ^ k) hi lo = bits x hi lo := by
  have hdiv : x / 2 ^ k * 2 ^ k / 2 ^ lo = x / 2 ^ lo := by
    rw [← Nat.add_sub_cancel' h, Nat.pow_add, ← Nat.div_div_eq_div_mul, ← Nat.div_div_eq_div_mul, Nat.mul_div_cancel _ (Nat.two_pow_pos k)]
  rw [bits, bits, hdiv]

/-- The bits that were cleared read 0. -/
theorem bits_clearLow_of_lt (h : hi < k) : bits (x / 2 ^ k * 2 ^ k) hi 0 = 0 := by
  have hdvd : 2 ^ (hi + 1) ∣ x / 2 ^ k * 2 ^ k := Nat.dvd_mul_left_of_dvd (Nat.pow_dvd_pow 2 h) _
  simpa [bits] using Nat.mod_eq_zero_of_dvd hdvd

end

/-- The reserved bits of R391 are the low 30. -/
theorem toNat_clearReserved (value : BitVec 64) : (value &&& 0xFFFFFFFFC0000000#64).toNat = value.toNat / 2 ^ 30 * 2 ^ 30 := by
  have hmask : value &&& 0xFFFFFFFFC0000000#64 = value >>> 30 <<< 30 := by
    rw [BitVec.shiftLeft_ushiftRight]; rfl
  have hle : value.toNat / 2 ^ 30 * 2 ^ 30 < 2 ^ 64 := Nat.lt_of_le_of_lt (Nat.div_mul_le_self _ _) value.isLt
  rw [hmask, BitVec.toNat_shiftLeft, BitVec.toNat_ushiftRight, Nat.shiftRight_eq_div_pow, Nat.shiftLeft_eq, Nat.mod_eq_of_lt hle]

/-! ## Which writes are taken -/

section
variable (s : State) (value : BitVec 64)

/-- R391 of a word: no field is out of its range, and MBUDGET covers the sum of the WATTS of all partitions (no DCB is written at 4096 or above, so none is left out of the sum). -/
def Fits : Prop :=
  1000 ≤ bits value.toNat 63 51 ∧ bits value.toNat 63 51 ≤ 4200 ∧ 25 ≤ bits value.toNat 50 39 ∧ bits value.toNat 50 39 ≤ 2000 ∧
    32 ≤ bits value.toNat 38 31 ∧ bits value.toNat 38 31 ≤ 255 ∧ s.wattsBut 4096 ≤ bits value.toNat 63 51

/-- The state after a write that is taken. -/
def written : State := { s with pl := { s.pl with mgmt := { s.pl.mgmt with mpc := value &&& 0xFFFFFFFFC0000000#64 } } }

/-- What the model checks. The upper limit of ICL is not among it: the field has eight bits. -/
def Misfits : Prop :=
  bits value.toNat 63 51 < 1000 ∨ 4200 < bits value.toNat 63 51 ∨ bits value.toNat 50 39 < 25 ∨ 2000 < bits value.toNat 50 39 ∨
    bits value.toNat 38 31 < 32 ∨ bits value.toNat 63 51 < s.wattsBut 4096

theorem fits_iff_not_misfits : Fits s value ↔ ¬Misfits s value := by
  have hicl : bits value.toNat 38 31 < 256 := bits_lt_two_pow _
  unfold Fits Misfits
  omega

theorem exec_of_misfits (h : Misfits s value) : exec (.modulePowerControlWrite value) s = .next s := by
  rw [exec_modulePowerControlWrite]
  exact if_pos h

theorem exec_of_fits (h : Fits s value) : exec (.modulePowerControlWrite value) s = .next (written s value) := by
  rw [exec_modulePowerControlWrite]
  exact if_neg ((fits_iff_not_misfits s value).mp h)

theorem exec_of_not_fits (h : ¬Fits s value) : exec (.modulePowerControlWrite value) s = .next s :=
  exec_of_misfits s value (Classical.not_not.mp (mt (fits_iff_not_misfits s value).mpr h))

/-- What the register reads after a write that is taken. -/
theorem toNat_written_mpc : (written s value).pl.mgmt.mpc.toNat = value.toNat / 2 ^ 30 * 2 ^ 30 :=
  toNat_clearReserved value

theorem bits_written_mpc {hi lo : Nat} (h : 30 ≤ lo) : bits (written s value).pl.mgmt.mpc.toNat hi lo = bits value.toNat hi lo := by
  rw [toNat_written_mpc, bits_clearLow_of_le _ h]

theorem reserved_written_mpc : bits (written s value).pl.mgmt.mpc.toNat 29 0 = 0 := by
  rw [toNat_written_mpc, bits_clearLow_of_lt _ (by decide)]

end

theorem reset_mpc : State.reset.pl.mgmt.mpc = 0x70807D4B00000000#64 := rfl

/-- Settles O59: the reset word field by field; a write by whether its word fits, and the fields of the word that is kept. -/
theorem modulePowerControlIsChecked : Obligations.ModulePowerControlIsChecked := by
  unfold Obligations.ModulePowerControlIsChecked
  constructor
  · rw [reset_mpc]; decide
  · intro s value
    refine ⟨exec_of_not_fits s value, fun hfits => ⟨written s value, exec_of_fits s value hfits, rfl, ?fields⟩⟩
    exact ⟨bits_written_mpc s value (by decide), bits_written_mpc s value (by decide), bits_written_mpc s value (by decide),
      bits_written_mpc s value (by decide), reserved_written_mpc s value⟩

end Sys2Proof.Proofs.PowerControl
end

section
/-! PROOF. NOTIFY (R418): which values a queue's TAIL may not take, how a write to an open function ends, then O58. -/

namespace Sys2Proof.Proofs.Notify

open Sys2Proof.Machine

theorem not_resetting_of_not_shut (s : State) (fk : Nat) (hopen : s.funcShut fk = false) : (s.func fk).resetting = false := by
  simp only [State.funcShut, Bool.or_eq_false_iff] at hopen
  exact hopen.2

/-! ## The ring: what TAIL may move to -/

/-- Entries between HEAD and TAIL, modulo 2^16. -/
def used (q : Queue) : Nat := (State.qTail q + 65536 - State.qHead q) % 65536

/-- How far `v` lies ahead of TAIL, modulo 2^16: a step backwards is a long way ahead. -/
def ahead (q : Queue) (v : Nat) : Nat := (v + 65536 - State.qTail q) % 65536

/-- Entries that the ring holds. -/
def size (q : Queue) : Nat := 2 ^ (bits q.desc.toNat 238 235 + 1)

/-- R418 of a value and a queue that the function owns: a bit of 31:16 is set, or TAIL would move backwards or past HEAD plus the ring's size. -/
def Misses (q : Queue) (v : Nat) : Prop := 65536 ≤ v ∨ size q < used q + ahead q v

theorem not_misses_of_fits {q : Queue} {v : Nat} (hv : v < 65536) (hroom : used q + ahead q v ≤ size q) : ¬Misses q v :=
  not_or.mpr ⟨Nat.not_le.mpr hv, Nat.not_lt.mpr hroom⟩

/-! ## The ends of a write to an open function -/

section
variable (s : State) (port fn fq : Nat) (value : BitVec 32) (hopen : s.funcShut (port * 33 + fn) = false)
include hopen

theorem exec_of_no_queue (hnone : s.funcQueue (port * 33 + fn) fq = none) :
    exec (.notify port fn fq value) s = .next (s.badNotify (port * 33 + fn)) := by
  have hreset := not_resetting_of_not_shut s _ hopen
  simp [exec_notify, execNotify, hreset, hopen, hnone]

theorem exec_of_misses {qi : Nat} (hqueue : s.funcQueue (port * 33 + fn) fq = some qi) (hmiss : Misses (s.queue qi) value.toNat) :
    exec (.notify port fn fq value) s = .next (s.badNotify (port * 33 + fn)) := by
  have hreset := not_resetting_of_not_shut s _ hopen
  simp only [exec_notify, execNotify, hreset, hopen, hqueue, Bool.false_eq_true, if_false]
  exact if_pos hmiss

theorem exec_of_not_misses {qi : Nat} (hqueue : s.funcQueue (port * 33 + fn) fq = some qi) (hfits : ¬Misses (s.queue qi) value.toNat) :
    exec (.notify port fn fq value) s = .next (s.setQField qi 303 288 value.toNat) := by
  have hreset := not_resetting_of_not_shut s _ hopen
  simp only [exec_notify, execNotify, hreset, hopen, hqueue, Bool.false_eq_true, if_false]
  exact if_neg hfits

end

/-- Settles O58: by whether the function owns the queue, and for a queue that it owns by whether the value misses its ring. -/
theorem notifyMovesTheTail : Obligations.NotifyMovesTheTail := by
  unfold Obligations.NotifyMovesTheTail
  intro s port fn fq value fk f v dropped hopen
  refine ⟨exec_of_no_queue s port fn fq value hopen, ?owned⟩
  intro qi hqueue
  refine ⟨fun hwide => ?wide, fun _ hpast => ?past, fun hnarrow hroom => ?taken⟩
  case wide => exact exec_of_misses s port fn fq value hopen hqueue (.inl hwide)
  case past => exact exec_of_misses s port fn fq value hopen hqueue (.inr hpast)
  case taken => exact exec_of_not_misses s port fn fq value hopen hqueue (not_misses_of_fits hnarrow hroom)

end Sys2Proof.Proofs.Notify
end

section
/-! PROOF. Facts about lists that core Lean states in no lemma of its own; the model's files import nothing beyond it. -/

namespace Sys2Proof.Proofs.ListFacts

variable {α β : Type}

theorem filterMap_ext {f g : α → Option β} {l : List α} (h : ∀ a ∈ l, f a = g a) : l.filterMap f = l.filterMap g := by
  induction l with
  | nil => rfl
  | cons a rest ih => rw [List.filterMap_cons, List.filterMap_cons, h a List.mem_cons_self, ih fun b hb => h b (List.mem_cons_of_mem a hb)]

theorem filterMap_const_none (l : List α) : (l.filterMap fun _ => (none : Option β)) = [] := by
  induction l with
  | nil => rfl
  | cons _ _ ih => exact ih

theorem filter_const_true (l : List α) : (l.filter fun _ => true) = l := List.filter_eq_self.mpr fun _ _ => rfl

theorem foldl_ext {f g : β → α → β} {l : List α} (b : β) (h : ∀ b, ∀ a ∈ l, f b a = g b a) : l.foldl f b = l.foldl g b := by
  induction l generalizing b with
  | nil => rfl
  | cons a rest ih => rw [List.foldl_cons, List.foldl_cons, h b a List.mem_cons_self, ih _ fun c d hd => h c d (List.mem_cons_of_mem a hd)]

end Sys2Proof.Proofs.ListFacts
end

section
/-! PROOF. Words and instructions (R191 to R205): the fields of encoded words, how each form is read back, then O49. -/

namespace Sys2Proof.Proofs.Decode

open Sys2Proof.Machine

/-! ## The fields of an encoded instruction's words (R191 to R193) -/

theorem word0_opc (i : Instr) : i.word0.extractLsb' 24 6 = i.opcFn.1 := by
  unfold Instr.word0
  simp (disch := decide) only [BitVec.extractLsb'_append_eq_of_add_le, BitVec.extractLsb'_append_eq_of_le, -Nat.reduceAdd]
  exact BitVec.extractLsb'_eq_self

theorem word0_d (i : Instr) : i.word0.extractLsb' 16 8 = i.xf.d := by
  unfold Instr.word0
  simp (disch := decide) only [BitVec.extractLsb'_append_eq_of_add_le, BitVec.extractLsb'_append_eq_of_le, -Nat.reduceAdd]
  exact BitVec.extractLsb'_eq_self

theorem word0_a (i : Instr) : i.word0.extractLsb' 8 8 = i.xf.a := by
  unfold Instr.word0
  simp (disch := decide) only [BitVec.extractLsb'_append_eq_of_add_le, BitVec.extractLsb'_append_eq_of_le, -Nat.reduceAdd]
  exact BitVec.extractLsb'_eq_self

theorem word0_b (i : Instr) : i.word0.extractLsb' 0 8 = i.xf.b := BitVec.extractLsb'_append_eq_right

theorem word1_fn (i : Instr) : i.word1.extractLsb' 26 6 = i.opcFn.2 := by
  unfold Instr.word1
  simp (disch := decide) only [BitVec.extractLsb'_append_eq_of_le, -Nat.reduceAdd]
  exact BitVec.extractLsb'_eq_self

@[simp] theorem bit1_getElem (b : Bool) : (bit1 b)[0] = b := by cases b <;> rfl

/-- Reading the three words of an X-form gives its fields back. -/
theorem ofWords_words (i : Instr) : XF.ofWords i.word0 i.word1 i.xf.w2 = i.xf := by
  unfold XF.ofWords
  rw [word0_d, word0_a, word0_b]
  unfold Instr.word1
  simp (disch := decide) only [BitVec.extractLsb'_append_eq_of_add_le, BitVec.extractLsb'_append_eq_of_le, -Nat.reduceAdd]
  simp only [BitVec.getLsbD_append]
  simp

/-- The bits of word 0 below the D field, and all below the opcode, as B-forms with longer fields read them. -/
theorem word0_low16 (i : Instr) : i.word0.extractLsb' 0 16 = i.xf.a ++ i.xf.b := by
  rw [← word0_a, ← word0_b]
  exact (BitVec.extractLsb'_append_extractLsb'_eq_extractLsb' (start₁ := 0) (start₂ := 8) (len₁ := 8) rfl).symm

theorem word0_low24 (i : Instr) : i.word0.extractLsb' 0 24 = i.xf.d ++ (i.xf.a ++ i.xf.b) := by
  rw [← word0_d, ← word0_low16]
  exact (BitVec.extractLsb'_append_extractLsb'_eq_extractLsb' (start₁ := 0) (start₂ := 16) (len₁ := 16) rfl).symm

/-! ## Reading the words of an encoded instruction (R191, R203, R204) -/

theorem word0_len (i : Instr) : i.word0.extractLsb' 30 2 = i.lenCode := (Laws.Layout.all i).2.2

/-- A B-form that its opcode's entry reads back is read back from its word. -/
theorem parse_bForm {i : Instr} (rest : List Word) (hl : i.lenCode = 0) (ho : Nat.blt i.opcFn.1.toNat 0x20 = true)
    (hb : bForm i.opcFn.1.toNat i.word0 = .ok i) : parse (encode i ++ rest) = .ok (i, (encode i).length) := by
  have he : encode i = [i.word0] := by rw [encode, if_pos hl]
  have hn : i.lenCode.toNat = 0 := by rw [hl]; rfl
  have hopc := Nat.le_of_ble_eq_true ho
  rw [he]
  simp only [parse, List.cons_append, List.nil_append, word0_len, word0_opc, hn, hb]
  rw [if_neg (by omega)]
  rfl

/-- A B-form of three register numbers. -/
theorem parse_regs {f : BitVec 8 → BitVec 8 → BitVec 8 → Instr} (rest : List Word) (d a b : BitVec 8) (hl : (f d a b).lenCode = 0)
    (ho : Nat.blt (f d a b).opcFn.1.toNat 0x20 = true) (hx : (f d a b).xf = .ofB d a b)
    (hb : ∀ w : Word, bForm (f d a b).opcFn.1.toNat w = .ok (f (w.extractLsb' 16 8) (w.extractLsb' 8 8) (w.extractLsb' 0 8))) :
    parse (encode (f d a b) ++ rest) = .ok (f d a b, (encode (f d a b)).length) := by
  refine parse_bForm rest hl ho ?_
  rw [hb, word0_d, word0_a, word0_b, hx]
  rfl

/-- An X-form of an opcode below 0x20 that the opcode's entry reads back is read back from its words. -/
theorem parse_xBase {i : Instr} (rest : List Word) (hl : i.lenCode = 1) (ho : Nat.blt i.opcFn.1.toNat 0x20 = true) (hf : i.opcFn.2.toNat = 0)
    (hv : i.xf.var = 0) (hx : xBase i.opcFn.1.toNat i.xf false 0 = .ok i) : parse (encode i ++ rest) = .ok (i, (encode i).length) := by
  have he : encode i = [i.word0, i.word1, i.xf.w2] := by rw [encode, hl]; rfl
  have hn : i.lenCode.toNat = 1 := by rw [hl]; rfl
  have hopc : i.opcFn.1.toNat < 0x20 := Nat.le_of_ble_eq_true ho
  rw [he]
  simp only [parse, List.cons_append, List.nil_append, word0_len, word0_opc, word1_fn, ofWords_words, hn, hf, hv, hx]
  rw [if_neg (by omega), if_pos hopc, if_neg (by simp)]
  rfl

/-- A function of a group that the group's table reads back is read back from its three words. -/
theorem parse_group {i : Instr} (rest : List Word) (hl : i.lenCode = 1) (ho : (Nat.ble 0x20 i.opcFn.1.toNat && Nat.blt i.opcFn.1.toNat 0x2E) = true)
    (hg : groupFn i.opcFn.1.toNat i.opcFn.2.toNat i.xf 0 = some i) (hlit : needsLit i.opcFn.1.toNat i.opcFn.2.toNat = false) :
    parse (encode i ++ rest) = .ok (i, (encode i).length) := by
  have he : encode i = [i.word0, i.word1, i.xf.w2] := by rw [encode, hl]; rfl
  have hn : i.lenCode.toNat = 1 := by rw [hl]; rfl
  simp only [Bool.and_eq_true, Nat.ble_eq, Nat.blt_eq] at ho
  rw [he]
  simp only [parse, List.cons_append, List.nil_append, word0_len, word0_opc, word1_fn, ofWords_words, hn, hg, hlit]
  rw [if_neg (by omega), if_neg (by omega)]
  rfl

/-- A literal is the two words that carry it. -/
theorem literal_words (lit : BitVec 64) : lit.extractLsb' 32 32 ++ lit.extractLsb' 0 32 = lit := by
  rw [BitVec.extractLsb'_append_extractLsb'_eq_extractLsb' (start₁ := 0) (start₂ := 32) (len₁ := 32) rfl]
  exact BitVec.extractLsb'_eq_self

/-- An instruction of five words: each with a literal. -/
theorem encode_lit {i : Instr} (hl : i.lenCode = 3) :
    encode i = [i.word0, i.word1, i.xf.w2, i.literal.extractLsb' 0 32, i.literal.extractLsb' 32 32] := by
  rw [encode, hl]
  rfl

/-- A function of a group that carries a literal is read back from its five words. -/
theorem parse_groupLit {i : Instr} (rest : List Word) (hl : i.lenCode = 3) (ho : (Nat.ble 0x20 i.opcFn.1.toNat && Nat.blt i.opcFn.1.toNat 0x2E) = true)
    (hg : groupFn i.opcFn.1.toNat i.opcFn.2.toNat i.xf i.literal = some i) (hlit : needsLit i.opcFn.1.toNat i.opcFn.2.toNat = true) :
    parse (encode i ++ rest) = .ok (i, (encode i).length) := by
  have hn : i.lenCode.toNat = 3 := by rw [hl]; rfl
  simp only [Bool.and_eq_true, Nat.ble_eq, Nat.blt_eq] at ho
  rw [encode_lit hl]
  simp only [parse, List.cons_append, List.nil_append, word0_len, word0_opc, word1_fn, ofWords_words, literal_words, hn, hg, hlit]
  rw [if_neg (by omega), if_neg (by omega)]
  rfl

/-! ## Legal instructions -/

theorem leastDetail_none {l : List (Bool × Nat)} : leastDetail l = none ↔ ∀ p ∈ l, p.1 = false := by
  induction l with
  | nil => simp [leastDetail]
  | cons p rest ih =>
    obtain ⟨bad, k⟩ := p
    unfold leastDetail
    cases hr : leastDetail rest with
    | none => cases bad <;> simp_all
    | some j =>
      have : ¬ ∀ p ∈ rest, p.1 = false := fun h => by simp [ih.mpr h] at hr
      simp only [List.mem_cons, forall_eq_or_imp, this, and_false, iff_false]
      split <;> simp

/-- A legal instruction breaches nothing that its shape, its own fields or a missing variant forbid. -/
theorem legal_of_illegal {i : Instr} (h : i.illegal = none) :
    (∀ p ∈ i.shape.viol, p.1 = false) ∧ (∀ p ∈ i.bViol, p.1 = false) ∧ (i.noVariant = true → i.xf.var = 0) := by
  unfold Instr.illegal at h
  rw [leastDetail_none] at h
  refine ⟨fun p hp => h p (by simp [hp]), fun p hp => h p (by simp [hp]), fun hn => ?_⟩
  have := h (i.noVariant && decide (i.xf.var ≠ 0), illFunction) (by simp)
  simpa [hn] using this



/-! ## The B-forms whose fields are not three registers (R192, R203) -/

/-- A part of a field of a word is that part of the field's value. -/
theorem part_of_field {w : Word} {lo n : Nat} {v : BitVec n} (h : w.extractLsb' lo n = v) (start len : Nat) (hs : start + len ≤ n) :
    w.extractLsb' (lo + start) len = v.extractLsb' start len := by
  subst h
  ext j hj
  simp [show start + j < n by omega, Nat.add_assoc]

theorem bit_of_field {w : Word} {lo n : Nat} {v : BitVec n} (h : w.extractLsb' lo n = v) (i : Nat) (hi : i < n) :
    w.getLsbD (lo + i) = v.getLsbD i := by
  subst h
  simp [hi]

theorem bytes_of_half (v : BitVec 16) : v.extractLsb' 8 8 ++ v.extractLsb' 0 8 = v := by
  rw [BitVec.extractLsb'_append_extractLsb'_eq_extractLsb' (start₁ := 0) (start₂ := 8) (len₁ := 8) rfl]
  exact BitVec.extractLsb'_eq_self

theorem zero_bytes : 0#8 ++ 0#8 = 0#16 := rfl

theorem bytes_of_24 (v : BitVec 24) : v.extractLsb' 16 8 ++ (v.extractLsb' 8 8 ++ v.extractLsb' 0 8) = v := by
  rw [BitVec.extractLsb'_append_extractLsb'_eq_extractLsb' (start₁ := 0) (start₂ := 8) (len₁ := 8) rfl,
    BitVec.extractLsb'_append_extractLsb'_eq_extractLsb' (start₁ := 0) (start₂ := 16) (len₁ := 8 + 8) rfl]
  exact BitVec.extractLsb'_eq_self

/-- Two 12-bit fields in three bytes. -/
theorem bytes_of_twelves (m off : BitVec 12) :
    m.extractLsb' 4 8 ++ ((m.extractLsb' 0 4 ++ off.extractLsb' 8 4) ++ off.extractLsb' 0 8) = m ++ off := by
  apply BitVec.eq_of_getLsbD_eq
  intro j hj
  simp only [BitVec.getLsbD_append, BitVec.getLsbD_extractLsb']
  by_cases h1 : j < 8
  · simp [h1, show j < 16 by omega, show j < 12 by omega]
  · by_cases h2 : j < 12
    · simp [h1, h2, show j < 16 by omega, show j - 8 < 4 by omega, show 8 + (j - 8) = j by omega]
    · by_cases h3 : j < 16
      · simp [h1, h2, h3, show ¬ j - 8 < 4 by omega, show j - 8 - 4 = j - 12 by omega, show j - 12 < 4 by omega]
      · simp [h2, h3, show 4 + (j - 16) = j - 12 by omega, show j - 16 < 8 by omega]

theorem bForm_nop : bForm 0x00 Instr.nop.word0 = .ok .nop := by
  have hz : Instr.nop.word0.extractLsb' 0 24 = 0#24 := word0_low24 .nop
  generalize Instr.nop.word0 = w at *
  exact if_pos (decide_eq_true hz)

theorem bForm_region : bForm 0x1A Instr.region.word0 = .ok .region := by
  have hz : Instr.region.word0.extractLsb' 0 24 = 0#24 := word0_low24 .region
  generalize Instr.region.word0 = w at *
  exact if_pos (decide_eq_true hz)

theorem bForm_exit : bForm 0x1D Instr.exit.word0 = .ok .exit := by
  have hz : Instr.exit.word0.extractLsb' 0 24 = 0#24 := word0_low24 .exit
  generalize Instr.exit.word0 = w at *
  exact if_pos (decide_eq_true hz)

theorem bForm_mov (d a : BitVec 8) : bForm 0x0B (Instr.mov d a).word0 = .ok (.mov d a) := by
  have hd : (Instr.mov d a).word0.extractLsb' 16 8 = d := word0_d (.mov d a)
  have ha : (Instr.mov d a).word0.extractLsb' 8 8 = a := word0_a (.mov d a)
  have hb : (Instr.mov d a).word0.extractLsb' 0 8 = 0#8 := word0_b (.mov d a)
  generalize (Instr.mov d a).word0 = w at *
  subst hd ha
  exact if_pos (decide_eq_true hb)

theorem bForm_movi (d : BitVec 8) (imm : BitVec 16) : bForm 0x0C (Instr.movi d imm).word0 = .ok (.movi d imm) := by
  have hd : (Instr.movi d imm).word0.extractLsb' 16 8 = d := word0_d (.movi d imm)
  have hi : (Instr.movi d imm).word0.extractLsb' 0 16 = imm := (word0_low16 (.movi d imm)).trans (bytes_of_half imm)
  generalize (Instr.movi d imm).word0 = w at *
  subst hd hi
  rfl

theorem bForm_bra (off : BitVec 24) : bForm 0x15 (Instr.bra off).word0 = .ok (.bra off) :=
  congrArg (fun v => Except.ok (Instr.bra v)) ((word0_low24 (.bra off)).trans (bytes_of_24 off))

theorem bForm_join (off : BitVec 24) : bForm 0x19 (Instr.join off).word0 = .ok (.join off) :=
  congrArg (fun v => Except.ok (Instr.join v)) ((word0_low24 (.join off)).trans (bytes_of_24 off))

/-- A predicate and its negation in the upper half of a byte. -/
theorem byte_of_pred (k : BitVec 3) (neg : Bool) :
    let d := k ++ (if neg then 1#1 else 0#1) ++ 0#4
    d.extractLsb' 5 3 = k ∧ d.getLsbD 4 = neg ∧ d.extractLsb' 0 4 = 0#4 := by
  revert k neg
  decide

theorem bForm_brc (k : BitVec 3) (neg : Bool) (off : BitVec 16) : bForm 0x16 (Instr.brc k neg off).word0 = .ok (.brc k neg off) := by
  have hlow : (Instr.brc k neg off).word0.extractLsb' 0 16 = off := (word0_low16 (.brc k neg off)).trans (bytes_of_half off)
  have hd : (Instr.brc k neg off).word0.extractLsb' 16 8 = k ++ (if neg then 1#1 else 0#1) ++ 0#4 := word0_d (.brc k neg off)
  obtain ⟨hk, hneg, hz⟩ := byte_of_pred k neg
  generalize (Instr.brc k neg off).word0 = w at *
  rw [← part_of_field hd 5 3 (by decide)] at hk
  rw [← bit_of_field hd 4 (by decide)] at hneg
  rw [← part_of_field hd 0 4 (by decide)] at hz
  rw [← hk, ← hneg, ← hlow]
  exact if_pos (decide_eq_true hz)

theorem bForm_loop (m off : BitVec 12) (h : off ≠ 0) : bForm 0x17 (Instr.loop m off).word0 = .ok (.loop m off) := by
  have hlow : (Instr.loop m off).word0.extractLsb' 0 24 = m ++ off := (word0_low24 (.loop m off)).trans (bytes_of_twelves m off)
  generalize (Instr.loop m off).word0 = w at *
  have hm : w.extractLsb' 12 12 = m := (part_of_field hlow 12 12 (by decide)).trans BitVec.extractLsb'_append_eq_left
  have ho : w.extractLsb' 0 12 = off := (part_of_field hlow 0 12 (by decide)).trans BitVec.extractLsb'_append_eq_right
  rw [← hm, ← ho]
  exact if_pos (decide_eq_true (ho ▸ h))

/-- A predicate, its negation and a further bit in the upper bits of a byte. -/
theorem byte_of_predBit (k : BitVec 3) (neg cnt : Bool) :
    let d := k ++ (if neg then 1#1 else 0#1) ++ (if cnt then 1#1 else 0#1) ++ 0#3
    d.extractLsb' 5 3 = k ∧ d.getLsbD 4 = neg ∧ d.getLsbD 3 = cnt ∧ (d ++ 0#16).extractLsb' 0 19 = 0#19 := by
  revert k neg cnt
  decide

theorem bForm_endl (k : BitVec 3) (neg cnt : Bool) : bForm 0x18 (Instr.endl k neg cnt).word0 = .ok (.endl k neg cnt) := by
  have hd : (Instr.endl k neg cnt).word0.extractLsb' 16 8 = k ++ (if neg then 1#1 else 0#1) ++ (if cnt then 1#1 else 0#1) ++ 0#3 :=
    word0_d (.endl k neg cnt)
  have hlow : (Instr.endl k neg cnt).word0.extractLsb' 0 24 = k ++ (if neg then 1#1 else 0#1) ++ (if cnt then 1#1 else 0#1) ++ 0#3 ++ 0#16 :=
    (word0_low24 (.endl k neg cnt)).trans (congrArg (HAppend.hAppend _) zero_bytes)
  obtain ⟨hk, hneg, hcnt, hz⟩ := byte_of_predBit k neg cnt
  generalize (Instr.endl k neg cnt).word0 = w at *
  rw [← part_of_field hd 5 3 (by decide)] at hk
  rw [← bit_of_field hd 4 (by decide)] at hneg
  rw [← bit_of_field hd 3 (by decide)] at hcnt
  rw [← part_of_field hlow 0 19 (by decide)] at hz
  rw [← hk, ← hneg, ← hcnt]
  exact if_pos (decide_eq_true hz)

theorem bForm_sign (cv : BitVec 4) : bForm 0x1B (Instr.sign cv).word0 = .ok (.sign cv) := by
  have hlow : (Instr.sign cv).word0.extractLsb' 0 16 = 0#16 := (word0_low16 (.sign cv)).trans zero_bytes
  have hd : (Instr.sign cv).word0.extractLsb' 16 8 = 0#4 ++ cv := word0_d (.sign cv)
  generalize (Instr.sign cv).word0 = w at *
  have hcv : w.extractLsb' 16 4 = cv := (part_of_field hd 0 4 (by decide)).trans BitVec.extractLsb'_append_eq_right
  have hz : w.extractLsb' 20 4 = 0#4 := (part_of_field hd 4 4 (by decide)).trans BitVec.extractLsb'_append_eq_left
  rw [← hcv]
  exact if_pos (decide_eq_true ⟨hz, hlow⟩)

theorem bForm_next (d : BitVec 8) : bForm 0x1C (Instr.next d).word0 = .ok (.next d) := by
  have hlow : (Instr.next d).word0.extractLsb' 0 16 = 0#16 := (word0_low16 (.next d)).trans zero_bytes
  have hd : (Instr.next d).word0.extractLsb' 16 8 = d := word0_d (.next d)
  generalize (Instr.next d).word0 = w at *
  subst hd
  exact if_pos (decide_eq_true hlow)

/-- Four steps of two bits in a byte (R201). -/
theorem byte_of_steps (sd sa sb sc : BitVec 2) :
    let a := sd ++ sa ++ sb ++ sc
    a.extractLsb' 6 2 = sd ∧ a.extractLsb' 4 2 = sa ∧ a.extractLsb' 2 2 = sb ∧ a.extractLsb' 0 2 = sc := by
  revert sd sa sb sc
  decide

theorem byte_of_count (count : BitVec 6) : (0#2 ++ count).extractLsb' 0 6 = count ∧ (0#2 ++ count).extractLsb' 6 2 = 0#2 :=
  ⟨BitVec.extractLsb'_append_eq_right, BitVec.extractLsb'_append_eq_left⟩

theorem bForm_rep (count : BitVec 6) (sd sa sb sc : BitVec 2) :
    bForm 0x1E (Instr.rep count sd sa sb sc).word0 = .ok (.rep count sd sa sb sc) := by
  have hd : (Instr.rep count sd sa sb sc).word0.extractLsb' 16 8 = 0#2 ++ count := word0_d (.rep count sd sa sb sc)
  have ha : (Instr.rep count sd sa sb sc).word0.extractLsb' 8 8 = sd ++ sa ++ sb ++ sc := word0_a (.rep count sd sa sb sc)
  have hb : (Instr.rep count sd sa sb sc).word0.extractLsb' 0 8 = 0 := word0_b (.rep count sd sa sb sc)
  obtain ⟨hn, hz⟩ := byte_of_count count
  obtain ⟨h1, h2, h3, h4⟩ := byte_of_steps sd sa sb sc
  generalize (Instr.rep count sd sa sb sc).word0 = w at *
  rw [← part_of_field hd 0 6 (by decide)] at hn
  rw [← part_of_field hd 6 2 (by decide)] at hz
  rw [← part_of_field ha 6 2 (by decide)] at h1
  rw [← part_of_field ha 4 2 (by decide)] at h2
  rw [← part_of_field ha 2 2 (by decide)] at h3
  rw [← part_of_field ha 0 2 (by decide)] at h4
  rw [← hn, ← h1, ← h2, ← h3, ← h4]
  exact if_pos (decide_eq_true ⟨hz, hb⟩)

theorem bForm_fence (scope : BitVec 2) : bForm 0x1F (Instr.fence scope).word0 = .ok (.fence scope) := by
  have hlow : (Instr.fence scope).word0.extractLsb' 0 16 = 0#16 := (word0_low16 (.fence scope)).trans zero_bytes
  have hd : (Instr.fence scope).word0.extractLsb' 16 8 = 0#6 ++ scope := word0_d (.fence scope)
  generalize (Instr.fence scope).word0 = w at *
  have hs : w.extractLsb' 16 2 = scope := (part_of_field hd 0 2 (by decide)).trans BitVec.extractLsb'_append_eq_right
  have hz : w.extractLsb' 18 6 = 0#6 := (part_of_field hd 2 6 (by decide)).trans BitVec.extractLsb'_append_eq_left
  rw [← hs]
  exact if_pos (decide_eq_true ⟨hz, hlow⟩)

/-- The words of a REP in X-form breach nothing that its opcode's entry checks. -/
theorem leastDetail_repX (count : BitVec 6) (a : BitVec 8) :
    let x := XF.ofB (0#2 ++ count) a 0
    leastDetail ((decide (x.own ≠ 0), illModifier) :: (decide (bits x.d.toNat 7 6 ≠ 0 ∨ x.b ≠ 0), illField)
      :: (Instr.repX 0 0 0 0 0).shape.generic { x with d := 0, a := 0, b := 0 }) = none := by
  have hc : bits (0#2 ++ count).toNat 7 6 = 0 := by revert count; decide
  have hb : decide (bits (0#2 ++ count).toNat 7 6 ≠ 0 ∨ (0#8) ≠ 0) = false := by simp [hc]
  intro x
  show leastDetail ((false, illModifier) :: (decide (bits (0#2 ++ count).toNat 7 6 ≠ 0 ∨ (0#8) ≠ 0), illField)
      :: (Instr.repX 0 0 0 0 0).shape.generic XF.zero) = none
  rw [hb]
  rfl

theorem xBase_repX (count : BitVec 6) (sd sa sb sc : BitVec 2) :
    xBase 0x1E (.ofB (0#2 ++ count) (sd ++ sa ++ sb ++ sc) 0) false 0 = .ok (.repX count sd sa sb sc) := by
  obtain ⟨hn, -⟩ := byte_of_count count
  obtain ⟨h1, h2, h3, h4⟩ := byte_of_steps sd sa sb sc
  have hl := leastDetail_repX count (sd ++ sa ++ sb ++ sc)
  unfold xBase
  simp only [hl]
  simp only [XF.ofB, hn, h1, h2, h3, h4]

/-- The literal form of MOVI is read back from its three words, the literal in the last two. -/
theorem parse_moviB64 (rest : List Word) (d : BitVec 8) (lit : BitVec 64) :
    parse (encode (.moviB64 d lit) ++ rest) = .ok (.moviB64 d lit, (encode (.moviB64 d lit)).length) := by
  have he : encode (.moviB64 d lit) = [(Instr.moviB64 d lit).word0, lit.extractLsb' 0 32, lit.extractLsb' 32 32] := rfl
  have hn : (Instr.moviB64 d lit).lenCode.toNat = 2 := rfl
  have ho : (Instr.moviB64 d lit).opcFn.1.toNat = 0x0C := rfl
  have hlow : (Instr.moviB64 d lit).word0.extractLsb' 0 16 = 0#16 :=
    (word0_low16 (.moviB64 d lit)).trans zero_bytes
  have hd : (Instr.moviB64 d lit).word0.extractLsb' 16 8 = d := word0_d (.moviB64 d lit)
  rw [he]
  simp only [parse, List.cons_append, List.nil_append, word0_len, word0_opc, hn, ho, hlow, hd, literal_words]
  rfl

theorem parse_moviB64X (rest : List Word) (x : XF) (lit : BitVec 64) (hv : x.var = 0) :
    parse (encode (.moviB64X x lit) ++ rest) = .ok (.moviB64X x lit, (encode (.moviB64X x lit)).length) := by
  have hn : (Instr.moviB64X x lit).lenCode.toNat = 3 := rfl
  have ho : (Instr.moviB64X x lit).opcFn.1.toNat = 0x0C := rfl
  have hf : (Instr.moviB64X x lit).opcFn.2.toNat = 0 := rfl
  have hvar : (Instr.moviB64X x lit).xf.var = 0 := hv
  rw [encode_lit rfl]
  simp only [parse, List.cons_append, List.nil_append, word0_len, word0_opc, word1_fn, ofWords_words, literal_words, hn, ho, hf, hvar]
  rfl

/-- The words of a legal instruction of a group are read as that instruction, whatever follows them. -/
theorem parse_encode_group (i : Instr) (rest : List Word) (hlegal : i.illegal = none)
    (hg : (Nat.ble 0x20 i.opcFn.1.toNat && !i.isEvent) = true) : parse (encode i ++ rest) = .ok (i, (encode i).length) := by
  obtain ⟨hviol, -, -⟩ := legal_of_illegal hlegal
  cases i with
  | imulh x | imad x | idiv x | irem x | imin x | imax x | iabs x | ineg x | andn x | not x | rotl x | clz x | popc x | brev x | bfx x | bfi x
  | sel x | icmp x | lea x | idot4 x | pand x | por x | pxor x | pnot x | pmov x | fmin x | fmax x | fabs x | fneg x | fcmp x | fclass x | frnd x
  | fcvt x | frcp x | frsq x | fsqrt x | fexp2 x | flog2 x | fsin x | fcos x | ftanh x | qnt x | dqnt x | cbld x | ctld x | pack x | unpk x | jtab x
  | call x | ret x | tkill x | yield x | tryRegion x | commit x | abort x | trap x | tret x | bkpt x | ld x | st x | ldfe x | stfe x | feset x
  | feclr x | pref x | atom x | cas x | fatom x | sdrain x | waitad x | waitc x | bar x | barinit x | abinit x | abwait x | abtest x | shf x | vote x
  | ballot x | redux x | copy x | chain x | gather x | qbind x | qunb x | qflush x | panrel x | panqry x | mldb x | mma x | mmaw x | mzero x | msta x
  | mlda x | scac x | cvset x | mstat x | csrr x | csrw x | csrs x | csrc x | mode x | time x | enrg x | quote x | accept x | decline x | sleep x
  | blst x | halt x => exact parse_group rest rfl rfl rfl rfl
  | panrsv x lit | panput x lit => exact parse_groupLit rest rfl rfl rfl rfl
  | barkill x =>
    have hv : x.vN = 0 := Classical.not_not.mp (of_decide_eq_false (hviol (decide (x.vN ≠ 0), illFunction) (List.mem_cons_self ..)))
    have h0 : x.var = 0 := BitVec.eq_of_toNat_eq hv
    exact parse_group rest rfl rfl (if_pos h0) rfl
  | barkillAb x =>
    have hv : x.vN = 1 := Classical.not_not.mp (of_decide_eq_false (hviol (decide (x.vN ≠ 1), illFunction) (List.mem_cons_self ..)))
    have h0 : x.var ≠ 0 := fun h => by simp [XF.vN, h] at hv
    exact parse_group rest rfl rfl (if_neg h0) rfl
  | _ => cases hg

/-- The words of a legal B-form or X-form of an opcode below 0x20 are read as that instruction, whatever follows them. -/
theorem parse_encode_base (i : Instr) (rest : List Word) (hlegal : i.illegal = none) (hb : Nat.ble 0x20 i.opcFn.1.toNat = false) :
    parse (encode i ++ rest) = .ok (i, (encode i).length) := by
  obtain ⟨-, hown, hvar⟩ := legal_of_illegal hlegal
  cases i with
  | iadd d a b | isub d a b | imul d a b | and d a b | or d a b | xor d a b | shl d a b | shr d a b | sra d a b | iaddImm d a b | fadd d a b
  | fmul d a b | ffma d a b | fsub d a b | ldCB32 d a b | stCB32 d a b | ldGB32 d a b | stGB32 d a b => exact parse_regs rest d a b rfl rfl rfl fun _ => rfl
  | nopX x | iaddX x | isubX x | imulX x | andX x | orX x | xorX x | shlX x | shrX x | sraX x | iaddImmX x | movX x | moviX x | faddX x | fmulX x
  | ffmaX x | fsubX x | ldCB32X x | stCB32X x | ldGB32X x | stGB32X x | braX x | brcX x | loopX x | signX x | exitX x | fenceX x => exact parse_xBase rest rfl rfl rfl (hvar rfl) rfl
  | moviB64X x lit => exact parse_moviB64X rest x lit (hvar rfl)
  | moviB64 d lit => exact parse_moviB64 rest d lit
  | nop => exact parse_bForm rest rfl rfl bForm_nop
  | mov d a => exact parse_bForm rest rfl rfl (bForm_mov d a)
  | movi d imm => exact parse_bForm rest rfl rfl (bForm_movi d imm)
  | bra off => exact parse_bForm rest rfl rfl (bForm_bra off)
  | brc k neg off => exact parse_bForm rest rfl rfl (bForm_brc k neg off)
  | loop m off => exact parse_bForm rest rfl rfl (bForm_loop m off (of_decide_eq_false (hown (decide (off = 0), illField) (List.mem_cons_self ..))))
  | endl k neg cnt => exact parse_bForm rest rfl rfl (bForm_endl k neg cnt)
  | join off => exact parse_bForm rest rfl rfl (bForm_join off)
  | region => exact parse_bForm rest rfl rfl bForm_region
  | sign cv => exact parse_bForm rest rfl rfl (bForm_sign cv)
  | next d => exact parse_bForm rest rfl rfl (bForm_next d)
  | exit => exact parse_bForm rest rfl rfl bForm_exit
  | rep count sd sa sb sc => exact parse_bForm rest rfl rfl (bForm_rep count sd sa sb sc)
  | repX count sd sa sb sc => exact parse_xBase rest rfl rfl rfl rfl (xBase_repX count sd sa sb sc)
  | fence scope => exact parse_bForm rest rfl rfl (bForm_fence scope)
  | _ => cases hb

/-- Settles O49: the words of a legal instruction are read as that instruction, and reading them finds no breach. -/
theorem decodeEncodeAgree : Obligations.DecodeEncodeAgree := by
  intro i rest hwf hi
  have hlegal : i.illegal = none := by simpa [Instr.wf, hi] using hwf
  have hparse : parse (encode i ++ rest) = .ok (i, (encode i).length) := by
    cases hb : Nat.ble 0x20 i.opcFn.1.toNat with
    | true => exact parse_encode_group i rest hlegal (by rw [hb, hi]; rfl)
    | false => exact parse_encode_base i rest hlegal hb
  simp only [decode, hparse, hlegal]

end Sys2Proof.Proofs.Decode
end

section
/-! PROOF. Pending stores and module time (R66): what leaves both as they are, what performing the due stores leaves, then O50. -/

namespace Sys2Proof.Proofs.Overdue

open Sys2Proof.Machine Sys2Proof.Machine.State Sys2Proof.Safety

/-! ## What leaves module time and the pending stores as they are -/

/-- Module time and the list of pending stores are the same in both states. -/
structure SameStores (s t : State) : Prop where
  now  : t.now = s.now
  pend : t.coh.pend = s.coh.pend

namespace SameStores

theorem refl (s : State) : SameStores s s := ⟨rfl, rfl⟩

theorem trans {s t u : State} (h : SameStores s t) (h' : SameStores t u) : SameStores s u :=
  ⟨h'.now.trans h.now, h'.pend.trans h.pend⟩

theorem foldl {α : Type} {f : State → α → State} (h : ∀ s a, SameStores s (f s a)) (l : List α) (s : State) :
    SameStores s (l.foldl f s) := by
  induction l generalizing s with
  | nil => exact refl s
  | cons a rest ih => exact (h s a).trans (ih _)

end SameStores

theorem sameStores_modLaunch (s : State) (k : Nat) (f : Launch → Launch) : SameStores s (s.modLaunch k f) := by
  unfold modLaunch
  split <;> exact ⟨rfl, rfl⟩

theorem sameStores_modBlock (s : State) (k : Nat) (f : Block → Block) : SameStores s (s.modBlock k f) := ⟨rfl, rfl⟩

theorem sameStores_modCrew (s : State) (k : Nat) (f : Crew → Crew) : SameStores s (s.modCrew k f) := ⟨rfl, rfl⟩

theorem sameStores_setDcb (s : State) (k v : Nat) : SameStores s (s.setDcb k v) := ⟨rfl, rfl⟩

theorem sameStores_deliverTile (s : State) (bk : Nat) (tile : Word) : SameStores s (s.deliverTile bk tile) := by
  unfold deliverTile
  exact (sameStores_modBlock s bk _).trans (SameStores.foldl (fun t k => sameStores_modCrew t k _) _ _)

theorem sameStores_mem (s : State) (m : Mem) : SameStores s { s with mem := m } := ⟨rfl, rfl⟩

theorem sameStores_send (s : State) (k : Nat) (v : List Nat) : SameStores s (s.send k v) := ⟨rfl, rfl⟩

theorem sameStores_setTenant (s : State) (k : Nat) (t : Tenant) : SameStores s (s.setTenant k t) := ⟨rfl, rfl⟩

theorem sameStores_setQuote (s : State) (k : Nat) (q : Quote) : SameStores s (s.setQuote k q) := ⟨rfl, rfl⟩

theorem sameStores_logRecord (s : State) (d quoted actual detail cause kind party core time : Nat) (voided : Bool) :
    SameStores s (s.logRecord d quoted actual detail cause kind party core time voided) := by
  unfold logRecord
  dsimp only
  split
  · exact sameStores_setTenant ..
  · split
    · exact ((sameStores_mem ..).trans (sameStores_send ..)).trans (sameStores_setTenant ..)
    · exact (sameStores_send ..).trans (sameStores_setTenant ..)

theorem sameStores_setStatus (s : State) (qid status attr : Nat) : SameStores s (s.setStatus qid status attr) := by
  unfold setStatus
  dsimp only
  split
  · exact .refl s
  · split
    · exact sameStores_setQuote ..
    · exact (sameStores_setQuote ..).trans (sameStores_mem ..)

theorem sameStores_countFault (s : State) (d : Nat) : SameStores s (s.countFault d) := by
  unfold countFault
  dsimp only
  split <;> exact ⟨rfl, rfl⟩

theorem sameStores_breach (s : State) (d cause detail core : Nat) : SameStores s (s.breach d cause detail core) := by
  unfold breach
  split
  · exact .refl s
  · dsimp only
    split
    · exact (((sameStores_logRecord ..).trans (sameStores_setStatus ..)).trans (sameStores_modLaunch ..)).trans
        (SameStores.foldl sameStores_countFault _ _)
    · exact ((sameStores_logRecord ..).trans (sameStores_setStatus ..)).trans (sameStores_modLaunch ..)

theorem sameStores_setDcbState (s : State) (d st : Nat) : SameStores s (s.setDcbState d st) := by
  unfold setDcbState
  exact (sameStores_setDcb s _ _).trans (SameStores.foldl (fun t k => sameStores_setDcb t k _) _ _)

theorem sameStores_noteStopped (s : State) (d : Nat) : SameStores s (s.noteStopped d) := by
  unfold noteStopped
  split
  · exact .refl s
  · exact ((sameStores_breach s _ _ _ _).trans (sameStores_modLaunch _ _ _)).trans (sameStores_setDcbState _ _ _)

theorem sameStores_askTile (s : State) (d : Nat) (e : SlotEnt) (t : TileEnt) : SameStores s (s.askTile d e t) := by
  unfold askTile
  split
  · exact .refl s
  · split
    · exact (sameStores_modLaunch s _ _).trans (sameStores_modLaunch _ _ _)
    · exact sameStores_modLaunch s _ _

theorem sameStores_stepNext (s : State) (bk : Nat) : SameStores s (s.stepNext bk) := by
  unfold stepNext
  dsimp only
  split
  · exact .refl s
  split
  · split
    · exact .refl s
    · exact (sameStores_noteStopped s _).trans ⟨rfl, rfl⟩
  split
  · exact .refl s
  split
  · exact sameStores_deliverTile s _ _
  split
  · exact sameStores_deliverTile s _ _
  have hask := sameStores_askTile s (s.block bk).launch ‹SlotEnt› ‹TileEnt›
  split
  · exact ((hask.trans (sameStores_modLaunch _ _ _)).trans (sameStores_modBlock _ _ _)).trans (sameStores_deliverTile _ _ _)
  · exact hask

theorem sameStores_stepBlocks (s : State) : SameStores s s.stepBlocks :=
  SameStores.foldl (fun t p => by
    split
    · exact sameStores_stepNext t _
    · exact .refl t) _ _

theorem sameStores_flowControl (s : State) (p vc : Nat) : SameStores s (s.flowControl p vc) := by
  unfold flowControl
  dsimp only
  repeat' split
  all_goals exact ⟨rfl, rfl⟩

theorem sameStores_drainBuffers (s : State) : SameStores s s.drainBuffers :=
  SameStores.foldl (fun t _ => SameStores.foldl (fun u vc => by
    split
    · exact sameStores_flowControl u _ _
    · exact .refl u) _ t) _ _

theorem snapshot_now (s : State) (d key : Nat) : (s.snapshot d key).now = s.now := by
  unfold snapshot
  dsimp only
  repeat' split
  all_goals rfl

theorem pendBytes_now (s : State) (p : Pending) : (s.pendBytes p).now = s.now := by
  unfold pendBytes
  dsimp only
  split <;> rfl

theorem performPend_now (s : State) (p : Pending) : (s.performPend p).now = s.now := by
  unfold performPend
  dsimp only
  rw [pendBytes_now]
  split
  · rfl
  · exact snapshot_now s _ _

theorem performDue_now (s : State) (sec : Nat) : (s.performDue sec).now = s.now := by
  have fold (ps : List Pending) (t : State) : (ps.foldl performPend t).now = t.now := by
    induction ps generalizing t with
    | nil => rfl
    | cons p rest ih => exact (ih _).trans (performPend_now t p)
  exact fold _ s

theorem sameStores_markDirty (s : State) (sec : Nat) : SameStores s (s.markDirty sec) := by
  unfold markDirty
  split <;> exact ⟨rfl, rfl⟩

/-! ## The pending stores after those that are due have been performed (R66) -/

theorem performSector_now (s : State) (sec : Nat) : (s.performSector sec).now = s.now :=
  (sameStores_markDirty _ sec).now.trans (performDue_now s sec)

theorem performSector_pend (s : State) (sec : Nat) :
    (s.performSector sec).coh.pend = s.coh.pend.filter fun p => !(decide (p.sector = sec) && decide (p.wct ≤ s.now)) :=
  (sameStores_markDirty _ sec).pend

/-- Module time and the pending stores once the due stores of several sectors have been performed. -/
theorem foldl_performSector (secs : List Nat) (s : State) :
    (secs.foldl performSector s).now = s.now ∧
      (secs.foldl performSector s).coh.pend = s.coh.pend.filter fun p => !(decide (p.sector ∈ secs) && decide (p.wct ≤ s.now)) := by
  induction secs generalizing s with
  | nil => exact ⟨rfl, (List.filter_eq_self.mpr fun _ _ => rfl).symm⟩
  | cons sec rest ih =>
    obtain ⟨hnow, hpend⟩ := ih (s.performSector sec)
    refine ⟨hnow.trans (performSector_now s sec), ?_⟩
    rw [List.foldl_cons, hpend, performSector_now, performSector_pend, List.filter_filter]
    apply List.filter_congr
    intro p _
    by_cases hw : p.wct ≤ s.now <;> simp [hw, Bool.and_comm]

theorem performAllDue_now (s : State) : s.performAllDue.now = s.now := (foldl_performSector _ s).1

theorem nothingOverdue_performAllDue (s : State) : nothingOverdue s.performAllDue = true := by
  unfold nothingOverdue
  rw [performAllDue_now, performAllDue, (foldl_performSector _ s).2, List.all_eq_true]
  intro p hp
  obtain ⟨hmem, hkeep⟩ := List.mem_filter.mp hp
  refine Decidable.byContradiction fun hover => ?_
  have hdue : p.wct ≤ s.now := by simpa using hover
  have hsec : p.sector ∈ s.dueSectors := by
    rw [dueSectors, List.mem_eraseDups]
    exact List.mem_map_of_mem (List.mem_filter.mpr ⟨hmem, by simpa using hdue⟩)
  simp [hsec, hdue] at hkeep

theorem nothingOverdue_of_sameStores {s t : State} (h : SameStores s t) (hs : nothingOverdue s = true) : nothingOverdue t = true := by
  unfold nothingOverdue at hs ⊢
  rw [h.now, h.pend]
  exact hs

theorem nothingOverdue_tick (s : State) : nothingOverdue (tick s) = true :=
  nothingOverdue_of_sameStores ((sameStores_drainBuffers _).trans (sameStores_stepBlocks _)) (nothingOverdue_performAllDue _)

/-- Whatever a step does, time goes on after it. -/
theorem eq_tick_of_thenTick {o : Out} {t : State} (h : thenTick o = .next t) : ∃ s, t = tick s := by
  cases o with
  | next s => exact ⟨s, (Host.Outcome.next.inj h).symm⟩
  | fault f => cases h
  | refused r => cases h

theorem eq_tick_of_step {s t : State} (h : step s = .next t) : ∃ s', t = tick s' := by
  unfold step stepModule at h
  split at h <;> exact eq_tick_of_thenTick h

/-- Settles O50: every step ends with a tick, which performs all that is due; what follows in it touches neither time nor the pending stores. -/
theorem noStoreStaysOverdue : Obligations.NoStoreStaysOverdue := by
  intro s t h
  obtain ⟨s', rfl⟩ := eq_tick_of_step h
  exact nothingOverdue_tick s'

end Sys2Proof.Proofs.Overdue
end

section
/-! PROOF. Words written out (R192 to R205), the state after reset, and memory read back after a write (R53, R66): O57, O51 and O52. -/

namespace Sys2Proof.Proofs.Small

open Sys2Proof.Machine Sys2Proof.Machine.State Sys2Proof.Safety

/-- Settles O57: each list of words is decoded by computation. -/
theorem writtenWordsDecode : Obligations.WrittenWordsDecode := by
  unfold Obligations.WrittenWordsDecode
  exact ⟨rfl, rfl, rfl, rfl, rfl, rfl, rfl, rfl, rfl, rfl, rfl, rfl, rfl, rfl, rfl, rfl, rfl⟩

/-- STATE, the two ring sizes and HALTVOID of a queue's descriptor at reset (R354). -/
theorem queueReset_fields : bits queueReset.toNat 230 229 = 0 ∧ bits queueReset.toNat 238 235 = 1 ∧
    bits queueReset.toNat 234 231 = 1 ∧ bits queueReset.toNat 228 228 = 1 := by decide +kernel

/-- Settles O51: every table of the state after reset is empty, so that each look-up gives the table's default. -/
theorem resetIsEmpty : Obligations.ResetIsEmpty := by
  unfold Obligations.ResetIsEmpty
  obtain ⟨hstate, hcq, hsq, hlast⟩ := queueReset_fields
  exact ⟨rfl, rfl, rfl, rfl, rfl, rfl, fun k =>
    ⟨rfl, rfl, rfl, rfl, rfl, rfl, rfl, rfl, rfl, rfl, fun _ => rfl, hstate, hcq, hsq, hlast⟩⟩

/-! ## Memory -/

theorem byte_setByte (m : Mem) (k j : Nat) (b : Byte) : (m.setByte k b).byte j = if j = k then b else m.byte j := by
  unfold Mem.setByte Mem.byte
  split
  · next h => rw [h, SMap.get_set_self]
  · next h => exact SMap.get_set_ne 0 m.bytes k j b h

/-- A run of bytes changes no byte outside it. -/
theorem byte_write_outside (bs : List Byte) (m : Mem) (k j : Nat) (h : j < k ∨ k + bs.length ≤ j) : (m.write k bs).byte j = m.byte j := by
  induction bs generalizing m k with
  | nil => rfl
  | cons b rest ih =>
    rw [List.length_cons] at h
    rw [Mem.write, ih _ _ (by omega), byte_setByte, if_neg (by omega)]

/-- A run of bytes reads back. -/
theorem read_write (bs : List Byte) (m : Mem) (k : Nat) : (m.write k bs).read k bs.length = bs := by
  induction bs generalizing m k with
  | nil => rfl
  | cons b rest ih =>
    rw [List.length_cons, Mem.read, Mem.write, ih, byte_write_outside _ _ _ _ (by omega), byte_setByte, if_pos rfl]

/-- Bytes written at keys of their own change no byte at another key. -/
theorem byte_writeAll_ne (bs : List (Nat × Byte)) (m : Mem) (j : Nat) (h : ∀ p ∈ bs, p.1 ≠ j) : (m.writeAll bs).byte j = m.byte j := by
  induction bs generalizing m with
  | nil => rfl
  | cons p rest ih =>
    have hp : j ≠ p.1 := fun e => h p (List.mem_cons_self ..) e.symm
    rw [Mem.writeAll, ih _ fun q hq => h q (List.mem_cons_of_mem _ hq), byte_setByte, if_neg hp]

/-- The bytes that a performance writes are those of the keys that may be written. -/
theorem performBytes_byte (s : State) (bs : List (Nat × Byte)) (j : Nat) :
    (s.performBytes bs).mem.byte j = (s.mem.writeAll (bs.filter fun p => !s.unwritable p.1)).byte j := rfl

/-- Settles O52: by the laws of the byte table, and by induction on the bytes written. -/
theorem memoryReadsBack : Obligations.MemoryReadsBack := by
  unfold Obligations.MemoryReadsBack
  refine ⟨byte_setByte, fun m k bs => ⟨read_write bs m k, fun j => byte_write_outside bs m k j⟩, ?frame, ?self⟩
  case frame =>
    intro s bs j h
    rw [performBytes_byte]
    exact byte_writeAll_ne _ _ _ fun p hp => h p (List.filter_sublist.subset hp)
  case self =>
    intro s k b h
    rw [performBytes_byte]
    simp [h, Mem.writeAll, byte_setByte]

end Sys2Proof.Proofs.Small
end

section
/-! PROOF. Sets of lanes: which lanes a set built from a condition holds, and unions of sets. -/

namespace Sys2Proof.Proofs.LaneSets

open Sys2Proof.Machine

@[simp] theorem hasLane_zero (l : Nat) : hasLane 0#64 l = false := by simp [hasLane]

@[simp] theorem hasLane_or (m m' : Lanes) (l : Nat) : hasLane (m ||| m') l = (hasLane m l || hasLane m' l) := BitVec.getLsbD_or

@[simp] theorem hasLane_and (m m' : Lanes) (l : Nat) : hasLane (m &&& m') l = (hasLane m l && hasLane m' l) := BitVec.getLsbD_and

theorem hasLane_lt {m : Lanes} {l : Nat} (h : hasLane m l = true) : l < 64 := lt_of_mem_lanesOf (mem_lanesOf.mpr h)

theorem eq_of_hasLane {m m' : Lanes} (h : ∀ l, hasLane m l = hasLane m' l) : m = m' :=
  BitVec.eq_of_getLsbD_eq fun l _ => h l

/-- The lanes of a fold that adds each lane of a list which meets a condition. -/
theorem hasLane_foldl_oneLane (f : Nat → Bool) (ls : List Nat) (hls : ∀ l ∈ ls, l < 64) (m : Lanes) (j : Nat) :
    hasLane (ls.foldl (fun m l => if f l then m ||| oneLane l else m) m) j = (hasLane m j || (decide (j ∈ ls) && f j)) := by
  induction ls generalizing m with
  | nil => simp
  | cons l rest ih =>
    have hl : l < 64 := hls l (List.mem_cons_self ..)
    rw [List.foldl_cons, ih fun k hk => hls k (List.mem_cons_of_mem _ hk)]
    by_cases hf : f l = true
    · by_cases hj : j = l
      · subst hj; simp [hf, hasLane_oneLane _ _ hl]
      · simp [hf, hj, hasLane_oneLane _ _ hl]
    · by_cases hj : j = l
      · subst hj; simp [hf]
      · simp [hf, hj]

/-- A set built from a condition holds the lanes below 64 that meet it. -/
theorem hasLane_laneSet (f : Nat → Bool) (l : Nat) : hasLane (laneSet f) l = (decide (l < 64) && f l) := by
  unfold laneSet
  rw [hasLane_foldl_oneLane f allLanes fun k hk => List.mem_range.mp hk]
  have hz : hasLane 0#64 l = false := hasLane_zero l
  simp [allLanes, hz]

/-- A set built from a condition that only lanes of another set meet. -/
theorem hasLane_laneSet_and (m : Lanes) (f : Nat → Bool) (l : Nat) : hasLane (laneSet fun l => hasLane m l && f l) l = (hasLane m l && f l) := by
  rw [hasLane_laneSet]
  by_cases h : hasLane m l = true
  · simp [h, hasLane_lt h]
  · simp [h]

/-- A set is empty exactly when it holds no lane. -/
theorem eq_zero_iff {m : Lanes} : m = 0 ↔ ∀ l, hasLane m l = false :=
  ⟨fun h l => h ▸ hasLane_zero l, fun h => eq_of_hasLane fun l => (h l).trans (hasLane_zero l).symm⟩

/-- The lanes of a union over a list. -/
theorem hasLane_union {α : Type} (f : α → Lanes) (as : List α) (m : Lanes) (l : Nat) :
    hasLane (as.foldl (fun m a => m ||| f a) m) l = (hasLane m l || as.any fun a => hasLane (f a) l) := by
  induction as generalizing m with
  | nil => simp
  | cons a rest ih => rw [List.foldl_cons, ih, hasLane_or, List.any_cons, Bool.or_assoc]

/-- A union over the members of a list that meet a condition, as one set. -/
theorem union_filter_eq {α : Type} (f : α → Lanes) (q : α → Bool) (as : List α) :
    (as.filter q).foldl (fun m a => m ||| f a) 0 = laneSet fun l => as.any fun a => q a && hasLane (f a) l := by
  apply eq_of_hasLane
  intro l
  rw [hasLane_union, hasLane_laneSet, List.any_filter, show hasLane 0 l = false from hasLane_zero l, Bool.false_or]
  by_cases hl : l < 64
  · simp [hl]
  · have hout : ∀ a, hasLane (f a) l = false := fun a => Bool.eq_false_iff.mpr fun h => hl (hasLane_lt h)
    simp [hl, hout]

end Sys2Proof.Proofs.LaneSets
end

section
/-! PROOF. The gate of an issue without queue ports (R139, R145, R146, R371): the checks as sets over all four operands, then O53. -/

namespace Sys2Proof.Proofs.Gate

open Sys2Proof.Machine Sys2Proof.Safety Sys2Proof.Proofs.LaneSets

section

variable (c : Crew) (sh : Shape) (f : XF) (m : Lanes)

/-- The active lanes in which an operand's registers are EMPTY. -/
def emptyOf (o : Operand) : Lanes := c.emptyLanes (c.inHandler m) o.sel (o.fld.regs o.sel o.n) (c.active m f)

/-- The active lanes in which an operand's registers are poisoned. -/
def poisonOf (o : Operand) : Lanes := c.poisonLanes (c.inHandler m) o.sel (o.fld.regs o.sel o.n) (c.active m f)

/-- The active lanes in which a source with the trapping policy is EMPTY. -/
def trappedLanes : Lanes := laneSet fun l => (operands sh f).any fun o => o.fld.isSource && o.fe && hasLane (emptyOf c f m o) l

/-- The active lanes that read a poisoned register. -/
def poisonedLanes : Lanes := laneSet fun l => (operands sh f).any fun o => o.fld.isSource && hasLane (poisonOf c f m o) l

/-- A source or a destination is EMPTY in some active lane. -/
def someEmpty : Bool := (operands sh f).any fun o => (o.fld.isSource || o.fld.isDest) && decide (emptyOf c f m o ≠ 0)

/-- A v register of some operand is at or above the crew's count. -/
def someBeyond : Bool := (operands sh f).any fun o => o.fld.beyond o.sel f.qp c.nregs o.n

/-- Where nothing is EMPTY no source traps. -/
theorem trappedLanes_zero (h : someEmpty c sh f m = false) : trappedLanes c sh f m = 0 := by
  rw [someEmpty, List.any_eq_false] at h
  rw [trappedLanes, eq_zero_iff]
  intro l
  rw [hasLane_laneSet, Bool.and_eq_false_iff]
  right
  rw [List.any_eq_false]
  intro o ho hl
  simp only [Bool.and_eq_true] at hl
  obtain ⟨⟨hsrc, -⟩, hlane⟩ := hl
  have hz : emptyOf c f m o = 0 := by simpa [hsrc] using h o ho
  simp [hz] at hlane

/-- The gate of an instruction that names no queue port and no pending predicate, its checks in their order. -/
theorem gate_eq (hu : sh.use = false) (hq : usesPort sh f = false) (ha : ((operands sh f).all fun o => !o.aliasBound f.qp c) = true)
    (hp : c.predsPend m (predNames sh f) = false) :
    gate c sh f m (c.active m f) =
      if c.active m f = 0 then .ok ()
      else if someBeyond c sh f then .error (.trap ⟨4, 6, c.active m f, 0⟩)
      else if trappedLanes c sh f m ≠ 0 then .error (.trap ⟨5, 0, trappedLanes c sh f m, 0⟩)
      else if someEmpty c sh f m then .error .hold
      else if poisonedLanes c sh f m ≠ 0 then .error (.trap ⟨7, 0x24, poisonedLanes c sh f m, 0⟩)
      else .ok () := by
  have hport : ∀ o ∈ operands sh f, o.port f.qp = false := by simpa [usesPort] using hq
  have hsrc : (operands sh f).filter (fun o => o.fld.isSource && !o.port f.qp) = (operands sh f).filter fun o => o.fld.isSource :=
    List.filter_congr fun o ho => by simp [hport o ho]
  have hdst : (operands sh f).filter (fun o => o.fld.isDest && !o.port f.qp) = (operands sh f).filter fun o => o.fld.isDest :=
    List.filter_congr fun o ho => by simp [hport o ho]
  have hnone : (operands sh f).filter (fun o => o.port f.qp) = [] :=
    List.filter_eq_nil_iff.mpr fun o ho => by simp [hport o ho]
  have hbad : ((operands sh f).any fun o => o.aliasBound f.qp c || o.badPort f.qp c) = false := by
    rw [List.any_eq_false]
    intro o ho
    have halias : o.aliasBound f.qp c = false := by simpa using List.all_eq_true.mp ha o ho
    simp [halias, Operand.badPort, hport o ho]
  have hE : ∀ o : Operand, c.emptyLanes (c.inHandler m) o.sel (o.fld.regs o.sel o.n) (c.active m f) = emptyOf c f m o := fun _ => rfl
  have hP : ∀ o : Operand, c.poisonLanes (c.inHandler m) o.sel (o.fld.regs o.sel o.n) (c.active m f) = poisonOf c f m o := fun _ => rfl
  have htrap : ((operands sh f).filter fun o => o.fe && o.fld.isSource).foldl (fun a o => a ||| emptyOf c f m o) 0 = trappedLanes c sh f m := by
    simp only [union_filter_eq, trappedLanes, Bool.and_comm]
  have hpois : ((operands sh f).filter fun o => o.fld.isSource).foldl (fun a o => a ||| poisonOf c f m o) 0 = poisonedLanes c sh f m :=
    union_filter_eq ..
  have hempty : (((operands sh f).any fun o => o.fld.isSource && decide (emptyOf c f m o ≠ 0))
      || (operands sh f).any fun o => o.fld.isDest && decide (emptyOf c f m o ≠ 0)) = someEmpty c sh f m := by
    rw [Bool.eq_iff_iff, someEmpty]
    simp only [Bool.or_eq_true, List.any_eq_true, Bool.and_eq_true, or_and_right, and_or_left, exists_or]
  have hbeyond : ((operands sh f).any fun o => o.fld.beyond o.sel f.qp c.nregs o.n) = someBeyond c sh f := rfl
  unfold gate
  simp only [hp, hu, hbad, hsrc, hdst, hnone, hE, hP, List.filter_filter, List.any_filter, htrap, hpois, hempty, hbeyond]
  simp [illegal, illRegister, clsIllegal, clsFempty, clsPoison]

theorem gateOk_iff : gateOk c sh f m = true ↔ gate c sh f m (c.active m f) = .ok () := by
  unfold gateOk
  split
  · next u hu => simp [hu]
  · next e he => simp [he]

end

/-- Settles O53: from the checks in their order. -/
theorem theGateDecidesTheIssue : Obligations.TheGateDecidesTheIssue := by
  unfold Obligations.TheGateDecidesTheIssue
  intro c sh f m ac h os beyond empty trapped waits poisoned hu hq ha hp
  have hgate : gate c sh f m ac = if ac = 0 then .ok ()
      else if beyond then .error (.trap ⟨4, 6, ac, 0⟩)
      else if trapped ≠ 0 then .error (.trap ⟨5, 0, trapped, 0⟩)
      else if waits then .error .hold
      else if poisoned ≠ 0 then .error (.trap ⟨7, 0x24, poisoned, 0⟩)
      else .ok () := gate_eq c sh f m hu hq ha hp
  have htrap : waits = false → trapped = 0 := trappedLanes_zero c sh f m
  rw [gateOk_iff, show gate c sh f m (c.active m f) = gate c sh f m ac from rfl, hgate]
  refine ⟨⟨fun hok => ?passed, ?free⟩, ?beyond, ?fempty, ?hold, ?poison⟩
  case passed =>
    refine Decidable.byContradiction fun hne => ?_
    obtain ⟨h0, hstop⟩ := not_or.mp hne
    rw [if_neg h0] at hok
    split at hok
    · cases hok
    next hb =>
    split at hok
    · cases hok
    split at hok
    · cases hok
    next hw =>
    split at hok
    · cases hok
    next hpz => exact hstop ⟨Bool.eq_false_iff.mpr hb, Bool.eq_false_iff.mpr hw, Decidable.not_not.mp hpz⟩
  case free =>
    rintro (h0 | ⟨hb, hw, hpz⟩)
    · exact if_pos h0
    · rw [hb, hw, htrap hw, hpz]
      simp
  case beyond =>
    intro h0 hb
    rw [if_neg h0, if_pos hb]
  case fempty =>
    intro h0 hb ht
    rw [if_neg h0, hb, if_neg Bool.false_ne_true, if_pos ht]
  case hold =>
    intro h0 hb ht hw
    rw [if_neg h0, hb, if_neg Bool.false_ne_true, if_neg (Classical.not_not.mpr ht), if_pos hw]
  case poison =>
    intro h0 hb hw hpz
    rw [if_neg h0, hb, if_neg Bool.false_ne_true, if_neg (Classical.not_not.mpr (htrap hw)), hw, if_neg Bool.false_ne_true, if_pos hpz]

end Sys2Proof.Proofs.Gate
end

section
/-! PROOF. Integer instructions, shifts, moves, comparisons and the predicate group (R210 to R221): the arithmetic of their results, each scheme that computes
D or a predicate lane by lane, then O1 to O4. -/

namespace Sys2Proof.Proofs.Integers

open Sys2Proof.Machine Sys2Proof.Safety

/-! ## Results modulo 2^n and clamped results (R210, R212) -/

theorem sval_emod (n x : Nat) : sval n x % (2 : Int) ^ n = (x : Int) % (2 : Int) ^ n := by
  unfold sval
  dsimp only
  split <;> push_cast <;> simp

theorem wrapInt_natCast (n x : Nat) : wrapInt n (x : Int) = x % 2 ^ n := by
  unfold wrapInt
  norm_cast

/-- What is equal modulo 2^n wraps to the same number. -/
theorem wrapInt_congr {n : Nat} {x y : Int} (h : x % (2 : Int) ^ n = y % (2 : Int) ^ n) : wrapInt n x = wrapInt n y := by
  rw [wrapInt, wrapInt, h]

theorem intOp_add (n a b : Nat) : intOp n false false (· + ·) a b = (a + b) % 2 ^ n := by
  rw [← wrapInt_natCast]
  apply wrapInt_congr
  push_cast
  rw [Int.add_emod, Int.add_emod (a : Int), ← sval_emod n a, ← sval_emod n b]
  rfl

theorem intOp_mul (n a b : Nat) : intOp n false false (· * ·) a b = a * b % 2 ^ n := by
  rw [← wrapInt_natCast]
  apply wrapInt_congr
  push_cast
  rw [Int.mul_emod, Int.mul_emod (a : Int), ← sval_emod n a, ← sval_emod n b]
  rfl

theorem intOp_sub (n a b : Nat) (hb : b ≤ 2 ^ n) : intOp n false false (· - ·) a b = (a + 2 ^ n - b) % 2 ^ n := by
  rw [← wrapInt_natCast]
  apply wrapInt_congr
  rw [Int.ofNat_sub (by omega)]
  push_cast
  rw [Int.sub_emod, Int.sub_emod ((a : Int) + 2 ^ n), Int.add_emod_right, ← sval_emod n a, ← sval_emod n b]
  rfl

theorem satS_eq (n : Nat) (r : Int) : satS n r = clampS n r := by
  have h : (1 : Int) ≤ 2 ^ (n - 1) := Int.pow_pos (by decide)
  unfold satS clampS
  dsimp only
  congr 1
  split
  · omega
  · split <;> omega

theorem satU_eq (n : Nat) (r : Int) : satU n r = clampU n r := by
  have h : (1 : Int) ≤ 2 ^ n := Int.pow_pos (by decide)
  have hc : ((2 : Int) ^ n - 1).toNat = 2 ^ n - 1 := by
    have h' : ((2 ^ n : Nat) : Int) = (2 : Int) ^ n := by push_cast; rfl
    omega
  unfold satU clampU
  split
  · rw [show max (0 : Int) (min r (2 ^ n - 1)) = 0 by omega]; rfl
  split
  · rw [show max (0 : Int) (min r (2 ^ n - 1)) = 2 ^ n - 1 by omega, hc]
  · rw [show max (0 : Int) (min r (2 ^ n - 1)) = r by omega]

/-- The common operation of the X-forms is the saturated one of R212. -/
theorem intOp_eq_saturated (f : XF) (n : Nat) (op : Int → Int → Int) (a b : Nat) :
    intOp n f.o1 (f.c.getLsbD 1) op a b = saturated f n op a b := by
  unfold intOp saturated
  generalize f.o1 = sat
  generalize f.c.getLsbD 1 = uns
  cases sat <;> cases uns <;> simp [satS_eq, satU_eq]

theorem sraOp_eq (n a c : Nat) : sraOp n a c = wrapInt n (sval n a / 2 ^ min c n) := by
  unfold sraOp
  congr 3
  split <;> omega

/-- A signed immediate wrapped to 32 bits is its sign extension. -/
theorem wrapInt_toInt (imm : BitVec 16) : wrapInt 32 imm.toInt = (imm.signExtend 32).toNat := by
  rw [wrapInt, BitVec.signExtend, BitVec.toNat_ofInt]
  rfl

/-! ## The schemes that compute D -/

section

variable {s : State} {x : Ctx} {i : Instr}

theorem v_lt (s : State) (x : Ctx) (n : BitVec 8) (l : Nat) : v s x n l < 2 ^ 32 := BitVec.isLt _

/-- A B-form on v registers. -/
theorem writesD_of_intB {d a b : BitVec 8} {op : Nat → Nat → Nat} {val : Nat → Nat} (h : ready s x i.shape (.ofB d a b) = true)
    (e : exec i s = intB s i.shape d a b op) (hv : ∀ l, op (v s x a l) (v s x b l) = val l) : WritesD s x i (.ofB d a b) false false val := by
  unfold intB at e
  exact writesD_of_lanewise _ h e hv

/-- An X-form with A and B at the width that W gives. -/
theorem writesD_of_intX {f : XF} {op : Nat → Nat → Nat → Nat} {val : Nat → Nat} (h : ready s x i.shape f = true)
    (e : exec i s = intX s i.shape f op) (hv : ∀ l, op (bitsOf f.o0) (fldA s x f f.o0 l) (opB s x f f.o0 l) = val l) :
    WritesD s x i f f.o0 false val := by
  unfold intX at e
  exact writesD_of_lanewise _ h e hv

/-- An X-form whose B operand is a count. -/
theorem writesD_of_countX {f : XF} {op : Nat → Nat → Nat → Nat} {val : Nat → Nat} (h : ready s x i.shape f = true)
    (e : exec i s = countX s i.shape f op)
    (hv : ∀ l, op (bitsOf f.o0) (fldA s x f f.o0 l) (if f.imm then f.w2.toNat else fldB s x f false l) = val l) :
    WritesD s x i f f.o0 false val := by
  unfold countX at e
  exact writesD_of_lanewise _ h e hv

/-- An X-form with one source. -/
theorem writesD_of_intX1 {f : XF} {wd : Bool} {op : Nat → Nat → Nat} {val : Nat → Nat} (h : ready s x i.shape f = true)
    (e : exec i s = intX1 s i.shape f wd false op) (hv : ∀ l, op (bitsOf f.o0) (fldA s x f f.o0 l) = val l) : WritesD s x i f wd false val := by
  unfold intX1 at e
  exact writesD_of_lanewise _ h e hv

end

/-- Settles O1: each instruction is one of the schemes above with its own operation. -/
theorem integerFormsWriteTheResult : Obligations.IntegerFormsWriteTheResult := by
  unfold Obligations.IntegerFormsWriteTheResult
  simp only [List.forall_mem_cons, List.not_mem_nil, false_imp_iff, implies_true, and_true, -Nat.reducePow]
  refine ⟨⟨⟨?iadd, ?isub, ?imul, ?and, ?or, ?xor, ?shl, ?shr, ?sra⟩, ?iaddImm⟩, ?iaddImmX,
    ?iaddX, ?isubX, ?imulX, ?andX, ?orX, ?xorX, ?andn, ?imin, ?imax, ?imulh⟩
  case iadd => exact fun s x d a b h => writesD_of_intB h (exec_iadd s d a b) fun _ => intOp_add ..
  case isub => exact fun s x d a b h => writesD_of_intB h (exec_isub s d a b) fun l => intOp_sub 32 _ _ (Nat.le_of_lt (v_lt s x b l))
  case imul => exact fun s x d a b h => writesD_of_intB h (exec_imul s d a b) fun _ => intOp_mul ..
  case and => exact fun s x d a b h => writesD_of_intB h (exec_and s d a b) fun _ => rfl
  case or => exact fun s x d a b h => writesD_of_intB h (exec_or s d a b) fun _ => rfl
  case xor => exact fun s x d a b h => writesD_of_intB h (exec_xor s d a b) fun _ => rfl
  case shl => exact fun s x d a b h => writesD_of_intB h (exec_shl s d a b) fun _ => rfl
  case shr => exact fun s x d a b h => writesD_of_intB h (exec_shr s d a b) fun _ => rfl
  case sra => exact fun s x d a b h => writesD_of_intB h (exec_sra s d a b) fun _ => sraOp_eq ..
  case iaddImm => exact fun s x d a b h => writesD_of_lanewise _ h (exec_iaddImm s d a b) fun _ => rfl
  case iaddImmX => exact fun s x f h => writesD_of_lanewise _ h (exec_iaddImmX s f) fun _ => intOp_eq_saturated ..
  case iaddX => exact fun s x f h => writesD_of_intX h (exec_iaddX s f) fun _ => intOp_eq_saturated ..
  case isubX => exact fun s x f h => writesD_of_intX h (exec_isubX s f) fun _ => intOp_eq_saturated ..
  case imulX => exact fun s x f h => writesD_of_intX h (exec_imulX s f) fun _ => intOp_eq_saturated ..
  case andX => exact fun s x f h => writesD_of_intX h (exec_andX s f) fun _ => rfl
  case orX => exact fun s x f h => writesD_of_intX h (exec_orX s f) fun _ => rfl
  case xorX => exact fun s x f h => writesD_of_intX h (exec_xorX s f) fun _ => rfl
  case andn => exact fun s x f h => writesD_of_intX h (exec_andn s f) fun _ => rfl
  case imin =>
    refine fun s x f h => writesD_of_intX h (exec_imin s f) fun l => ?_
    generalize fldA s x f f.o0 l = m
    generalize opB s x f f.o0 l = n
    by_cases hv : f.vN = 1
    · simp only [hv, if_true, decide_eq_true_eq]
      split <;> omega
    · simp only [hv, if_false, decide_eq_true_eq]
      split <;> split <;> omega
  case imax =>
    refine fun s x f h => writesD_of_intX h (exec_imax s f) fun l => ?_
    generalize fldA s x f f.o0 l = m
    generalize opB s x f f.o0 l = n
    by_cases hv : f.vN = 1
    · simp only [hv, if_true, decide_eq_true_eq]
      split <;> omega
    · simp only [hv, if_false, decide_eq_true_eq]
      split <;> split <;> omega
  case imulh => exact fun s x f h => writesD_of_intX h (exec_imulh s f) fun _ => rfl

/-- Settles O2: the shifts and rotates compute with a count, the moves copy their source. -/
theorem shiftsAndMovesWriteTheResult : Obligations.ShiftsAndMovesWriteTheResult := by
  unfold Obligations.ShiftsAndMovesWriteTheResult
  simp only [List.forall_mem_cons, List.not_mem_nil, false_imp_iff, implies_true, and_true, -Nat.reducePow]
  refine ⟨⟨?shl, ?shr, ?sra, ?rotl⟩, fun s x => ⟨?mov, ?movX, ?movi, ?moviX, ?moviB64, ?moviB64X⟩⟩
  case shl => exact fun s x f h => writesD_of_countX h (exec_shlX s f) fun _ => rfl
  case shr => exact fun s x f h => writesD_of_countX h (exec_shrX s f) fun _ => rfl
  case sra => exact fun s x f h => writesD_of_countX h (exec_sraX s f) fun _ => sraOp_eq ..
  case rotl => exact fun s x f h => writesD_of_countX h (exec_rotl s f) fun _ => rfl
  case mov => exact fun d a h => writesD_of_lanewise _ h (exec_mov s d a) fun _ => rfl
  case movX => exact fun f h => writesD_of_lanewise _ h (exec_movX s f) fun _ => rfl
  case movi => exact fun d imm h => writesD_of_lanewise _ h (exec_movi s d imm) fun _ => wrapInt_toInt imm
  case moviX => exact fun f h => writesD_of_lanewise _ h (exec_moviX s f) fun _ => rfl
  case moviB64 => exact fun d lit h => writesD_of_lanewise _ h (exec_moviB64 s d lit) fun _ => rfl
  case moviB64X => exact fun f lit h => writesD_of_lanewise _ h (exec_moviB64X s f lit) fun _ => rfl

/-- Settles O3: each instruction computes D lane by lane, division and remainder by a later event. -/
theorem integerGroupWritesTheResult : Obligations.IntegerGroupWritesTheResult := by
  unfold Obligations.IntegerGroupWritesTheResult
  refine ⟨fun s x f => ⟨?not, ?iabs, ?ineg, ?clz, ?popc, ?brev, ?bfx, ?bfi, ?imad, ?sel, ?lea, ?idot4⟩, fun s x f => ⟨?idiv, ?irem⟩⟩
  case not => exact fun h => writesD_of_intX1 h (exec_not s f) fun _ => rfl
  case iabs => exact fun h => writesD_of_intX1 h (exec_iabs s f) fun _ => by simp only [satS_eq]
  case ineg => exact fun h => writesD_of_intX1 h (exec_ineg s f) fun _ => by simp only [satS_eq]
  case clz => exact fun h => writesD_of_intX1 h (exec_clz s f) fun _ => rfl
  case popc => exact fun h => writesD_of_intX1 h (exec_popc s f) fun _ => rfl
  case brev => exact fun h => writesD_of_intX1 h (exec_brev s f) fun _ => rfl
  case bfx =>
    refine fun h => writesD_of_lanewise _ h (exec_bfx s f) fun l => ?_
    simp only [fieldPos, decide_eq_true_eq]
    rfl
  case bfi =>
    refine fun h => writesD_of_lanewise _ h (exec_bfi s f) fun l => ?_
    simp only [fieldPos, decide_eq_true_eq]
    rfl
  case imad =>
    refine fun h => writesD_of_lanewise _ h (exec_imad s f) fun l => ?_
    have hA : (s.crew x.crew).rdN ((s.crew x.crew).inHandler x.lanes) f.qp f.o0 f.sa f.a.toNat l = fldA s x f f.o0 l := rfl
    have hB : (s.crew x.crew).rdN ((s.crew x.crew).inHandler x.lanes) f.qp f.o0 f.sb f.b.toNat l = fldB s x f f.o0 l := rfl
    have hC : (s.crew x.crew).rdN ((s.crew x.crew).inHandler x.lanes) f.qp f.o0 f.sc f.c.toNat l = fldC s x f f.o0 l := rfl
    simp only [hA, hB, hC, satS_eq, satU_eq]
    by_cases h2 : f.vN = 2
    · simp [h2]
    · by_cases h1 : f.vN = 1
      · simp [h1]
      · simp [h1, h2]
  case sel => exact fun h => writesD_of_lanewise _ h (exec_sel s f) fun _ => rfl
  case lea => exact fun h => writesD_of_lanewise _ h (exec_lea s f) fun _ => rfl
  case idot4 => exact fun h => writesD_of_lanewise _ h (exec_idot4 s f) fun _ => rfl
  case idiv =>
    refine fun h => writesD_of_lanewise _ h (exec_idiv s f) fun l => ?_
    simp only [idivOp, decide_eq_true_eq]
    rfl
  case irem =>
    refine fun h => writesD_of_lanewise _ h (exec_irem s f) fun l => ?_
    simp only [iremOp, decide_eq_true_eq]
    rfl

/-- Settles O4: each instruction computes a predicate lane by lane, PMOV with variant 2 a register. -/
theorem predicatesAreWritten : Obligations.PredicatesAreWritten := by
  unfold Obligations.PredicatesAreWritten
  refine fun s x f => ⟨?icmp, ?pand, ?por, ?pxor, ?pnot, ?pmov⟩
  case icmp => exact fun h => writesP_of_lanewise _ h (exec_icmp s f) fun _ => rfl
  case pand => exact fun h => writesP_of_lanewise _ h (exec_pand s f) fun _ => rfl
  case por => exact fun h => writesP_of_lanewise _ h (exec_por s f) fun _ => rfl
  case pxor => exact fun h => writesP_of_lanewise _ h (exec_pxor s f) fun _ => rfl
  case pnot => exact fun h => writesP_of_lanewise _ h (exec_pnot s f) fun _ => rfl
  case pmov =>
    intro h
    have e := exec_pmov s f
    unfold execPmov at e
    split
    · next hv =>
      rw [if_pos hv] at e
      exact writesD_of_lanewise _ h e fun _ => rfl
    · next hv =>
      rw [if_neg hv] at e
      refine writesP_of_lanewise _ h e fun l => ?_
      have hz : decide ((s.crew x.crew).rdV ((s.crew x.crew).inHandler x.lanes) f.qp f.sa f.a.toNat l ≠ 0) = decide (fldA s x f false l ≠ 0) :=
        decide_eq_decide.mpr (not_congr BitVec.toNat_eq)
      rw [hz]
      rfl

end Sys2Proof.Proofs.Integers
end

section
/-! PROOF. Floating-point arithmetic, signs and classes, comparisons, conversions, special functions and narrow formats (R173 to R185, R239 to R255), with
and without a raised flag that FMODE enables (R181): O5 to O9. -/

namespace Sys2Proof.Proofs.Floats

open Sys2Proof.Machine Sys2Proof.Safety Sys2Proof.Proofs.LaneSets

section

variable {s : State} {x : Ctx} {i : Instr}

/-! ## Arithmetic without an enabled flag (R239, R240) -/

/-- A computation that is no long-latency one. -/
theorem writesF_of_lanes {f : XF} {res : Nat → FlagRes} (g : Ctx → Crew → Bool → Nat → FlagRes) (h : ready s x i.shape f = true)
    (hu : untrapped s x f res = true) (e : exec i s = fpLanes s i.shape f false g)
    (hv : ∀ l, g x (s.crew x.crew) ((s.crew x.crew).inHandler x.lanes) l = res l) : WritesF s x i f false res :=
  writesF_of_fpLanes g h hu e hv

/-- A B-form on FP32 v operands. -/
theorem writesF_of_fpB {d a b : BitVec 8} {op : BitVec 13 → Nat → Nat → FlagRes} (h : ready s x i.shape (.ofB d a b) = true)
    (hu : untrapped s x (.ofB d a b) (fun l => op x.fmode (v s x a l) (v s x b l)) = true) (e : exec i s = fpB s i.shape d a b op) :
    WritesF s x i (.ofB d a b) false fun l => op x.fmode (v s x a l) (v s x b l) := by
  unfold fpB at e
  exact writesF_of_lanes _ h hu e fun _ => rfl

/-- An X-form with A and B. -/
theorem writesF_of_fpX {f : XF} {op : BitVec 13 → Nat → Nat → FlagRes} (h : ready s x i.shape f = true)
    (hu : untrapped s x f (fun l => op x.fmode (fldA s x f false l) (opB s x f false l)) = true) (e : exec i s = fpX s i.shape f op) :
    WritesF s x i f false fun l => op x.fmode (fldA s x f false l) (opB s x f false l) := by
  unfold fpX at e
  exact writesF_of_lanes _ h hu e fun _ => rfl

/-- A special function, long-latency where no flag is enabled (R249). -/
theorem writesF_of_sfu {f : XF} {k : Nat} (h : ready s x i.shape f = true)
    (hu : untrapped s x f (fun l => perElem f.ownN fun fm e => sfuOp k fm x.fmode (elemIn fm x.fmode (fldA s x f false l) e)) = true)
    (e : exec i s = sfu s i.shape f k) :
    WritesF s x i f (decide (fmEnables x.fmode = 0))
      fun l => perElem f.ownN fun fm e => sfuOp k fm x.fmode (elemIn fm x.fmode (fldA s x f false l) e) := by
  unfold sfu at e
  have hw := writesF_of_fpLanes _ h hu e fun _ => rfl
  rwa [Bool.true_and] at hw

end

/-- Settles O5: each instruction computes its result and flags lane by lane. -/
theorem floatingPointComputes : Obligations.FloatingPointComputes := by
  unfold Obligations.FloatingPointComputes
  simp only [List.forall_mem_cons, List.not_mem_nil, false_imp_iff, implies_true, and_true]
  refine ⟨⟨⟨?fadd, ?fsub, ?fmul⟩, ?faddX, ?fsubX, ?fmulX, ?fmin, ?fmax⟩, fun s x => ⟨?ffma, ?ffmaX, ?frnd⟩⟩
  case fadd => exact fun s x d a b h hu => writesF_of_fpB h hu (exec_fadd s d a b)
  case fsub => exact fun s x d a b h hu => writesF_of_fpB h hu (exec_fsub s d a b)
  case fmul => exact fun s x d a b h hu => writesF_of_fpB h hu (exec_fmul s d a b)
  case faddX => exact fun s x f h hu => writesF_of_fpX h hu (exec_faddX s f)
  case fsubX => exact fun s x f h hu => writesF_of_fpX h hu (exec_fsubX s f)
  case fmulX => exact fun s x f h hu => writesF_of_fpX h hu (exec_fmulX s f)
  case fmin => exact fun s x f h hu => writesF_of_fpX h hu (exec_fmin s f)
  case fmax => exact fun s x f h hu => writesF_of_fpX h hu (exec_fmax s f)
  case ffma => exact fun d a b h hu => writesF_of_lanes _ h hu (exec_ffma s d a b) fun _ => rfl
  case ffmaX => exact fun f h hu => writesF_of_lanes _ h hu (exec_ffmaX s f) fun _ => rfl
  case frnd => exact fun f h hu => writesF_of_lanes _ h hu (exec_frnd s f) fun _ => rfl

/-! ## An enabled flag (R181) -/

/-- The lanes of a set that raise a flag which is enabled. -/
def flagged (m : BitVec 13) (a : Lanes) (fl : Nat → BitVec 5) : Lanes := laneSet fun l => hasLane a l && decide (fl l &&& fmEnables m ≠ 0)

theorem flagged_ne_zero {m : BitVec 13} {a : Lanes} {fl : Nat → BitVec 5} (h : ((lanesOf a).all fun l => decide (fl l &&& fmEnables m = 0)) = false) :
    flagged m a fl ≠ 0 := by
  obtain ⟨l, hl, hne⟩ := List.all_eq_false.mp h
  intro hz
  have hlane := eq_zero_iff.mp hz l
  rw [flagged, hasLane_laneSet_and, mem_lanesOf.mp hl] at hlane
  simp_all

/-- With an enabled flag raised, a computation records its flags and traps ARITH. -/
theorem withFlags_of_flagged {s : State} {x : Ctx} {a : Lanes} {fl : Nat → BitVec 5}
    (h : ((lanesOf a).all fun l => decide (fl l &&& fmEnables x.fmode = 0)) = false) (write : State → State) :
    withFlags s x a fl write = .error (.trapIn (s.setCrew x.crew (orFlags (s.crew x.crew) a fl))
      ⟨3, ((lanesOf a).foldl (fun m l => m ||| fl l) 0#5).toNat, flagged x.fmode a fl, 0⟩) := by
  exact if_neg (flagged_ne_zero h)

/-- An X-form with A and B that raises an enabled flag. -/
theorem exec_fpX_of_flagged {s : State} {x : Ctx} {i : Instr} {f : XF} {op : BitVec 13 → Nat → Nat → FlagRes} (h : ready s x i.shape f = true)
    (hu : untrapped s x f (fun l => op x.fmode (fldA s x f false l) (opB s x f false l)) = false) (e : exec i s = fpX s i.shape f op) :
    let a := act s x f
    let fl := laneFlags f.sd a fun l => op x.fmode (fldA s x f false l) (opB s x f false l)
    exec i s = .next ((s.setCrew x.crew (orFlags (s.crew x.crew) a fl)).raise x a
      ⟨3, ((lanesOf a).foldl (fun m l => m ||| fl l) 0#5).toNat, flagged x.fmode a fl, 0⟩) := by
  intro a fl
  rw [e]
  unfold fpX fpLanes
  rw [portRun_of_ready h, guarded_of_may (ready_may h)]
  exact congrArg Host.Outcome.next (congrArg (settle s x a) (withFlags_of_flagged hu _))

/-- Settles O8: each of the instructions is the X-form with A and B. -/
theorem enabledFlagsTrapArith : Obligations.EnabledFlagsTrapArith := by
  unfold Obligations.EnabledFlagsTrapArith
  simp only [List.forall_mem_cons, List.not_mem_nil, false_imp_iff, implies_true, and_true]
  refine ⟨?faddX, ?fsubX, ?fmulX, ?fmin, ?fmax⟩
  case faddX => exact fun s x f h hu => exec_fpX_of_flagged h hu (exec_faddX s f)
  case fsubX => exact fun s x f h hu => exec_fpX_of_flagged h hu (exec_fsubX s f)
  case fmulX => exact fun s x f h hu => exec_fpX_of_flagged h hu (exec_fmulX s f)
  case fmin => exact fun s x f h hu => exec_fpX_of_flagged h hu (exec_fmin s f)
  case fmax => exact fun s x f h hu => exec_fpX_of_flagged h hu (exec_fmax s f)

/-! ## Signs, classes and comparisons (R243 to R245) -/

/-- The word that a 32-bit A field reads. -/
theorem ofNat_fldA (s : State) (x : Ctx) (f : XF) (l : Nat) :
    BitVec.ofNat 32 (fldA s x f false l) = (s.crew x.crew).rdV ((s.crew x.crew).inHandler x.lanes) f.qp f.sa f.a.toNat l :=
  BitVec.ofNat_toNat ..|>.trans (BitVec.setWidth_eq _)

theorem elemBits_zero (fm : Fmt) (a : Nat) : elemBits fm a 0 = a % 2 ^ fm.width := by
  rw [elemBits, Nat.mul_zero, Nat.pow_zero, Nat.div_one]

/-- Everything a floating-point instruction that writes a predicate does when it is ready and no enabled flag is raised. -/
theorem fpLanesP_of_ready {s : State} {x : Ctx} {sh : Shape} {f : XF} (h : ready s x sh f = true) (g : Ctx → Crew → Bool → Nat → Bool × BitVec 5)
    (hu : ((lanesOf (act s x f)).all fun l =>
      decide ((g x (s.crew x.crew) ((s.crew x.crew).inHandler x.lanes) l).2 &&& fmEnables x.fmode = 0)) = true) :
    fpLanesP s sh f g = .next (s.setCrew x.crew (goOnAll x (Crew.mapLanes
      (if act s x f = 0 then orFlags (s.crew x.crew) (act s x f) (fun l => (g x (s.crew x.crew) ((s.crew x.crew).inHandler x.lanes) l).2)
        else (orFlags (s.crew x.crew) (act s x f) fun l => (g x (s.crew x.crew) ((s.crew x.crew).inHandler x.lanes) l).2).pop (popPorts sh f) (act s x f))
      (act s x f) fun l t => t.wrPred f.d.toNat (g x (s.crew x.crew) ((s.crew x.crew).inHandler x.lanes) l).1))).endIssue := by
  unfold fpLanesP
  rw [portRun_of_ready h, guarded_of_may (ready_may h)]
  simp only [withFlags_of_untrapped hu, settle_ok, writeP_eq, State.crew_setCrew_self, State.setCrew_setCrew]

/-- Settles O6: FABS, FNEG and FCLASS compute D, FCMP a predicate and its flags. -/
theorem signClassAndCompare : Obligations.SignClassAndCompare := by
  unfold Obligations.SignClassAndCompare
  refine ⟨fun s x f => ⟨?fabs, ?fneg, ?fclass⟩, ?fcmp⟩
  case fabs =>
    exact fun h => writesD_of_lanewise _ h (exec_fabs s f) fun l => by rw [ofNat_fldA]; rfl
  case fneg =>
    exact fun h => writesD_of_lanewise _ h (exec_fneg s f) fun l => by rw [ofNat_fldA]; rfl
  case fclass =>
    refine fun h => writesD_of_lanewise _ h (exec_fclass s f) fun l => ?_
    simp only [elemBits_zero]
    rfl
  case fcmp =>
    intro s x f fm a b nan flags h hu
    have e := exec_fcmp s f
    unfold execFcmp at e
    refine ⟨_, e.trans (fpLanesP_of_ready h _ hu), crewOnly_set _ _ _, ?_⟩
    rw [State.crew_endIssue, State.crew_setCrew_self]
    rfl

/-! ## Conversions, special functions, narrow formats (R247 to R255) -/

/-- FCVT when it is ready and no enabled flag is raised. -/
theorem exec_fcvt_of_ready {s : State} {x : Ctx} {f : XF} (h : ready s x (Instr.fcvt f).shape f = true) :
    let a64 := decide (fcvtWidth (bits f.w2.toNat 3 0) = 64)
    let w64 := decide (fcvtWidth (bits f.w2.toNat 7 4) = 64) && decide (f.vN = 0)
    let res := fun l => fcvtRes f x.fmode (fldA s x f a64 l) (fldB s x f false l) (fld s x f false f.sd f.d l)
    untrapped s x f res = true →
      exec (.fcvt f) s = .next (s.setCrew x.crew (wrote (orFlags (s.crew x.crew) (act s x f) (laneFlags f.sd (act s x f) res)) x
        (Instr.fcvt f).shape f (act s x f) w64 false fun l => (res l).1)).endIssue := by
  intro a64 w64 res hu
  rw [exec_fcvt, execFcvt]
  dsimp only
  rw [portRun_of_ready h, guarded_of_may (ready_may h)]
  refine congrArg Host.Outcome.next ((congrArg (settle s x _) (withFlags_of_untrapped hu _)).trans ?_)
  rw [settle_ok, writeD_eq, State.crew_setCrew_self, State.setCrew_setCrew]
  rfl

/-- Settles O7: FCVT by its run, the special functions by their common scheme. -/
theorem conversionsAndSpecialFunctions : Obligations.ConversionsAndSpecialFunctions := by
  unfold Obligations.ConversionsAndSpecialFunctions
  simp only [List.forall_mem_cons, List.not_mem_nil, false_imp_iff, implies_true, and_true]
  refine ⟨?fcvt, ?frcp, ?frsq, ?fsqrt, ?fexp2, ?flog2, ?fsin, ?fcos, ?ftanh⟩
  case fcvt =>
    intro s x f h hu
    exact ⟨_, exec_fcvt_of_ready h hu, crewOnly_set _ _ _, by rw [State.crew_endIssue, State.crew_setCrew_self]⟩
  case frcp => exact fun s x f h hu => writesF_of_sfu h hu (exec_frcp s f)
  case frsq => exact fun s x f h hu => writesF_of_sfu h hu (exec_frsq s f)
  case fsqrt => exact fun s x f h hu => writesF_of_sfu h hu (exec_fsqrt s f)
  case fexp2 => exact fun s x f h hu => writesF_of_sfu h hu (exec_fexp2 s f)
  case flog2 => exact fun s x f h hu => writesF_of_sfu h hu (exec_flog2 s f)
  case fsin => exact fun s x f h hu => writesF_of_sfu h hu (exec_fsin s f)
  case fcos => exact fun s x f h hu => writesF_of_sfu h hu (exec_fcos s f)
  case ftanh => exact fun s x f h hu => writesF_of_sfu h hu (exec_ftanh s f)

/-- Settles O9: each instruction computes D lane by lane. -/
theorem narrowFormatsCompute : Obligations.NarrowFormatsCompute := by
  unfold Obligations.NarrowFormatsCompute
  intro s x f
  refine ⟨?qnt, ?dqnt, ?pack, ?unpk⟩
  case qnt => exact fun h hu => writesF_of_lanes _ h hu (exec_qnt s f) fun _ => rfl
  case dqnt => exact fun h hu => writesF_of_lanes _ h hu (exec_dqnt s f) fun _ => rfl
  case pack => exact fun h => writesD_of_lanewise _ h (exec_pack s f) fun _ => rfl
  case unpk => exact fun h => writesD_of_lanewise _ h (exec_unpk s f) fun _ => rfl

end Sys2Proof.Proofs.Floats
end

section
/-! PROOF. What leaves the execution state, or its crews, as they are, and what revives no thread. -/

namespace Sys2Proof.Proofs.Lives

open Sys2Proof.Machine Sys2Proof.Machine.State

/-! ## What touches no crew, block, quadrant or core -/

/-- A fold of steps that keep a part of the state keeps it. -/
theorem foldl_keeps {α β : Type} {p : State → β} {f : State → α → State} (h : ∀ s a, p (f s a) = p s) (l : List α) (s : State) :
    p (l.foldl f s) = p s := by
  induction l generalizing s with
  | nil => rfl
  | cons a rest ih => exact (ih _).trans (h s a)

theorem modLaunch_ex (s : State) (k : Nat) (f : Launch → Launch) : (s.modLaunch k f).ex = s.ex := by
  unfold modLaunch
  split <;> rfl

theorem snapshot_ex (s : State) (d key : Nat) : (s.snapshot d key).ex = s.ex := by
  unfold snapshot
  dsimp only
  repeat' split
  all_goals rfl

theorem pendBytes_ex (s : State) (p : Pending) : (s.pendBytes p).ex = s.ex := by
  unfold pendBytes
  dsimp only
  split <;> rfl

theorem performPend_ex (s : State) (p : Pending) : (s.performPend p).ex = s.ex := by
  unfold performPend
  dsimp only
  rw [pendBytes_ex]
  split
  · rfl
  · exact snapshot_ex s _ _

theorem performDue_ex (s : State) (sec : Nat) : (s.performDue sec).ex = s.ex := foldl_keeps performPend_ex _ s

theorem markDirty_ex (s : State) (sec : Nat) : (s.markDirty sec).ex = s.ex := by
  unfold markDirty
  split <;> rfl

theorem performSector_ex (s : State) (sec : Nat) : (s.performSector sec).ex = s.ex := (markDirty_ex _ _).trans (performDue_ex s sec)

theorem putLease_ex (s : State) (sec : Nat) (l : Lease) : (s.putLease sec l).ex = s.ex := by
  unfold putLease
  split <;> rfl

theorem appendAt_ex (s : State) (h launch w : Nat) (p : Nat × List (Nat × Byte)) (masks : List (Nat × BitVec 2)) :
    (s.appendAt h launch w p masks).ex = s.ex := by
  unfold appendAt
  dsimp only
  split
  · exact (performSector_ex _ _).trans (putLease_ex s _ _)
  · exact putLease_ex s _ _

theorem recordPoison_ex (s : State) (sec : Nat) : (s.recordPoison sec).ex = s.ex := by
  unfold recordPoison
  dsimp only
  repeat' split
  all_goals rfl

theorem backPoison_ex (s : State) (sec : Nat) (x : Option (Lease × Bool)) : (s.backPoison sec x).ex = s.ex := by
  unfold backPoison
  split
  · exact recordPoison_ex s sec
  · rfl

theorem evictL2_ex (s : State) (k : Nat) : (s.evictL2 k).ex = s.ex := by
  unfold evictL2
  split
  · rfl
  · exact (backPoison_ex _ _ _).trans (backPoison_ex s _ _)

theorem ex_of_coh (s : State) (c : Coh) : ({ s with coh := c } : State).ex = s.ex := rfl

theorem residentL2_ex (s : State) (prt sec : Nat) : (s.residentL2 prt sec).ex = s.ex := by
  unfold residentL2
  split
  · dsimp only
    rw [apply_ite State.ex, ex_of_coh, ex_of_coh, ite_self]
  · dsimp only
    split
    · rfl
    · rw [ex_of_coh, evictL2_ex]

theorem acceptAll_ex (s : State) (h prt launch : Nat) (ps : List (Nat × List (Nat × Byte))) : (s.acceptAll h prt launch ps).1.ex = s.ex := by
  unfold acceptAll
  exact (foldl_keeps (fun t p => appendAt_ex t _ _ _ p _) _ _).trans (foldl_keeps (fun t p => residentL2_ex t _ _) _ s)

theorem invalL1_ex (s : State) (core prt sec : Nat) : (s.invalL1 core prt sec).ex = s.ex := by
  unfold invalL1
  split <;> rfl

theorem ex_of_mem (s : State) (m : Mem) : ({ s with mem := m } : State).ex = s.ex := rfl

theorem logRecord_ex (s : State) (d quoted actual detail cause kind party core time : Nat) (voided : Bool) :
    (s.logRecord d quoted actual detail cause kind party core time voided).ex = s.ex := by
  unfold logRecord
  dsimp only
  split
  · rw [setTenant_ex]
  · rw [setTenant_ex, send_ex]
    split
    · rw [ex_of_mem]
    · rfl

theorem setStatus_ex (s : State) (qid status attr : Nat) : (s.setStatus qid status attr).ex = s.ex := by
  unfold setStatus
  split
  · rfl
  · dsimp only
    split <;> rfl

theorem countFault_ex (s : State) (d : Nat) : (s.countFault d).ex = s.ex := by
  unfold countFault
  dsimp only
  split <;> rfl

theorem breach_ex (s : State) (d cause detail core : Nat) : (s.breach d cause detail core).ex = s.ex := by
  unfold breach
  split
  · rfl
  · dsimp only
    have hlast : ∀ (t : State) (q st a : Nat) (f : Launch → Launch), t.ex = s.ex → ((t.setStatus q st a).modLaunch d f).ex = s.ex :=
      fun t q st a f ht => (modLaunch_ex _ _ _).trans ((setStatus_ex _ _ _ _).trans ht)
    split
    · exact (foldl_keeps countFault_ex _ _).trans (hlast _ _ _ _ _ (logRecord_ex ..))
    · exact hlast _ _ _ _ _ (logRecord_ex ..)

theorem setDcbState_ex (s : State) (d st : Nat) : (s.setDcbState d st).ex = s.ex :=
  foldl_keeps (f := fun t k => t.putDcbState k st) (fun _ _ => rfl) _ (s.putDcbState d st)

theorem noteStopped_ex (s : State) (d : Nat) : (s.noteStopped d).ex = s.ex := by
  unfold noteStopped
  split
  · rfl
  · exact (setDcbState_ex _ _ _).trans ((modLaunch_ex _ _ _).trans (breach_ex s _ _ _ _))

theorem askTile_ex (s : State) (d : Nat) (e : SlotEnt) (t : TileEnt) : (s.askTile d e t).ex = s.ex := by
  unfold askTile
  split
  · rfl
  split
  · exact (modLaunch_ex _ _ _).trans (modLaunch_ex _ _ _)
  · exact modLaunch_ex _ _ _

theorem sendReply_ex (s : State) (p kind : Nat) (nums : List Nat) : (s.sendReply p kind nums).ex = s.ex := by
  unfold sendReply
  dsimp only
  repeat' split
  all_goals rfl

theorem interrupt_ex (s : State) (qi : Nat) : (s.interrupt qi).ex = s.ex := by
  unfold interrupt
  dsimp only
  repeat' split
  all_goals rfl

theorem haltQueue_ex (s : State) (qi cause code : Nat) : (s.haltQueue qi cause code).ex = s.ex := interrupt_ex _ _

theorem dropLocks_ex (s : State) (k name : Nat) : (s.dropLocks k name).ex = s.ex := rfl

/-! ## What touches no crew -/

/-- The crews are the same in both states. -/
def SameCrews (s t : State) : Prop := t.ex.crews = s.ex.crews

namespace SameCrews

theorem refl (s : State) : SameCrews s s := rfl

theorem of_ex {s t : State} (h : t.ex = s.ex) : SameCrews s t := congrArg Exec.crews h

theorem trans {s t u : State} (h : SameCrews s t) (h' : SameCrews t u) : SameCrews s u := Eq.trans h' h

theorem ite {s t u : State} {p : Prop} [Decidable p] (h : SameCrews s t) (h' : SameCrews t u) : SameCrews s (if p then u else t) := by
  split
  · exact h.trans h'
  · exact h

theorem foldl {α : Type} {f : State → α → State} (h : ∀ s a, SameCrews s (f s a)) (l : List α) (s : State) : SameCrews s (l.foldl f s) :=
  foldl_keeps (p := fun t => t.ex.crews) h l s

end SameCrews

theorem sameCrews_modCore (s : State) (k : Nat) (f : Core → Core) : SameCrews s (s.modCore k f) := rfl

theorem sameCrews_modQuad (s : State) (k : Nat) (f : Quad → Quad) : SameCrews s (s.modQuad k f) := rfl

theorem sameCrews_setPart (s : State) (k : Nat) (p : Part) : SameCrews s (s.setPart k p) := rfl

theorem sameCrews_noteWct (s : State) (d core va wct : Nat) : SameCrews s (s.noteWct d core va wct) := by
  unfold noteWct
  split
  · exact .refl s
  · exact sameCrews_modCore s _ _

theorem sameCrews_abUpdate (s : State) (r : AbRef) (blocks : List (Nat × Nat)) (h : Nat) : SameCrews s (s.abUpdate r blocks h).1 := by
  unfold abUpdate
  dsimp only
  split
  · refine (SameCrews.of_ex (acceptAll_ex s _ _ _ _)).trans (SameCrews.foldl (fun t b => ?_) _ _)
    split
    · exact sameCrews_noteWct t _ _ _ _
    · exact .refl t
  · exact SameCrews.foldl (f := fun t bs => t.performBytes bs) (fun _ _ => rfl) _ s

theorem sameCrews_abPut (s : State) (r : AbRef) (h : AbHdr) : SameCrews s (s.abPut r h) := by
  unfold abPut
  split
  · exact sameCrews_modCore s _ _
  · exact sameCrews_abUpdate s r _ 0

theorem sameCrews_abPass (s : State) (k : Nat) (r : AbRef) (n : Nat) : SameCrews s (s.abPass k r n) := by
  unfold abPass
  refine SameCrews.foldl (fun t j => ?_) _ s
  split
  · split
    · exact .of_ex (invalL1_ex t _ _ _)
    · exact .refl t
  · exact .refl t

theorem sameCrews_abTidy (s : State) (r : AbRef) : SameCrews s (s.abTidy r) := by
  unfold abTidy
  split
  · exact .refl s
  split
  · exact .refl s
  dsimp only
  split
  · exact sameCrews_modCore s _ _
  · exact .refl s

theorem sameCrews_slotReplies (s : State) (core key : Nat) : SameCrews s (s.slotReplies core key) := by
  unfold slotReplies
  dsimp only
  split
  · exact .refl s
  · refine SameCrews.trans ?_ (sameCrews_modCore _ core _)
    exact SameCrews.foldl (fun t o => SameCrews.of_ex (sendReply_ex t _ _ _)) _ s

theorem sameCrews_noteRegionWct (s : State) (k region wct : Nat) : SameCrews s (s.noteRegionWct k region wct) := by
  unfold noteRegionWct
  split
  · exact .refl s
  · exact sameCrews_modCore s _ _

theorem sameCrews_tellHome (s : State) (k lane : Nat) (r : Region) (t sec : Nat) : SameCrews s (s.tellHome k lane r t sec) := by
  unfold tellHome
  exact (SameCrews.foldl (fun u e => sameCrews_noteRegionWct u k _ _) _ s).trans (.of_ex (appendAt_ex _ _ _ _ _ _))

theorem sameCrews_tellRest (s : State) (k lane : Nat) : SameCrews s (s.tellRest k lane) := by
  unfold tellRest
  split
  · exact .refl s
  · split
    · exact .of_ex (dropLocks_ex s _ _)
    · refine SameCrews.trans (SameCrews.foldl (fun t p => ?_) _ s) (.of_ex (dropLocks_ex _ _ _))
      split
      · exact .refl t
      · exact sameCrews_tellHome t _ _ _ _ _

theorem sameCrews_meterBallast (s : State) (quad : Nat) : SameCrews s (s.meterBallast quad) := by
  unfold meterBallast
  split
  · exact .refl s
  · refine SameCrews.trans ?_ (sameCrews_setPart _ _ _)
    split
    · exact sameCrews_modQuad s quad _
    · exact (sameCrews_modQuad s quad _).trans (.of_ex (modLaunch_ex _ _ _))

theorem sameCrews_meterLaunch (s : State) (d : Nat) : SameCrews s (s.meterLaunch d) :=
  (SameCrews.foldl sameCrews_meterBallast _ s).trans (.of_ex (modLaunch_ex _ _ _))

theorem sameCrews_leaveCores (s : State) (d : Nat) : SameCrews s (s.leaveCores d) := by
  unfold leaveCores
  exact SameCrews.foldl (fun t p => SameCrews.foldl (fun u e => sameCrews_slotReplies u _ _) _ t) _ s

theorem sameCrews_retireUnit (s : State) (u : Nat) : SameCrews s (s.retireUnit u) := by
  unfold retireUnit
  dsimp only
  split
  all_goals first
    | exact SameCrews.foldl (f := fun t i => t.modCore _ _) (fun _ _ => rfl) _ s
    | rfl

theorem sameCrews_retireUnits (s : State) : SameCrews s s.retireUnits := by
  unfold retireUnits
  refine SameCrews.foldl (fun t p => ?_) _ s
  split
  · exact .refl t
  · exact sameCrews_retireUnit t _

theorem sameCrews_overrun (s : State) (d kind quoted actual : Nat) : SameCrews s (s.overrun d kind quoted actual) := .of_ex (logRecord_ex ..)

theorem sameCrews_endLaunch (s : State) (d : Nat) : SameCrews s (s.endLaunch d) := by
  unfold endLaunch
  dsimp only
  have h : SameCrews s ((((s.meterLaunch d).leaveCores d).unpin d).modLaunch d fun l => { l with phase := 2, endedAt := (s.meterLaunch d).now }).retireUnits :=
    ((sameCrews_meterLaunch s d).trans (sameCrews_leaveCores _ d)).trans
      ((SameCrews.of_ex (modLaunch_ex ((s.meterLaunch d).leaveCores d |>.unpin d) d _)).trans (sameCrews_retireUnits _))
  split
  · exact h.trans (.of_ex (setStatus_ex _ _ _ _))
  split
  · exact h
  · refine SameCrews.trans ?_ (.of_ex (setStatus_ex _ _ _ _))
    exact ((h.ite (sameCrews_overrun ..)).ite (sameCrews_overrun ..)).ite (sameCrews_overrun ..)

theorem sameCrews_checkLaunch (s : State) (d : Nat) : SameCrews s (s.checkLaunch d) := by
  unfold checkLaunch
  split
  · exact .refl s
  split
  · exact sameCrews_endLaunch s d
  · exact .refl s

/-! ## The threads of a crew after a change -/

theorem find?_map {α β : Type} (f : Nat → α → β) (m : SMap α) (k : Nat) :
    SMap.find? (m.map fun p => (p.1, f p.1 p.2)) k = (SMap.find? m k).map (f k) := by
  induction m with
  | nil => rfl
  | cons p rest ih =>
    by_cases h : p.1 = k
    · simp [SMap.find?, h]
    · simpa [SMap.find?, h] using ih

/-- The thread of a lane after a change of a lane set. -/
theorem thread_mapLanes (c : Crew) (m : Lanes) (f : Nat → Thread → Thread) (l : Nat) :
    (c.mapLanes m f).thread l = ((SMap.find? c.threads l).map fun t => if hasLane m l then f l t else t).getD {} := by
  unfold Crew.thread
  rw [SMap.get_eq, show (c.mapLanes m f).threads = c.threads.map fun p => (p.1, if hasLane m p.1 then f p.1 p.2 else p.2) from rfl,
    find?_map fun l t => if hasLane m l then f l t else t]

theorem thread_eq (c : Crew) (l : Nat) : c.thread l = (SMap.find? c.threads l).getD {} := SMap.get_eq _ _ _

theorem thread_mapLanes_of_not {c : Crew} {m : Lanes} {l : Nat} (h : hasLane m l = false) (f : Nat → Thread → Thread) :
    (c.mapLanes m f).thread l = c.thread l := by
  rw [thread_mapLanes, thread_eq, h]
  cases SMap.find? c.threads l <;> rfl

/-- A lane that has a thread has the changed one. -/
theorem thread_mapLanes_of_has {c : Crew} {m : Lanes} {l : Nat} (h : hasLane m l = true) (hl : (SMap.find? c.threads l).isSome = true)
    (f : Nat → Thread → Thread) : (c.mapLanes m f).thread l = f l (c.thread l) := by
  obtain ⟨t, ht⟩ := Option.isSome_iff_exists.mp hl
  rw [thread_mapLanes, thread_eq, ht, h]
  rfl

/-- A change that revives no thread. -/
theorem live_of_mapLanes {c : Crew} {m : Lanes} {f : Nat → Thread → Thread} (hf : ∀ l t, (f l t).live = true → t.live = true) {l : Nat}
    (h : ((c.mapLanes m f).thread l).live = true) : (c.thread l).live = true := by
  rw [thread_mapLanes] at h
  rw [thread_eq]
  cases ht : SMap.find? c.threads l with
  | none => rw [ht] at h; exact h
  | some t =>
    rw [ht] at h
    by_cases hl : hasLane m l = true
    · exact hf l t (by simpa [hl] using h)
    · simpa [hl] using h

/-- A change that ends the threads of a lane set. -/
theorem not_live_mapLanes {c : Crew} {m : Lanes} {f : Nat → Thread → Thread} {l : Nat} (hl : hasLane m l = true)
    (hf : ∀ t, (f l t).live = false) : ((c.mapLanes m f).thread l).live = false := by
  rw [thread_mapLanes]
  cases ht : SMap.find? c.threads l with
  | none => rfl
  | some t => simp [hl, hf]

/-! ## What revives no thread -/

/-- Every thread that lives in `t` lives in `s`. -/
def NoneRevived (s t : State) : Prop := ∀ k l, ((t.crew k).thread l).live = true → ((s.crew k).thread l).live = true

namespace NoneRevived

theorem refl (s : State) : NoneRevived s s := fun _ _ => id

theorem trans {s t u : State} (h : NoneRevived s t) (h' : NoneRevived t u) : NoneRevived s u := fun k l hl => h k l (h' k l hl)

theorem of_crews {s t : State} (h : SameCrews s t) : NoneRevived s t := fun k l => by
  unfold State.crew
  rw [h]
  exact id

theorem foldl {α : Type} {f : State → α → State} (h : ∀ s a, NoneRevived s (f s a)) (l : List α) (s : State) : NoneRevived s (l.foldl f s) := by
  induction l generalizing s with
  | nil => exact refl s
  | cons a rest ih => exact (h s a).trans (ih _)

end NoneRevived

theorem noneRevived_setCrew {s : State} {k : Nat} {c : Crew} (h : ∀ l, (c.thread l).live = true → ((s.crew k).thread l).live = true) :
    NoneRevived s (s.setCrew k c) := by
  intro j l hl
  by_cases hj : j = k
  · subst hj
    rw [crew_setCrew_self] at hl
    exact h l hl
  · rwa [crew_setCrew_ne _ _ _ _ hj] at hl

theorem noneRevived_mapLanes (s : State) (k : Nat) (m : Lanes) {f : Nat → Thread → Thread} (hf : ∀ l t, (f l t).live = t.live) :
    NoneRevived s (s.modCrew k fun c => c.mapLanes m f) :=
  noneRevived_setCrew fun _ => live_of_mapLanes fun l t h => (hf l t).symm.trans h

theorem noneRevived_erase {s t : State} {ks : List Nat} (h : t.ex.crews = ks.foldl SMap.erase s.ex.crews) : NoneRevived s t := by
  intro k l
  unfold State.crew
  rw [h]
  clear h
  have herase (m : SMap Crew) (j : Nat) (hl : ((SMap.get {} (SMap.erase m j) k).thread l).live = true) : ((SMap.get {} m k).thread l).live = true := by
    by_cases hk : k = j
    · rw [SMap.get_eq, hk, SMap.find?_erase_self] at hl
      exact absurd hl Bool.false_ne_true
    · rwa [SMap.get_eq, SMap.find?_erase_ne _ _ _ hk, ← SMap.get_eq] at hl
  induction ks generalizing s with
  | nil => exact id
  | cons j rest ih =>
    intro hl
    exact herase _ j (ih (s := { s with ex := { s.ex with crews := SMap.erase s.ex.crews j } }) hl)

theorem noneRevived_abPutHdr (s : State) (k : Nat) (m : Lanes) (r : AbRef) (h : AbHdr) : NoneRevived s (s.abPutHdr k m r h) := by
  unfold abPutHdr
  split
  · exact .of_crews (sameCrews_abPut s r h)
  · exact (NoneRevived.of_crews ((sameCrews_abPass s _ _ _).trans (sameCrews_abUpdate _ _ _ _))).trans (noneRevived_mapLanes _ _ _ fun _ _ => rfl)

theorem noneRevived_abWaiters (s : State) (k : Nat) (r : AbRef) (m : Lanes) (out : Bool) : NoneRevived s (s.abWaiters k r m out) :=
  noneRevived_abPutHdr s k m r _

theorem noneRevived_abLeave (s : State) (k : Nat) (m : Lanes) : NoneRevived s (s.abLeave k m) := by
  unfold abLeave
  refine NoneRevived.foldl (fun t l => ?_) _ s
  split
  · split
    · split
      · exact .refl t
      · exact (noneRevived_abWaiters t _ _ _ _).trans (.of_crews (sameCrews_abTidy _ _))
    · exact .refl t
  · exact .refl t

theorem live_putRegion {c : Crew} {l j : Nat} {r : Region} (h : ((c.putRegion l r).thread j).live = true) : (c.thread j).live = true := by
  unfold Crew.putRegion at h
  split at h
  · exact h
  · exact live_of_mapLanes (f := fun _ t => { t with region := some r }) (fun _ _ => id) h

theorem noneRevived_beginAbort (s : State) (k lane code user tcls detail : Nat) (trap : Option (Nat × Nat × Nat)) :
    NoneRevived s (s.beginAbort k lane code user tcls detail trap) := by
  unfold beginAbort
  dsimp only
  split
  · exact .refl s
  split
  · exact .refl s
  · exact noneRevived_setCrew fun l h =>
      live_putRegion (live_of_mapLanes (f := fun _ t => { t with blocked := some { kind := .abort, pc := t.pc, nextPc := t.pc } }) (fun _ _ => id) h)

theorem sameCrews_trimSfq (s : State) (k : Nat) : SameCrews s (s.trimSfq k) := rfl

/-- What ends threads: the threads named are over, and none is revived. -/
theorem endLanes_spec (s : State) (k : Nat) (m : Lanes) :
    NoneRevived s (s.endLanes k m) ∧ ∀ l, hasLane m l = true → (((s.endLanes k m).crew k).thread l).live = false := by
  unfold endLanes
  dsimp only
  generalize hs1 : s.abLeave k (m &&& (s.crew k).live) = s1
  have h1 : NoneRevived s s1 := hs1 ▸ noneRevived_abLeave s k _
  generalize hls : List.filter (fun l => ((s1.crew k).thread l).live && ((s1.crew k).thread l).specAct) (lanesOf m) = ls
  generalize hrest : (s1.crew k).allMembers (laneSet ls.contains) &&& ~~~m = rest
  generalize hs2 : ls.foldl (fun s l => if (((s1.crew k).thread l).specCrew && decide (rest ≠ 0)) = true then s else s.tellRest k l) s1 = s2
  have h2 : NoneRevived s1 s2 := hs2 ▸ NoneRevived.foldl (fun t l => by
    split
    · exact .refl t
    · exact .of_crews (sameCrews_tellRest t k l)) _ _
  generalize hs3 : (s2.modCrew k fun c => c.mapLanes m fun _ t =>
    { t with live := false, blocked := none, region := none, ckpt := none, spec := 0, arrived := false }) = s3
  have h3 : NoneRevived s2 s3 := hs3 ▸ noneRevived_setCrew fun _ => live_of_mapLanes fun _ _ h => absurd h Bool.false_ne_true
  have hend : ∀ l, hasLane m l = true → ((s3.crew k).thread l).live = false := fun l hl => by
    rw [← hs3, modCrew, crew_setCrew_self]
    exact not_live_mapLanes hl fun _ => rfl
  have h4 : NoneRevived s3 ((match lowLane rest with | some l => s3.beginAbort k l 8 0 0 0 none | none => s3).trimSfq k) := by
    refine NoneRevived.trans ?_ (.of_crews (sameCrews_trimSfq _ k))
    split
    · exact noneRevived_beginAbort s3 _ _ _ _ _ _ _
    · exact .refl s3
  refine ⟨((h1.trans h2).trans h3).trans h4, fun l hl => ?_⟩
  refine Decidable.byContradiction fun hlive => ?_
  exact absurd (h4 k l ((Bool.not_eq_false _).mp hlive)) (by simp [hend l hl])

theorem sameCrews_modBlock (s : State) (k : Nat) (f : Block → Block) : SameCrews s (s.modBlock k f) := rfl

theorem live_unblock (t : Thread) : t.unblock.live = t.live := by
  unfold Thread.unblock
  split <;> rfl

theorem noneRevived_deliverTile (s : State) (bk : Nat) (tile : Word) : NoneRevived s (s.deliverTile bk tile) := by
  unfold deliverTile
  refine (NoneRevived.of_crews (sameCrews_modBlock s bk _)).trans (NoneRevived.foldl (fun t k => ?_) _ _)
  refine noneRevived_setCrew fun l => live_of_mapLanes fun _ u h => ?_
  split at h
  · exact (live_unblock (u.wr _ tile)).symm.trans h
  · exact h

theorem noneRevived_stepNext (s : State) (bk : Nat) : NoneRevived s (s.stepNext bk) := by
  unfold stepNext
  dsimp only
  split
  · exact .refl s
  split
  · split
    · exact .refl s
    · exact .of_crews (SameCrews.trans (.of_ex (noteStopped_ex s _)) rfl)
  split
  · exact .refl s
  split
  · exact noneRevived_deliverTile s _ _
  split
  · exact noneRevived_deliverTile s _ _
  have hask : SameCrews s (s.askTile (s.block bk).launch ‹SlotEnt› ‹TileEnt›) := .of_ex (askTile_ex s _ _ _)
  split
  · refine NoneRevived.trans (.of_crews ?_) (noneRevived_deliverTile _ _ _)
    exact (hask.trans (.of_ex (modLaunch_ex _ _ _))).trans rfl
  · exact .of_crews hask

theorem noneRevived_endBlock (s : State) (bk : Nat) : NoneRevived s (s.endBlock bk) := by
  unfold endBlock
  dsimp only
  refine NoneRevived.trans ?_ (.of_crews (sameCrews_checkLaunch _ _))
  refine NoneRevived.trans ?_ (.of_crews (SameCrews.ite (.refl _) (.of_ex (noteStopped_ex _ _))))
  refine NoneRevived.trans ?_ (.of_crews (.of_ex (modLaunch_ex _ _ _)))
  refine NoneRevived.trans ?_ (noneRevived_erase rfl)
  exact .of_crews (SameCrews.trans (sameCrews_modCore s _ _) (SameCrews.foldl (fun t k => (sameCrews_meterBallast t _).trans (sameCrews_modQuad _ _ _)) _ _))

theorem noneRevived_endPacket (s : State) (qi status : Nat) (quiet : Bool) : NoneRevived s (s.endPacket qi status quiet) := by
  unfold endPacket
  dsimp only
  have herase : NoneRevived s (match (s.queue qi).packetCrew with
      | some k => { s with ex := { s.ex with crews := SMap.erase s.ex.crews k } }
      | none => s) := by
    split
    · exact noneRevived_erase (ks := [_]) rfl
    · exact .refl s
  have hword (t : State) (b : Bool) (m : Mem) (q : Queue) (k : Nat) : SameCrews t ((if b then t else { t with mem := m }).setQueue k q) := by
    cases b <;> rfl
  split
  · exact herase.trans (.of_crews (hword _ _ _ _ _))
  · exact herase.trans (.of_crews ((hword _ _ _ _ _).trans (.of_ex (haltQueue_ex _ _ _ _))))

theorem noneRevived_reap (s : State) (k : Nat) : NoneRevived s (s.reap k) := by
  unfold reap
  split
  · exact .refl s
  split
  · exact .refl s
  split
  · split
    all_goals exact noneRevived_endPacket s _ _ _
  · split
    · exact noneRevived_endBlock s _
    · exact .refl s

end Sys2Proof.Proofs.Lives
end

section
/-! PROOF. Control (chapter 11): transfers of control, calls, loops, branches, the ends of threads and repeats: O10 to O13. -/

namespace Sys2Proof.Proofs.Control

open Sys2Proof.Machine Sys2Proof.Safety Sys2Proof.Proofs.Lives

/-! ## Transfers change the convergence table and the lanes of the group -/

theorem active_zero (c : Crew) (m : Lanes) : c.active m .zero = m := rfl

theorem act_zero (s : State) (x : Ctx) : act s x .zero = x.lanes := rfl

theorem addConv_eq (c : Crew) (e : ConvEnt) : ∃ conv, c.addConv e = { c with conv := conv } := by
  unfold Crew.addConv
  split <;> exact ⟨_, rfl⟩

theorem foldl_leftLoops_eq (left : Nat → List Nat) (ls : List Nat) (c : Crew) :
    ∃ conv, ls.foldl (fun c l => c.leftLoops l (left l)) c = { c with conv := conv } := by
  induction ls generalizing c with
  | nil => exact ⟨c.conv, rfl⟩
  | cons l rest ih => exact ih (c.leftLoops l (left l))

/-- The crew after a transfer whose pairs stay together. -/
theorem transfer_eq {s : State} {x : Ctx} {pcOf : Nat → Nat} (ht : together s x pcOf = true) (upd : Nat → Thread → Thread) (left : Nat → List Nat) :
    ∃ conv, transfer s x pcOf upd left = s.setCrew x.crew
      { s.crew x.crew with
        conv := conv
        threads := (s.crew x.crew).threads.map fun p => (p.1, if hasLane x.lanes p.1 then { upd p.1 p.2 with pc := pcOf p.1 } else p.2) } := by
  have hp : (s.protectedCrew x.crew && pairDiffers x.lanes pcOf) = false := (Bool.not_eq_eq_eq_not ..).mp ht
  unfold transfer
  rw [hp, if_neg Bool.false_ne_true]
  dsimp only
  generalize hfork : (if splits x.lanes pcOf = true then (s.crew x.crew).addConv ⟨x.pc, 0, x.lanes, 0⟩ else s.crew x.crew) = c
  obtain ⟨conv, rfl⟩ : ∃ conv, c = { s.crew x.crew with conv := conv } := by
    subst hfork
    split
    · exact addConv_eq _ _
    · exact ⟨(s.crew x.crew).conv, rfl⟩
  obtain ⟨conv', hleft⟩ := foldl_leftLoops_eq left (lanesOf x.lanes) { s.crew x.crew with conv := conv }
  rw [hleft]
  exact ⟨_, rfl⟩

theorem splits_congr {m : Lanes} {f g : Nat → Nat} (h : ∀ l, hasLane m l = true → f l = g l) : splits m f = splits m g := by
  unfold splits
  cases hlow : lowLane m with
  | none => rfl
  | some l0 =>
    have h0 : f l0 = g l0 := h l0 (mem_lanesOf.mp (List.mem_of_mem_head? hlow))
    dsimp only
    rw [Bool.eq_iff_iff, List.any_eq_true, List.any_eq_true]
    constructor
    all_goals
      rintro ⟨l, hl, hne⟩
      refine ⟨l, hl, ?_⟩
      have := h l (mem_lanesOf.mp hl)
      simp_all

theorem pairDiffers_congr {m : Lanes} {f g : Nat → Nat} (h : ∀ l, hasLane m l = true → f l = g l) : pairDiffers m f = pairDiffers m g := by
  unfold pairDiffers
  congr 1
  funext i
  by_cases h0 : hasLane m (2 * i) = true
  · by_cases h1 : hasLane m (2 * i + 1) = true
    · rw [h _ h0, h _ h1]
    · simp [h1]
  · simp [h0]

/-- A transfer reads what it is told of the lanes of its group alone. -/
theorem transfer_congr {s : State} {x : Ctx} {pcOf pcOf' : Nat → Nat} {upd upd' : Nat → Thread → Thread} (left : Nat → List Nat)
    (hpc : ∀ l, hasLane x.lanes l = true → pcOf l = pcOf' l) (hupd : ∀ l t, hasLane x.lanes l = true → upd l t = upd' l t) :
    transfer s x pcOf upd left = transfer s x pcOf' upd' left := by
  unfold transfer
  rw [pairDiffers_congr hpc, splits_congr hpc]
  dsimp only
  rw [mapLanes_congr _ _ _ (fun l t => { upd' l t with pc := pcOf' l }) fun l t hl => by rw [hpc l hl, hupd l t hl]]

theorem crewOnly_refl (s : State) (k : Nat) : CrewOnly s s.endIssue k := ⟨fun _ => rfl, fun _ _ => rfl, rfl⟩

theorem protectedCrew_setCrew (s : State) (k : Nat) (c : Crew) (h : c.launch = (s.crew k).launch) :
    (s.setCrew k c).protectedCrew k = s.protectedCrew k := by
  unfold State.protectedCrew
  rw [State.crew_setCrew_self, h]
  rfl

/-- An instruction that ends in a transfer, having changed no more than the crew of the issue before it, moves the lanes. -/
theorem movesFrom_of_transfer {s s' : State} {x : Ctx} {i : Instr} {pcOf : Nat → Nat} {upd : Nat → Thread → Thread} {left : Nat → List Nat}
    {c : Crew} {conv : List ConvEnt} (ht : together s x pcOf = true) (hs : CrewOnly s s'.endIssue x.crew)
    (hc : s'.crew x.crew = { c with conv := conv }) (hp : s'.protectedCrew x.crew = s.protectedCrew x.crew)
    (e : exec i s = .next (transfer s' x pcOf upd left).endIssue) : MovesFrom c s x i pcOf upd := by
  have ht' : together s' x pcOf = true := by
    unfold together at ht ⊢
    rwa [hp]
  obtain ⟨conv', he⟩ := transfer_eq ht' upd left
  refine ⟨_, e, he ▸ crewOnly_trans hs (crewOnly_set _ _ _), conv', ?_⟩
  rw [he, State.crew_endIssue, State.crew_setCrew_self, hc]

theorem moves_of_transfer {s : State} {x : Ctx} {i : Instr} {pcOf : Nat → Nat} {upd : Nat → Thread → Thread} {left : Nat → List Nat}
    (ht : together s x pcOf = true) (e : exec i s = .next (transfer s x pcOf upd left).endIssue) : Moves s x i pcOf upd :=
  movesFrom_of_transfer ht (crewOnly_refl s _) rfl rfl e

/-- The same where the crew has first entered a waiting point. -/
theorem moves_of_transfer_conv {s : State} {x : Ctx} {i : Instr} {pcOf : Nat → Nat} {upd : Nat → Thread → Thread} {left : Nat → List Nat}
    {p : Prop} [Decidable p] {ent : ConvEnt} (ht : together s x pcOf = true)
    (e : exec i s = .next (transfer (s.setCrew x.crew (if p then s.crew x.crew else (s.crew x.crew).addConv ent)) x pcOf upd left).endIssue) :
    Moves s x i pcOf upd := by
  obtain ⟨conv, hconv⟩ : ∃ conv, (if p then s.crew x.crew else (s.crew x.crew).addConv ent) = { s.crew x.crew with conv := conv } := by
    split
    · exact ⟨(s.crew x.crew).conv, rfl⟩
    · exact addConv_eq _ _
  rw [hconv] at e
  exact movesFrom_of_transfer (conv := conv) ht (crewOnly_set _ _ _) (State.crew_setCrew_self _ _ _) (protectedCrew_setCrew _ _ _ rfl) e

/-! ## Calls and loops (R226 to R228) -/

theorem laneSet_eq_zero {m : Lanes} {q : Nat → Bool} (h : ∀ l, hasLane m l = true → q l = false) : laneSet (fun l => hasLane m l && q l) = 0 := by
  rw [LaneSets.eq_zero_iff]
  intro l
  rw [LaneSets.hasLane_laneSet_and]
  by_cases hl : hasLane m l = true
  · rw [h l hl, Bool.and_false]
  · simp [hl]


/-- What holds in every lane of a set leaves no lane where it fails. -/
theorem laneSet_eq_zero_of_all {m : Lanes} {q r : Nat → Bool} (h : (lanesOf m).all r = true) (hr : ∀ l, r l = true → q l = false) :
    laneSet (fun l => hasLane m l && q l) = 0 :=
  laneSet_eq_zero fun l hl => hr l (List.all_eq_true.mp h l (mem_lanesOf.mpr hl))

/-- Past the gate, an instruction whose own effect is `t` ends with it. -/
theorem exec_of_ok {s t : State} {x : Ctx} {i : Instr} {sh : Shape} {f : XF} {m : Lanes} {g : Ctx → Crew → Lanes → Except Stop State}
    (h : may s x sh f = true) (hm : act s x f = m) (e : exec i s = guarded s sh f g) (hg : g x (s.crew x.crew) m = .ok t) :
    exec i s = .next t.endIssue := by
  rw [e, guarded_of_may h, hm, hg, settle_ok]

/-- Past the gate, an instruction that traps ends in its trap. -/
theorem exec_of_trap {s : State} {x : Ctx} {i : Instr} {sh : Shape} {f : XF} {m : Lanes} {r : Raise} {g : Ctx → Crew → Lanes → Except Stop State}
    (h : may s x sh f = true) (hm : act s x f = m) (e : exec i s = guarded s sh f g) (hg : g x (s.crew x.crew) m = .error (.trap r)) :
    exec i s = .next (s.raise x m r) := by
  rw [e, guarded_of_may h, hm, hg, settle_trap]

theorem moves_call {s : State} {x : Ctx} {f : XF} (h : may s x (Instr.call f).shape f = true)
    (hroom : ((lanesOf (act s x f)).all fun l => decide (((s.crew x.crew).thread l).rets.length < f.c.toNat)) = true)
    (ht : together s x (fun l => if hasLane (act s x f) l then wrapInt 32 (x.pc + f.w2.toInt) else x.next) = true) :
    Moves s x (.call f) (fun l => if hasLane (act s x f) l then wrapInt 32 (x.pc + f.w2.toInt) else x.next)
      fun l t => if hasLane (act s x f) l then { t with rets := ⟨x.next, t.loops.length⟩ :: t.rets } else t := by
  have hdeep := laneSet_eq_zero_of_all (q := fun l => decide (f.cN ≤ ((s.crew x.crew).thread l).rets.length)) hroom fun l hl => decide_eq_false (Nat.not_le.mpr (of_decide_eq_true hl))
  exact moves_of_transfer_conv ht (exec_of_ok h rfl (exec_call s f) (if_neg (not_not_intro hdeep)))

theorem moves_ret {s : State} {x : Ctx} {f : XF} (h : may s x (Instr.ret f).shape f = true)
    (hroom : ((lanesOf (act s x f)).all fun l => !((s.crew x.crew).thread l).rets.isEmpty) = true) :
    let top := fun l => ((s.crew x.crew).thread l).rets.headD ⟨0, 0⟩
    let pcOf := fun l => if hasLane (act s x f) l then (top l).pc else x.next
    together s x pcOf = true →
      Moves s x (.ret f) pcOf fun l t =>
        if hasLane (act s x f) l then
          { t with rets := t.rets.tail, loops := t.loops.drop (((s.crew x.crew).thread l).loops.length - (top l).depth),
                   arrived := ((s.crew x.crew).waitIdx 2 (top l).pc l).isSome }
        else t := by
  intro top pcOf ht
  have hempty := laneSet_eq_zero_of_all (q := fun l => ((s.crew x.crew).thread l).rets.isEmpty) hroom (by simp)
  exact moves_of_transfer ht (exec_of_ok h rfl (exec_ret s f) (if_neg (not_not_intro hempty)))

/-- A LOOP with room on every loop stack enters the loop in its active lanes. -/
theorem loopHead_of_room {s : State} {x : Ctx} {m : Lanes} {endPc n : Nat}
    (hroom : ((lanesOf m).all fun l => decide (((s.crew x.crew).thread l).loops.length < 8)) = true) :
    loopHead s x (s.crew x.crew) m endPc n =
      .ok (transfer (s.setCrew x.crew (if m = 0 then s.crew x.crew else (s.crew x.crew).addConv ⟨x.next, 1, m, 0⟩)) x
        (fun l => if hasLane m l then x.next else endPc + 4)
        (fun l t => if hasLane m l then { t with loops := ⟨x.pc, x.next, endPc, n, 1⟩ :: t.loops } else t) fun _ => []) :=
  if_neg (not_not_intro (laneSet_eq_zero_of_all (q := fun l => decide (8 ≤ ((s.crew x.crew).thread l).loops.length)) hroom
    fun _ hl => decide_eq_false (Nat.not_le.mpr (of_decide_eq_true hl))))

theorem loopHead_of_full {s : State} {x : Ctx} {m : Lanes} {endPc n : Nat}
    (hfull : laneSet (fun l => hasLane m l && decide (8 ≤ ((s.crew x.crew).thread l).loops.length)) ≠ 0) :
    loopHead s x (s.crew x.crew) m endPc n =
      .error (.trap ⟨4, 0x10, laneSet fun l => hasLane m l && decide (8 ≤ ((s.crew x.crew).thread l).loops.length), 0⟩) :=
  if_pos hfull

theorem moves_loop {s : State} {x : Ctx} {m off : BitVec 12} (h : may s x (Instr.loop m off).shape .zero = true)
    (hroom : ((lanesOf x.lanes).all fun l => decide (((s.crew x.crew).thread l).loops.length < 8)) = true)
    (ht : together s x (fun _ => x.next) = true) :
    Moves s x (.loop m off) (fun _ => x.next) fun _ t => { t with loops := ⟨x.pc, x.next, x.pc + 4 * off.toNat, m.toNat + 1, 1⟩ :: t.loops } := by
  have e := exec_of_ok h (act_zero s x) (exec_loop s m off) (loopHead_of_room hroom)
  rw [transfer_congr (pcOf' := fun _ => x.next) (upd' := fun _ t => { t with loops := ⟨x.pc, x.next, x.pc + 4 * off.toNat, m.toNat + 1, 1⟩ :: t.loops })
    _ (fun l hl => if_pos hl) (fun l t hl => if_pos hl)] at e
  exact moves_of_transfer_conv ht e

theorem moves_loopX {s : State} {x : Ctx} {f : XF} (h : may s x (Instr.loopX f).shape f = true)
    (hroom : ((lanesOf (act s x f)).all fun l => decide (((s.crew x.crew).thread l).loops.length < 8)) = true) :
    let endPc := x.pc + 4 * (f.d.toNat * 65536 + f.a.toNat * 256 + f.b.toNat)
    let pcOf := fun l => if hasLane (act s x f) l then x.next else endPc + 4
    together s x pcOf = true →
      Moves s x (.loopX f) pcOf fun l t =>
        if hasLane (act s x f) l then { t with loops := ⟨x.pc, x.next, endPc, f.w2.toNat + 1, 1⟩ :: t.loops } else t :=
  fun ht => moves_of_transfer_conv ht (exec_of_ok h rfl (exec_loopX s f) (loopHead_of_room hroom))

theorem moves_endl {s : State} {x : Ctx} {k : BitVec 3} {neg cnt : Bool} (h : may s x (Instr.endl k neg cnt).shape .zero = true) :
    let c := s.crew x.crew
    let top := fun l => (c.thread l).loops.headD ⟨0, 0, 0, 0, 0⟩
    let back := fun l => if cnt then decide ((top l).trip < (top l).max) else ((c.thread l).pred k.toNat != neg)
    let pcOf := fun l => if back l then (top l).body else x.next
    ((lanesOf x.lanes).all fun l => !(c.thread l).loops.isEmpty && decide ((top l).endPc = x.pc) && !(back l && decide ((top l).trip = (top l).max))) = true →
    together s x pcOf = true →
      Moves s x (.endl k neg cnt) pcOf fun l t =>
        if back l then
          { t with loops := { top l with trip := (top l).trip + 1 } :: t.loops.tail, arrived := (c.waitIdx 1 (top l).body l).isSome }
        else { t with loops := t.loops.tail } := by
  intro c top back pcOf hall ht
  have hbad := laneSet_eq_zero_of_all (q := fun l => (c.thread l).loops.isEmpty || decide ((top l).endPc ≠ x.pc)) hall (by simp_all)
  have hbound : laneSet (fun l => hasLane x.lanes l && back l && decide ((top l).trip = (top l).max)) = 0 := by
    simp only [Bool.and_assoc]
    exact laneSet_eq_zero_of_all (q := fun l => back l && decide ((top l).trip = (top l).max)) hall
      fun l hl => (Bool.not_eq_eq_eq_not ..).mp ((Bool.and_eq_true ..).mp hl).2
  exact moves_of_transfer ht (exec_of_ok h (act_zero s x) (exec_endl s k neg cnt) ((if_neg (not_not_intro hbad)).trans (if_neg (not_not_intro hbound))))

theorem exec_endl_bound {s : State} {x : Ctx} {k : BitVec 3} {neg : Bool} (h : may s x (Instr.endl k neg false).shape .zero = true) :
    let th := fun l => (s.crew x.crew).thread l
    let top := fun l => (th l).loops.headD ⟨0, 0, 0, 0, 0⟩
    let bad := laneSet fun l => hasLane x.lanes l && ((th l).pred k.toNat != neg) && decide ((top l).trip = (top l).max)
    ((lanesOf x.lanes).all fun l => !(th l).loops.isEmpty && decide ((top l).endPc = x.pc)) = true → bad ≠ 0 →
      exec (.endl k neg false) s = .next (s.raise x x.lanes ⟨0, 0x01, bad, 0⟩) := by
  intro th top bad hall hb
  have hwrong := laneSet_eq_zero_of_all (q := fun l => (th l).loops.isEmpty || decide ((top l).endPc ≠ x.pc)) hall (by simp_all)
  exact exec_of_trap h (act_zero s x) (exec_endl s k neg false) ((if_neg (not_not_intro hwrong)).trans (if_pos hb))

/-- Settles O10: the effects are transfers, and the limits are the traps that come before them. -/
theorem callsAndLoopsUseTheirStacks : Obligations.CallsAndLoopsUseTheirStacks := by
  unfold Obligations.CallsAndLoopsUseTheirStacks
  refine ⟨fun s x => ⟨?call, ?ret, ?loop, ?loopX, ?endl⟩, fun s x => ⟨?deep, ?empty, ?full, ?bound⟩⟩
  case call => exact fun f h hroom ht => moves_call h hroom ht
  case ret => exact fun f h hroom ht => moves_ret h hroom ht
  case loop => exact fun m off h hroom ht => moves_loop h hroom ht
  case loopX => exact fun f h hroom ht => moves_loopX h hroom ht
  case endl => exact fun k neg cnt h hall ht => moves_endl h hall ht
  case deep => exact fun f h hb => exec_of_trap h rfl (exec_call s f) (if_pos hb)
  case empty => exact fun f h hb => exec_of_trap h rfl (exec_ret s f) (if_pos hb)
  case full => exact fun m off h hb => exec_of_trap h (act_zero s x) (exec_loop s m off) (loopHead_of_full hb)
  case bound => exact fun k neg h hall hb => exec_endl_bound h hall hb

/-! ## Branches (R223 to R225, R229) -/

/-- A branch of the lanes `taken` from a state that differs from `s` in no more than the crew of the issue. -/
theorem movesFrom_of_branch {s s' : State} {x : Ctx} {i : Instr} {taken : Lanes} {target : Nat → Nat} {c : Crew}
    (ht : together s x (fun l => if hasLane taken l then target l else x.next) = true) (hs : CrewOnly s s'.endIssue x.crew)
    (hc : s'.crew x.crew = c) (hp : s'.protectedCrew x.crew = s.protectedCrew x.crew)
    (e : exec i s = .next (branch s' x (s.crew x.crew) taken target).endIssue) :
    MovesFrom c s x i (fun l => if hasLane taken l then target l else x.next)
      fun l t => if hasLane taken l then { t with loops := leaveLoops (target l) ((s.crew x.crew).thread l).loops } else t :=
  movesFrom_of_transfer (conv := c.conv) ht hs hc hp e

theorem moves_of_branch {s : State} {x : Ctx} {i : Instr} {taken : Lanes} {target : Nat → Nat}
    (ht : together s x (fun l => if hasLane taken l then target l else x.next) = true)
    (e : exec i s = .next (branch s x (s.crew x.crew) taken target).endIssue) :
    Moves s x i (fun l => if hasLane taken l then target l else x.next)
      fun l t => if hasLane taken l then { t with loops := leaveLoops (target l) ((s.crew x.crew).thread l).loops } else t :=
  movesFrom_of_branch ht (crewOnly_refl s _) rfl rfl e

/-- The fork's entry that a split makes or widens. -/
theorem mem_addConv_fork (c : Crew) (pc : Nat) (m : Lanes) :
    ∃ e ∈ (c.addConv ⟨pc, 0, m, 0⟩).conv, e.kind = 0 ∧ e.key = pc ∧ e.mask &&& m = m := by
  unfold Crew.addConv
  split
  · rename_i h
    obtain ⟨o, ho, hk⟩ := List.any_eq_true.mp h.2
    obtain ⟨hkind, hkey⟩ := of_decide_eq_true hk
    refine ⟨{ o with mask := o.mask ||| m }, List.mem_map.mpr ⟨o, ho, if_pos ⟨hkind, hkey⟩⟩, hkind, hkey, ?_⟩
    apply LaneSets.eq_of_hasLane
    intro l
    simp only [LaneSets.hasLane_and, LaneSets.hasLane_or]
    cases hasLane m l <;> simp
  · exact ⟨⟨pc, 0, m, 0⟩, List.mem_append_right _ (List.mem_singleton_self _), rfl, rfl, BitVec.and_self⟩

/-- A fork's entry stays while lanes leave loops. -/
theorem mem_foldl_leftLoops {left : Nat → List Nat} {e : ConvEnt} (hk : e.kind = 0) (ls : List Nat) (c : Crew) (he : e ∈ c.conv) :
    e ∈ (ls.foldl (fun c l => c.leftLoops l (left l)) c).conv := by
  induction ls generalizing c with
  | nil => exact he
  | cons l rest ih => exact ih _ (List.mem_map.mpr ⟨e, he, if_neg fun h => absurd (hk.symm.trans h.1) (by decide)⟩)

/-- A transfer that splits leaves its fork's entry with every lane of the group. -/
theorem fork_of_transfer {s : State} {x : Ctx} {pcOf : Nat → Nat} (ht : together s x pcOf = true) (hsplit : splits x.lanes pcOf = true)
    (upd : Nat → Thread → Thread) (left : Nat → List Nat) :
    ∃ e ∈ ((transfer s x pcOf upd left).crew x.crew).conv, e.kind = 0 ∧ e.key = x.pc ∧ e.mask &&& x.lanes = x.lanes := by
  have hp : (s.protectedCrew x.crew && pairDiffers x.lanes pcOf) = false := (Bool.not_eq_eq_eq_not ..).mp ht
  obtain ⟨e, he, hkind, hkey, hmask⟩ := mem_addConv_fork (s.crew x.crew) x.pc x.lanes
  refine ⟨e, ?_, hkind, hkey, hmask⟩
  unfold transfer
  rw [hp, if_neg Bool.false_ne_true, hsplit]
  dsimp only
  rw [if_pos rfl, State.crew_setCrew_self]
  refine List.mem_filter.mpr ⟨mem_foldl_leftLoops hkind _ _ he, ?_⟩
  rw [hkind]
  rfl

/-- The elements that the instruction reads leave their ports in the crew of the issue alone. -/
theorem crewOnly_popped (s : State) (x : Ctx) (sh : Shape) (f : XF) (m : Lanes) : CrewOnly s (s.popped x sh f m).endIssue x.crew := by
  unfold State.popped
  split
  · exact crewOnly_refl s _
  · exact crewOnly_set _ _ _

theorem pop_launch (ports : List Nat) (m : Lanes) (c : Crew) : (c.pop ports m).launch = c.launch := by
  unfold Crew.pop
  induction ports generalizing c with
  | nil => rfl
  | cons p rest ih => exact ih _

theorem protectedCrew_popped (s : State) (x : Ctx) (sh : Shape) (f : XF) (m : Lanes) :
    (s.popped x sh f m).protectedCrew x.crew = s.protectedCrew x.crew := by
  unfold State.popped
  split
  · rfl
  · exact protectedCrew_setCrew _ _ _ (pop_launch _ _ _)

theorem moves_jtab {s : State} {x : Ctx} {f : XF} (h : ready s x (Instr.jtab f).shape f = true)
    (htab : braTable (s.codeOf x.crew) (x.pc + 12) f.w2.toNat = true) :
    let target := fun l => x.pc + 12 + 4 * min (fldA s x f false l) f.w2.toNat
    let pcOf := fun l => if hasLane (act s x f) l then target l else x.next
    together s x pcOf = true → MovesFrom (popped s x (.jtab f) f) s x (.jtab f) pcOf fun l t =>
      if hasLane (act s x f) l then { t with loops := leaveLoops (target l) ((s.crew x.crew).thread l).loops } else t := by
  intro target pcOf ht
  have hpre : detailIf (!braTable (s.codeOf x.crew) (x.pc + 12) f.wN) illForm = none := by
    rw [show f.wN = f.w2.toNat from rfl, htab]
    rfl
  obtain ⟨hcur, hgate⟩ := may_iff.mp (ready_may h)
  refine movesFrom_of_branch ht (crewOnly_popped s x _ f (act s x f)) rfl (protectedCrew_popped ..) ?_
  rw [exec_jtab, execJtab, portSafe, portRun_of_ready h, guardedFirst, issue_of_cur hcur, hpre]
  dsimp only [gateFirst]
  rw [gate_of_ok hgate, settle_ok]
  rfl

/-- Settles O11: every branch is a transfer of its taken lanes; the fork's entry is the one that the split makes. -/
theorem branchesMoveTheLanes : Obligations.BranchesMoveTheLanes := by
  unfold Obligations.BranchesMoveTheLanes
  refine ⟨?fork, fun s x => ⟨?bra, ?braX, ?brc, ?brcX, ?jtab⟩⟩
  case fork =>
    intro s x k neg off h th taken pcOf ht hsplit
    exact ⟨_, exec_of_ok h (act_zero s x) (exec_brc s k neg off) rfl, fork_of_transfer ht hsplit _ _⟩
  case bra => exact fun off h ht => moves_of_branch ht (exec_of_ok h (act_zero s x) (exec_bra s off) rfl)
  case braX => exact fun f h ht => moves_of_branch ht (exec_of_ok h rfl (exec_braX s f) rfl)
  case brc => exact fun k neg off h ht => moves_of_branch ht (exec_of_ok h (act_zero s x) (exec_brc s k neg off) rfl)
  case brcX => exact fun f h ht => moves_of_branch ht (exec_of_ok h rfl (exec_brcX s f) rfl)
  case jtab => exact fun f h htab ht => moves_jtab h htab ht

/-! ## Going on, ending and waiting (R215, R230 to R235) -/

/-- An instruction that changes the crew and goes on. -/
theorem leaves_of_advance {s : State} {x : Ctx} {i : Instr} {c : Crew} (e : exec i s = .next ((s.setCrew x.crew c).advance x).endIssue) :
    Leaves s x i (goOnAll x c) := by
  rw [State.advance_eq, State.crew_setCrew_self] at e
  exact ⟨_, e, crewOnly_set_set _ _ _ _, by rw [State.crew_endIssue, State.crew_setCrew_self]⟩

theorem leaves_of_advance_only {s : State} {x : Ctx} {i : Instr} (e : exec i s = .next (s.advance x).endIssue) :
    Leaves s x i (goOnAll x (s.crew x.crew)) := by
  rw [State.advance_eq] at e
  exact ⟨_, e, crewOnly_set _ _ _, by rw [State.crew_endIssue, State.crew_setCrew_self]⟩

/-- The lanes `m` of crew `k` are over. -/
def Over (s : State) (k : Nat) (m : Lanes) : Prop := ∀ l, hasLane m l = true → ((s.crew k).thread l).live = false

theorem Over.of_noneRevived {s t : State} {k : Nat} {m : Lanes} (h : Over s k m) (hr : NoneRevived s t) : Over t k m := fun l hl => by
  refine Decidable.byContradiction fun hlive => ?_
  exact absurd (hr k l ((Bool.not_eq_false _).mp hlive)) (by simp [h l hl])

theorem noneRevived_tidyConv (s : State) (k : Nat) : NoneRevived s (s.modCrew k (·.tidyConv)) := noneRevived_setCrew fun _ => id

/-- What follows the end of lanes revives none of them. -/
theorem noneRevived_afterEnd (s : State) (k bk : Nat) (b : Bool) :
    NoneRevived s (if b then ((s.modCrew k (·.tidyConv)).reap k).stepNext bk else (s.modCrew k (·.tidyConv)).reap k) := by
  have h := (noneRevived_tidyConv s k).trans (noneRevived_reap _ k)
  cases b
  · exact h
  · exact h.trans (noneRevived_stepNext _ _)

theorem over_exitLanes (s : State) (x : Ctx) (m : Lanes) : Over (exitLanes s x m) x.crew m :=
  Over.of_noneRevived (endLanes_spec (s.setPc x (x.lanes &&& ~~~m) x.next) x.crew m).2 (noneRevived_afterEnd _ _ _ _)

/-- The lanes that EXIT names end once their stores have been checked. -/
theorem exec_of_exit {s : State} {x : Ctx} {i : Instr} {f : XF} {m : Lanes} (h : may s x i.shape f = true) (hm : act s x f = m)
    (hopen : (s.crew x.crew).openChecks m = false)
    (e : exec i s = guarded s i.shape f fun x c act => if c.openChecks act then .error .hold else .ok (exitLanes s x act)) :
    ∃ t, exec i s = .next t ∧ Over t x.crew m := by
  refine ⟨_, exec_of_ok h hm e ?_, over_exitLanes s x m⟩
  rw [hopen, if_neg Bool.false_ne_true]

theorem noneRevived_advance (s : State) (x : Ctx) : NoneRevived s (s.advance x) := by
  rw [State.advance_eq]
  refine noneRevived_setCrew fun l => live_of_mapLanes fun _ t h => ?_
  unfold goOn at h
  split at h
  · split at h <;> exact h
  · exact h

theorem hasLane_live (c : Crew) (l : Nat) : hasLane c.live l = (decide (l < 64) && (c.thread l).live) := LaneSets.hasLane_laneSet _ l

/-- A lane that lives after going on lives before. -/
theorem not_live_advance {s : State} {x : Ctx} {l : Nat} (hl : l < 64) (h : hasLane (s.crew x.crew).live l = false) :
    (((s.advance x).crew x.crew).thread l).live = false := by
  refine Decidable.byContradiction fun hlive => ?_
  have := noneRevived_advance s x x.crew l ((Bool.not_eq_false _).mp hlive)
  rw [hasLane_live, this] at h
  simp [hl] at h

/-- The lanes that TKILL names (R234). -/
def killed (s : State) (x : Ctx) (f : XF) : Lanes :=
  let m := (lanesOf (act s x f)).foldl (fun m l => m ||| (s.crew x.crew).rdW ((s.crew x.crew).inHandler x.lanes) f.sa f.a.toNat l) 0#64
  if s.protectedCrew x.crew then laneSet fun l => m.getLsbD (l / 2) else m

theorem exec_tkill_ends {s : State} {x : Ctx} {f : XF} (h : may s x (Instr.tkill f).shape f = true) :
    ∃ t, exec (.tkill f) s = .next t ∧ Over t x.crew (killed s x f) := by
  refine ⟨_, exec_of_ok h rfl (exec_tkill s f) rfl, ?_⟩
  have hover : Over ((s.advance x).endLanes x.crew (killed s x f &&& (s.crew x.crew).live)) x.crew (killed s x f) := by
    intro l hl
    by_cases hlive : hasLane (s.crew x.crew).live l = true
    · exact (endLanes_spec (s.advance x) x.crew _).2 l (by rw [LaneSets.hasLane_and, hl, hlive]; rfl)
    · refine Decidable.byContradiction fun hl' => ?_
      have := (endLanes_spec (s.advance x) x.crew _).1 x.crew l ((Bool.not_eq_false _).mp hl')
      rw [not_live_advance (LaneSets.hasLane_lt hl) (by simpa using hlive)] at this
      exact Bool.false_ne_true this
  exact hover.of_noneRevived (noneRevived_afterEnd _ _ _ _)

theorem leaves_region {s : State} {x : Ctx} (h : may s x (Instr.region).shape .zero = true) (hopen : (s.crew x.crew).openChecks x.lanes = false) :
    Leaves s x .region (goOnAll x ((s.crew x.crew).mapLanes x.lanes fun _ t =>
      { t with trecCount := t.trecCount + 1, trecEntry := BitVec.ofNat 32 x.next })) := by
  refine leaves_of_advance (exec_of_ok h (act_zero s x) (exec_region s) ?_)
  rw [hopen, if_neg Bool.false_ne_true]
  rfl

/-- A NEXT in a persistent block waits, and the block steps on where it can. -/
theorem exec_next_persistent {s : State} {x : Ctx} {d : BitVec 8} (h : may s x (Instr.next d).shape (.ofB d 0 0) = true)
    (hp : ((s.crew x.crew).launch.isSome && (s.block (s.crew x.crew).block).persist) = true) :
    exec (.next d) s =
      .next ((s.waitFor x x.lanes fun _ => { kind := .next, lanes := x.lanes, d := d.toNat }).stepNext (s.crew x.crew).block).endIssue := by
  obtain ⟨hlaunch, hpersist⟩ := (Bool.and_eq_true ..).mp hp
  refine exec_of_ok h (m := x.lanes) rfl (exec_next s d) ?_
  rw [hpersist, Option.isNone_eq_false_iff.mpr hlaunch]
  rfl

theorem exec_next_illegal {s : State} {x : Ctx} {d : BitVec 8} (h : may s x (Instr.next d).shape (.ofB d 0 0) = true)
    (hp : ((s.crew x.crew).launch.isSome && (s.block (s.crew x.crew).block).persist) = false) :
    exec (.next d) s = .next (s.raise x x.lanes ⟨4, 0x10, x.lanes, 0⟩) := by
  refine exec_of_trap h (m := x.lanes) rfl (exec_next s d) (if_pos ?_)
  rw [← Option.not_isSome, ← Bool.not_and, hp]
  rfl

/-- Settles O12: going on, ending lanes with nobody revived by what follows, and waiting at NEXT. -/
theorem simpleControlGoesOnOrEnds : Obligations.SimpleControlGoesOnOrEnds := by
  unfold Obligations.SimpleControlGoesOnOrEnds
  refine ⟨⟨fun s x => ⟨?nop, ?nopX, ?join, ?region, ?yield⟩, fun s x => ⟨?exit, ?exitX, ?tkill⟩⟩, fun s x d h => ⟨?next, ?elsewhere⟩⟩
  case nop => exact fun h => leaves_of_advance_only (exec_of_ok h (act_zero s x) (exec_nop s) rfl)
  case nopX => exact fun f h => leaves_of_advance_only (exec_of_ok h rfl (exec_nopX s f) rfl)
  case join => exact fun off h => leaves_of_advance (exec_of_ok h (act_zero s x) (exec_join s off) rfl)
  case region => exact fun h hopen => leaves_region h hopen
  case yield => exact fun f h => leaves_of_advance (exec_of_ok h rfl (exec_yield s f) rfl)
  case exit => exact fun h hopen => exec_of_exit h (act_zero s x) hopen (exec_exit s)
  case exitX => exact fun f h hopen => exec_of_exit h rfl hopen (exec_exitX s f)
  case tkill => exact fun f h => exec_tkill_ends h
  case next => exact exec_next_persistent h
  case elsewhere => exact exec_next_illegal h

/-! ## Repeats (R202, R236) -/

/-- Settles O13: the start of the repeat, or the refusal of its target. -/
theorem repStartsOrRefusesItsTarget : Obligations.RepStartsOrRefusesItsTarget := by
  unfold Obligations.RepStartsOrRefusesItsTarget
  intro s x count sd sa sb sc hcur p hp
  have hhead : exec p.1 s = repHead s (repPlan count sd sa sb sc) p.2 := by
    simp only [List.mem_cons, List.not_mem_nil, or_false] at hp
    rcases hp with rfl | rfl
    · exact exec_rep s count sd sa sb sc
    · exact exec_repX s count sd sa sb sc
  intro c plan r i
  refine ⟨fun hlanes hdetail hi => ?start, fun tgt n hfetch hno => ?refuse⟩
  case start =>
    obtain ⟨l0, hl0⟩ := Option.ne_none_iff_exists'.mp hlanes
    have hstart : repStart s x (repPlan count sd sa sb sc) p.2 = .ok { (s.setCrew x.crew (c.mapLanes x.lanes fun _ u =>
        { u with repcnt := if u.repcnt.getLsbD 31 then u.repcnt else 0x80000000#32 ||| (c.fmode.setWidth 32 <<< 6) })) with
        rep := some { plan with i := i } } := by
      have hr : r = ((s.crew x.crew).thread l0).repcnt := by simp only [r, hl0, Option.getD_some]; rfl
      unfold repStart
      rw [hl0]
      dsimp only
      rw [show repDetail (fetch (s.codeOf x.crew) (x.pc + 4 * p.2)) (repPlan count sd sa sb sc) (s.crew x.crew).nregs = none from hdetail]
      rw [← hr]
      exact if_neg (Nat.not_lt.mpr hi)
    have hexec := hhead
    rw [repHead, hcur] at hexec
    dsimp only at hexec
    rw [hstart] at hexec
    exact ⟨_, hexec, hcur, rfl, rfl, State.crew_setCrew_self s _ _⟩
  case refuse =>
    have hstart : repStart s x (repPlan count sd sa sb sc) p.2 = .error (illegal illRepeat x.lanes) := by
      unfold repStart
      have hdetail (nregs : Nat) : repDetail (.ok tgt n) (repPlan count sd sa sb sc) nregs = some illRepeat := by
        simp only [repDetail, hno, Bool.true_or, if_true]
      dsimp only
      rw [hfetch, hdetail]
    rw [hhead, repHead, hcur]
    dsimp only
    rw [hstart]
    rfl

end Sys2Proof.Proofs.Control
end

section
/-! PROOF. Loads (R145, R258, R259, R266): accesses that no region concerns, loads on chip and from slices (O14), and PREF (O15). -/

namespace Sys2Proof.Proofs.Loads

open Sys2Proof.Machine Sys2Proof.Safety Sys2Proof.Proofs.Lives Sys2Proof.Proofs.Control

/-! ## The crew once elements have left their ports -/

/-- What a pop leaves of a crew: everything but its streams. -/
theorem pop_eq (ports : List Nat) (m : Lanes) (c : Crew) : ∃ st, c.pop ports m = { c with streams := st } := by
  unfold Crew.pop
  induction ports generalizing c with
  | nil => exact ⟨c.streams, rfl⟩
  | cons p rest ih => exact ih _

/-- The state once elements have left their ports differs in the streams of the crew alone. -/
theorem popped_eq (s : State) (x : Ctx) (sh : Shape) (f : XF) (m : Lanes) :
    s.popped x sh f m = s ∨ ∃ st, s.popped x sh f m = s.setCrew x.crew { s.crew x.crew with streams := st } := by
  unfold State.popped
  split
  · exact .inl rfl
  · obtain ⟨st, hst⟩ := pop_eq (popPorts sh f) m (s.crew x.crew)
    exact .inr ⟨st, by rw [State.modCrew, hst]⟩

/-- What does not look at streams, and is the same whatever crew stands at the key, is as it was. -/
theorem popped_keeps {α : Type} (q : State → α) (s : State) (x : Ctx) (sh : Shape) (f : XF) (m : Lanes)
    (h : ∀ st, q (s.setCrew x.crew { s.crew x.crew with streams := st }) = q s) : q (s.popped x sh f m) = q s := by
  rcases popped_eq s x sh f m with he | ⟨st, he⟩
  · rw [he]
  · rw [he, h]

theorem popped_setCrew (s : State) (x : Ctx) (sh : Shape) (f : XF) (m : Lanes) (c : Crew) :
    (s.popped x sh f m).setCrew x.crew c = s.setCrew x.crew c :=
  popped_keeps (fun t => t.setCrew x.crew c) s x sh f m fun _ => State.setCrew_setCrew _ _ _ _

theorem popped_mem (s : State) (x : Ctx) (sh : Shape) (f : XF) (m : Lanes) : (s.popped x sh f m).mem = s.mem :=
  popped_keeps State.mem s x sh f m fun _ => rfl

theorem popped_ctr (s : State) (x : Ctx) (sh : Shape) (f : XF) (m : Lanes) : (s.popped x sh f m).ctr = s.ctr :=
  popped_keeps State.ctr s x sh f m fun _ => rfl

theorem popped_pl (s : State) (x : Ctx) (sh : Shape) (f : XF) (m : Lanes) : (s.popped x sh f m).pl = s.pl :=
  popped_keeps State.pl s x sh f m fun _ => rfl

theorem popped_fr (s : State) (x : Ctx) (sh : Shape) (f : XF) (m : Lanes) : (s.popped x sh f m).fr = s.fr :=
  popped_keeps State.fr s x sh f m fun _ => rfl

theorem popped_threads (s : State) (x : Ctx) (sh : Shape) (f : XF) (m : Lanes) :
    ((s.popped x sh f m).crew x.crew).threads = (s.crew x.crew).threads :=
  popped_keeps (fun t => (t.crew x.crew).threads) s x sh f m fun st => by rw [State.crew_setCrew_self]

theorem popped_thread (s : State) (x : Ctx) (sh : Shape) (f : XF) (m : Lanes) (l : Nat) :
    ((s.popped x sh f m).crew x.crew).thread l = (s.crew x.crew).thread l := by
  unfold Crew.thread
  rw [popped_threads]

theorem popped_inHandler (s : State) (x : Ctx) (sh : Shape) (f : XF) (m g : Lanes) :
    ((s.popped x sh f m).crew x.crew).inHandler g = (s.crew x.crew).inHandler g := by
  unfold Crew.inHandler
  split
  · rfl
  · rw [popped_thread]

/-! ## The accesses of lanes -/

/-- What an access that has its place says of itself. -/
structure Fresh (sp : Nat) (addr : Nat → Nat) (a : Acc) : Prop where
  space    : a.space = sp
  addr     : a.addr = addr a.lane
  overlaid : a.overlaid = []
  stage    : a.stage = 0
  loc      : sp ≠ 0 → a.loc = 4

theorem place_loc {s : State} {k lane sp a n : Nat} {nd : Need} {p : Place} (hsp : sp ≠ 0) (h : s.place k lane sp a n nd = .ok p) : p.loc = 4 := by
  unfold State.place at h
  dsimp only at h
  repeat' split at h
  all_goals first
    | exact absurd rfl hsp
    | cases h <;> rfl

theorem access_fresh {s : State} {k lane sp n : Nat} {addr : Nat → Nat} {nd : Need} {a : Acc} (h : s.access k lane sp (addr lane) n nd = .ok a) :
    a.lane = lane ∧ Fresh sp addr a := by
  unfold State.access at h
  split at h
  · cases h
  split at h
  · cases h
  rename_i p hp
  split at h
  · cases h
  · cases h
    exact ⟨rfl, rfl, rfl, rfl, rfl, fun hsp => place_loc hsp hp⟩

theorem accesses_fresh {s : State} {k sp n : Nat} {addr : Nat → Nat} {nd : Need} {ls : List Nat} {a : Acc}
    (h : a ∈ (s.accesses k sp n nd addr ls).1) : a.lane ∈ ls ∧ Fresh sp addr a := by
  induction ls with
  | nil => cases h
  | cons l rest ih =>
    unfold State.accesses at h
    dsimp only at h
    split at h
    · rename_i b hb
      rcases List.mem_cons.mp h with rfl | hrest
      · obtain ⟨hl, hf⟩ := access_fresh hb
        exact ⟨hl ▸ List.mem_cons_self, hf⟩
      · exact ⟨List.mem_cons_of_mem _ (ih hrest).1, (ih hrest).2⟩
    · exact ⟨List.mem_cons_of_mem _ (ih h).1, (ih h).2⟩

theorem mem_memLanes {u : Bool} {m : Lanes} {l : Nat} (h : l ∈ memLanes u m) : hasLane m l = true := by
  unfold memLanes at h
  split at h
  · exact mem_lanesOf.mp (List.mem_of_mem_take h)
  · exact mem_lanesOf.mp h

theorem overlay_nil (bs : List Byte) : overlay bs [] = bs := by
  unfold overlay
  simp only [List.find?_nil]
  exact List.map_snd_zip (by simp)

theorem readHere_eq {s : State} {a : Acc} (h : a.overlaid = []) :
    s.readHere a = { a with data := a.keys.map s.mem.byte, pois := s.poisonWords a.keys, stage := 1 } := by
  unfold State.readHere
  rw [h, overlay_nil]

theorem regionOf_none {c : Crew} {l : Nat} (h : (c.thread l).specAct = false) : c.regionOf l = none := by
  unfold Crew.regionOf
  dsimp only
  rw [h]
  rfl

/-- No region has to do with the access: its lane is inside none, or it reaches storage that regions do not buffer. -/
def Plain (c : Crew) (a : Acc) : Prop := (c.thread a.lane).specAct = false ∨ (a.space ≠ 0 ∧ a.space ≠ 4 ∧ a.loc = 4)

theorem regionSplit_zero (s : State) (x : Ctx) (m : Lanes) (code : Nat) : s.regionSplit x m 0 code = (s, x, m) := if_pos rfl

theorem growRegion_of_none {k lane : Nat} {st : State × Lanes} (h : (st.1.crew k).regionOf lane = none) (f : Region → Region) :
    State.growRegion k st lane f = st := by
  unfold State.growRegion
  dsimp only
  rw [h]

theorem foldl_append_map {α β : Type} (f : α → β) (l : List α) (acc : List β) : l.foldl (fun acc a => acc ++ [f a]) acc = acc ++ l.map f := by
  induction l generalizing acc with
  | nil => simp
  | cons a rest ih => simp [ih]

/-- No lane's region aborts for an access behind a host port. -/
theorem far_eq_zero {c : Crew} {accs : List Acc} (hplain : ∀ a ∈ accs, Plain c a) :
    laneSet (fun l => (c.thread l).specAct && accs.any fun a => decide (a.lane = l) && (decide (a.loc = 2) || decide (a.loc = 3))) = 0 := by
  rw [LaneSets.eq_zero_iff]
  intro l
  rw [LaneSets.hasLane_laneSet, Bool.and_eq_false_iff]
  refine .inr (Bool.eq_false_iff.mpr fun h => ?_)
  obtain ⟨hspec, hany⟩ := (Bool.and_eq_true ..).mp h
  obtain ⟨a, ha, hloc⟩ := List.any_eq_true.mp hany
  obtain ⟨hl, hloc⟩ := (Bool.and_eq_true ..).mp hloc
  rcases hplain a ha with hno | ⟨_, _, h4⟩
  · rw [of_decide_eq_true hl, hspec] at hno
    cases hno
  · simp [h4] at hloc

/-- No region grows by the accesses of lanes outside regions. -/
theorem foldl_growRegion_of_none {k : Nat} {st : State × Lanes} {f : Acc → Region → Region} (l : List Acc)
    (hl : ∀ a ∈ l, (st.1.crew k).regionOf a.lane = none) : l.foldl (fun st a => State.growRegion k st a.lane (f a)) st = st := by
  induction l with
  | nil => rfl
  | cons a rest ih =>
    rw [List.foldl_cons, growRegion_of_none (hl a List.mem_cons_self)]
    exact ih fun b hb => hl b (List.mem_cons_of_mem _ hb)

theorem grown_eq {s : State} {k : Nat} {accs : List Acc} (hplain : ∀ a ∈ accs, Plain (s.crew k) a) :
    (accs.filter fun a => decide (a.space = 0)).foldl (fun st a => State.growRegion k st a.lane fun r => r.read (Acc.sector a) noExpiry) (s, 0) = (s, 0) := by
  refine foldl_growRegion_of_none _ fun a ha => ?_
  obtain ⟨hmem, hspace⟩ := List.mem_filter.mp ha
  rcases hplain a hmem with hno | ⟨h0, _⟩
  · exact regionOf_none hno
  · exact absurd (of_decide_eq_true hspace) h0

/-- What a region holds of an access's bytes (R277). -/
def regionBytes (c : Crew) (a : Acc) : List (Nat × Byte × BitVec 2) :=
  match c.regionOf a.lane with
  | some r => if a.space = 0 ∨ a.space = 4 then r.overlaid a.keys else []
  | none => []

theorem regionBytes_of_plain {c : Crew} {a : Acc} (h : Plain c a) : regionBytes c a = [] := by
  unfold regionBytes
  rcases h with hno | ⟨h0, h4, _⟩
  · rw [regionOf_none hno]
  · split
    · exact if_neg (not_or.mpr ⟨h0, h4⟩)
    · rfl

theorem eq_of_regionBytes {c : Crew} {a : Acc} (hplain : Plain c a) (hover : a.overlaid = []) : { a with overlaid := regionBytes c a } = a := by
  rw [regionBytes_of_plain hplain, ← hover]

theorem map_eq_self {α : Type} {l : List α} {f : α → α} (h : ∀ a ∈ l, f a = a) : l.map f = l :=
  (List.map_congr_left h).trans (List.map_id l)

/-- A load none of whose accesses has to do with a region. -/
theorem loadGo_of_plain {s : State} {x : Ctx} {sh : Shape} {i : XF} {f : MemForm} {m : Lanes} {accs : List Acc} (hx : x.lanes ≠ 0)
    (hm : ∀ a ∈ accs, hasLane m a.lane = true) (hplain : ∀ a ∈ accs, Plain (s.crew x.crew) a) (hover : ∀ a ∈ accs, a.overlaid = [])
    (hcommit : (accs.any fun a => decide (a.space = 0) && s.commitHolds (coreOf x.crew) (s.crewPart x.crew) (Acc.sector a)) = false) :
    loadGo s x sh i f m accs =
      if f.sp = 4 then
        let r := (s.crew x.crew).destinations sh i x.pc m []
        .ok ((s.setCrew x.crew (accs.foldl (fun c a =>
          c.fillAll ((s.crew x.crew).inHandler x.lanes) (loadVal f.size (s.readHere a).data) (s.readHere a).pois
            (laneDests r.2 f.size i.sd i.d.toNat a.lane)) r.1)).advance x)
      else
        let r := accs.foldl (fun st a =>
          if f.sp = 0 then ((st.1.tryL1 x.crew f a).1, st.2 ++ [(st.1.tryL1 x.crew f a).2]) else (st.1, st.2 ++ [st.1.readHere a])) (s, [])
        let d := (r.1.crew x.crew).destinations sh i x.pc m (accs.flatMap fun a => sizeDests f.size i.sd i.d.toNat a.lane)
        let c := d.1.addOp { id := 0, kind := .load, cls := 0, pc := x.pc, lanes := m, accs := r.2, dests := d.2, fmt := f.size, d := i.d.toNat,
                             sd := i.sd, acq := f.ord, hint := f.hint, issued := r.1.ctr, masked := (s.crew x.crew).inHandler x.lanes,
                             bad := laneSet fun l => hasLane m l && (d.1.thread l).specAct }
        .ok ((r.1.setCrew x.crew (c.markEmpty (c.realDests ((s.crew x.crew).inHandler x.lanes) d.2))).advance x) := by
  have hmine : (accs.filter fun a => hasLane m a.lane) = accs := List.filter_eq_self.mpr hm
  unfold loadGo
  simp only [far_eq_zero hplain, regionSplit_zero, hmine, grown_eq hplain, if_neg hx]
  rw [map_eq_self (l := accs), hcommit]
  · rfl
  · exact fun a ha => eq_of_regionBytes (hplain a ha) (hover a ha)

/-! ## Loads on chip (R145, R258, R259) -/

/-- A push that waits changes no thread. -/
theorem destinations_threads (c : Crew) (sh : Shape) (i : XF) (pc : Nat) (m : Lanes) (rs : List (Option Nat × Nat)) :
    (c.destinations sh i pc m rs).1.threads = c.threads := by
  unfold Crew.destinations
  split <;> rfl

theorem destinations_thread (c : Crew) (sh : Shape) (i : XF) (pc : Nat) (m : Lanes) (rs : List (Option Nat × Nat)) (l : Nat) :
    (c.destinations sh i pc m rs).1.thread l = c.thread l := by
  unfold Crew.thread
  rw [destinations_threads]

theorem lanes_ne_zero {s : State} {x : Ctx} {f : XF} (h : act s x f ≠ 0) : x.lanes ≠ 0 := by
  intro hx
  refine h (LaneSets.eq_zero_iff.mpr fun l => ?_)
  unfold act Crew.active
  rw [hx]
  split
  · exact LaneSets.hasLane_zero l
  · rw [LaneSets.hasLane_laneSet_and]
    exact Bool.and_eq_false_iff.mpr (.inl (LaneSets.hasLane_zero l))

/-- A load whose lanes all have their places does what `loadGo` does. -/
theorem exec_of_loadGo {s t : State} {x : Ctx} {i : Instr} {g : XF} {m : MemForm} (h : ready s x i.shape g = true)
    (e : exec i s = load s i.shape g m) (hq : (s.crew x.crew).queue = none ∨ m.sp = 0 ∨ m.sp = 4) (hact : act s x g ≠ 0)
    (hacq : State.acqPending (s.crew x.crew) (act s x g) = false) (hroom : m.sp = 4 ∨ (s.crew x.crew).clsRoom 0 = true)
    (hr : (s.accesses x.crew m.sp (sizeBytes m.size) .load (memAddr (s.crew x.crew) ((s.crew x.crew).inHandler x.lanes) g m)
      (memLanes g.sd (act s x g))).2 = [])
    (hgo : loadGo ((if m.sp = 0 then s.translated x.crew ((s.accesses x.crew m.sp (sizeBytes m.size) .load
        (memAddr (s.crew x.crew) ((s.crew x.crew).inHandler x.lanes) g m) (memLanes g.sd (act s x g))).1.map (·.addr)) else s).popped x i.shape g (act s x g))
      x i.shape g m (act s x g) (s.accesses x.crew m.sp (sizeBytes m.size) .load
        (memAddr (s.crew x.crew) ((s.crew x.crew).inHandler x.lanes) g m) (memLanes g.sd (act s x g))).1 = .ok t) :
    exec i s = .next t.endIssue := by
  have hqueue : ((s.crew x.crew).queue.isSome && decide (m.sp ≠ 0) && decide (m.sp ≠ 4)) = false := by
    rcases hq with hq | hq | hq <;> simp [hq]
  have hhold : (State.acqPending (s.crew x.crew) (act s x g) || (decide (m.sp ≠ 4) && !(s.crew x.crew).clsRoom 0)) = false := by
    rcases hroom with hroom | hroom <;> simp [hacq, hroom]
  rw [e, load, portSafe, portRun_of_ready h, guarded_of_may (ready_may h)]
  dsimp only
  rw [hqueue, if_neg Bool.false_ne_true, if_neg hact, hhold, if_neg Bool.false_ne_true, hr, hgo]
  rfl

theorem foldl_readHere (s : State) {f : MemForm} (hsp : f.sp ≠ 0) (k : Nat) (accs : List Acc) (done : List Acc) :
    accs.foldl (fun (st : State × List Acc) a =>
      if f.sp = 0 then ((st.1.tryL1 k f a).1, st.2 ++ [(st.1.tryL1 k f a).2]) else (st.1, st.2 ++ [st.1.readHere a])) (s, done)
      = (s, done ++ accs.map s.readHere) := by
  induction accs generalizing done with
  | nil => simp
  | cons a rest ih =>
    rw [List.foldl_cons, if_neg hsp, ih]
    simp

theorem plain_of_fresh {c : Crew} {sp : Nat} {addr : Nat → Nat} {a : Acc} (hf : Fresh sp addr a) (h0 : sp ≠ 0) (h4 : sp ≠ 4) : Plain c a :=
  .inr ⟨hf.space ▸ h0, hf.space ▸ h4, hf.loc h0⟩

theorem any_space_zero {accs : List Acc} {q : Acc → Bool} (h : ∀ a ∈ accs, a.space ≠ 0) : (accs.any fun a => decide (a.space = 0) && q a) = false := by
  rw [List.any_eq_false]
  intro a ha
  simp [h a ha]

/-- A load from storage on chip other than slices reads its bytes and enters its operation. -/
theorem leaves_load_onChip {s : State} {x : Ctx} {i : Instr} {g : XF} {m : MemForm} (e : exec i s = load s i.shape g m) :
    let c := s.crew x.crew
    let h := c.inHandler x.lanes
    let ac := act s x g
    let r := s.accesses x.crew m.sp (sizeBytes m.size) .load (memAddr c h g m) (memLanes g.sd ac)
    let d := (popped s x i g).destinations i.shape g x.pc ac (r.1.flatMap fun q => sizeDests m.size g.sd g.d.toNat q.lane)
    let dests := d.2
    ready s x i.shape g = true → 1 ≤ m.sp → m.sp ≤ 3 → c.queue = none → ac ≠ 0 → State.acqPending c ac = false → c.clsRoom 0 = true → r.2 = [] →
      let c' := d.1.addOp
        { id := 0, kind := .load, cls := 0, pc := x.pc, lanes := ac, dests := dests, fmt := m.size, d := g.d.toNat, sd := g.sd, acq := m.ord,
          hint := m.hint, issued := s.ctr, masked := h, bad := laneSet fun l => hasLane ac l && (c.thread l).specAct
          accs := r.1.map fun q => { q with data := q.keys.map s.mem.byte, pois := s.poisonWords q.keys, stage := 1 } }
      Leaves s x i (goOnAll x (c'.markEmpty (c'.realDests h dests))) := by
  intro c h ac r d dests hready h1 h3 hq hac hacq hroom hr
  have h0 : m.sp ≠ 0 := by omega
  have h4 : m.sp ≠ 4 := by omega
  have hfresh : ∀ a ∈ r.1, a.lane ∈ memLanes g.sd ac ∧ Fresh m.sp (memAddr c h g m) a := fun a ha => accesses_fresh ha
  have hgo := loadGo_of_plain (s := s.popped x i.shape g ac) (sh := i.shape) (i := g) (f := m) (m := ac) (lanes_ne_zero hac)
    (fun a ha => mem_memLanes (hfresh a ha).1) (fun a ha => plain_of_fresh (hfresh a ha).2 h0 h4) (fun a ha => (hfresh a ha).2.overlaid)
    (any_space_zero fun a ha => (hfresh a ha).2.space ▸ h0)
  rw [if_neg h4, foldl_readHere _ h0] at hgo
  dsimp only at hgo
  have hread : r.1.map (s.popped x i.shape g ac).readHere = r.1.map fun q => { q with data := q.keys.map s.mem.byte, pois := s.poisonWords q.keys, stage := 1 } := by
    refine List.map_congr_left fun a ha => ?_
    rw [readHere_eq (hfresh a ha).2.overlaid, popped_mem,
      popped_keeps (fun t => t.poisonWords a.keys) s x i.shape g ac fun _ => rfl]
  simp only [List.nil_append, hread, popped_inHandler, popped_ctr, popped_setCrew, destinations_thread, popped_thread] at hgo
  refine leaves_of_advance (exec_of_loadGo hready e (.inl hq) hac hacq (.inr hroom) hr ?_)
  rw [if_neg h0]
  exact hgo

theorem ready_of_readyOut {s : State} {x : Ctx} {sh : Shape} {f : XF} (h : readyOut s x sh f = true) : ready s x sh f = true := by
  obtain ⟨hmay, hcalm⟩ := (Bool.and_eq_true ..).mp h
  unfold ready
  rw [hmay, hcalm, Bool.or_true]
  rfl

theorem calm_of_readyOut {s : State} {x : Ctx} {sh : Shape} {f : XF} (h : readyOut s x sh f = true) : calm s x f = true :=
  ((Bool.and_eq_true ..).mp h).2

theorem specAct_of_calm {s : State} {x : Ctx} {f : XF} (h : calm s x f = true) {l : Nat} (hl : hasLane (act s x f) l = true) :
    ((s.crew x.crew).thread l).specAct = false :=
  (Bool.not_eq_eq_eq_not ..).mp (List.all_eq_true.mp h l (mem_lanesOf.mpr hl))

/-- A load from the lanes' own slices writes its values at once. -/
theorem leaves_load_slice {s : State} {x : Ctx} {i : Instr} {g : XF} {m : MemForm} (e : exec i s = load s i.shape g m) :
    let c := s.crew x.crew
    let h := c.inHandler x.lanes
    let ac := act s x g
    let r := s.accesses x.crew 4 (sizeBytes m.size) .load (memAddr c h g m) (memLanes g.sd ac)
    readyOut s x i.shape g = true → m.sp = 4 → ac ≠ 0 → State.acqPending c ac = false → r.2 = [] →
      let d := (popped s x i g).destinations i.shape g x.pc ac []
      Leaves s x i (goOnAll x (r.1.foldl (fun c q =>
        c.fillAll h (loadVal m.size (q.keys.map s.mem.byte)) (s.poisonWords q.keys) (laneDests d.2 m.size g.sd g.d.toNat q.lane)) d.1)) := by
  intro c h ac r hready h4 hac hacq hr d
  have hcalm := calm_of_readyOut hready
  have hfresh : ∀ a ∈ r.1, a.lane ∈ memLanes g.sd ac ∧ Fresh 4 (memAddr c h g m) a := fun a ha => accesses_fresh ha
  have hlane : ∀ a ∈ r.1, hasLane ac a.lane = true := fun a ha => mem_memLanes (hfresh a ha).1
  have hgo := loadGo_of_plain (s := s.popped x i.shape g ac) (sh := i.shape) (i := g) (f := m) (m := ac) (lanes_ne_zero hac) hlane
    (fun a ha => .inl (by rw [popped_thread]; exact specAct_of_calm hcalm (hlane a ha))) (fun a ha => (hfresh a ha).2.overlaid)
    (any_space_zero fun a ha => by rw [(hfresh a ha).2.space]; decide)
  rw [if_pos h4] at hgo
  dsimp only at hgo
  rw [ListFacts.foldl_ext (g := fun c q => c.fillAll h (loadVal m.size (q.keys.map s.mem.byte)) (s.poisonWords q.keys)
    (laneDests d.2 m.size g.sd g.d.toNat q.lane)) _ fun b a ha => by
      rw [readHere_eq (hfresh a ha).2.overlaid, popped_mem, popped_keeps (fun t => t.poisonWords a.keys) s x i.shape g ac fun _ => rfl, popped_inHandler]
      rfl] at hgo
  rw [popped_setCrew] at hgo
  refine leaves_of_advance (exec_of_loadGo (ready_of_readyOut hready) e (.inr (.inr h4)) hac hacq (.inl h4) (by rw [h4]; exact hr) ?_)
  rw [if_neg (by omega), h4]
  exact hgo

/-- Settles O14: the short forms and LD are one load; on chip it reads its bytes where they lie. -/
theorem onChipLoadsReadTheirBytes : Obligations.OnChipLoadsReadTheirBytes := by
  unfold Obligations.OnChipLoadsReadTheirBytes
  refine ⟨fun s x d a b f => ?onChip, fun s x f => ?slice⟩
  case onChip =>
    simp only [List.forall_mem_cons, List.not_mem_nil, false_imp_iff, implies_true, and_true]
    exact ⟨leaves_load_onChip (exec_ldCB32 s d a b), leaves_load_onChip (exec_ldCB32X s f), leaves_load_onChip (exec_ld s f)⟩
  case slice => exact leaves_load_slice (exec_ld s f)

/-! ## PREF (R266) -/

/-- A crew that lists a thread 64 beside its lane 0, inside a `.crew` region. -/
def strayCrew : Crew := { nregs := 64, threads := [(0, { live := true }), (64, { spec := 0xC0000000#32 })] }

def strayCtx : Ctx := { crew := 0, lanes := 1, pc := 0, next := 12 }

/-- The crew's core holds in its L1 the line of address 0, and its page in the L1 data TLB. -/
def strayState : State :=
  { cur := some strayCtx
    coh := { l1 := [(0, { line := 2 ^ 58, data := 0, expiry := 10, used := 0 })] }
    tr := { dtlb := [(0, [{ asid := 0, va := 0, size := 12, pa := 0, loc := 0, port := 0, r := true, w := false, x := false }])] }
    ex := { crews := [(0, strayCrew)], quads := [(0, { owner := 128 })] } }

/-- The crew's region after an instruction. -/
def regionAfter (o : Out) : Option Region :=
  match o with
  | .next t => (t.crew 0).region
  | _ => none

/-- The accesses of a PREF of address 0 there. -/
def strayAccesses : List Acc × List (Nat × Nat × Miss) :=
  strayState.accesses 0 0 1 .load (memAddr (strayState.crew 0) ((strayState.crew 0).inHandler 1) .zero { sp := 0, size := 0, disp := 0 })
    (lanesOf (act strayState strayCtx .zero))

theorem stray_may : may strayState strayCtx (Instr.pref .zero).shape .zero = true := by decide +kernel

theorem stray_noMiss : strayAccesses.2 = [] := by decide +kernel

theorem stray_free : (strayAccesses.1.all fun q =>
    !strayState.locked (Acc.sector q) && !strayState.commitHolds 0 (strayState.crewPart 0) (Acc.sector q)) = true := by decide +kernel

/-- The hit is recorded for lane 64, the stand-in of PREF, which here has a region. -/
theorem stray_region : (regionAfter (exec (.pref .zero) strayState)).isSome = true := by decide +kernel

/-- Refutes O15: PREF notes its L1 hit for a stand-in lane 64, which the statement does not keep out of the crew's threads; where the crew lists a thread 64
inside a `.crew` region, the region's read set grows, so that the crew is not just gone on. -/
theorem not_globalLoadsEnterAnOperation : ¬ Obligations.GlobalLoadsEnterAnOperation := by
  unfold Obligations.GlobalLoadsEnterAnOperation
  rintro ⟨-, hpref⟩
  obtain ⟨t, hexec, -, -, hcrew⟩ := hpref strayState strayCtx .zero stray_may rfl stray_noMiss stray_free
  have hregion : (t.crew 0).region = none := congrArg Crew.region hcrew
  have hsome := stray_region
  rw [hexec, regionAfter, hregion] at hsome
  exact Bool.false_ne_true hsome

end Sys2Proof.Proofs.Loads
end

section
/-! PROOF. Stores (R54, R66, R69, R73, R154, R258 to R260): what a store does once nothing holds it, then stores on chip (O17). -/

namespace Sys2Proof.Proofs.Stores

open Sys2Proof.Machine Sys2Proof.Safety Sys2Proof.Proofs.Lives Sys2Proof.Proofs.Control Sys2Proof.Proofs.Loads

/-! ## The order of a store's checks -/

/-- The lanes that store (R154, R196). -/
def storeLanes (s : State) (x : Ctx) (g : XF) (m : MemForm) (ac : Lanes) : List Nat :=
  (memLanes g.sd ac).filter fun l => !s.protectedCrew x.crew || decide (m.sp = 4) || decide (l % 2 = 0)

/-- A store that nothing holds and whose pairs agree: its alignment in `.g`, then its places and its effect. -/
def storeTail (s : State) (x : Ctx) (sh : Shape) (g : XF) (m : MemForm) (ac : Lanes) (lanes : List Nat) (addr : Nat → Nat) : Except Stop State :=
  let c := s.crew x.crew
  let h := c.inHandler x.lanes
  let n := sizeBytes m.size
  let mis := lanes.filter fun l => decide (addr l % n ≠ 0)
  if decide (m.sp = 0) && !mis.isEmpty then .error (.trap ⟨clsMemfault, badZerobits, laneSet mis.contains, addr (mis.headD 0)⟩)
  else
    let r := s.accesses x.crew m.sp n .store addr lanes
    let accs := r.1.map (withData c h g m.size)
    if m.sp ≠ 0 then (if !r.2.isEmpty then s.missed x (misFirst n addr lanes r.2) else storeChip (s.popped x sh g ac) x ac m.sp accs)
    else
      let walks := r.2.filter fun b => match b.2.2 with
        | .fault _ => false
        | _ => true
      let faults := r.2.filterMap fun b => match b.2.2 with
        | .fault d => some (b.1, b.2.1, d)
        | _ => none
      let remote := (accs.filter fun a => decide (m.size = 7) && decide (2 ≤ a.loc)).map fun a => (a.lane, a.addr, badNibble)
      let bad := lanes.filterMap fun l => (faults ++ remote).find? fun b => decide (b.1 = l)
      let good := accs.filter fun a => !remote.any fun b => decide (b.1 = a.lane)
      if !walks.isEmpty then s.missed x walks
      else if !h && decide (32 ≤ (s.quad (quadOf x.crew)).sfq.length + s.openStores (quadOf x.crew)) then .error .hold
      else storeGo ((s.translated x.crew (r.1.map (·.addr))).popped x sh g ac) x ac good bad

theorem storeSafe_of_calm {s : State} {x : Ctx} {sh : Shape} {f : XF} (hcur : s.cur = some x) (h : calm s x f = true) (m : MemForm) (run : State → Out) :
    storeSafe s sh f m run = run s := by
  unfold storeSafe
  split
  · exact outside_of_calm hcur h run
  · rfl

/-- The conditions under which nothing holds a store (R73, R74, R112, R154, R330). -/
structure Free (s : State) (x : Ctx) (g : XF) (m : MemForm) : Prop where
  queue : (s.crew x.crew).queue = none ∨ m.sp = 0 ∨ m.sp = 4
  some  : act s x g ≠ 0
  acq   : State.acqPending (s.crew x.crew) (act s x g) = false
  room  : m.sp = 4 ∨ (s.crew x.crew).clsRoom 1 = true
  rel   : m.ord = true → (s.crew x.crew).openChecks (act s x g) = false ∧ ((lanesOf (act s x g)).all fun l => s.fenceOk x.crew l m.scope) = true
  pairs : storeMismatch s x (act s x g) (memAddr (s.crew x.crew) ((s.crew x.crew).inHandler x.lanes) g m)
    (storeData (s.crew x.crew) ((s.crew x.crew).inHandler x.lanes) g m.size) = false

theorem exec_of_storeTail {s : State} {x : Ctx} {i : Instr} {g : XF} {m : MemForm} (h : readyOut s x i.shape g = true)
    (e : exec i s = store s i.shape g m) (hf : Free s x g m) :
    exec i s = .next (settle s x (act s x g) (storeTail s x i.shape g m (act s x g) (storeLanes s x g m (act s x g))
      (memAddr (s.crew x.crew) ((s.crew x.crew).inHandler x.lanes) g m))) := by
  obtain ⟨hq, hact, hacq, hroom, hrel, hpairs⟩ := hf
  have hmay := ready_may (ready_of_readyOut h)
  have hqueue : ((s.crew x.crew).queue.isSome && decide (m.sp ≠ 0) && decide (m.sp ≠ 4)) = false := by
    rcases hq with hq | hq | hq <;> simp [hq]
  have hhold : (State.acqPending (s.crew x.crew) (act s x g) || (decide (m.sp ≠ 4) && !(s.crew x.crew).clsRoom 1)) = false := by
    rcases hroom with hroom | hroom <;> simp [hacq, hroom]
  have hord : (m.ord && ((s.crew x.crew).openChecks (act s x g) || (lanesOf (act s x g)).any fun l => !s.fenceOk x.crew l m.scope)) = false := by
    cases hm : m.ord with
    | false => rfl
    | true =>
      obtain ⟨hopen, hfence⟩ := hrel hm
      rw [hopen, Bool.true_and, Bool.false_or, List.any_eq_false]
      intro l hl
      simp [List.all_eq_true.mp hfence l hl]
  rw [e, store, storeSafe_of_calm (may_iff.mp hmay).1 (calm_of_readyOut h), guarded_of_may hmay]
  dsimp only
  rw [hqueue, if_neg Bool.false_ne_true, if_neg hact, hhold, if_neg Bool.false_ne_true, hord, if_neg Bool.false_ne_true, hpairs,
    if_neg Bool.false_ne_true]
  rfl

/-! ## What performing stores on chip leaves as it was (R39, R69) -/

/-- Only memory and what goes with it has changed: crews, homes, translation and the front end are as they were. -/
structure MemOnly (s t : State) : Prop where
  ex  : t.ex = s.ex
  coh : t.coh = s.coh
  tr  : t.tr = s.tr
  fr  : t.fr = s.fr
  now : t.now = s.now
  ctr : t.ctr = s.ctr

namespace MemOnly

theorem refl (s : State) : MemOnly s s := ⟨rfl, rfl, rfl, rfl, rfl, rfl⟩

theorem trans {s t u : State} (h : MemOnly s t) (h' : MemOnly t u) : MemOnly s u :=
  ⟨h'.ex.trans h.ex, h'.coh.trans h.coh, h'.tr.trans h.tr, h'.fr.trans h.fr, h'.now.trans h.now, h'.ctr.trans h.ctr⟩

theorem foldl {α : Type} {f : State → α → State} (h : ∀ s a, MemOnly s (f s a)) (l : List α) (s : State) : MemOnly s (l.foldl f s) := by
  induction l generalizing s with
  | nil => exact refl s
  | cons a rest ih => exact (h s a).trans (ih _)

end MemOnly

theorem memOnly_storeHere (s : State) (a : Acc) : MemOnly s (s.storeHere a) := by
  unfold State.storeHere
  split
  · exact .refl s
  · exact ⟨rfl, rfl, rfl, rfl, rfl, rfl⟩

theorem storeHere_setCrew (s : State) (k : Nat) (c : Crew) (a : Acc) : (s.setCrew k c).storeHere a = (s.storeHere a).setCrew k c := by
  unfold State.storeHere
  split <;> rfl

theorem foldl_storeHere_setCrew (accs : List Acc) (s : State) (k : Nat) (c : Crew) :
    accs.foldl State.storeHere (s.setCrew k c) = (accs.foldl State.storeHere s).setCrew k c := by
  induction accs generalizing s with
  | nil => rfl
  | cons a rest ih => rw [List.foldl_cons, storeHere_setCrew, ih, List.foldl_cons]

/-- Performing stores does not look at the crews. -/
theorem foldl_storeHere_popped_mem (accs : List Acc) (s : State) (x : Ctx) (sh : Shape) (f : XF) (m : Lanes) :
    (accs.foldl State.storeHere (s.popped x sh f m)).mem = (accs.foldl State.storeHere s).mem :=
  popped_keeps (fun t => (accs.foldl State.storeHere t).mem) s x sh f m fun st => by
    show (accs.foldl State.storeHere (s.setCrew _ _)).mem = _
    rw [foldl_storeHere_setCrew]
    rfl

theorem storeHere_byte (s : State) (a : Acc) (key : Nat) (h : key ∉ a.keys) : (s.storeHere a).mem.byte key = s.mem.byte key := by
  unfold State.storeHere
  split
  · rfl
  · rw [Small.performBytes_byte]
    refine Small.byte_writeAll_ne _ _ _ fun p hp hkey => h ?_
    obtain ⟨q, hq, rfl⟩ := List.mem_map.mp (List.filter_sublist.subset hp)
    exact hkey ▸ (List.of_mem_zip (a := q.1) (b := q.2) hq).1

/-- A byte outside those stored is as it was. -/
theorem foldl_storeHere_byte (accs : List Acc) (s : State) (key : Nat) (h : ∀ q ∈ accs, key ∉ q.keys) :
    (accs.foldl State.storeHere s).mem.byte key = s.mem.byte key := by
  induction accs generalizing s with
  | nil => rfl
  | cons a rest ih =>
    rw [List.foldl_cons, ih _ fun q hq => h q (List.mem_cons_of_mem _ hq), storeHere_byte s a key (h a List.mem_cons_self)]

/-- Stores on chip: what each performs, with what follows it, then the operation. -/
theorem chipStores_eq {after : State → Acc → State} (hafter : ∀ s a, MemOnly s (after s a)) (s : State) (x : Ctx) (m : Lanes) (accs : List Acc) :
    s.chipStores x m accs after = (accs.foldl (fun s a => after (s.storeHere a) a) s).modCrew x.crew fun c => c.addOp
      { id := 0, kind := .store, cls := 1, pc := x.pc, lanes := m, accs := accs.map fun a => { a with stage := 1, wct := s.now }, issued := s.ctr } := by
  have hfold (accs : List Acc) (t : State) (done : List Acc) : accs.foldl (fun st a => (after (st.1.chipStore a).1 a, st.2 ++ [(st.1.chipStore a).2])) (t, done) =
      (accs.foldl (fun s a => after (s.storeHere a) a) t, done ++ accs.map fun a => { a with stage := 1, wct := t.now }) := by
    induction accs generalizing t done with
    | nil => simp
    | cons a rest ih =>
      have hnow : (after (t.storeHere a) a).now = t.now := (hafter _ a).now.trans (memOnly_storeHere t a).now
      refine (ih (after (t.storeHere a) a) _).trans ?_
      rw [hnow, List.append_assoc]
      rfl
  have hctr : (accs.foldl (fun s a => after (s.storeHere a) a) s).ctr = s.ctr :=
    (MemOnly.foldl (fun t a => (memOnly_storeHere t a).trans (hafter _ a)) accs s).ctr
  unfold State.chipStores
  simp only [hfold, List.nil_append, hctr]

/-- From `s` the issue ended with crew `x.crew` as `c` and gone on, and nothing else changed. -/
structure WentOn (s t : State) (x : Ctx) (c : Crew) : Prop where
  mem    : t.mem = s.mem
  others : ∀ j, j ≠ x.crew → SMap.find? t.ex.crews j = SMap.find? s.ex.crews j
  coh    : t.coh = s.coh
  tr     : t.tr = s.tr
  fr     : t.fr = s.fr
  crew   : t.crew x.crew = goOnAll x c

theorem wentOn (s : State) (x : Ctx) (c : Crew) : WentOn s ((s.setCrew x.crew c).advance x).endIssue x c := by
  rw [State.advance_eq, State.setCrew_setCrew, State.crew_setCrew_self]
  exact ⟨rfl, fun j hj => State.find?_setCrew_ne _ _ _ _ hj, rfl, rfl, rfl, State.crew_setCrew_self _ _ _⟩

theorem wentOn_advance (s : State) (x : Ctx) : WentOn s (s.advance x).endIssue x (s.crew x.crew) := by
  rw [State.advance_eq]
  exact ⟨rfl, fun j hj => State.find?_setCrew_ne _ _ _ _ hj, rfl, rfl, rfl, State.crew_setCrew_self _ _ _⟩

theorem crew_of_ex {s t : State} (h : t.ex = s.ex) (k : Nat) : t.crew k = s.crew k := by
  unfold State.crew
  rw [h]

/-- The crew of the issue once elements have left their ports differs in its streams alone. -/
theorem popped_others (s : State) (x : Ctx) (sh : Shape) (f : XF) (m : Lanes) (j : Nat) (hj : j ≠ x.crew) :
    SMap.find? (s.popped x sh f m).ex.crews j = SMap.find? s.ex.crews j :=
  (crewOnly_popped s x sh f m).others j hj

/-! ## Stores on chip (O17) -/

theorem accesses_aligned {s : State} {k sp n : Nat} {nd : Need} {addr : Nat → Nat} {ls : List Nat} (h : (s.accesses k sp n nd addr ls).2 = []) :
    (ls.filter fun l => decide (addr l % n ≠ 0)) = [] := by
  induction ls with
  | nil => rfl
  | cons l rest ih =>
    unfold State.accesses at h
    dsimp only at h
    split at h
    · rename_i a ha
      have hal : addr l % n = 0 := by
        refine Decidable.byContradiction fun hne => ?_
        rw [State.access, if_pos hne] at ha
        cases ha
      rw [List.filter_cons_of_neg (by simp [hal])]
      exact ih h
    · cases h

/-- On chip, with every access in its place, a store comes to its performance. -/
theorem storeTail_onChip {s : State} {x : Ctx} {sh : Shape} {g : XF} {m : MemForm} {ac : Lanes} {lanes : List Nat} {addr : Nat → Nat} (hsp : m.sp ≠ 0)
    (hr : (s.accesses x.crew m.sp (sizeBytes m.size) .store addr lanes).2 = []) :
    storeTail s x sh g m ac lanes addr = storeChip (s.popped x sh g ac) x ac m.sp
      ((s.accesses x.crew m.sp (sizeBytes m.size) .store addr lanes).1.map
        (withData (s.crew x.crew) ((s.crew x.crew).inHandler x.lanes) g m.size)) := by
  unfold storeTail
  simp [hsp, hr]

theorem exec_storeChip {s : State} {x : Ctx} {i : Instr} {g : XF} {m : MemForm} (e : exec i s = store s i.shape g m) :
    let c := s.crew x.crew
    let h := c.inHandler x.lanes
    let ac := act s x g
    let addr := memAddr c h g m
    let lanes := (memLanes g.sd ac).filter fun l => !s.protectedCrew x.crew || decide (l % 2 = 0)
    let r := s.accesses x.crew m.sp (sizeBytes m.size) .store addr lanes
    let accs := r.1.map (withData c h g m.size)
    readyOut s x i.shape g = true → 1 ≤ m.sp → m.sp ≤ 3 → c.queue = none → ac ≠ 0 → State.acqPending c ac = false →
    (m.ord = true → c.openChecks ac = false ∧ ((lanesOf ac).all fun l => s.fenceOk x.crew l m.scope) = true) →
    c.clsRoom 1 = true → storeMismatch s x ac addr (storeData c h g m.size) = false → r.2 = [] →
      ∃ t, exec i s = .next t ∧ t.mem = (accs.foldl State.storeHere s).mem ∧
        (∀ key, (∀ q ∈ accs, key ∉ q.keys) → t.mem.byte key = s.mem.byte key) ∧
        (∀ j, j ≠ x.crew → SMap.find? t.ex.crews j = SMap.find? s.ex.crews j) ∧ t.coh = s.coh ∧ t.tr = s.tr ∧ t.fr = s.fr ∧
        t.crew x.crew = goOnAll x ((popped s x i g).addOp
          { id := 0, kind := .store, cls := 1, pc := x.pc, lanes := ac, issued := s.ctr, accs := accs.map fun q => { q with stage := 1, wct := s.now } }) := by
  intro c h ac addr lanes r accs hready h1 h3 hq hac hacq hrel hroom hpairs hr
  have h0 : m.sp ≠ 0 := by omega
  have h4 : m.sp ≠ 4 := by omega
  have hlanes : storeLanes s x g m ac = lanes := by
    unfold storeLanes
    simp only [h4, decide_false, Bool.or_false]
    rfl
  have htail := exec_of_storeTail hready e ⟨.inl hq, hac, hacq, .inr hroom, hrel, hpairs⟩
  rw [hlanes, storeTail_onChip h0 hr, storeChip, if_neg h4, chipStores_eq fun s _ => MemOnly.refl s] at htail
  rw [settle_ok] at htail
  have hmem := foldl_storeHere_popped_mem accs s x i.shape g ac
  have hkeep := MemOnly.foldl memOnly_storeHere accs (s.popped x i.shape g ac)
  have hwent := wentOn (accs.foldl State.storeHere (s.popped x i.shape g ac)) x
    ((((accs.foldl State.storeHere (s.popped x i.shape g ac))).crew x.crew).addOp
      { id := 0, kind := .store, cls := 1, pc := x.pc, lanes := ac, accs := accs.map fun a => { a with stage := 1, wct := (s.popped x i.shape g ac).now },
        issued := (s.popped x i.shape g ac).ctr })
  refine ⟨_, htail, hwent.mem.trans hmem, fun key hkey => ?_, fun j hj => ?_, ?_, ?_, ?_, ?_⟩
  · exact (congrArg (·.byte key) (hwent.mem.trans hmem)).trans (foldl_storeHere_byte accs s key hkey)
  · exact (hwent.others j hj).trans ((congrArg (fun e => SMap.find? e.crews j) hkeep.ex).trans (popped_others s x i.shape g ac j hj))
  · exact hwent.coh.trans (hkeep.coh.trans (popped_keeps State.coh s x i.shape g ac fun _ => rfl))
  · exact hwent.tr.trans (hkeep.tr.trans (popped_keeps State.tr s x i.shape g ac fun _ => rfl))
  · exact hwent.fr.trans (hkeep.fr.trans (popped_fr ..))
  · refine hwent.crew.trans ?_
    rw [crew_of_ex hkeep.ex, popped_ctr, popped_keeps State.now s x i.shape g ac fun _ => rfl]
    rfl

theorem bufferStores_nil (s : State) (k : Nat) : bufferStores s k [] = (s, 0) := rfl

/-- A store to slices by lanes outside regions. -/
theorem storeChip_slice {s : State} {x : Ctx} {m : Lanes} {accs : List Acc} (hx : x.lanes ≠ 0) (hm : ∀ a ∈ accs, hasLane m a.lane = true)
    (hout : ∀ l, hasLane m l = true → ((s.crew x.crew).thread l).specAct = false) :
    storeChip s x m 4 accs = .ok ((accs.foldl State.storeHere s).advance x) := by
  have hinside : laneSet (fun l => hasLane m l && ((s.crew x.crew).thread l).specAct) = 0 := laneSet_eq_zero hout
  have hnone : (accs.filter fun a => hasLane (0 : Lanes) a.lane) = [] :=
    List.filter_eq_nil_iff.mpr fun a _ h => Bool.false_ne_true ((LaneSets.hasLane_zero a.lane).symm.trans h)
  have hall : (accs.filter fun a => hasLane m a.lane && !hasLane (0 : Lanes) a.lane) = accs :=
    List.filter_eq_self.mpr fun a ha => Bool.and_eq_true_iff.mpr ⟨hm a ha, congrArg (!·) (LaneSets.hasLane_zero a.lane)⟩
  unfold storeChip
  simp only [if_true, hinside, hnone, bufferStores_nil, regionSplit_zero, hall, if_neg hx]

theorem exec_storeSlice {s : State} {x : Ctx} {i : Instr} {g : XF} {m : MemForm} (e : exec i s = store s i.shape g m) :
    let c := s.crew x.crew
    let h := c.inHandler x.lanes
    let ac := act s x g
    let addr := memAddr c h g m
    let r := s.accesses x.crew 4 (sizeBytes m.size) .store addr (memLanes g.sd ac)
    let accs := r.1.map (withData c h g m.size)
    readyOut s x i.shape g = true → m.sp = 4 → ac ≠ 0 → State.acqPending c ac = false →
    (m.ord = true → c.openChecks ac = false ∧ ((lanesOf ac).all fun l => s.fenceOk x.crew l m.scope) = true) →
    storeMismatch s x ac addr (storeData c h g m.size) = false → r.2 = [] →
      ∃ t, exec i s = .next t ∧ t.mem = (accs.foldl State.storeHere s).mem ∧
        (∀ key, (∀ q ∈ accs, key ∉ q.keys) → t.mem.byte key = s.mem.byte key) ∧
        (∀ j, j ≠ x.crew → SMap.find? t.ex.crews j = SMap.find? s.ex.crews j) ∧ t.crew x.crew = goOnAll x (popped s x i g) := by
  intro c h ac addr r accs hready h4 hac hacq hrel hpairs hr
  have hcalm := calm_of_readyOut hready
  have hlanes : storeLanes s x g m ac = memLanes g.sd ac := by
    unfold storeLanes
    exact List.filter_eq_self.mpr fun l _ => by simp [h4]
  have haccs : ∀ a ∈ accs, hasLane ac a.lane = true := fun a ha => by
    obtain ⟨b, hb, rfl⟩ := List.mem_map.mp ha
    exact mem_memLanes (accesses_fresh hb).1
  have htail := exec_of_storeTail hready e ⟨.inr (.inr h4), hac, hacq, .inl h4, hrel, hpairs⟩
  rw [hlanes, storeTail_onChip (by omega) (by rw [h4]; exact hr), h4, storeChip_slice (lanes_ne_zero hac) haccs
    (fun l hl => by rw [popped_thread]; exact specAct_of_calm hcalm hl), settle_ok] at htail
  have hmem := foldl_storeHere_popped_mem accs s x i.shape g ac
  have hkeep := MemOnly.foldl memOnly_storeHere accs (s.popped x i.shape g ac)
  have hwent := wentOn_advance (accs.foldl State.storeHere (s.popped x i.shape g ac)) x
  refine ⟨_, htail, hwent.mem.trans hmem, fun key hkey => ?_, fun j hj => ?_, ?_⟩
  · exact (congrArg (·.byte key) (hwent.mem.trans hmem)).trans (foldl_storeHere_byte accs s key hkey)
  · exact (hwent.others j hj).trans ((congrArg (fun e => SMap.find? e.crews j) hkeep.ex).trans (popped_others s x i.shape g ac j hj))
  · exact hwent.crew.trans (congrArg (goOnAll x) (crew_of_ex hkeep.ex x.crew))

/-! ## Stores that fail -/

theorem accesses_snd (s : State) (k sp n : Nat) (nd : Need) (addr : Nat → Nat) (ls : List Nat) :
    (s.accesses k sp n nd addr ls).2 = ls.filterMap fun l => match s.access k l sp (addr l) n nd with
      | .error m => some (l, addr l, m)
      | .ok _ => none := by
  induction ls with
  | nil => rfl
  | cons l rest ih =>
    unfold State.accesses
    dsimp only
    cases ha : s.access k l sp (addr l) n nd with
    | ok a => rw [List.filterMap_cons, ha]; exact ih
    | error m => rw [List.filterMap_cons, ha]; exact congrArg _ ih

/-- Looking up the entry of a lane among those that some lanes have. -/
theorem find?_filterMap_lane {β : Type} {F : Nat → Option (Nat × β)} (hF : ∀ l b, F l = some b → b.1 = l) {ls : List Nat} {l : Nat} (hl : l ∈ ls) :
    (ls.filterMap F).find? (fun b => decide (b.1 = l)) = F l := by
  cases hfl : F l with
  | none =>
    refine List.find?_eq_none.mpr fun b hb => ?_
    obtain ⟨l', _, hl'⟩ := List.mem_filterMap.mp hb
    have hb1 := hF l' b hl'
    intro h
    rw [of_decide_eq_true h] at hb1
    rw [← hb1, hfl] at hl'
    cases hl'
  | some b =>
    cases hfind : (ls.filterMap F).find? fun b => decide (b.1 = l) with
    | none =>
      refine absurd (List.find?_eq_none.mp hfind b (List.mem_filterMap.mpr ⟨l, hl, hfl⟩)) ?_
      simp [hF l b hfl]
    | some b' =>
      obtain ⟨l', _, hl'⟩ := List.mem_filterMap.mp (List.mem_of_find?_eq_some hfind)
      have hl1 := (hF l' b' hl').symm.trans (of_decide_eq_true (List.find?_some (p := fun b : Nat × β => decide (b.1 = l)) hfind))
      rw [hl1, hfl] at hl'
      exact hl'.symm

/-- On chip an address is out of place by a fault alone. -/
theorem place_error_fault {s : State} {k lane sp a n : Nat} {nd : Need} {e : Miss} (h0 : sp ≠ 0) (h : s.place k lane sp a n nd = .error e) :
    ∃ d, e = .fault d := by
  unfold State.place at h
  dsimp only at h
  repeat' split at h
  all_goals first
    | exact absurd rfl h0
    | cases h <;> exact ⟨_, rfl⟩

/-- Why a store of a lane on chip fails, if it does: misaligned, or out of place. -/
def chipFail (s : State) (k sp n : Nat) (addr : Nat → Nat) (l : Nat) : Option Nat :=
  if addr l % n ≠ 0 then some 0x02
  else match s.place k l sp (addr l) n .store with
    | .error (.fault d) => some d
    | _ => none

theorem access_error_iff {s : State} {k sp n : Nat} {addr : Nat → Nat} (h0 : sp ≠ 0) (l : Nat) :
    (match s.access k l sp (addr l) n .store with
      | .error m => some (l, addr l, m)
      | .ok _ => none) = (chipFail s k sp n addr l).map fun d => (l, addr l, Miss.fault d) := by
  unfold State.access chipFail
  by_cases hal : addr l % n ≠ 0
  · rw [if_pos hal, if_pos hal]
    rfl
  · rw [if_neg hal, if_neg hal]
    cases hp : s.place k l sp (addr l) n .store with
    | ok p => rfl
    | error e =>
      obtain ⟨d, rfl⟩ := place_error_fault h0 hp
      rfl

/-- The lanes that fail, each with its reason, as the trap finds them. -/
theorem misFirst_eq {s : State} {k sp n : Nat} {addr : Nat → Nat} (h0 : sp ≠ 0) (lanes : List Nat) :
    misFirst n addr lanes (s.accesses k sp n .store addr lanes).2 =
      lanes.filterMap fun l => (chipFail s k sp n addr l).map fun d => (l, addr l, Miss.fault d) := by
  unfold misFirst
  refine ListFacts.filterMap_ext fun l hl => ?_
  rw [accesses_snd, find?_filterMap_lane (fun l b hb => by
    rw [access_error_iff h0] at hb
    obtain ⟨d, _, rfl⟩ := Option.map_eq_some_iff.mp hb
    rfl) hl, access_error_iff h0]
  split
  · rename_i hal
    rw [chipFail, if_pos hal]
    rfl
  · rfl

/-- A store with misses that are all faults traps in the lanes that fail. -/
theorem missed_of_faults {s : State} {x : Ctx} {lanes : List Nat} {F : Nat → Option Nat} {addr : Nat → Nat} {l k : Nat} {rest : List (Nat × Nat)}
    (h : (lanes.filterMap fun l => (F l).map fun d => (l, d)) = (l, k) :: rest) :
    s.missed x (lanes.filterMap fun l => (F l).map fun d => (l, addr l, Miss.fault d)) =
      .error (.trap ⟨1, k, laneSet fun j => ((l, k) :: rest).any fun q => decide (q.1 = j), addr l⟩) := by
  have hfaults (G : Nat × Nat × Miss → Option (Nat × Nat × Nat)) (hG : ∀ j d, G (j, addr j, .fault d) = some (j, addr j, d)) :
      (lanes.filterMap fun l => (F l).map fun d => (l, addr l, Miss.fault d)).filterMap G = ((l, k) :: rest).map fun q => (q.1, addr q.1, q.2) := by
    rw [← h, List.filterMap_filterMap, List.map_filterMap]
    refine ListFacts.filterMap_ext fun j _ => ?_
    cases F j with
    | none => rfl
    | some d => exact hG j d
  unfold State.missed
  dsimp only
  rw [hfaults _ fun _ _ => rfl, List.map_cons]
  dsimp only
  simp only [List.any_cons, List.any_map]
  rfl

theorem storeTail_fails_onChip {s : State} {x : Ctx} {sh : Shape} {g : XF} {m : MemForm} {ac : Lanes} {lanes : List Nat} {addr : Nat → Nat} (h0 : m.sp ≠ 0)
    {l k : Nat} {rest : List (Nat × Nat)}
    (h : (lanes.filterMap fun l => (chipFail s x.crew m.sp (sizeBytes m.size) addr l).map fun d => (l, d)) = (l, k) :: rest) :
    storeTail s x sh g m ac lanes addr = .error (.trap ⟨1, k, laneSet fun j => ((l, k) :: rest).any fun q => decide (q.1 = j), addr l⟩) := by
  have hne : (s.accesses x.crew m.sp (sizeBytes m.size) .store addr lanes).2 ≠ [] := by
    intro hnil
    have hl := misFirst_eq (s := s) (k := x.crew) (n := sizeBytes m.size) (addr := addr) h0 lanes
    obtain ⟨j, hj, hfail⟩ := List.mem_filterMap.mp (h ▸ List.mem_cons_self : (l, k) ∈ _)
    rw [accesses_snd] at hnil
    have := List.filterMap_eq_nil_iff.mp hnil j hj
    rw [access_error_iff h0] at this
    cases hc : chipFail s x.crew m.sp (sizeBytes m.size) addr j with
    | none => rw [hc] at hfail; cases hfail
    | some d => rw [hc] at this; cases this
  unfold storeTail
  dsimp only
  rw [decide_eq_false h0, Bool.false_and, if_neg Bool.false_ne_true, if_pos h0, if_pos (by simpa using hne), misFirst_eq h0]
  exact missed_of_faults h

theorem contains_eq_any (ls : List Nat) (j : Nat) : ls.contains j = (ls.map fun l => (l, (2 : Nat))).any fun q => decide (q.1 = j) := by
  rw [List.contains_eq_any_beq, List.any_map]
  refine congrArg ls.any (funext fun l => ?_)
  by_cases h : j = l
  · simp [h]
  · simp [h, Ne.symm h]

/-- In `.g` misalignment alone is found at the issue. -/
theorem storeTail_fails_global {s : State} {x : Ctx} {sh : Shape} {g : XF} {m : MemForm} {ac : Lanes} {lanes : List Nat} {addr : Nat → Nat} (h0 : m.sp = 0)
    {l k : Nat} {rest : List (Nat × Nat)}
    (h : (lanes.filterMap fun l => if addr l % sizeBytes m.size ≠ 0 then some (l, 0x02) else none) = (l, k) :: rest) :
    storeTail s x sh g m ac lanes addr = .error (.trap ⟨1, k, laneSet fun j => ((l, k) :: rest).any fun q => decide (q.1 = j), addr l⟩) := by
  have hmis : (lanes.filter fun l => decide (addr l % sizeBytes m.size ≠ 0)).map (fun l => (l, 0x02)) = (l, k) :: rest := by
    rw [← h, ← List.filterMap_eq_map, List.filterMap_filter]
    simp
  generalize hms : (lanes.filter fun l => decide (addr l % sizeBytes m.size ≠ 0)) = mis at hmis
  cases mis with
  | nil => cases hmis
  | cons l' rest' =>
    rw [List.map_cons] at hmis
    obtain ⟨hhead, rfl⟩ := List.cons.inj hmis
    obtain ⟨rfl, rfl⟩ := Prod.mk.inj hhead
    unfold storeTail
    dsimp only
    rw [hms, decide_eq_true h0]
    refine congrArg (fun m => Except.error (Stop.trap ⟨1, 2, m, addr l'⟩)) (congrArg laneSet (funext fun j => ?_))
    exact contains_eq_any (l' :: rest') j

theorem exec_store_fails {s : State} {x : Ctx} {i : Instr} {g : XF} {m : MemForm} (e : exec i s = store s i.shape g m) :
    let n := sizeBytes m.size
    let c := s.crew x.crew
    let h := c.inHandler x.lanes
    let ac := act s x g
    let addr := memAddr c h g m
    let lanes := (memLanes g.sd ac).filter fun l => !s.protectedCrew x.crew || decide (m.sp = 4) || decide (l % 2 = 0)
    let fails := lanes.filterMap fun l =>
      if addr l % n ≠ 0 then some (l, 0x02)
      else if m.sp = 0 then none
      else match s.place x.crew l m.sp (addr l) n .store with
        | .error (.fault k) => some (l, k)
        | _ => none
    readyOut s x i.shape g = true → m.sp ≤ 4 → (c.queue = none ∨ m.sp = 0 ∨ m.sp = 4) → ac ≠ 0 → State.acqPending c ac = false → (m.sp = 4 ∨ c.clsRoom 1 = true) →
    (m.ord = true → c.openChecks ac = false ∧ ((lanesOf ac).all fun l => s.fenceOk x.crew l m.scope) = true) →
    storeMismatch s x ac addr (storeData c h g m.size) = false →
      ∀ l k rest, fails = (l, k) :: rest →
        exec i s = .next (s.raise x ac ⟨1, k, laneSet fun j => fails.any fun q => decide (q.1 = j), addr l⟩) := by
  intro n c h ac addr lanes fails hready _ hq hac hacq hroom hrel hpairs l k rest hfails
  have htail := exec_of_storeTail hready e ⟨hq, hac, hacq, hroom, hrel, hpairs⟩
  rw [hfails]
  by_cases h0 : m.sp = 0
  · have hglobal : (lanes.filterMap fun l => if addr l % sizeBytes m.size ≠ 0 then some (l, 0x02) else none) = (l, k) :: rest := by
      rw [← hfails]
      refine ListFacts.filterMap_ext fun j _ => ?_
      rw [if_pos h0]
    exact htail.trans (congrArg (fun r => Host.Outcome.next (settle s x ac r)) (storeTail_fails_global h0 hglobal))
  · have hchip : (lanes.filterMap fun l => (chipFail s x.crew m.sp (sizeBytes m.size) addr l).map fun d => (l, d)) = (l, k) :: rest := by
      rw [← hfails]
      refine ListFacts.filterMap_ext fun j _ => ?_
      rw [if_neg h0, chipFail, apply_ite (Option.map fun d => (j, d))]
      refine ite_congr rfl (fun _ => rfl) fun _ => ?_
      cases s.place x.crew j m.sp (addr j) n .store with
      | ok p => rfl
      | error e => cases e <;> rfl
    exact htail.trans (congrArg (fun r => Host.Outcome.next (settle s x ac r)) (storeTail_fails_onChip h0 hchip))

/-- Settles O17: the short forms and ST are one store; on chip its bytes are written, or its lanes that fail trap. -/
theorem onChipStoresWriteTheirBytes : Obligations.OnChipStoresWriteTheirBytes := by
  unfold Obligations.OnChipStoresWriteTheirBytes
  refine ⟨⟨fun s x d a b f => ?onChip, fun s x f => exec_storeSlice (exec_st s f)⟩, fun s x d a b f => ?fails⟩
  case onChip =>
    refine List.forall_mem_cons.mpr ⟨exec_storeChip (exec_stCB32 s d a b), List.forall_mem_cons.mpr ⟨exec_storeChip (exec_stCB32X s f), ?_⟩⟩
    exact List.forall_mem_singleton.mpr (exec_storeChip (exec_st s f))
  case fails =>
    refine List.forall_mem_cons.mpr ⟨exec_store_fails (exec_stCB32 s d a b), List.forall_mem_cons.mpr ⟨exec_store_fails (exec_stCB32X s f), ?_⟩⟩
    refine List.forall_mem_cons.mpr ⟨exec_store_fails (exec_stGB32 s d a b), List.forall_mem_cons.mpr ⟨exec_store_fails (exec_stGB32X s f), ?_⟩⟩
    exact List.forall_mem_singleton.mpr (exec_store_fails (exec_st s f))

end Sys2Proof.Proofs.Stores
end

section
/-! PROOF. Stores to `.g` (R49, R260, R261): they leave issue with their checks open (O18). -/

namespace Sys2Proof.Proofs.GlobalStores

open Sys2Proof.Machine Sys2Proof.Safety Sys2Proof.Proofs.Lives Sys2Proof.Proofs.Control Sys2Proof.Proofs.Loads Sys2Proof.Proofs.Stores

/-! ## What translating and passing the L1 leave as they were -/

/-- Translating addresses changes the TLBs and the walks alone. -/
theorem translated_eq (s : State) (k : Nat) (vas : List Nat) : ∃ tr, s.translated k vas = { s with tr := tr } := by
  unfold State.translated
  generalize vas.filterMap (s.xlateOf k) = ts
  have hfold : ∃ tr, ts.foldl (fun s t => s.useData (coreOf k) t) s = { s with tr := tr } := by
    induction ts generalizing s with
    | nil => exact ⟨s.tr, rfl⟩
    | cons t rest ih =>
      obtain ⟨tr, htr⟩ := ih (s.useData (coreOf k) t)
      exact ⟨tr, htr⟩
  obtain ⟨tr, htr⟩ := hfold
  rw [htr, State.dropEnds]
  split
  · exact ⟨tr, rfl⟩
  · exact ⟨_, rfl⟩

/-- A crew has translated addresses and elements have left its ports: memory, the counter and everything but the TLBs and the crew's streams are as they were. -/
theorem translated_popped (s : State) (vas : List Nat) (x : Ctx) (sh : Shape) (f : XF) (m : Lanes) :
    ((s.translated x.crew vas).popped x sh f m).mem = s.mem ∧ ((s.translated x.crew vas).popped x sh f m).ex = (s.popped x sh f m).ex ∧
      ((s.translated x.crew vas).popped x sh f m).ctr = s.ctr := by
  obtain ⟨tr, htr⟩ := translated_eq s x.crew vas
  refine ⟨by rw [popped_mem, htr], ?_, by rw [popped_ctr, htr]⟩
  rw [htr]
  unfold State.popped
  split <;> rfl

/-- Nothing but the L1s has changed. -/
def L1Only (s t : State) : Prop := ∃ l1, t = { s with coh := { s.coh with l1 := l1 } }

theorem L1Only.refl (s : State) : L1Only s s := ⟨s.coh.l1, rfl⟩

theorem L1Only.foldl {α : Type} {f : State → α → State} (h : ∀ t a, L1Only t (f t a)) (l : List α) (s : State) : L1Only s (l.foldl f s) := by
  induction l generalizing s with
  | nil => exact refl s
  | cons a rest ih =>
    obtain ⟨l1, h1⟩ := h s a
    obtain ⟨l2, h2⟩ := ih (f s a)
    exact ⟨l2, h2.trans (by rw [h1])⟩

theorem l1Only_passL1 (s : State) (core prt : Nat) (bs : List (Nat × Byte)) : L1Only s (s.passL1 core prt bs) := by
  unfold State.passL1
  refine L1Only.foldl (fun t p => ?_) bs s
  split
  · exact ⟨_, rfl⟩
  · exact .refl t

/-! ## A store to `.g` that nothing stops (O18) -/

/-- In `.g`, with every access in its place and room for the store's checks, the store leaves issue. -/
theorem storeTail_global {s : State} {x : Ctx} {sh : Shape} {g : XF} {m : MemForm} {ac : Lanes} {lanes : List Nat} {addr : Nat → Nat} (h0 : m.sp = 0)
    (hr : (s.accesses x.crew 0 (sizeBytes m.size) .store addr lanes).2 = [])
    (hnib : m.size = 7 → ∀ q ∈ (s.accesses x.crew 0 (sizeBytes m.size) .store addr lanes).1, q.loc < 2)
    (hroom : ((s.crew x.crew).inHandler x.lanes || decide ((s.quad (quadOf x.crew)).sfq.length + s.openStores (quadOf x.crew) < 32)) = true) :
    storeTail s x sh g m ac lanes addr = storeGo ((s.translated x.crew ((s.accesses x.crew 0 (sizeBytes m.size) .store addr lanes).1.map (·.addr))).popped x sh g ac) x ac
      ((s.accesses x.crew 0 (sizeBytes m.size) .store addr lanes).1.map (withData (s.crew x.crew) ((s.crew x.crew).inHandler x.lanes) g m.size)) [] := by
  have hremote : (((s.accesses x.crew 0 (sizeBytes m.size) .store addr lanes).1.map (withData (s.crew x.crew) ((s.crew x.crew).inHandler x.lanes) g m.size)).filter
      fun a => decide (m.size = 7) && decide (2 ≤ a.loc)) = [] := by
    refine List.filter_eq_nil_iff.mpr fun a ha h => ?_
    obtain ⟨q, hq, rfl⟩ := List.mem_map.mp ha
    obtain ⟨h7, h2⟩ := (Bool.and_eq_true ..).mp h
    exact absurd (hnib (of_decide_eq_true h7) q hq) (Nat.not_lt.mpr (of_decide_eq_true h2))
  have hhold : (!(s.crew x.crew).inHandler x.lanes && decide (32 ≤ (s.quad (quadOf x.crew)).sfq.length + s.openStores (quadOf x.crew))) = false := by
    rw [Bool.and_eq_false_iff]
    refine ((Bool.or_eq_true ..).mp hroom).imp (fun h => by rw [h]; rfl) fun h => ?_
    exact decide_eq_false (Nat.not_le.mpr (of_decide_eq_true h))
  unfold storeTail
  simp only [h0, accesses_aligned hr, hr, hremote, hhold]
  simp [ListFacts.filter_const_true, ListFacts.filterMap_const_none]

/-- A store of lanes outside regions leaves issue as `storeG` says. -/
theorem storeGo_of_calm {s : State} {x : Ctx} {m : Lanes} {accs : List Acc} (hx : x.lanes ≠ 0) (hm : m ≠ 0) (hmine : ∀ a ∈ accs, hasLane m a.lane = true)
    (hout : ∀ l, hasLane m l = true → ((s.crew x.crew).thread l).specAct = false) :
    storeGo s x m accs [] = .ok ((storeG s x m accs []).advance x) := by
  have hfar : laneSet (fun l => ((s.crew x.crew).thread l).specAct && accs.any fun a => decide (a.lane = l) && decide (2 ≤ a.loc)) = 0 := by
    rw [LaneSets.eq_zero_iff]
    intro l
    rw [LaneSets.hasLane_laneSet, Bool.and_eq_false_iff]
    refine .inr (Bool.eq_false_iff.mpr fun h => ?_)
    obtain ⟨hspec, hany⟩ := (Bool.and_eq_true ..).mp h
    obtain ⟨a, ha, hloc⟩ := List.any_eq_true.mp hany
    rw [hout l (of_decide_eq_true ((Bool.and_eq_true ..).mp hloc).1 ▸ hmine a ha)] at hspec
    cases hspec
  have hbuffer : (accs.filter fun a => hasLane m a.lane && ((s.crew x.crew).thread a.lane).specAct) = [] :=
    List.filter_eq_nil_iff.mpr fun a ha h => by
      rw [hout a.lane (hmine a ha), Bool.and_false] at h
      cases h
  have hlanes : laneSet (fun l => hasLane m l && !((s.crew x.crew).thread l).specAct) = m := LaneSets.eq_of_hasLane fun l => by
    rw [LaneSets.hasLane_laneSet_and]
    cases hl : hasLane m l with
    | false => rfl
    | true => rw [hout l hl]; rfl
  have hall : (accs.filter fun a => hasLane m a.lane) = accs := List.filter_eq_self.mpr hmine
  unfold storeGo
  simp only [List.find?_nil, hfar, regionSplit_zero, hbuffer, bufferStores_nil, hlanes, if_neg hx, if_neg hm, hall]

/-- The crew once a store to `.g` has entered its operation, its checks open. -/
def openStore (c : Crew) (x : Ctx) (m : Lanes) (accs : List Acc) (ctr : Nat) : Crew :=
  let c' := c.addOp
    { id := 0, kind := .store, cls := 1, pc := x.pc, lanes := m, accs := accs, checked := false, issued := ctr, masked := c.inHandler x.lanes, errCls := noTrap }
  if c.inHandler x.lanes then c' else c'.mapLanes m fun _ u => { u with skid := u.skid ++ [(c.nextOp, 0)] }

theorem no_bad_lanes : laneSet (fun l => ([] : List (Nat × Nat × Nat)).any fun b => decide (b.1 = l)) = 0 :=
  LaneSets.eq_zero_iff.mpr fun l => by rw [LaneSets.hasLane_laneSet, List.any_nil, Bool.and_false]

/-- A store whose checks find nothing passes the L1 and enters its operation. -/
theorem storeG_eq (s : State) (x : Ctx) (m : Lanes) (accs : List Acc) :
    ∃ t : State, t.mem = s.mem ∧ t.ex = s.ex ∧ storeG s x m accs [] = t.setCrew x.crew (openStore (s.crew x.crew) x m accs s.ctr) := by
  have hpass : ∃ F : State → Acc → State, (∀ t a, L1Only t (F t a)) ∧
      storeG s x m accs [] = (accs.foldl F s).setCrew x.crew
        (let c := ((accs.foldl F s).crew x.crew).addOp
          { id := 0, kind := .store, cls := 1, pc := x.pc, lanes := m, accs := accs, checked := false, issued := (accs.foldl F s).ctr,
            masked := (s.crew x.crew).inHandler x.lanes, bad := laneSet fun l => ([] : List (Nat × Nat × Nat)).any fun b => decide (b.1 = l), errCls := noTrap }
        if (s.crew x.crew).inHandler x.lanes then c else c.mapLanes m fun _ t => { t with skid := t.skid ++ [(c.nextOp - 1, 0)] }) := by
    refine ⟨_, fun t a => ?_, rfl⟩
    split
    · exact .refl t
    · exact l1Only_passL1 _ _ _ _
  obtain ⟨F, hF, hstore⟩ := hpass
  obtain ⟨l1, hl1⟩ := L1Only.foldl hF accs s
  refine ⟨accs.foldl F s, by rw [hl1], by rw [hl1], hstore.trans ?_⟩
  rw [hl1, no_bad_lanes]
  rfl

/-- The operation of the store, as the statement writes it. -/
theorem openStore_popped (s : State) (x : Ctx) (i : Instr) (g : XF) (m : Lanes) (accs : List Acc) (ctr : Nat) :
    openStore (popped s x i g) x m accs ctr =
      (let c' := (popped s x i g).addOp
        { id := 0, kind := .store, cls := 1, pc := x.pc, lanes := m, accs := accs, checked := false, issued := ctr,
          masked := (s.crew x.crew).inHandler x.lanes, errCls := noTrap }
      if (s.crew x.crew).inHandler x.lanes then c' else c'.mapLanes m fun _ u => { u with skid := u.skid ++ [((s.crew x.crew).nextOp, 0)] }) := by
  have hnext : (popped s x i g).nextOp = (s.crew x.crew).nextOp :=
    popped_keeps (fun t => (t.crew x.crew).nextOp) s x i.shape g (act s x g) fun st => by rw [State.crew_setCrew_self]
  unfold openStore
  rw [show (popped s x i g).inHandler x.lanes = (s.crew x.crew).inHandler x.lanes from popped_inHandler s x i.shape g (act s x g) x.lanes, hnext]

theorem wentOn_openStore {s : State} {x : Ctx} {i : Instr} {g : XF} {m : MemForm} (e : exec i s = store s i.shape g m) :
    let c := s.crew x.crew
    let h := c.inHandler x.lanes
    let ac := act s x g
    let addr := memAddr c h g m
    let lanes := (memLanes g.sd ac).filter fun l => !s.protectedCrew x.crew || decide (l % 2 = 0)
    let r := s.accesses x.crew 0 (sizeBytes m.size) .store addr lanes
    let accs := r.1.map (withData c h g m.size)
    readyOut s x i.shape g = true → m.sp = 0 → (m.size = 7 → ∀ q ∈ r.1, q.loc < 2) → ac ≠ 0 → State.acqPending c ac = false → c.clsRoom 1 = true →
    (m.ord = true → c.openChecks ac = false ∧ ((lanesOf ac).all fun l => s.fenceOk x.crew l m.scope) = true) →
    storeMismatch s x ac addr (storeData c h g m.size) = false → r.2 = [] →
    (h || decide ((s.quad (quadOf x.crew)).sfq.length + s.openStores (quadOf x.crew) < 32)) = true →
      ∃ t, exec i s = .next t ∧ (∀ key, t.mem.byte key = s.mem.byte key) ∧
        (∀ j, j ≠ x.crew → SMap.find? t.ex.crews j = SMap.find? s.ex.crews j) ∧
        t.crew x.crew = goOnAll x
          (let c' := (popped s x i g).addOp
            { id := 0, kind := .store, cls := 1, pc := x.pc, lanes := ac, accs := accs, checked := false, issued := s.ctr, masked := h, errCls := noTrap }
          if h then c' else c'.mapLanes ac fun _ u => { u with skid := u.skid ++ [(c.nextOp, 0)] }) := by
  intro c h ac addr lanes r accs hready h0 hnib hac hacq hroom hrel hpairs hr hfull
  have hlanes : storeLanes s x g m ac = lanes := by
    unfold storeLanes
    rw [h0]
    simp [lanes]
  have hmine : ∀ a ∈ accs, hasLane ac a.lane = true := fun a ha => by
    obtain ⟨q, hq, rfl⟩ := List.mem_map.mp ha
    exact mem_memLanes (List.filter_sublist.subset (accesses_fresh hq).1)
  have hexec := exec_of_storeTail hready e ⟨.inr (.inl h0), hac, hacq, .inr hroom, hrel, hpairs⟩
  obtain ⟨hmem, hex, hctr⟩ := translated_popped s (r.1.map (·.addr)) x i.shape g ac
  have htail := storeTail_global (sh := i.shape) (g := g) (ac := ac) h0 hr hnib hfull
  generalize (s.translated x.crew (r.1.map (·.addr))).popped x i.shape g ac = u at hmem hex hctr htail
  have hcrew : u.crew x.crew = popped s x i g := crew_of_ex hex x.crew
  have hout : ∀ l, hasLane ac l = true → ((u.crew x.crew).thread l).specAct = false := fun l hl => by
    rw [hcrew]
    exact (congrArg Thread.specAct (popped_thread s x i.shape g ac l)).trans (specAct_of_calm (calm_of_readyOut hready) hl)
  obtain ⟨t, htmem, htex, hstore⟩ := storeG_eq u x ac accs
  rw [storeGo_of_calm (lanes_ne_zero hac) hac hmine hout, hstore, hcrew, hctr] at htail
  rw [hlanes, htail] at hexec
  obtain ⟨hwmem, hwothers, -, -, -, hwcrew⟩ := wentOn t x (openStore (popped s x i g) x ac accs s.ctr)
  refine ⟨_, hexec, fun key => ?_, fun j hj => ?_, hwcrew.trans (by rw [openStore_popped])⟩
  · exact congrArg (fun m : Mem => m.byte key) (hwmem.trans (htmem.trans hmem))
  · rw [← popped_others s x i.shape g ac j hj]
    exact (hwothers j hj).trans (by rw [htex, hex])

/-- Settles O18: the short forms and ST are one store; in `.g` it leaves issue with its operation entered. -/
theorem globalStoresLeaveIssue : Obligations.GlobalStoresLeaveIssue := by
  unfold Obligations.GlobalStoresLeaveIssue
  intro s x d a b f
  refine List.forall_mem_cons.mpr ⟨wentOn_openStore (exec_stGB32 s d a b), List.forall_mem_cons.mpr ⟨wentOn_openStore (exec_stGB32X s f), ?_⟩⟩
  exact List.forall_mem_singleton.mpr (wentOn_openStore (exec_st s f))

end Sys2Proof.Proofs.GlobalStores
end

section
/-! PROOF. Full/empty granules (R41, R42, R264, R265): what LDFE, STFE, FESET and FECLR do with the bits and with bytes (O16). -/

namespace Sys2Proof.Proofs.Granules

open Sys2Proof.Machine Sys2Proof.Safety Sys2Proof.Proofs.Lives Sys2Proof.Proofs.Control Sys2Proof.Proofs.Loads Sys2Proof.Proofs.Stores

/-! ## The table of full/empty bits -/

/-- The state with another table of full/empty bits. -/
def withFe (s : State) (e : SMap Bool) : State := { s with mem := { s.mem with fe := e } }

theorem writeAll_fe (bs : List (Nat × Byte)) (m : Mem) (e : SMap Bool) : ({ m with fe := e } : Mem).writeAll bs = { m.writeAll bs with fe := e } := by
  induction bs generalizing m with
  | nil => rfl
  | cons p rest ih => exact ih (m.setByte p.1 p.2)

theorem performBytes_withFe (s : State) (e : SMap Bool) (bs : List (Nat × Byte)) : (withFe s e).performBytes bs = withFe (s.performBytes bs) e := by
  unfold State.performBytes
  dsimp only
  rw [show (withFe s e).mem.writeAll _ = _ from writeAll_fe _ s.mem e]
  rfl

theorem storeHere_withFe (s : State) (e : SMap Bool) (a : Acc) : (withFe s e).storeHere a = withFe (s.storeHere a) e := by
  unfold State.storeHere
  split
  · rfl
  · exact performBytes_withFe s e _

/-- The table once each of some granules is set or cleared. -/
def fillGrans (b : Bool) (e : SMap Bool) (grans : List Nat) : SMap Bool := grans.foldl (fun e g => SMap.set false e g b) e

theorem get_fillGrans (b : Bool) (grans : List Nat) (e : SMap Bool) (g : Nat) :
    SMap.get false (fillGrans b e grans) g = if g ∈ grans then b else SMap.get false e g := by
  induction grans generalizing e with
  | nil => rfl
  | cons j rest ih =>
    refine (ih (SMap.set false e j b)).trans ?_
    by_cases hrest : g ∈ rest
    · rw [if_pos hrest, if_pos (List.mem_cons_of_mem _ hrest)]
    · rw [if_neg hrest]
      by_cases hj : g = j
      · rw [hj, SMap.get_set_self, if_pos List.mem_cons_self]
      · rw [SMap.get_set_ne _ _ _ _ _ hj, if_neg (fun h => (List.mem_cons.mp h).elim hj hrest)]

/-- Stores on chip each followed by its granules' bits: the bytes as without, and the bits. -/
theorem foldl_storeHere_setGrans (G : Acc → List Nat) (b : Bool) (accs : List Acc) (s : State) (e : SMap Bool) :
    accs.foldl (fun s a => (s.storeHere a).setGrans (G a) b) (withFe s e) =
      withFe (accs.foldl State.storeHere s) (accs.foldl (fun e a => fillGrans b e (G a)) e) := by
  induction accs generalizing s e with
  | nil => rfl
  | cons a rest ih =>
    refine Eq.trans ?_ (ih (s.storeHere a) (fillGrans b e (G a)))
    rw [List.foldl_cons, storeHere_withFe]
    rfl

/-! ## LDFE (R42, R264) -/

/-- What an LDFE finds where its granule's bit is `full`. -/
def foundFe (s : State) (full : Bool) (a : Acc) : Acc :=
  { a with data := overlay (a.keys.map s.mem.byte) a.overlaid, pois := s.poisonWords a.keys, stage := 1, found := full }

/-- An access of an LDFE once it has been presented, its granule's bit being `full`. -/
def presentedFe (s : State) (full o0 : Bool) (tmo : Nat) (a : Acc) : Acc :=
  if full = true ∨ o0 = false then foundFe s full a
  else if tmo ≠ 0 then a else { a with data := a.keys.map fun _ => 0, stage := 1, found := false, pois := 0 }

theorem presentFe_eq {s : State} {e : SMap Bool} {a : Acc} {full : Bool} (h : SMap.get false e a.gran = full) (clr o0 : Bool) (tmo : Nat) :
    let p := (withFe s e).presentFe clr (o0 && decide (tmo ≠ 0)) a
    p.1 = withFe s (if clr && full then SMap.set false e a.gran false else e) ∧
      (if o0 && !(o0 && decide (tmo ≠ 0)) && !p.2.found then p.2.expire else p.2) = presentedFe s full o0 tmo a := by
  unfold State.presentFe
  rw [show SMap.get false (withFe s e).mem.fe a.gran = full from h]
  cases full with
  | true =>
    cases clr
    all_goals exact ⟨rfl, by rw [if_neg (by simp)]; rfl⟩
  | false =>
    rw [Bool.and_false]
    cases o0 with
    | false => exact ⟨rfl, rfl⟩
    | true =>
      by_cases htmo : tmo ≠ 0
      · refine ⟨by rw [decide_eq_true htmo]; rfl, ?_⟩
        rw [decide_eq_true htmo, presentedFe, if_neg (show ¬(false = true ∨ true = false) by decide), if_pos htmo]
        rfl
      · refine ⟨by rw [decide_eq_false htmo]; rfl, ?_⟩
        rw [decide_eq_false htmo, presentedFe, if_neg (show ¬(false = true ∨ true = false) by decide), if_neg htmo]
        rfl

/-- Accesses presented in lane order whose granules all agree. -/
theorem foldl_presentFe {s : State} {clr o0 full : Bool} {tmo : Nat} (accs : List Acc) (e : SMap Bool) (done : List Acc)
    (hfull : ∀ a ∈ accs, SMap.get false e a.gran = full) (hdistinct : clr = true → full = true → (accs.map (·.gran)).Nodup) :
    accs.foldl (fun (st : State × List Acc) a =>
        ((st.1.presentFe clr (o0 && decide (tmo ≠ 0)) a).1, st.2 ++ [if o0 && !(o0 && decide (tmo ≠ 0)) && !(st.1.presentFe clr (o0 && decide (tmo ≠ 0)) a).2.found
          then (st.1.presentFe clr (o0 && decide (tmo ≠ 0)) a).2.expire else (st.1.presentFe clr (o0 && decide (tmo ≠ 0)) a).2])) (withFe s e, done) =
      (withFe s (if clr && full then fillGrans false e (accs.map (·.gran)) else e), done ++ accs.map (presentedFe s full o0 tmo)) := by
  induction accs generalizing e done with
  | nil => simp [fillGrans]
  | cons a rest ih =>
    obtain ⟨hstate, hacc⟩ := presentFe_eq (s := s) (hfull a List.mem_cons_self) clr o0 tmo
    rw [List.foldl_cons, hstate, hacc, ih]
    · cases hcf : clr && full with
      | false => simp
      | true => simp [fillGrans]
    · intro b hb
      cases hcf : clr && full with
      | false => exact hfull b (List.mem_cons_of_mem _ hb)
      | true =>
        obtain ⟨hclr, hf⟩ := (Bool.and_eq_true ..).mp hcf
        have hne : b.gran ≠ a.gran := fun heq => by
          have hnodup := hdistinct hclr hf
          rw [List.map_cons, List.nodup_cons] at hnodup
          exact hnodup.1 (heq ▸ List.mem_map_of_mem hb)
        rw [if_pos rfl, SMap.get_set_ne _ _ _ _ _ hne]
        exact hfull b (List.mem_cons_of_mem _ hb)
    · intro hclr hf
      exact (List.nodup_cons.mp (hdistinct hclr hf)).2

theorem popped_withFe (s : State) (e : SMap Bool) (x : Ctx) (sh : Shape) (f : XF) (m : Lanes) : (withFe s e).popped x sh f m = withFe (s.popped x sh f m) e := by
  unfold State.popped
  split <;> rfl

/-- The crew once an LDFE has entered its operation: its destinations are EMPTY, or have returned at once (R264). -/
def feCrew (c : Crew) (h : Bool) (f : XF) (dests : List (Option Nat × Nat)) (o : Op) : Crew :=
  let c' := c.addOp o
  if f.o0 || decide (f.space = 2) then c'.markEmpty (c'.realDests h dests)
  else match c'.findOp (c'.nextOp - 1) with
    | some o => (returnAccs c' o).modOp o.id fun o => { o with done := false }
    | none => c'

theorem exec_ldfe_found (s : State) (x : Ctx) (f : XF) (full : Bool) :
    let m : MemForm := { sp := f.space, size := f.vN, disp := f.w2.toInt }
    let c := s.crew x.crew
    let h := c.inHandler x.lanes
    let ac := act s x f
    let r := s.accesses x.crew m.sp (sizeBytes m.size) .load (memAddr c h f m) (memLanes f.sd ac)
    let grans := r.1.map (·.gran)
    let d := (popped s x (.ldfe f) f).destinations (Instr.ldfe f).shape f x.pc ac (r.1.flatMap fun q => sizeDests m.size f.sd f.d.toNat q.lane)
    let dests := d.2
    let tmo := bits f.b.toNat 7 3
    readyOut s x (Instr.ldfe f).shape f = true → c.queue = none → ac ≠ 0 → State.acqPending c ac = false → c.clsRoom 0 = true → r.2 = [] →
    (grans.all fun g => decide (SMap.get false s.mem.fe g = full)) = true → (f.o1 = true → full = true → grans.Nodup) →
      let o : Op :=
        { id := 0, kind := .ldfe, cls := 0, pc := x.pc, lanes := ac, dests := dests, fmt := m.size, d := f.d.toNat, sd := f.sd, pred := f.c.toNat,
          clr := f.o1, issued := s.ctr, masked := h, deadline := if f.o0 && decide (tmo ≠ 0) then some (s.now + 2 ^ (tmo + 3)) else none
          accs := r.1.map (presentedFe s full f.o0 tmo) }
      let c' := d.1.addOp o
      ∃ t, exec (.ldfe f) s = .next t ∧ (∀ key, t.mem.byte key = s.mem.byte key) ∧
        t.mem.fe = (if f.o1 && full then fillGrans false s.mem.fe grans else s.mem.fe) ∧
        (∀ j, j ≠ x.crew → SMap.find? t.ex.crews j = SMap.find? s.ex.crews j) ∧
        t.crew x.crew = goOnAll x
          (if f.o0 || decide (m.sp = 2) then c'.markEmpty (c'.realDests h dests)
          else match c'.findOp (c'.nextOp - 1) with
            | some o => (returnAccs c' o).modOp o.id fun o => { o with done := false }
            | none => c') := by
  intro m c h ac r grans d dests tmo hready hq hac hacq hroom hr hgrans hdistinct o c'
  have hmay := ready_may (ready_of_readyOut hready)
  have hfold := foldl_presentFe (s := s) (o0 := f.o0) (tmo := tmo) r.1 s.mem.fe []
    (fun a ha => of_decide_eq_true (List.all_eq_true.mp hgrans a.gran (List.mem_map_of_mem ha))) hdistinct
  have hexec : exec (.ldfe f) s = .next (((withFe s (if f.o1 && full then fillGrans false s.mem.fe grans else s.mem.fe)).setCrew x.crew
      (feCrew d.1 h f dests o)).advance x).endIssue := by
    rw [exec_ldfe, execLdfe, outside_of_calm (may_iff.mp hmay).1 (calm_of_readyOut hready), guarded_of_may hmay]
    dsimp only
    rw [show (s.crew x.crew).queue.isSome = false by rw [hq]; rfl]
    rw [if_neg Bool.false_ne_true, if_neg hac, show (State.acqPending (s.crew x.crew) (act s x f) || !(s.crew x.crew).clsRoom 0) = false by rw [hacq, hroom]; rfl,
      if_neg Bool.false_ne_true, hr, if_neg (by simp)]
    rw [show withFe s s.mem.fe = s from rfl, List.nil_append] at hfold
    rw [hfold, popped_withFe, settle_ok]
    rfl
  obtain ⟨hmem, hothers, -, -, -, hcrew⟩ := wentOn (withFe s (if f.o1 && full then fillGrans false s.mem.fe grans else s.mem.fe)) x (feCrew d.1 h f dests o)
  exact ⟨_, hexec, fun key => (congrArg (fun m : Mem => m.byte key) hmem).trans rfl, congrArg Mem.fe hmem, hothers, hcrew⟩

/-! ## STFE, FESET and FECLR (R264, R265) -/

/-- The bytes of a lane's store where its address is in place. -/
def storeKeys (s : State) (k sp n : Nat) (addr : Nat → Nat) (l : Nat) : List Nat :=
  match s.place k l sp (addr l) n .store with
  | .ok q => s.placeKeys q n
  | .error _ => []

/-- The granule of a lane's store where its address is in place. -/
def storeGran (s : State) (k sp n : Nat) (addr : Nat → Nat) (l : Nat) : Nat :=
  match s.place k l sp (addr l) n .store with
  | .ok q => (q.scr.map fun e => s.scrKey e.1 e.2 (q.base - q.base % 16)).getD 0
  | .error _ => 0

/-- The granule that a place lies in. -/
def placeGran (s : State) (q : Place) : Nat :=
  match q.scr with
  | some (core, prt) => s.scrKey core prt (q.base - q.base % 16)
  | none => 0

theorem placeGran_eq (s : State) (q : Place) : placeGran s q = (q.scr.map fun e => s.scrKey e.1 e.2 (q.base - q.base % 16)).getD 0 := by
  unfold placeGran
  cases q.scr with
  | none => rfl
  | some e =>
    obtain ⟨core, prt⟩ := e
    rw [Option.map_some, Option.getD_some]

/-- The core of a lane's store where its address is in place. -/
def storeTarget (s : State) (k sp n : Nat) (addr : Nat → Nat) (l : Nat) : Nat :=
  match s.place k l sp (addr l) n .store with
  | .ok q => (q.scr.map (·.1)).getD 0
  | .error _ => 0

/-- The access of a lane's store on chip, before it has data. -/
def storeAcc (s : State) (k sp n : Nat) (addr : Nat → Nat) (l : Nat) : Acc :=
  { lane := l, space := sp, addr := addr l, keys := storeKeys s k sp n addr l, target := storeTarget s k sp n addr l, gran := storeGran s k sp n addr l }

/-- The place of an address is there. -/
def inPlace (s : State) (k sp n : Nat) (addr : Nat → Nat) (l : Nat) : Bool :=
  match s.place k l sp (addr l) n .store with
  | .ok _ => true
  | .error _ => false

theorem place_of_inPlace {s : State} {k sp n : Nat} {addr : Nat → Nat} {l : Nat} (h : inPlace s k sp n addr l = true) :
    ∃ q, s.place k l sp (addr l) n .store = .ok q := by
  unfold inPlace at h
  split at h
  · exact ⟨_, ‹_›⟩
  · cases h

theorem filterMap_eq_map_of {α β : Type} {F : α → Option β} {g : α → β} {ls : List α} (h : ∀ l ∈ ls, F l = some (g l)) : ls.filterMap F = ls.map g :=
  (ListFacts.filterMap_ext h).trans (congrFun (List.filterMap_eq_map) ls)

theorem exec_chipStoreOp {s : State} {x : Ctx} {i : Instr} {f : XF} {sp n al : Nat} {data : Crew → Bool → Acc → Acc} {val : Crew → Bool → Nat → Nat}
    {G : Acc → List Nat} {b : Bool}
    (e : exec i s = chipStoreOp s i.shape f sp n f.w2.toInt al data val fun s a => s.setGrans (G a) b) :
    let c := s.crew x.crew
    let h := c.inHandler x.lanes
    let ac := act s x f
    let addr := memAddr c h f { sp := sp, size := 4, disp := f.w2.toInt }
    let lanes := (memLanes f.sd ac).filter fun l => !s.protectedCrew x.crew || decide (l % 2 = 0)
    let accs := lanes.map fun l => data c h (storeAcc s x.crew sp n addr l)
    readyOut s x i.shape f = true → c.queue = none → ac ≠ 0 → State.acqPending c ac = false → c.clsRoom 1 = true →
    storeMismatch s x ac addr (val c h) = false → (lanes.all fun l => decide (addr l % al = 0)) = true →
    (lanes.all (inPlace s x.crew sp n addr)) = true →
      ∃ t, exec i s = .next t ∧
        t.mem = { (accs.foldl State.storeHere s).mem with fe := accs.foldl (fun e a => fillGrans b e (G a)) s.mem.fe } ∧
        (∀ j, j ≠ x.crew → SMap.find? t.ex.crews j = SMap.find? s.ex.crews j) ∧
        t.crew x.crew = goOnAll x ((popped s x i f).addOp
          { id := 0, kind := .store, cls := 1, pc := x.pc, lanes := ac, issued := s.ctr, accs := accs.map fun q => { q with stage := 1, wct := s.now } }) := by
  intro c h ac addr lanes accs hready hq hac hacq hroom hpairs hal hplaces
  have hmay := ready_may (ready_of_readyOut hready)
  have hplaced (l : Nat) (hl : l ∈ lanes) := place_of_inPlace (List.all_eq_true.mp hplaces l hl)
  have hbad (F : Nat × Except Miss Place → Option (Nat × Nat × Miss)) (hF : ∀ l q, F (l, .ok q) = none) :
      misFirst al addr lanes ((lanes.map fun l => (l, s.place x.crew l sp (addr l) n .store)).filterMap F) = [] := by
    have hnone : (lanes.map fun l => (l, s.place x.crew l sp (addr l) n .store)).filterMap F = [] := by
      rw [List.filterMap_map]
      refine List.filterMap_eq_nil_iff.mpr fun l hl => ?_
      obtain ⟨q, hq⟩ := hplaced l hl
      exact (congrArg (fun e => F (l, e)) hq).trans (hF l q)
    rw [hnone]
    refine List.filterMap_eq_nil_iff.mpr fun l hl => ?_
    rw [if_neg (Classical.not_not.mpr (of_decide_eq_true (List.all_eq_true.mp hal l hl)))]
    rfl
  have haccs (F : Nat × Except Miss Place → Option Acc)
      (hF : ∀ l q, F (l, .ok q) = some (data c h { lane := l, space := sp, addr := addr l, keys := s.placeKeys q n, target := (q.scr.map (·.1)).getD 0, gran := placeGran s q })) :
      (lanes.map fun l => (l, s.place x.crew l sp (addr l) n .store)).filterMap F = accs := by
    rw [List.filterMap_map]
    refine filterMap_eq_map_of fun l hl => ?_
    obtain ⟨q, hq⟩ := hplaced l hl
    refine (congrArg (fun e => F (l, e)) hq).trans ((hF l q).trans (congrArg (fun a => some (data c h a)) ?_))
    unfold storeAcc storeKeys storeTarget storeGran
    rw [hq, placeGran_eq]
  have hexec : exec i s = .next (((s.popped x i.shape f ac).chipStores x ac accs fun s a => s.setGrans (G a) b).advance x).endIssue := by
    rw [e, chipStoreOp, outside_of_calm (may_iff.mp hmay).1 (calm_of_readyOut hready), guarded_of_may hmay]
    dsimp only
    rw [show (s.crew x.crew).queue.isSome = false by rw [hq]; rfl, if_neg Bool.false_ne_true, if_neg hac,
      show (State.acqPending (s.crew x.crew) (act s x f) || !(s.crew x.crew).clsRoom 1) = false by rw [hacq, hroom]; rfl, if_neg Bool.false_ne_true,
      hpairs, if_neg Bool.false_ne_true, hbad _ fun _ _ => rfl, if_neg (by simp), haccs _ fun _ _ => rfl]
    rfl
  have hafter : ∀ s a, MemOnly s (State.setGrans s (G a) b) := fun s a => ⟨rfl, rfl, rfl, rfl, rfl, rfl⟩
  rw [chipStores_eq hafter] at hexec
  have hfold := foldl_storeHere_setGrans G b accs (s.popped x i.shape f ac) (s.popped x i.shape f ac).mem.fe
  rw [show withFe (s.popped x i.shape f ac) (s.popped x i.shape f ac).mem.fe = s.popped x i.shape f ac from rfl, popped_mem] at hfold
  have hkeep := MemOnly.foldl memOnly_storeHere accs (s.popped x i.shape f ac)
  rw [hfold] at hexec
  generalize hu : withFe (accs.foldl State.storeHere (s.popped x i.shape f ac)) (accs.foldl (fun e a => fillGrans b e (G a)) s.mem.fe) = u at hexec
  have hex : u.ex = (s.popped x i.shape f ac).ex := hu ▸ hkeep.ex
  obtain ⟨hmem, hothers, -, -, -, hcrew⟩ := wentOn u x ((u.crew x.crew).addOp
    { id := 0, kind := .store, cls := 1, pc := x.pc, lanes := ac, accs := accs.map fun a => { a with stage := 1, wct := (s.popped x i.shape f ac).now },
      issued := (s.popped x i.shape f ac).ctr })
  refine ⟨_, hexec, hmem.trans ?_, fun j hj => ?_, hcrew.trans ?_⟩
  · rw [← hu, withFe, foldl_storeHere_popped_mem]
  · exact (hothers j hj).trans ((congrArg (fun e => SMap.find? e.crews j) hex).trans (popped_others s x i.shape f ac j hj))
  · rw [crew_of_ex hex, popped_ctr, popped_keeps State.now s x i.shape f ac fun _ => rfl]
    rfl

/-! ## The granules and bytes that the statement names -/

theorem foldl_fillGrans {α : Type} (b : Bool) (G : α → List Nat) (ls : List α) (e : SMap Bool) :
    ls.foldl (fun e l => fillGrans b e (G l)) e = fillGrans b e (ls.flatMap G) := by
  unfold fillGrans
  rw [List.foldl_flatMap]

/-- Whatever stands before, the named granules hold the bit and the others are as they were. -/
theorem get_foldl_fillGrans {α : Type} (b : Bool) (G : α → List Nat) (ls : List α) (e : SMap Bool) (g : Nat) :
    SMap.get false (ls.foldl (fun e l => fillGrans b e (G l)) e) g = if ∃ l ∈ ls, g ∈ G l then b else SMap.get false e g := by
  rw [foldl_fillGrans, get_fillGrans]
  simp only [List.mem_flatMap]

theorem get_foldl_fillGrans_of_not {α : Type} {b : Bool} {G : α → List Nat} {ls : List α} {e : SMap Bool} {g : Nat} (h : ∀ l ∈ ls, g ∉ G l) :
    SMap.get false (ls.foldl (fun e l => fillGrans b e (G l)) e) g = SMap.get false e g := by
  rw [get_foldl_fillGrans, if_neg fun ⟨l, hl, hg⟩ => h l hl hg]

theorem get_foldl_fillGrans_of_mem {α : Type} {b : Bool} {G : α → List Nat} {ls : List α} {e : SMap Bool} {g : Nat} {l : α} (hl : l ∈ ls) (hg : g ∈ G l) :
    SMap.get false (ls.foldl (fun e l => fillGrans b e (G l)) e) g = b := by
  rw [get_foldl_fillGrans, if_pos ⟨l, hl, hg⟩]

/-- The bits of a state whose table is filled so. -/
theorem fe_of_filled {α : Type} {b : Bool} {G : α → List Nat} {ls : List α} {s t : State}
    (h : t.mem.fe = ls.foldl (fun e l => fillGrans b e (G l)) s.mem.fe) :
    (∀ g, (∀ l ∈ ls, g ∉ G l) → SMap.get false t.mem.fe g = SMap.get false s.mem.fe g) ∧ (∀ l ∈ ls, ∀ g ∈ G l, SMap.get false t.mem.fe g = b) :=
  ⟨fun _ hg => h ▸ get_foldl_fillGrans_of_not hg, fun _ hl _ hg => h ▸ get_foldl_fillGrans_of_mem hl hg⟩

/-- A store without data writes no byte. -/
theorem storeHere_mem_of_nil {a : Acc} (h : a.data = []) (s : State) : (s.storeHere a).mem = s.mem := by
  unfold State.storeHere State.storeBytes
  rw [h, List.zip_nil_right]
  split <;> rfl

theorem storeHere_whole {a : Acc} (h : a.nib = 3) (s : State) : s.storeHere a = s.performBytes (a.keys.zip a.data) := by
  unfold State.storeHere State.storeBytes
  rw [h, if_neg (by decide)]
  simp

/-- The granules that FESET and FECLR name from a lane's address on. -/
def feRun (s : State) (k sp n : Nat) (addr : Nat → Nat) (f : XF) (l : Nat) : List Nat :=
  (List.range (f.b.toNat + 1)).map fun j => (storeKeys s k sp n addr l).getD (16 * j) 0

theorem exec_feRange {s : State} {x : Ctx} {i : Instr} {f : XF} {b : Bool} (e : exec i s = feRange s i.shape f b) :
    let sp := f.ownN + 1
    let n := 16 * (f.b.toNat + 1)
    let c := s.crew x.crew
    let h := c.inHandler x.lanes
    let ac := act s x f
    let addr := memAddr c h f { sp := sp, size := 4, disp := f.w2.toInt }
    let lanes := (memLanes f.sd ac).filter fun l => !s.protectedCrew x.crew || decide (l % 2 = 0)
    let setAll := fun e : SMap Bool => lanes.foldl (fun e l => fillGrans b e (feRun s x.crew sp n addr f l)) e
    readyOut s x i.shape f = true → c.queue = none → ac ≠ 0 → State.acqPending c ac = false → c.clsRoom 1 = true →
    storeMismatch s x ac addr (fun _ => 0) = false → (lanes.all fun l => decide (addr l % 16 = 0)) = true →
    (lanes.all (inPlace s x.crew sp n addr)) = true →
      ∃ t accs, exec i s = .next t ∧ t.mem = { s.mem with fe := setAll s.mem.fe } ∧
        (∀ j, j ≠ x.crew → SMap.find? t.ex.crews j = SMap.find? s.ex.crews j) ∧
        (accs.map fun q : Acc => (q.lane, q.keys, q.stage, q.wct)) = (lanes.map fun l => (l, storeKeys s x.crew sp n addr l, 1, s.now)) ∧
        t.crew x.crew = goOnAll x ((popped s x i f).addOp
          { id := 0, kind := .store, cls := 1, pc := x.pc, lanes := ac, issued := s.ctr, accs := accs }) := by
  intro sp n c h ac addr lanes setAll hready hq hac hacq hroom hpairs hal hplaces
  obtain ⟨t, hexec, hmem, hothers, hcrew⟩ := exec_chipStoreOp (i := i) (f := f) (data := fun _ _ a => a) (val := fun _ _ _ => 0)
    (G := fun a => (List.range (f.b.toNat + 1)).map fun j => a.keys.getD (16 * j) 0) (b := b) (e.trans rfl) hready hq hac hacq hroom hpairs hal hplaces
  refine ⟨t, _, hexec, hmem.trans ?_, hothers, ?_, hcrew⟩
  · rw [List.foldl_map, List.foldl_map, foldl_keeps (p := State.mem) fun s l => storeHere_mem_of_nil rfl s]
    rfl
  · simp only [List.map_map]
    rfl

/-- Settles O16: LDFE by presenting its accesses in lane order, the others as one store on chip followed by its granules' bits. -/
theorem fullAndEmptyGranules : Obligations.FullAndEmptyGranules := by
  unfold Obligations.FullAndEmptyGranules
  refine ⟨exec_ldfe_found, fun s x f => List.forall_mem_cons.mpr ⟨?stfe, List.forall_mem_cons.mpr ⟨?feset, List.forall_mem_singleton.mpr ?feclr⟩⟩⟩
  case stfe =>
    intro sp n al stfe c h ac m addr lanes keys gran named setAll hready hsize hq hac hacq hroom hpairs hal hplaces
    have hst : stfe = true := decide_eq_true rfl
    have hb : decide ((Instr.stfe f) ≠ .feclr f) = true := decide_eq_true nofun
    clear_value stfe
    subst hst
    obtain ⟨t, hexec, hmem, hothers, hcrew⟩ := exec_chipStoreOp (i := .stfe f) (G := fun a => [a.gran]) (b := true) (exec_stfe s f)
      hready hq hac hacq hroom hpairs hal hplaces
    have hfe : t.mem.fe = setAll s.mem.fe := by
      rw [hmem]
      simp only [List.foldl_map, setAll, hb]
      rfl
    obtain ⟨hother, hnamed⟩ := fe_of_filled (hfe.trans (by simp only [setAll, hb]; rfl))
    have hmem' : t.mem = { (lanes.foldl (fun s l => s.performBytes ((keys l).zip (leBytes n (storeData c h f f.vN l)))) s).mem with fe := setAll s.mem.fe } := by
      rw [← hfe, hmem, List.foldl_map, ListFacts.foldl_ext _ fun t l _ => storeHere_whole (if_neg (hsize rfl)) t]
      rfl
    have hbyte (key : Nat) (hkey : ∀ l ∈ lanes, key ∉ keys l) : t.mem.byte key = s.mem.byte key := by
      rw [hmem]
      refine foldl_storeHere_byte _ s key fun q hq => ?_
      obtain ⟨l, hl, rfl⟩ := List.mem_map.mp hq
      exact hkey l hl
    refine ⟨t, _, hexec, fun _ => hmem', nofun, fun key hkey => hbyte key (hkey rfl), hother, fun l hl g hg => hb ▸ hnamed l hl g hg, hothers, ?_, hcrew⟩
    simp only [List.map_map]
    rfl
  case feset =>
    intro sp n al stfe c h ac m addr lanes keys gran named setAll hready hsize hq hac hacq hroom hpairs hal hplaces
    have hst : stfe = false := decide_eq_false nofun
    have hb : decide ((Instr.feset f) ≠ .feclr f) = true := decide_eq_true nofun
    clear_value stfe
    subst hst
    obtain ⟨t, accs, hexec, hmem, hothers, haccs, hcrew⟩ := exec_feRange (b := true) (exec_feset s f) hready hq hac hacq hroom hpairs hal hplaces
    obtain ⟨hother, hnamed⟩ := fe_of_filled (congrArg Mem.fe hmem)
    exact ⟨t, accs, hexec, nofun, fun _ => hmem.trans (by simp only [setAll, hb]; rfl), fun key _ => by rw [hmem]; rfl, hother,
      fun l hl g hg => hb ▸ hnamed l hl g hg, hothers, haccs, hcrew⟩
  case feclr =>
    intro sp n al stfe c h ac m addr lanes keys gran named setAll hready hsize hq hac hacq hroom hpairs hal hplaces
    have hst : stfe = false := decide_eq_false nofun
    have hb : decide ((Instr.feclr f) ≠ .feclr f) = false := decide_eq_false (Classical.not_not.mpr rfl)
    clear_value stfe
    subst hst
    obtain ⟨t, accs, hexec, hmem, hothers, haccs, hcrew⟩ := exec_feRange (b := false) (exec_feclr s f) hready hq hac hacq hroom hpairs hal hplaces
    obtain ⟨hother, hnamed⟩ := fe_of_filled (congrArg Mem.fe hmem)
    exact ⟨t, accs, hexec, nofun, fun _ => hmem.trans (by simp only [setAll, hb]; rfl), fun key _ => by rw [hmem]; rfl, hother,
      fun l hl g hg => hb ▸ hnamed l hl g hg, hothers, haccs, hcrew⟩

end Sys2Proof.Proofs.Granules
end

section
/-! PROOF. Atomics (R40, R67, R73, R79, R268): ATOM, CAS and FATOM enter one operation and, on chip, are performed in lane order (O19). -/

namespace Sys2Proof.Proofs.Atomics

open Sys2Proof.Machine Sys2Proof.Safety Sys2Proof.Proofs.Lives Sys2Proof.Proofs.Control Sys2Proof.Proofs.Loads Sys2Proof.Proofs.Stores
open Sys2Proof.Proofs.GlobalStores

/-! ## Bytes that poison marks do not concern -/

/-- The same bytes stand in both states, and the same ones can be written. -/
structure Alike (s t : State) : Prop where
  bytes : s.mem.bytes = t.mem.bytes
  open_ : s.unwritable = t.unwritable

theorem writeAll_bytes {m m' : Mem} (h : m.bytes = m'.bytes) (bs : List (Nat × Byte)) : (m.writeAll bs).bytes = (m'.writeAll bs).bytes := by
  induction bs generalizing m m' with
  | nil => exact h
  | cons p rest ih =>
    refine ih ?_
    show SMap.set 0 m.bytes p.1 p.2 = SMap.set 0 m'.bytes p.1 p.2
    rw [h]

theorem Alike.byte {s t : State} (h : Alike s t) (key : Nat) : s.mem.byte key = t.mem.byte key := by
  unfold Mem.byte
  rw [h.bytes]

theorem Alike.performBytes {s t : State} (h : Alike s t) (bs : List (Nat × Byte)) : Alike (s.performBytes bs) (t.performBytes bs) where
  bytes := by
    show (s.mem.writeAll (bs.filter fun p => !s.unwritable p.1)).bytes = (t.mem.writeAll (bs.filter fun p => !t.unwritable p.1)).bytes
    rw [h.open_]
    exact writeAll_bytes h.bytes _
  open_ := h.open_

/-- The bytes that an atomic finds. -/
def found (s : State) (a : Acc) : List Byte := a.keys.map s.mem.byte

theorem atomHere_alike {s t : State} (h : Alike s t) (o : Op) (a : Acc) :
    Alike (s.atomHere o a).1 (t.performBytes (a.keys.zip (atomBytes o a (found t a)))) := by
  have hfound : a.keys.map s.mem.byte = found t a := List.map_congr_left fun key _ => h.byte key
  unfold State.atomHere
  dsimp only
  rw [hfound]
  cases keepsPoison o.fmt
  · exact h.performBytes _
  · exact ⟨(h.performBytes _).bytes, (h.performBytes _).open_⟩

theorem memOnly_atomHere (s : State) (o : Op) (a : Acc) : MemOnly s (s.atomHere o a).1 := by
  unfold State.atomHere
  dsimp only
  split <;> exact ⟨rfl, rfl, rfl, rfl, rfl, rfl⟩

theorem atomHere_byte (s : State) (o : Op) (a : Acc) (key : Nat) (h : key ∉ a.keys) : (s.atomHere o a).1.mem.byte key = s.mem.byte key := by
  rw [(atomHere_alike ⟨rfl, rfl⟩ o a : Alike (s.atomHere o a).1 _).byte, Small.performBytes_byte]
  refine Small.byte_writeAll_ne _ _ _ fun p hp hkey => h ?_
  exact hkey ▸ (List.of_mem_zip (a := p.1) (b := p.2) (List.filter_sublist.subset hp)).1

/-- Atomics performed in lane order, and what each found. -/
def atomsHere (o : Op) (s : State) (accs : List Acc) : State × List Acc :=
  accs.foldl (fun st a => ((st.1.atomHere o a).1, st.2 ++ [(st.1.atomHere o a).2])) (s, [])

/-- What an atomic that has been performed keeps of its access. -/
structure Performed (now : Nat) (a b : Acc) : Prop where
  lane  : b.lane = a.lane
  addr  : b.addr = a.addr
  keys  : b.keys = a.keys
  stage : b.stage = 1
  wct   : b.wct = now

/-- Each access of a list after its performance. -/
inductive AllPerformed (now : Nat) : List Acc → List Acc → Prop
  | nil : AllPerformed now [] []
  | cons {a b : Acc} {l new : List Acc} (hp : Performed now a b) (h : AllPerformed now l new) : AllPerformed now (a :: l) (b :: new)

theorem atomsHere_spec (o : Op) (accs : List Acc) (s t : State) (done : List Acc) (h : Alike s t) :
    let r := accs.foldl (fun (st : State × List Acc) a => ((st.1.atomHere o a).1, st.2 ++ [(st.1.atomHere o a).2])) (s, done)
    MemOnly s r.1 ∧ (∀ key, (∀ q ∈ accs, key ∉ q.keys) → r.1.mem.byte key = s.mem.byte key) ∧
      Alike r.1 (accs.foldl (fun t a => t.performBytes (a.keys.zip (atomBytes o a (found t a)))) t) ∧
      ∃ new, r.2 = done ++ new ∧ AllPerformed s.now accs new := by
  induction accs generalizing s t done with
  | nil => exact ⟨.refl s, fun _ _ => rfl, h, [], (List.append_nil _).symm, .nil⟩
  | cons a rest ih =>
    obtain ⟨hmem, hbyte, halike, new, hnew, hall⟩ := ih (s.atomHere o a).1 _ (done ++ [(s.atomHere o a).2]) (atomHere_alike h o a)
    have hkeep := memOnly_atomHere s o a
    refine ⟨hkeep.trans hmem, fun key hkey => ?_, halike, (s.atomHere o a).2 :: new, ?_, .cons ⟨rfl, rfl, rfl, rfl, rfl⟩ (hkeep.now ▸ hall)⟩
    · exact (hbyte key fun q hq => hkey q (List.mem_cons_of_mem _ hq)).trans (atomHere_byte s o a key (hkey a List.mem_cons_self))
    · exact hnew.trans (by rw [List.append_assoc]; rfl)

/-! ## Atomics in `.g` -/

theorem invalL1_keeps (s : State) (core prt sec : Nat) : (s.invalL1 core prt sec).mem = s.mem ∧ (s.invalL1 core prt sec).ex = s.ex ∧
    (s.invalL1 core prt sec).ctr = s.ctr := by
  unfold State.invalL1
  split <;> exact ⟨rfl, rfl, rfl⟩

theorem foldl_invalL1 (core : Nat) (P : State → Nat) (accs : List Acc) (s : State) (done : List Acc) :
    let r := accs.foldl (fun (st : State × List Acc) a => (st.1.invalL1 core (P st.1) (Acc.sector a), st.2 ++ [a])) (s, done)
    r.1.mem = s.mem ∧ r.1.ex = s.ex ∧ r.2 = done ++ accs := by
  induction accs generalizing s done with
  | nil => exact ⟨rfl, rfl, (List.append_nil _).symm⟩
  | cons a rest ih =>
    obtain ⟨hmem, hex, hdone⟩ := ih (s.invalL1 core (P s) (Acc.sector a)) (done ++ [a])
    obtain ⟨hmem', hex', -⟩ := invalL1_keeps s core (P s) (Acc.sector a)
    exact ⟨hmem.trans hmem', hex.trans hex', hdone.trans (List.append_assoc ..)⟩

/-! ## The issue (O19) -/

/-- An operand of the atomic. -/
def atomB (c : Crew) (h : Bool) (f : XF) (wide : Bool) (l : Nat) : DWord :=
  if wide then c.rdW h f.sb f.b.toNat l else (c.rdV h f.qp f.sb f.b.toNat l).setWidth 64

def atomC (c : Crew) (h : Bool) (f : XF) (code : Nat) (wide : Bool) (l : Nat) : DWord :=
  if code ≠ 16 then 0#64 else if wide then c.rdW h f.sc f.c.toNat l else (c.rdV h f.qp f.sc f.c.toNat l).setWidth 64

theorem ofNat_rdN (c : Crew) (h qp w sel : Bool) (n l : Nat) :
    BitVec.ofNat 64 (c.rdN h qp w sel n l) = if w then c.rdW h sel n l else (c.rdV h qp sel n l).setWidth 64 := by
  unfold Crew.rdN
  cases w
  · exact BitVec.eq_of_toNat_eq (by simp)
  · exact BitVec.eq_of_toNat_eq (by simp)

theorem atomB_eq (s : State) (x : Ctx) (f : XF) (wide : Bool) : (fun l => BitVec.ofNat 64 (fldB s x f wide l)) =
    atomB (s.crew x.crew) ((s.crew x.crew).inHandler x.lanes) f wide := funext fun _ => ofNat_rdN ..

theorem atomC_eq (s : State) (x : Ctx) (f : XF) (code : Nat) (wide : Bool) : (fun l => if code = 16 then BitVec.ofNat 64 (fldC s x f wide l) else 0#64) =
    atomC (s.crew x.crew) ((s.crew x.crew).inHandler x.lanes) f code wide := funext fun l => by
  unfold atomC
  by_cases h : code = 16
  · rw [if_pos h, if_neg (Classical.not_not.mpr h)]
    exact ofNat_rdN ..
  · rw [if_neg h, if_pos h]

/-- An operand that a lane has put into the operation. -/
theorem laneVal_of_mem {ls : List Nat} {g : Nat → DWord} {l : Nat} (h : l ∈ ls) : laneVal (ls.map fun l => (l, g l)) l = (g l).toNat := by
  unfold laneVal
  induction ls with
  | nil => cases h
  | cons j rest ih =>
    by_cases hj : j = l
    · rw [List.map_cons, List.find?_cons_of_pos (by simpa using hj), hj]
      rfl
    · rw [List.map_cons, List.find?_cons_of_neg (by simpa using hj)]
      exact ih ((List.mem_cons.mp h).resolve_left (Ne.symm hj))

theorem access_keys_length {s : State} {k l sp a n : Nat} {nd : Need} {q : Acc} (h : s.access k l sp a n nd = .ok q) : q.keys.length = n := by
  unfold State.access at h
  split at h
  · cases h
  split at h
  · cases h
  split at h
  · cases h
  · cases h
    simp [State.placeKeys]

theorem accesses_keys_length {s : State} {k sp n : Nat} {nd : Need} {addr : Nat → Nat} {ls : List Nat} {a : Acc}
    (h : a ∈ (s.accesses k sp n nd addr ls).1) : a.keys.length = n := by
  induction ls with
  | nil => cases h
  | cons l rest ih =>
    unfold State.accesses at h
    dsimp only at h
    split at h
    · rename_i b hb
      rcases List.mem_cons.mp h with rfl | hrest
      · exact access_keys_length hb
      · exact ih hrest
    · exact ih h

/-- What a `.rel` waits for holds nothing up (R73). -/
theorem release_free {rel opened : Bool} {ls : List Nat} {ok : Nat → Bool} (h : rel = true → opened = false ∧ ls.all ok = true) :
    (rel && (opened || ls.any fun l => !ok l)) = false := by
  cases rel with
  | false => rfl
  | true =>
    obtain ⟨hopen, hok⟩ := h rfl
    rw [hopen, Bool.true_and, Bool.false_or, List.any_eq_false]
    intro l hl
    rw [List.all_eq_true.mp hok l hl]
    exact Bool.false_ne_true

/-- The operation that an atomic enters, before its accesses. -/
def atomOp (h : Bool) (x : Ctx) (f : XF) (code : Nat) (wide : Bool) (ac : Lanes) (lanes : List Nat) (b cv : Nat → DWord) (dests : List (Option Nat × Nat)) (ctr : Nat) : Op :=
  { id := 0, kind := .atomic, cls := 1, pc := x.pc, lanes := ac, dests := dests, fmt := code, d := f.d.toNat, sd := f.sd, w := wide
    b := lanes.map fun l => (l, b l), cval := lanes.map fun l => (l, cv l), acq := bitOf f.w2.toNat 3, issued := ctr, masked := h }

/-- The crew with its port's push, and the registers that an atomic leaves EMPTY. -/
def atomDests (c0 : Crew) (sh : Shape) (x : Ctx) (f : XF) (size : Nat) (ac : Lanes) : Crew × List (Option Nat × Nat) :=
  if f.o1 then (c0, []) else
    c0.destinations sh f x.pc ac (if f.sd then sizeDests size true f.d.toNat 0 else (lanesOf ac).flatMap fun l => sizeDests size false f.d.toNat l)

/-- An atomic that nothing holds: its operation, and on chip its effect. -/
theorem exec_atomic {s : State} {x : Ctx} {i : Instr} {f : XF} {code : Nat} {wide : Bool} (e : exec i s = atomic s i.shape f code wide) :
    let c := s.crew x.crew
    let h := c.inHandler x.lanes
    let ac := act s x f
    let sp := bits f.w2.toNat 2 0
    let n := if wide then 8 else 4
    let m : MemForm := { sp := sp, size := if wide then 5 else 4, disp := 0 }
    let addr := memAddr c h f m
    let lanes := (memLanes (i.shape.uniform f) ac).filter fun l => !s.protectedCrew x.crew || decide (l % 2 = 0)
    let r := s.accesses x.crew sp n .atom addr lanes
    readyOut s x i.shape f = true → (c.queue = none ∨ sp = 0) → ac ≠ 0 → State.acqPending c ac = false → c.clsRoom 1 = true →
    (bitOf f.w2.toNat 4 = true → c.openChecks ac = false ∧ ((lanesOf ac).all fun l => s.fenceOk x.crew l (bits f.w2.toNat 6 5)) = true) →
    (s.protectedCrew x.crew && State.pairsDiffer ac fun l => [addr l, (atomB c h f wide l).toNat, (atomC c h f code wide l).toNat]) = false → r.2 = [] →
      let d := atomDests (popped s x i f) i.shape x f m.size ac
      let o := atomOp h x f code wide ac lanes (atomB c h f wide) (atomC c h f code wide) d.2 s.ctr
      let u := (if sp = 0 then s.translated x.crew (r.1.map (·.addr)) else s).setCrew x.crew d.1
      let p := r.1.foldl (fun (st : State × List Acc) a =>
        if sp = 0 then (st.1.invalL1 (coreOf x.crew) (st.1.crewPart x.crew) (Acc.sector a), st.2 ++ [a])
        else ((st.1.atomHere o a).1, st.2 ++ [(st.1.atomHere o a).2])) (u, [])
      let c' := (p.1.crew x.crew).addOp { o with accs := p.2 }
      exec i s = .next ((p.1.setCrew x.crew (c'.markEmpty (c'.realDests h d.2))).advance x).endIssue := by
  intro c h ac sp n m addr lanes r hready hq hac hacq hroom hrel hpairs hr d o u p c'
  have hmay := ready_may (ready_of_readyOut hready)
  have hqueue : ((s.crew x.crew).queue.isSome && decide (sp ≠ 0)) = false := by
    rcases hq with hq | hq
    · rw [show (s.crew x.crew).queue.isSome = false by rw [hq]; rfl, Bool.false_and]
    · rw [decide_eq_false (Classical.not_not.mpr hq), Bool.and_false]
  have hhold : (State.acqPending c ac || !c.clsRoom 1) = false := by rw [hacq, hroom]; rfl
  have hmiss : (!r.2.isEmpty) = false := by rw [hr]; rfl
  rw [e, atomic, outside_of_calm (may_iff.mp hmay).1 (calm_of_readyOut hready), guarded_of_may hmay]
  refine congrArg (fun r => Host.Outcome.next (settle s x ac r)) (a₂ := Except.ok ((p.1.setCrew x.crew (c'.markEmpty (c'.realDests h d.2))).advance x)) ?_
  refine (if_neg (Bool.eq_false_iff.mp hqueue)).trans ((if_neg hac).trans ((if_neg (Bool.eq_false_iff.mp hhold)).trans ?_))
  refine (if_neg (Bool.eq_false_iff.mp (release_free hrel))).trans ((if_neg (Bool.eq_false_iff.mp hpairs)).trans ?_)
  exact (if_neg (Bool.eq_false_iff.mp hmiss)).trans rfl

/-- The bytes that an atomic of the issue writes. -/
theorem atomBytes_atomOp {s : State} {b cv : Nat → DWord} {h : Bool} {x : Ctx} {f : XF} {code sp n : Nat} {wide : Bool} {ac : Lanes} {lanes : List Nat}
    {dests : List (Option Nat × Nat)} {ctr : Nat} {addr : Nat → Nat} {q : Acc} (hq : q ∈ (s.accesses x.crew sp n .atom addr lanes).1) (old : List Byte) :
    atomBytes (atomOp h x f code wide ac lanes b cv dests ctr) q old =
      leBytes n (atomNew code (8 * n) (leNat old) (b q.lane).toNat (cv q.lane).toNat) := by
  have hlane := (accesses_fresh hq).1
  unfold atomBytes atomOp
  dsimp only
  rw [accesses_keys_length hq, laneVal_of_mem hlane, laneVal_of_mem hlane]

theorem map_performed {now : Nat} {l new : List Acc} (h : AllPerformed now l new) :
    (new.map fun q => (q.lane, q.addr, q.keys)) = l.map fun q => (q.lane, q.addr, q.keys) := by
  induction h with
  | nil => rfl
  | cons hp _ ih =>
    rw [List.map_cons, List.map_cons, hp.lane, hp.addr, hp.keys, ih]

theorem performed_of_mem {now : Nat} {l new : List Acc} (h : AllPerformed now l new) : ∀ q ∈ new, q.stage = 1 ∧ q.wct = now := by
  induction h with
  | nil => nofun
  | cons hp _ ih =>
    intro q hq
    rcases List.mem_cons.mp hq with rfl | hrest
    · exact ⟨hp.stage, hp.wct⟩
    · exact ih q hrest

/-- An atomic that nothing holds, said without its fold. -/
theorem exec_atomic_spec {s : State} {x : Ctx} {i : Instr} {f : XF} {code : Nat} {wide : Bool} (e : exec i s = atomic s i.shape f code wide) :
    let c := s.crew x.crew
    let h := c.inHandler x.lanes
    let ac := act s x f
    let sp := bits f.w2.toNat 2 0
    let n := if wide then 8 else 4
    let m : MemForm := { sp := sp, size := if wide then 5 else 4, disp := 0 }
    let addr := memAddr c h f m
    let b := fun l => BitVec.ofNat 64 (fldB s x f wide l)
    let cv := fun l => if code = 16 then BitVec.ofNat 64 (fldC s x f wide l) else 0#64
    let lanes := (memLanes (i.shape.uniform f) ac).filter fun l => !s.protectedCrew x.crew || decide (l % 2 = 0)
    let r := s.accesses x.crew sp n .atom addr lanes
    readyOut s x i.shape f = true → sp ≤ 3 → (c.queue = none ∨ sp = 0) → ac ≠ 0 → State.acqPending c ac = false → c.clsRoom 1 = true →
    (bitOf f.w2.toNat 4 = true → c.openChecks ac = false ∧ ((lanesOf ac).all fun l => s.fenceOk x.crew l (bits f.w2.toNat 6 5)) = true) →
    (s.protectedCrew x.crew && State.pairsDiffer ac fun l => [addr l, (b l).toNat, (cv l).toNat]) = false → r.2 = [] →
      let d := atomDests (popped s x i f) i.shape x f m.size ac
      let o := atomOp h x f code wide ac lanes b cv d.2 s.ctr
      ∃ t accs, exec i s = .next t ∧ (∀ j, j ≠ x.crew → SMap.find? t.ex.crews j = SMap.find? s.ex.crews j) ∧
        (accs.map fun q => (q.lane, q.addr, q.keys)) = (r.1.map fun q => (q.lane, q.addr, q.keys)) ∧
        (t.crew x.crew = goOnAll x (let c' := d.1.addOp { o with accs := accs }; c'.markEmpty (c'.realDests h d.2))) ∧
        (sp = 0 → accs = r.1 ∧ ∀ key, t.mem.byte key = s.mem.byte key) ∧
        (sp ≠ 0 →
          (∀ key, (∀ q ∈ r.1, key ∉ q.keys) → t.mem.byte key = s.mem.byte key) ∧ (∀ q ∈ accs, q.stage = 1 ∧ q.wct = s.now) ∧
          (let one := fun (s : State) (q : Acc) => s.performBytes (q.keys.zip
              (leBytes n (atomNew code (8 * n) (leNat (q.keys.map s.mem.byte)) (b q.lane).toNat (cv q.lane).toNat)))
            ∀ key, t.mem.byte key = (r.1.foldl one s).mem.byte key) ∧
          ∀ q, r.1 = [q] → accs = [{ q with data := q.keys.map s.mem.byte, pois := s.poisonWords q.keys, stage := 1, wct := s.now }]) := by
  intro c h ac sp n m addr b cv lanes r hready _ hq hac hacq hroom hrel hpairs hr d o
  have hb : b = atomB c h f wide := atomB_eq s x f wide
  have hcv : cv = atomC c h f code wide := atomC_eq s x f code wide
  clear_value b cv
  subst hb hcv
  have hexec := exec_atomic e hready hq hac hacq hroom hrel hpairs hr
  extract_lets _ _ u p c' at hexec
  have hothers (hex : p.1.ex = (s.setCrew x.crew d.1).ex) (cr : Crew) (j : Nat) (hj : j ≠ x.crew) :
      SMap.find? ((p.1.setCrew x.crew cr).advance x).endIssue.ex.crews j = SMap.find? s.ex.crews j := by
    rw [(wentOn p.1 x cr).others j hj, hex]
    exact State.find?_setCrew_ne _ _ _ _ hj
  have hcrew (hex : p.1.ex = (s.setCrew x.crew d.1).ex) : c' = d.1.addOp { o with accs := p.2 } := by
    show (p.1.crew x.crew).addOp _ = _
    rw [crew_of_ex hex, State.crew_setCrew_self]
  by_cases hsp : sp = 0
  · have hp : p = r.1.foldl (fun (st : State × List Acc) a => (st.1.invalL1 (coreOf x.crew) (st.1.crewPart x.crew) (Acc.sector a), st.2 ++ [a])) (u, []) :=
      congrArg (fun F => r.1.foldl F (u, [])) (funext fun _ => funext fun _ => if_pos hsp)
    obtain ⟨hmem, hex, haccs⟩ := foldl_invalL1 (coreOf x.crew) (fun t => t.crewPart x.crew) r.1 u []
    rw [← hp] at hmem hex haccs
    obtain ⟨tr, htr⟩ := translated_eq s x.crew (r.1.map (·.addr))
    have hu : u = ({ s with tr := tr } : State).setCrew x.crew d.1 := by
      show (if sp = 0 then _ else _ : State).setCrew _ _ = _
      rw [if_pos hsp, htr]
    have hex' : p.1.ex = (s.setCrew x.crew d.1).ex := hex.trans (by rw [hu]; rfl)
    have hwent := wentOn p.1 x (c'.markEmpty (c'.realDests h d.2))
    refine ⟨_, p.2, hexec, hothers hex' _, by rw [haccs, List.nil_append], hwent.crew.trans (by rw [hcrew hex']), fun _ => ⟨haccs, fun key => ?_⟩, fun hne => absurd hsp hne⟩
    exact congrArg (fun m : Mem => m.byte key) (hwent.mem.trans (hmem.trans (by rw [hu]; rfl)))
  · have hp : p = atomsHere o u r.1 := congrArg (fun F => r.1.foldl F (u, [])) (funext fun _ => funext fun _ => if_neg hsp)
    have hu : u = s.setCrew x.crew d.1 := congrArg (fun t : State => t.setCrew x.crew d.1) (if_neg hsp)
    obtain ⟨hkeep, hbyte, halike, new, hnew, hall⟩ := atomsHere_spec o r.1 u s [] (hu ▸ ⟨rfl, rfl⟩)
    have hp1 : p.1 = (r.1.foldl (fun (st : State × List Acc) a => ((st.1.atomHere o a).1, st.2 ++ [(st.1.atomHere o a).2])) (u, [])).1 := congrArg Prod.fst hp
    have hp2 : p.2 = new := (congrArg Prod.snd hp).trans (hnew.trans (List.nil_append _))
    rw [← hp1] at hkeep hbyte halike
    have hex' : p.1.ex = (s.setCrew x.crew d.1).ex := hkeep.ex.trans (by rw [hu])
    have hwent := wentOn p.1 x (c'.markEmpty (c'.realDests h d.2))
    have hbytes (key : Nat) : ((p.1.setCrew x.crew (c'.markEmpty (c'.realDests h d.2))).advance x).endIssue.mem.byte key = p.1.mem.byte key :=
      congrArg (fun m : Mem => m.byte key) hwent.mem
    refine ⟨_, p.2, hexec, hothers hex' _, by rw [hp2, map_performed hall], hwent.crew.trans (by rw [hcrew hex']), fun h0 => absurd h0 hsp, fun _ => ⟨fun key hkey => ?_, ?_, fun key => ?_, fun q hq => ?_⟩⟩
    · rw [hbytes, hbyte key hkey, hu]
      rfl
    · rw [hp2, show s.now = u.now by rw [hu]; rfl]
      exact performed_of_mem hall
    · rw [hbytes, halike.byte]
      refine congrArg (fun t : State => t.mem.byte key) (ListFacts.foldl_ext _ fun t q hq => ?_)
      rw [atomBytes_atomOp hq]
      rfl
    · rw [hp, hq, hu]
      rfl

/-- Settles O19: ATOM, CAS and FATOM are one function, with the operation and the width that each names. -/
theorem atomicsAreOneOperation : Obligations.AtomicsAreOneOperation := by
  unfold Obligations.AtomicsAreOneOperation
  intro s x f
  refine List.forall_mem_cons.mpr ⟨exec_atomic_spec (exec_atom s f), List.forall_mem_cons.mpr ⟨exec_atomic_spec (exec_cas s f), ?_⟩⟩
  exact List.forall_mem_singleton.mpr (exec_atomic_spec (exec_fatom s f))

end Sys2Proof.Proofs.Atomics
end

section
/-! PROOF. Waits of a thread on its own operations, on time and on a word (R72, R95, R262, R263, R269, R270, R325): they go on at once or wait as one (O20). -/

namespace Sys2Proof.Proofs.Waits

open Sys2Proof.Machine Sys2Proof.Safety Sys2Proof.Proofs.Lives Sys2Proof.Proofs.Control Sys2Proof.Proofs.Loads Sys2Proof.Proofs.Stores
open Sys2Proof.Proofs.GlobalStores

/-! ## Issues outside regions, and answers -/

/-- Outside regions and past the gate, an instruction whose own effect is `t` ends with it. -/
theorem exec_of_outside {s t : State} {x : Ctx} {i : Instr} {sh : Shape} {f : XF} {m : Lanes} {g : State → Ctx → Crew → Lanes → Except Stop State}
    (h : readyOut s x sh f = true) (hm : act s x f = m) (e : exec i s = outsideRegions s f fun s => guarded s sh f (g s))
    (hg : g s x (s.crew x.crew) m = .ok t) : exec i s = .next t.endIssue := by
  have hmay := ready_may (ready_of_readyOut h)
  rw [outside_of_calm (may_iff.mp hmay).1 (calm_of_readyOut h)] at e
  exact exec_of_ok hmay hm e hg

theorem status_eq (gen err st : Nat) : (statusWord gen err st).toNat = status gen err st := by
  unfold statusWord status
  rw [BitVec.toNat_ofNat, Nat.mod_eq_of_lt (by omega)]

/-- An instruction that answers with a status word writes it to D and changes nothing else. -/
theorem writesD_of_writeD {s : State} {x : Ctx} {i : Instr} {f : XF} {w long : Bool} {val : Nat → Nat}
    (e : exec i s = .next (writeD s x i.shape f (act s x f) w long val).endIssue) : WritesD s x i f w long val := by
  rw [writeD_eq] at e
  exact writesD_intro e

theorem answer_eq (s : State) (x : Ctx) (sh : Shape) (f : XF) (m : Lanes) (gen err st : Nat) :
    s.answer x sh f m (statusWord gen err st) = .ok (writeD s x sh f m false false fun _ => status gen err st) := by
  unfold State.answer
  rw [status_eq]

/-! ## Fences and drains (R72, R262, R263) -/

theorem exec_stall {s : State} {x : Ctx} {i : Instr} {g : XF} {kind : WaitKind} {ok : State → Nat → Nat → Bool}
    (e : exec i s = stallUntil s i.shape g kind ok) (hdest : waitDest i.shape .zero = XF.zero.d.toNat) (hready : readyOut s x i.shape g = true)
    (hchecks : (s.crew x.crew).openChecks (act s x g) = false) :
    ((lanesOf (act s x g)).all (ok s x.crew) = true → Leaves s x i (goOnAll x (s.crew x.crew))) ∧
    ((lanesOf (act s x g)).all (ok s x.crew) = false →
      exec i s = .next (s.waitFor x x.lanes fun _ => { kind := kind, lanes := act s x g, d := XF.zero.d.toNat }).endIssue) := by
  have hopen := Bool.eq_false_iff.mp hchecks
  unfold stallUntil at e
  refine ⟨fun hall => leaves_of_advance_only ?_, fun hall => ?_⟩
  · exact exec_of_outside hready rfl e ((if_neg hopen).trans (if_pos hall))
  · refine exec_of_outside hready rfl e ((if_neg hopen).trans ((if_neg (Bool.eq_false_iff.mp hall)).trans ?_))
    unfold State.park
    rw [hdest]
    rfl

/-- A wait with a timeout. -/
theorem park_of_timeout {tmo : Nat} (h : tmo ≠ 0) (s : State) (x : Ctx) (m : Lanes) (sh : Shape) (f : XF) (kind : Nat → WaitKind) :
    s.park x m sh f tmo kind = s.waitFor x x.lanes fun l =>
      { kind := kind l, deadline := some (s.now + 2 ^ (tmo + 3)), lanes := m, d := waitDest sh f, sd := f.sd } := by
  unfold State.park
  rw [if_neg h]

/-! ## WAITC and SLEEP (R95, R270, R325) -/

theorem exec_waitc_cases {s : State} {x : Ctx} {f : XF} (hready : readyOut s x (Instr.waitc f).shape f = true) (hact : act s x f ≠ 0) :
    let c := s.crew x.crew
    let tmo := bits f.c.toNat 4 0
    (c.outstanding f.vN ≤ f.w2.toNat → WritesD s x (.waitc f) f false false fun _ => status 0 0 0)
    ∧ (f.w2.toNat < c.outstanding f.vN → tmo = 0 → WritesD s x (.waitc f) f false false fun _ => status 0 0 1)
    ∧ (f.w2.toNat < c.outstanding f.vN → tmo ≠ 0 → exec (.waitc f) s = .next (s.waitFor x x.lanes fun _ =>
        { kind := .waitc f.vN f.w2.toNat c.nextOp, deadline := some (s.now + 2 ^ (tmo + 3)), lanes := act s x f, d := waitDest (Instr.waitc f).shape f,
          sd := f.sd }).endIssue) := by
  have e := exec_waitc s f
  unfold execWaitc at e
  refine ⟨fun hle => writesD_of_writeD ?_, fun hlt htmo => writesD_of_writeD ?_, fun hlt htmo => ?_⟩
  · exact exec_of_outside hready rfl e ((if_neg hact).trans ((if_pos hle).trans (answer_eq ..)))
  · exact exec_of_outside hready rfl e ((if_neg hact).trans ((if_neg (Nat.not_le.mpr hlt)).trans ((if_pos htmo).trans (answer_eq ..))))
  · refine exec_of_outside hready rfl e ((if_neg hact).trans ((if_neg (Nat.not_le.mpr hlt)).trans ((if_neg htmo).trans ?_)))
    exact congrArg Except.ok (park_of_timeout htmo ..)

theorem exec_sleep_cases {s : State} {x : Ctx} {f : XF} (hmay : may s x (Instr.sleep f).shape f = true) :
    let tmo := bits f.c.toNat 4 0
    let wake := fun l => if f.vN = 0 then s.now + f.w2.toNat else min (if tmo = 0 then s.now else s.now + 2 ^ (tmo + 3)) (fldA s x f true l)
    (((lanesOf (act s x f)).all fun l => decide (wake l ≤ s.now)) = true → Leaves s x (.sleep f) (goOnAll x (s.crew x.crew)))
    ∧ (((lanesOf (act s x f)).all fun l => decide (wake l ≤ s.now)) = false →
        exec (.sleep f) s = .next (s.waitFor x x.lanes fun l => { kind := .sleep, deadline := some (wake l), lanes := act s x f }).endIssue) := by
  have e := exec_sleep s f
  unfold execSleep at e
  refine ⟨fun hall => leaves_of_advance_only ?_, fun hall => ?_⟩
  · exact exec_of_ok hmay rfl e (if_pos hall)
  · exact exec_of_ok hmay rfl e (if_neg (Bool.eq_false_iff.mp hall))

/-! ## WAITAD (R93, R269) -/

theorem hasLane_oneLane_self {l : Nat} (h : l < 64) : hasLane (oneLane l) l = true := by
  unfold hasLane oneLane
  simp [h]

theorem find?_mapLanes (c : Crew) (m : Lanes) (f : Nat → Thread → Thread) (l : Nat) :
    SMap.find? (c.mapLanes m f).threads l = (SMap.find? c.threads l).map fun t => if hasLane m l then f l t else t :=
  find?_map (fun l t => if hasLane m l then f l t else t) c.threads l

theorem isSome_mapLanes {c : Crew} {l : Nat} (h : (SMap.find? c.threads l).isSome = true) (m : Lanes) (f : Nat → Thread → Thread) :
    (SMap.find? (c.mapLanes m f).threads l).isSome = true := by
  rw [find?_mapLanes, Option.isSome_map]
  exact h

/-- Registers marked EMPTY change the full/empty bits of a listed thread alone: those that were EMPTY stay so, and the named ones are. -/
theorem markEmpty_thread (ds : List (Option Nat × Nat)) (c : Crew) {l : Nat} (hl : (SMap.find? c.threads l).isSome = true) :
    ∃ e, (c.markEmpty ds).thread l = { c.thread l with vE := e } ∧ (∀ n, (c.thread l).vE.getLsbD n = true → e.getLsbD n = true) ∧
      ∀ n, l < 64 → (some l, n) ∈ ds → n < 256 → e.getLsbD n = true := by
  induction ds generalizing c with
  | nil => exact ⟨(c.thread l).vE, rfl, fun _ => id, nofun⟩
  | cons d rest ih =>
    obtain ⟨j, r⟩ := d
    cases j with
    | none =>
      obtain ⟨e, hthread, hkeep, hset⟩ := ih (c.setSEmpty r) hl
      refine ⟨e, hthread, hkeep, fun n h64 hmem h256 => hset n h64 ?_ h256⟩
      exact (List.mem_cons.mp hmem).resolve_left nofun
    | some j =>
      obtain ⟨e, hthread, hkeep, hset⟩ := ih _ (isSome_mapLanes hl (oneLane j) fun _ t => t.setEmpty r)
      by_cases hj : hasLane (oneLane j) l = true
      · rw [thread_mapLanes_of_has hj hl] at hthread hkeep
        refine ⟨e, hthread, fun n hn => hkeep n ?_, fun n h64 hmem h256 => ?_⟩
        · rw [Thread.setEmpty, BitVec.getLsbD_or, hn, Bool.true_or]
        · rcases List.mem_cons.mp hmem with heq | hrest
          · obtain ⟨-, rfl⟩ := Prod.mk.inj heq
            refine hkeep n ?_
            rw [Thread.setEmpty, BitVec.getLsbD_or]
            simp [h256]
          · exact hset n h64 hrest h256
      · rw [thread_mapLanes_of_not (Bool.eq_false_iff.mpr hj)] at hthread hkeep
        refine ⟨e, hthread, hkeep, fun n h64 hmem h256 => ?_⟩
        rcases List.mem_cons.mp hmem with heq | hrest
        · obtain ⟨hlj, -⟩ := Prod.mk.inj heq
          rw [← Option.some.inj hlj, hasLane_oneLane_self h64] at hj
          exact absurd rfl hj
        · exact hset n h64 hrest h256

/-- What a lane of a WAITAD waits for. -/
def adWait (c : Crew) (h : Bool) (now : Nat) (f : XF) (ac : Lanes) (l : Nat) : Blocked :=
  { kind := .waitad f.ownN (memAddr c h f { sp := f.ownN, size := 4, disp := f.w2.toInt } l) f.vN (c.rdV h f.qp f.sb f.b.toNat l) (bits f.c.toNat 7 5)
    deadline := some (if bits f.c.toNat 4 0 = 0 then now else now + 2 ^ (bits f.c.toNat 4 0 + 3)), lanes := ac, d := waitDest (Instr.waitad f).shape f, sd := f.sd }

/-- The registers that a WAITAD leaves EMPTY. -/
def adDests (f : XF) (ac : Lanes) : List (Option Nat × Nat) :=
  if 256 ≤ waitDest (Instr.waitad f).shape f then [] else if f.sd then [(none, f.d.toNat)] else (lanesOf ac).map fun l => (some l, f.d.toNat)

theorem exec_waitad_enters {s : State} {x : Ctx} {f : XF} :
    let c := s.crew x.crew
    let h := c.inHandler x.lanes
    let ac := act s x f
    let m : MemForm := { sp := f.ownN, size := 4, disp := f.w2.toInt }
    let r := s.accesses x.crew f.ownN 4 .load (memAddr c h f m) (lanesOf ac)
    readyOut s x (Instr.waitad f).shape f = true → (c.queue = none ∨ f.ownN = 0) → ac ≠ 0 → State.acqPending c ac = false → r.2 = [] →
      exec (.waitad f) s = .next ((((if f.ownN = 0 then s.translated x.crew (r.1.map (·.addr)) else s).popped x (Instr.waitad f).shape f ac).waitFor x x.lanes
        (adWait c h (if f.ownN = 0 then s.translated x.crew (r.1.map (·.addr)) else s).now f ac)).modCrew x.crew
          fun c => c.markEmpty (c.realDests h (adDests f ac))).endIssue := by
  intro c h ac m r hready hq hac hacq hr
  have hqueue : (c.queue.isSome && decide (f.ownN ≠ 0)) = false := by
    rcases hq with hq | hq
    · rw [hq]
      rfl
    · rw [hq]
      exact Bool.and_false _
  have e := exec_waitad s f
  unfold execWaitad at e
  refine exec_of_outside hready rfl e ((if_neg (Bool.eq_false_iff.mp hqueue)).trans ((if_neg hac).trans ((if_neg (Bool.eq_false_iff.mp hacq)).trans ?_)))
  have hmiss : (!r.2.isEmpty) = false := by rw [hr]; rfl
  exact (if_neg (Bool.eq_false_iff.mp hmiss)).trans rfl

/-- Whether or not addresses have been translated, popping then leaves memory, time and the other crews as they were. -/
theorem placed_popped (s : State) (b : Prop) [Decidable b] (vas : List Nat) (x : Ctx) (sh : Shape) (f : XF) (m : Lanes) :
    ((if b then s.translated x.crew vas else s).popped x sh f m).mem = s.mem ∧
      ((if b then s.translated x.crew vas else s).popped x sh f m).ex = (s.popped x sh f m).ex ∧ (if b then s.translated x.crew vas else s).now = s.now := by
  split
  · obtain ⟨hmem, hex, -⟩ := translated_popped s vas x sh f m
    obtain ⟨tr, htr⟩ := translated_eq s x.crew vas
    exact ⟨hmem, hex, by rw [htr]⟩
  · exact ⟨popped_mem .., rfl, rfl⟩

theorem exec_waitad_waits {s : State} {x : Ctx} {f : XF} :
    let c := s.crew x.crew
    let h := c.inHandler x.lanes
    let ac := act s x f
    let m : MemForm := { sp := f.ownN, size := 4, disp := f.w2.toInt }
    let tmo := bits f.c.toNat 4 0
    let r := s.accesses x.crew f.ownN 4 .load (memAddr c h f m) (lanesOf ac)
    readyOut s x (Instr.waitad f).shape f = true → (c.queue = none ∨ f.ownN = 0) → ac ≠ 0 → State.acqPending c ac = false → r.2 = [] →
      ∃ t, exec (.waitad f) s = .next t ∧ (∀ key, t.mem.byte key = s.mem.byte key) ∧
        (∀ j, j ≠ x.crew → SMap.find? t.ex.crews j = SMap.find? s.ex.crews j) ∧
        ∀ l, hasLane x.lanes l = true → SMap.find? c.threads l ≠ none →
          let u := (t.crew x.crew).thread l
          (∃ b, u.blocked = some b ∧ b.kind = .waitad f.ownN (memAddr c h f m l) f.vN (BitVec.ofNat 32 (fldB s x f false l)) (bits f.c.toNat 7 5) ∧
            b.deadline = some (if tmo = 0 then s.now else s.now + 2 ^ (tmo + 3)) ∧ b.lanes = ac ∧ b.fin = none) ∧
          u.pc = (c.thread l).pc ∧ (hasLane ac l = true → f.sd = false → waitDest (Instr.waitad f).shape f < 256 → u.vE.getLsbD f.d.toNat = true) := by
  intro c h ac m tmo r hready hq hac hacq hr
  have hexec := exec_waitad_enters hready hq hac hacq hr
  obtain ⟨hmem, hex, hnow⟩ := placed_popped s (f.ownN = 0) (r.1.map (·.addr)) x (Instr.waitad f).shape f ac
  rw [hnow] at hexec
  generalize (if f.ownN = 0 then s.translated x.crew (r.1.map (·.addr)) else s).popped x (Instr.waitad f).shape f ac = u at hexec hmem hex
  refine ⟨_, hexec, fun key => congrArg (fun m : Mem => m.byte key) hmem, fun j hj => ?_, fun l hl hlisted => ?_⟩
  · rw [← popped_others s x (Instr.waitad f).shape f ac j hj, ← hex]
    exact (State.find?_setCrew_ne _ _ _ _ hj).trans (State.find?_setCrew_ne _ _ _ _ hj)
  · have hthreads : (u.crew x.crew).threads = c.threads := by
      rw [crew_of_ex hex, popped_threads]
    have hisSome : (SMap.find? (u.crew x.crew).threads l).isSome = true := by
      rw [hthreads]
      exact Option.isSome_iff_ne_none.mpr hlisted
    have hwaits := thread_mapLanes_of_has hl hisSome fun l t =>
      { t with blocked := some { adWait c h s.now f ac l with pc := x.pc, nextPc := (State.after x t).1, rep := (State.after x t).2 } }
    obtain ⟨e, hthread, -, hset⟩ := markEmpty_thread (Crew.realDests (u.crew x.crew) h (adDests f ac)) _ (isSome_mapLanes hisSome x.lanes fun l t =>
      { t with blocked := some { adWait c h s.now f ac l with pc := x.pc, nextPc := (State.after x t).1, rep := (State.after x t).2 } })
    rw [hwaits] at hthread
    have hcrew : (((u.waitFor x x.lanes (adWait c h s.now f ac)).modCrew x.crew fun c => c.markEmpty (c.realDests h (adDests f ac))).endIssue.crew x.crew).thread l =
        { (u.crew x.crew).thread l with
          vE := e
          blocked := some { adWait c h s.now f ac l with
            pc := x.pc, nextPc := (State.after x ((u.crew x.crew).thread l)).1, rep := (State.after x ((u.crew x.crew).thread l)).2 } } := by
      rw [State.crew_endIssue, State.modCrew, State.crew_setCrew_self, State.waitFor, State.modCrew, State.crew_setCrew_self]
      exact hthread
    intro w
    have hw : w = _ := hcrew
    clear_value w
    subst hw
    refine ⟨⟨_, rfl, ?_, rfl, rfl, rfl⟩, ?_, fun hlane hsd hdest => ?_⟩
    · refine congrArg (fun v => WaitKind.waitad f.ownN (memAddr c h f m l) f.vN v (bits f.c.toNat 7 5)) ?_
      exact (BitVec.ofNat_toNat 32 (c.rdV h f.qp f.sb f.b.toNat l)).trans (BitVec.setWidth_eq _) |>.symm
    · show ((u.crew x.crew).thread l).pc = _
      rw [thread_eq, thread_eq, hthreads]
    · refine hset _ (LaneSets.hasLane_lt hlane) ?_ f.d.isLt
      refine List.mem_filter.mpr ⟨?_, by simp [f.d.isLt]⟩
      unfold adDests
      rw [if_neg (Nat.not_le.mpr hdest), if_neg (Bool.eq_false_iff.mp hsd)]
      exact List.mem_map_of_mem (mem_lanesOf.mpr hlane)

/-- Settles O20: the fences and drains are one stall, the others each a wait of their own. -/
theorem fencesAndWaitsGoOnOrWait : Obligations.FencesAndWaitsGoOnOrWait := by
  unfold Obligations.FencesAndWaitsGoOnOrWait
  refine ⟨fun s x => ⟨?fence, ?fenceX, ?sdrain, fun f => exec_waitc_cases, fun f => exec_sleep_cases⟩, fun s x f => exec_waitad_waits⟩
  case fence => exact fun scope => exec_stall (exec_fence s scope) rfl
  case fenceX => exact fun f => exec_stall (exec_fenceX s f) rfl
  case sdrain => exact fun f => exec_stall (exec_sdrain s f) rfl

end Sys2Proof.Proofs.Waits
end

section
/-! PROOF. The ends of waits (R267): what finishing a lane's wait does to its thread and to no other. -/

namespace Sys2Proof.Proofs.WaitEnds

open Sys2Proof.Machine Sys2Proof.Safety Sys2Proof.Proofs.Lives Sys2Proof.Proofs.Waits

theorem wrS_threads (c : Crew) (h : Bool) (n : Nat) (v : Word) : (c.wrS h n v).threads = c.threads := by
  unfold Crew.wrS
  split <;> rfl

/-- What a wait pushes as it ends concerns no thread. -/
theorem pushWaited_threads (c : Crew) (m : Lanes) (f : Nat → Blocked → Word) (bad : Blocked → Bool) : (c.pushWaited m f bad).threads = c.threads := by
  unfold Crew.pushWaited
  generalize List.filter _ c.waitPushes = waits
  induction waits generalizing c with
  | nil => rfl
  | cons w rest ih => exact (ih _).trans rfl

theorem hasLane_oneLane_iff {j l : Nat} : hasLane (oneLane j) l = true ↔ l < 64 ∧ l = j := by
  constructor
  · intro h
    have hl := LaneSets.hasLane_lt h
    refine ⟨hl, ?_⟩
    by_cases hj : j < 64
    · rwa [hasLane_oneLane j l hj, decide_eq_true_iff] at h
    · exfalso
      unfold hasLane oneLane at h
      rw [BitVec.getLsbD_shiftLeft] at h
      have hlj : l < j := by omega
      simp [hlj] at h
  · rintro ⟨hl, rfl⟩
    exact hasLane_oneLane_self hl

/-- No entry of a crew's threads for lane `l` waits. -/
def Rests (c : Crew) (l : Nat) : Prop := ∀ p ∈ c.threads, p.1 = l → p.2.blocked = none

theorem blocked_unblock (t : Thread) : t.unblock.blocked = none := by
  unfold Thread.unblock
  split
  · assumption
  · rfl

theorem Rests.mapLanes {c : Crew} {l : Nat} (h : Rests c l) (m : Lanes) {f : Nat → Thread → Thread} (hf : ∀ j t, t.blocked = none → (f j t).blocked = none) :
    Rests (c.mapLanes m f) l := by
  intro p hp hl
  obtain ⟨q, hq, rfl⟩ := List.mem_map.mp hp
  have hrest := h q hq hl
  show (if hasLane m q.1 then f q.1 q.2 else q.2).blocked = none
  split
  · exact hf _ _ hrest
  · exact hrest

theorem Rests.of_threads {c d : Crew} {l : Nat} (h : Rests c l) (e : d.threads = c.threads) : Rests d l := by
  unfold Rests
  rw [e]
  exact h

/-! ## One lane's wait -/

/-- Whether the end of a lane's wait writes the lane's own register. -/
def writesLane (b : Blocked) (l : Nat) : Bool := hasLane b.lanes l && !b.sd && decide (b.d < 256)

/-- The thread of a lane whose wait has ended with a status, if it gives one. -/
def ended (b : Blocked) (l : Nat) (val : Option Word) (t : Thread) : Thread :=
  Thread.unblock (match val with
    | some v => if writesLane b l then t.wr b.d v else t
    | none => t)

theorem finish_of_rest {c : Crew} {j : Nat} (h : (c.thread j).blocked = none) (val : Option Word) : c.finish j val = c := by
  unfold Crew.finish
  rw [h]

/-- A lane's wait ends: its register, or an s register, or none, then the thread goes on. -/
theorem finish_eq {c : Crew} {l : Nat} {b : Blocked} (h : (c.thread l).blocked = some b) (val : Option Word) :
    ∃ d : Crew, c.finish l val = d.mapLanes (oneLane l) (fun _ t => t.unblock) ∧
      ((d.threads = c.threads ∧ ∀ v, val = some v → writesLane b l = false) ∨
        ∃ v, val = some v ∧ writesLane b l = true ∧ d = c.mapLanes (oneLane l) fun _ t => t.wr b.d v) := by
  unfold Crew.finish
  rw [h]
  cases val with
  | none => exact ⟨c, rfl, .inl ⟨rfl, nofun⟩⟩
  | some v =>
    dsimp only
    by_cases hno : (!hasLane b.lanes l) = true ∨ (b.sd = false ∧ 256 ≤ b.d)
    · refine ⟨c, by rw [if_pos hno], .inl ⟨rfl, fun _ _ => ?_⟩⟩
      unfold writesLane
      rcases hno with hno | ⟨hsd, hd⟩
      · rw [(Bool.not_eq_eq_eq_not ..).mp hno]
        rfl
      · rw [decide_eq_false (Nat.not_lt.mpr hd), Bool.and_false]
    · rw [if_neg hno]
      by_cases hsd : b.sd = true
      · refine ⟨_, by rw [if_pos hsd], .inl ⟨wrS_threads _ _ _ _, fun _ _ => ?_⟩⟩
        unfold writesLane
        rw [hsd, Bool.not_true, Bool.and_false, Bool.false_and]
      · refine ⟨_, by rw [if_neg hsd], .inr ⟨v, rfl, ?_, rfl⟩⟩
        obtain ⟨hlane, hd⟩ := not_or.mp hno
        have hsd' := Bool.eq_false_iff.mpr hsd
        unfold writesLane
        rw [hsd', decide_eq_true (Nat.lt_of_not_le fun h => hd ⟨hsd', h⟩)]
        simpa using hlane

/-- No other lane's thread changes. -/
theorem finish_thread_ne {c : Crew} {j l : Nat} (h : j ≠ l) (val : Option Word) : (c.finish j val).thread l = c.thread l := by
  have hone : hasLane (oneLane j) l = false := Bool.eq_false_iff.mpr fun hl => h (hasLane_oneLane_iff.mp hl).2.symm
  cases hb : (c.thread j).blocked with
  | none => rw [finish_of_rest hb]
  | some b =>
    obtain ⟨d, he, hd⟩ := finish_eq hb val
    rw [he, thread_mapLanes_of_not hone]
    rcases hd with ⟨hd, -⟩ | ⟨v, -, -, rfl⟩
    · rw [thread_eq, hd, ← thread_eq]
    · exact thread_mapLanes_of_not hone _

theorem finish_thread_self {c : Crew} {l : Nat} {b : Blocked} (h64 : l < 64) (hl : (SMap.find? c.threads l).isSome = true)
    (h : (c.thread l).blocked = some b) (val : Option Word) : (c.finish l val).thread l = ended b l val (c.thread l) := by
  have hone : hasLane (oneLane l) l = true := hasLane_oneLane_self h64
  obtain ⟨d, he, hd⟩ := finish_eq h val
  rw [he]
  rcases hd with ⟨hd, hval⟩ | ⟨v, rfl, hw, rfl⟩
  · rw [thread_mapLanes_of_has hone (by rw [hd]; exact hl), thread_eq, hd, ← thread_eq]
    unfold ended
    cases val with
    | none => rfl
    | some v => rw [hval v rfl]; rfl
  · rw [thread_mapLanes_of_has hone (isSome_mapLanes hl _ _), thread_mapLanes_of_has hone hl]
    unfold ended
    rw [hw]
    rfl

theorem Rests.finish {c : Crew} {l : Nat} (h : Rests c l) (j : Nat) (val : Option Word) : Rests (c.finish j val) l := by
  cases hb : (c.thread j).blocked with
  | none => rwa [finish_of_rest hb]
  | some b =>
    obtain ⟨d, he, hd⟩ := finish_eq hb val
    rw [he]
    refine Rests.mapLanes ?_ _ fun _ t _ => blocked_unblock t
    rcases hd with ⟨hd, -⟩ | ⟨v, -, -, rfl⟩
    · exact h.of_threads hd
    · exact h.mapLanes _ fun _ _ => id

theorem finish_rests {c : Crew} {l : Nat} {b : Blocked} (h64 : l < 64) (h : (c.thread l).blocked = some b) (val : Option Word) : Rests (c.finish l val) l := by
  obtain ⟨d, he, -⟩ := finish_eq h val
  rw [he]
  intro p hp hl
  obtain ⟨q, hq, rfl⟩ := List.mem_map.mp hp
  have hql : q.1 = l := hl
  show (if hasLane (oneLane l) q.1 then q.2.unblock else q.2).blocked = none
  rw [hql, hasLane_oneLane_self h64, if_pos rfl]
  exact blocked_unblock _

theorem finish_isSome {c : Crew} {l : Nat} (h : (SMap.find? c.threads l).isSome = true) (j : Nat) (val : Option Word) :
    (SMap.find? (c.finish j val).threads l).isSome = true := by
  cases hb : (c.thread j).blocked with
  | none => rwa [finish_of_rest hb]
  | some b =>
    obtain ⟨d, he, hd⟩ := finish_eq hb val
    rw [he]
    refine isSome_mapLanes ?_ _ _
    rcases hd with ⟨hd, -⟩ | ⟨v, -, -, rfl⟩
    · rwa [hd]
    · exact isSome_mapLanes h _ _

/-! ## The waits of some lanes -/

theorem foldl_finish_of_not {l : Nat} (ls : List Nat) (h : l ∉ ls) (c : Crew) (val : Option Word) :
    (ls.foldl (fun c j => c.finish j val) c).thread l = c.thread l := by
  induction ls generalizing c with
  | nil => rfl
  | cons j rest ih =>
    rw [List.foldl_cons, ih fun hr => h (List.mem_cons_of_mem _ hr)]
    exact finish_thread_ne (fun e => h (List.mem_cons.mpr (.inl e.symm))) val

theorem Rests.foldl_finish {l : Nat} (ls : List Nat) {c : Crew} (h : Rests c l) (val : Option Word) : Rests (ls.foldl (fun c j => c.finish j val) c) l := by
  induction ls generalizing c with
  | nil => exact h
  | cons j rest ih => exact ih (h.finish j val)

/-- A thread at rest stays as it is. -/
theorem foldl_finish_of_rest {l : Nat} (ls : List Nat) {c : Crew} (h : (c.thread l).blocked = none) (val : Option Word) :
    (ls.foldl (fun c j => c.finish j val) c).thread l = c.thread l := by
  induction ls generalizing c with
  | nil => rfl
  | cons j rest ih =>
    have hj : (c.finish j val).thread l = c.thread l := by
      by_cases hjl : j = l
      · rw [finish_of_rest (hjl ▸ h)]
      · exact finish_thread_ne hjl val
    rw [List.foldl_cons, ih (hj ▸ h), hj]

theorem blocked_ended (b : Blocked) (l : Nat) (val : Option Word) (t : Thread) : (ended b l val t).blocked = none := blocked_unblock _

theorem foldl_finish_of_mem {l : Nat} {b : Blocked} (ls : List Nat) (hmem : l ∈ ls) (h64 : l < 64) {c : Crew} (hl : (SMap.find? c.threads l).isSome = true)
    (h : (c.thread l).blocked = some b) (val : Option Word) :
    (ls.foldl (fun c j => c.finish j val) c).thread l = ended b l val (c.thread l) ∧ Rests (ls.foldl (fun c j => c.finish j val) c) l := by
  induction ls generalizing c with
  | nil => cases hmem
  | cons j rest ih =>
    rw [List.foldl_cons]
    by_cases hj : j = l
    · subst hj
      have hself := finish_thread_self h64 hl h val
      refine ⟨?_, (finish_rests h64 h val).foldl_finish rest val⟩
      rw [foldl_finish_of_rest rest (by rw [hself]; exact blocked_ended ..), hself]
    · have hne := finish_thread_ne (c := c) hj val
      rw [← hne] at h ⊢
      exact ih ((List.mem_cons.mp hmem).resolve_left (Ne.symm hj)) (finish_isSome hl j val) h

/-- The crew that `finishAll` starts from has the same threads. -/
theorem finishAll_eq (c : Crew) (m : Lanes) (val : Option Word) :
    ∃ d : Crew, d.threads = c.threads ∧ c.finishAll m val = (lanesOf m).foldl (fun c j => c.finish j val) d := by
  unfold Crew.finishAll
  cases val with
  | none => exact ⟨c, rfl, rfl⟩
  | some v => exact ⟨_, pushWaited_threads _ _ _ _, rfl⟩

theorem finishAll_thread_of_not {c : Crew} {m : Lanes} {l : Nat} (h : hasLane m l = false) (val : Option Word) : (c.finishAll m val).thread l = c.thread l := by
  obtain ⟨d, hd, he⟩ := finishAll_eq c m val
  rw [he, foldl_finish_of_not _ (fun hl => Bool.false_ne_true (h.symm.trans (mem_lanesOf.mp hl))), thread_eq, hd, ← thread_eq]

theorem Rests.finishAll {c : Crew} {l : Nat} (h : Rests c l) (m : Lanes) (val : Option Word) : Rests (c.finishAll m val) l := by
  obtain ⟨d, hd, he⟩ := finishAll_eq c m val
  rw [he]
  exact (h.of_threads hd).foldl_finish _ val

/-- A lane of the set that waits: its wait is over. -/
theorem finishAll_thread_of_has {c : Crew} {m : Lanes} {l : Nat} {b : Blocked} (hm : hasLane m l = true) (hl : (SMap.find? c.threads l).isSome = true)
    (h : (c.thread l).blocked = some b) (val : Option Word) : (c.finishAll m val).thread l = ended b l val (c.thread l) ∧ Rests (c.finishAll m val) l := by
  obtain ⟨d, hd, he⟩ := finishAll_eq c m val
  have hthread : d.thread l = c.thread l := by rw [thread_eq, hd, ← thread_eq]
  rw [he, ← hthread]
  exact foldl_finish_of_mem _ (mem_lanesOf.mpr hm) (LaneSets.hasLane_lt hm) (hd ▸ hl) (hthread ▸ h) val

end Sys2Proof.Proofs.WaitEnds
end

section
/-! PROOF. Block barriers (R267, R271): BARINIT, BARKILL and BAR, a crew's arrival and the release of the last one (O21). -/

namespace Sys2Proof.Proofs.Barriers

open Sys2Proof.Machine Sys2Proof.Safety Sys2Proof.Proofs.Lives Sys2Proof.Proofs.Control Sys2Proof.Proofs.Loads Sys2Proof.Proofs.Stores
open Sys2Proof.Proofs.Waits Sys2Proof.Proofs.WaitEnds

/-! ## Entries -/

theorem barEnt_some {s : State} {bk id : Nat} {e : BarEnt} (h : s.barEnt bk id = some e) : e.block = bk ∧ e.id = id :=
  of_decide_eq_true (List.find?_some (p := fun e : BarEnt => decide (e.block = bk ∧ e.id = id)) h)

/-- What is written of an entry is read back. -/
theorem barEnt_setBar {s : State} {bk id : Nat} {e : BarEnt} (h : e.block = bk ∧ e.id = id) : (s.setBar bk e).barEnt bk id = some e := by
  obtain ⟨hbk, hid⟩ := h
  unfold State.barEnt State.setBar
  rw [show ((s.modCore (s.block bk).core fun c => { c with bars := (c.bars.filter fun o => !decide (o.block = bk ∧ o.id = e.id)) ++ [e] }).core
    ((s.modCore (s.block bk).core fun c => { c with bars := (c.bars.filter fun o => !decide (o.block = bk ∧ o.id = e.id)) ++ [e] }).block bk).core).bars =
      ((s.core (s.block bk).core).bars.filter fun o => !decide (o.block = bk ∧ o.id = e.id)) ++ [e] from congrArg Core.bars (State.core_setCore_self ..)]
  rw [List.find?_append, List.find?_eq_none.mpr, Option.none_or, List.find?_cons_of_pos (by simp [hbk, hid])]
  intro o ho
  have hne := (List.mem_filter.mp ho).2
  rw [hid] at hne
  exact fun h => Bool.false_ne_true (((Bool.not_eq_eq_eq_not ..).mp hne).symm.trans h)

/-! ## BARINIT and BARKILL -/

theorem exec_barinit_cases {s : State} {x : Ctx} {f : XF} :
    let c := s.crew x.crew
    let ac := act s x f
    let id := bits f.w2.toNat 4 0
    let ent := s.barEnt c.block id
    let bars := (s.core (coreOf x.crew)).bars
    readyOut s x (Instr.barinit f).shape f = true → ac ≠ 0 →
      let count := bits f.w2.toNat 12 8
      let e := ent.getD { block := c.block, id := id }
      let gen := (e.gen + 1) % 65536
      (ent = none → 32 ≤ bars.length → WritesD s x (.barinit f) f false false fun _ => status 0 0 4)
      ∧ ((ent ≠ none ∨ bars.length < 32) → e.mask ≠ 0 → WritesD s x (.barinit f) f false false fun _ => status e.gen 0 3)
      ∧ ((ent ≠ none ∨ bars.length < 32) → e.mask = 0 → (count = 0 ∨ 16 < count) → WritesD s x (.barinit f) f false false fun _ => status e.gen 0 5)
      ∧ ((ent ≠ none ∨ bars.length < 32) → e.mask = 0 → 1 ≤ count → count ≤ 16 →
          ∃ t, exec (.barinit f) s = .next t ∧ t.mem = s.mem ∧ (∀ j, j ≠ x.crew → SMap.find? t.ex.crews j = SMap.find? s.ex.crews j) ∧
            t.crew x.crew = wrote c x (Instr.barinit f).shape f ac false false (fun _ => status gen 0 0) ∧
            t.barEnt c.block id = some { e with state := 1, count := count, gen := gen, mask := 0 }) := by
  intro c ac id ent bars hready hac count e gen
  have he := exec_barinit s f
  unfold execBarinit at he
  have hroom (h : ent ≠ none ∨ bars.length < 32) : ¬(ent.isNone = true ∧ 32 ≤ bars.length) := by
    rintro ⟨hnone, hfull⟩
    rcases h with h | h
    · exact h (Option.isNone_iff_eq_none.mp hnone)
    · omega
  refine ⟨fun hnone hfull => writesD_of_writeD ?_, fun h hmask => writesD_of_writeD ?_, fun h hmask hcount => writesD_of_writeD ?_, fun h hmask h1 h16 => ?_⟩
  · exact exec_of_outside hready rfl he ((if_neg hac).trans ((if_pos ⟨Option.isNone_iff_eq_none.mpr hnone, hfull⟩).trans (answer_eq ..)))
  · exact exec_of_outside hready rfl he ((if_neg hac).trans ((if_neg (hroom h)).trans ((if_pos hmask).trans (answer_eq ..))))
  · exact exec_of_outside hready rfl he ((if_neg hac).trans ((if_neg (hroom h)).trans ((if_neg (Classical.not_not.mpr hmask)).trans ((if_pos hcount).trans (answer_eq ..)))))
  · have hexec := exec_of_outside hready rfl he ((if_neg hac).trans ((if_neg (hroom h)).trans ((if_neg (Classical.not_not.mpr hmask)).trans
      ((if_neg (show ¬(count = 0 ∨ 16 < count) by omega)).trans (answer_eq ..)))))
    rw [writeD_eq] at hexec
    have hent : e.block = c.block ∧ e.id = id := by
      cases hent : ent with
      | none => simp [e, hent]
      | some e' =>
        simp only [e, hent]
        exact barEnt_some hent
    refine ⟨_, hexec, rfl, fun j hj => State.find?_setCrew_ne _ _ _ _ hj, State.crew_setCrew_self _ _ _, ?_⟩
    exact barEnt_setBar (e := { e with state := 1, count := count, gen := gen, mask := 0 }) hent

theorem exec_barkill_cases {s : State} {x : Ctx} {f : XF} :
    let c := s.crew x.crew
    let ac := act s x f
    let id := bits f.w2.toNat 4 0
    let ent := s.barEnt c.block id
    readyOut s x (Instr.barkill f).shape f = true → ac ≠ 0 →
        (ent = none → WritesD s x (.barkill f) f false false fun _ => status 0 0 5)
        ∧ ∀ e, ent = some e →
          let u := (s.setBar c.block { e with state := 2, mask := 0 }).barRelease c.block id 0xFFFF#16 e.gen 6
          exec (.barkill f) s = .next (writeD u x (Instr.barkill f).shape f ac false false fun _ => status e.gen 0 0).endIssue := by
  intro c ac id ent hready hac
  have he := exec_barkill s f
  unfold execBarkill at he
  refine ⟨fun hnone => writesD_of_writeD ?_, fun e hent => ?_⟩
  · refine exec_of_outside hready rfl he ((if_neg hac).trans ?_)
    rw [show s.barEnt (s.crew x.crew).block (bits f.wN 4 0) = none from hnone]
    exact answer_eq ..
  · refine exec_of_outside hready rfl he ((if_neg hac).trans ?_)
    rw [show s.barEnt (s.crew x.crew).block (bits f.wN 4 0) = some e from hent]
    exact answer_eq ..

/-! ## BAR -/

/-- When a group comes to a BAR: as its crew's first, or when that came. -/
def barTime (s : State) (x : Ctx) (id : Nat) : Nat := if (s.crew x.crew).atBar id = 0 then s.now else (s.crew x.crew).barAt.getD s.now

/-- What the lanes of a BAR wait for. -/
def barWait (s : State) (x : Ctx) (f : XF) : Blocked :=
  { kind := .bar (bits f.w2.toNat 4 0), deadline := some (barTime s x (bits f.w2.toNat 4 0) + 2 ^ (bits f.c.toNat 4 0 + 3)), lanes := act s x f
    d := waitDest (Instr.bar f).shape f, sd := f.sd }

/-- The group waits at the BAR. -/
def barWaits (s : State) (x : Ctx) (f : XF) : State :=
  (s.waitFor x x.lanes fun _ => barWait s x f).modCrew x.crew fun c => { c with barAt := some (barTime s x (bits f.w2.toNat 4 0)) }

theorem exec_bar_answers {s : State} {x : Ctx} {f : XF} :
    let c := s.crew x.crew
    let ac := act s x f
    let id := bits f.w2.toNat 4 0
    let ent := s.barEnt c.block id
    readyOut s x (Instr.bar f).shape f = true → ac ≠ 0 →
        (ent = none → WritesD s x (.bar f) f false false fun _ => status 0 0 5)
        ∧ ∀ e, ent = some e →
          (e.state = 0 → WritesD s x (.bar f) f false false fun _ => status e.gen 0 5)
          ∧ (e.state = 2 → WritesD s x (.bar f) f false false fun _ => status e.gen 0 6)
          ∧ (e.state ≠ 0 → e.state ≠ 2 →
              let v := (barWaits s x f).barArrive x.crew id
              exec (.bar f) s = .next (if bits f.c.toNat 4 0 = 0 ∧ (v.crew x.crew).atBar id ≠ 0 then v.barTimeout x.crew id else v).endIssue) := by
  intro c ac id ent hready hac
  have he := exec_bar s f
  unfold execBar at he
  refine ⟨fun hnone => writesD_of_writeD ?_, fun e hent => ?_⟩
  · refine exec_of_outside hready rfl he ((if_neg hac).trans ?_)
    rw [show s.barEnt (s.crew x.crew).block (bits f.wN 4 0) = none from hnone]
    exact answer_eq ..
  · rw [← show s.barEnt (s.crew x.crew).block (bits f.wN 4 0) = ent from rfl] at hent
    refine ⟨fun h0 => writesD_of_writeD ?_, fun h2 => writesD_of_writeD ?_, fun h0 h2 => ?_⟩
    · refine exec_of_outside hready rfl he ((if_neg hac).trans ?_)
      rw [hent]
      exact (if_pos h0).trans (answer_eq ..)
    · refine exec_of_outside hready rfl he ((if_neg hac).trans ?_)
      rw [hent]
      exact (if_neg (by omega)).trans ((if_pos h2).trans (answer_eq ..))
    · refine exec_of_outside hready rfl he ((if_neg hac).trans ?_)
      rw [hent]
      exact (if_neg h0).trans ((if_neg h2).trans rfl)

/-! ## Who stands at a barrier -/

/-- A thread stands at the barrier. -/
def stands (id : Nat) (t : Thread) : Prop := t.live = true ∧ ∃ b, t.blocked = some b ∧ b.kind = .bar id

theorem hasLane_atBar {c : Crew} {id l : Nat} : hasLane (c.atBar id) l = true ↔ l < 64 ∧ ∃ p ∈ c.threads, p.1 = l ∧ stands id p.2 := by
  unfold Crew.atBar
  have hfold (ls : SMap Thread) (m : Lanes) (G : Lanes → Nat × Thread → Lanes) (hG : ∀ m p, hasLane (G m p) l = true ↔ hasLane m l = true ∨ l < 64 ∧ p.1 = l ∧ stands id p.2) :
      hasLane (ls.foldl G m) l = true ↔ hasLane m l = true ∨ l < 64 ∧ ∃ p ∈ ls, p.1 = l ∧ stands id p.2 := by
    induction ls generalizing m with
    | nil => simp
    | cons p rest ih =>
      rw [List.foldl_cons, ih, hG]
      simp only [List.mem_cons, exists_eq_or_imp]
      constructor
      · rintro ((h | ⟨hl, h⟩) | ⟨hl, h⟩)
        · exact .inl h
        · exact .inr ⟨hl, .inl h⟩
        · exact .inr ⟨hl, .inr h⟩
      · rintro (h | ⟨hl, h | h⟩)
        · exact .inl (.inl h)
        · exact .inl (.inr ⟨hl, h⟩)
        · exact .inr ⟨hl, h⟩
  refine (hfold c.threads 0 _ fun m p => ?_).trans ?_
  · unfold stands
    cases hb : p.2.blocked with
    | none => simp
    | some b =>
      cases hk : b.kind with
      | bar j =>
        simp only [Option.some.injEq, exists_eq_left', hk, WaitKind.bar.injEq]
        split
        · rename_i hj
          rw [LaneSets.hasLane_or, Bool.or_eq_true, hasLane_oneLane_iff]
          simp only [hj, and_true, eq_comm]
        · rename_i hj
          simp only [hj, and_false, or_false]
      | _ => simp [hk]
  · rw [show hasLane (0 : Lanes) l = false from LaneSets.hasLane_zero l]
    simp

theorem not_atBar_of_rests {c : Crew} {l : Nat} (h : Rests c l) (id : Nat) : hasLane (c.atBar id) l = false := by
  refine Bool.eq_false_iff.mpr fun hl => ?_
  obtain ⟨-, p, hp, hpl, -, b, hb, -⟩ := hasLane_atBar.mp hl
  rw [h p hp hpl] at hb
  cases hb

/-! ## The group at the barrier -/

/-- The thread of a lane that waits at the BAR. -/
def atBarThread (s : State) (x : Ctx) (f : XF) (t : Thread) : Thread :=
  { t with blocked := some { barWait s x f with pc := x.pc, nextPc := (State.after x t).1, rep := (State.after x t).2 } }

/-- The crew of a group that waits at the BAR. -/
def barCrew (s : State) (x : Ctx) (f : XF) : Crew :=
  { (s.crew x.crew).mapLanes x.lanes fun _ => atBarThread s x f with barAt := some (barTime s x (bits f.w2.toNat 4 0)) }

theorem barWaits_eq (s : State) (x : Ctx) (f : XF) : barWaits s x f = s.setCrew x.crew (barCrew s x f) := by
  unfold barWaits State.waitFor State.modCrew
  rw [State.setCrew_setCrew, State.crew_setCrew_self]
  rfl

theorem live_barCrew (s : State) (x : Ctx) (f : XF) : (barCrew s x f).live = (s.crew x.crew).live := by
  refine congrArg laneSet (funext fun l => ?_)
  show (((s.crew x.crew).mapLanes x.lanes fun _ => atBarThread s x f).thread l).live = _
  rw [thread_mapLanes, thread_eq]
  cases SMap.find? (s.crew x.crew).threads l with
  | none => rfl
  | some t =>
    show (if hasLane x.lanes l then atBarThread s x f t else t).live = t.live
    split <;> rfl

/-- A lane that has a thread waits, where its group does. -/
theorem barCrew_thread {s : State} {x : Ctx} {f : XF} {l : Nat} (hl : hasLane x.lanes l = true)
    (hlisted : (SMap.find? (s.crew x.crew).threads l).isSome = true) : (barCrew s x f).thread l = atBarThread s x f ((s.crew x.crew).thread l) :=
  thread_mapLanes_of_has hl hlisted fun _ => atBarThread s x f

theorem live_of_hasLane {c : Crew} {l : Nat} (h : hasLane c.live l = true) : (c.thread l).live = true :=
  ((Bool.and_eq_true ..).mp ((hasLane_live c l).symm.trans h)).2

theorem isSome_of_live {c : Crew} {l : Nat} (h : (c.thread l).live = true) : (SMap.find? c.threads l).isSome = true := by
  rw [thread_eq] at h
  cases hf : SMap.find? c.threads l with
  | none => rw [hf] at h; cases h
  | some t => rfl

theorem mem_of_find? {α : Type} {m : SMap α} {k : Nat} {v : α} (h : SMap.find? m k = some v) : (k, v) ∈ m := by
  induction m with
  | nil => cases h
  | cons p rest ih =>
    obtain ⟨j, w⟩ := p
    unfold SMap.find? at h
    split at h
    · rename_i hj
      rw [← hj, ← Option.some.inj h]
      exact List.mem_cons_self
    · exact List.mem_cons_of_mem _ (ih h)

/-- Those who stood at the barrier, and the live threads of the group, stand at it. -/
theorem barCrew_atBar {s : State} {x : Ctx} {f : XF} {l : Nat} (hlive : hasLane (s.crew x.crew).live l = true)
    (h : hasLane ((s.crew x.crew).atBar (bits f.w2.toNat 4 0) ||| x.lanes) l = true) : hasLane ((barCrew s x f).atBar (bits f.w2.toNat 4 0)) l = true := by
  have h64 := LaneSets.hasLane_lt h
  have hstep (p : Nat × Thread) (hp : p ∈ (s.crew x.crew).threads) (hpl : p.1 = l) (hplive : p.2.live = true)
      (hat : hasLane x.lanes l = true ∨ stands (bits f.w2.toNat 4 0) p.2) : hasLane ((barCrew s x f).atBar (bits f.w2.toNat 4 0)) l = true := by
    refine hasLane_atBar.mpr ⟨h64, _, List.mem_map_of_mem hp, hpl, ?_⟩
    show stands _ (if hasLane x.lanes p.1 then atBarThread s x f p.2 else p.2)
    split
    · exact ⟨hplive, _, rfl, rfl⟩
    · rename_i hnot
      exact hat.resolve_left (hpl ▸ hnot)
  rw [LaneSets.hasLane_or, Bool.or_eq_true] at h
  rcases h with h | h
  · obtain ⟨-, p, hp, hpl, hstand⟩ := hasLane_atBar.mp h
    exact hstep p hp hpl hstand.1 (.inr hstand)
  · have hthread := live_of_hasLane hlive
    obtain ⟨t, ht⟩ := Option.isSome_iff_exists.mp (isSome_of_live hthread)
    refine hstep (l, t) (mem_of_find? ht) rfl ?_ (.inl h)
    rwa [thread_eq, ht] at hthread

theorem all_at_bar {s : State} {x : Ctx} {f : XF}
    (h : (s.crew x.crew).live &&& ~~~((s.crew x.crew).atBar (bits f.w2.toNat 4 0) ||| x.lanes) = 0) :
    (barCrew s x f).live &&& ~~~(barCrew s x f).atBar (bits f.w2.toNat 4 0) = 0 := by
  rw [live_barCrew]
  refine LaneSets.eq_zero_iff.mpr fun l => ?_
  have hl := LaneSets.eq_zero_iff.mp h l
  rw [LaneSets.hasLane_and, Bool.and_eq_false_iff] at hl ⊢
  by_cases hlive : hasLane (s.crew x.crew).live l = true
  · refine .inr ?_
    have hnot (m : Lanes) : hasLane (~~~m) l = (decide (l < 64) && !hasLane m l) := BitVec.getLsbD_not
    have h64 := LaneSets.hasLane_lt hlive
    have hat := hl.resolve_left (by rw [hlive]; exact Bool.noConfusion)
    rw [hnot, decide_eq_true h64, Bool.true_and, Bool.not_eq_false'] at hat ⊢
    exact barCrew_atBar hlive hat
  · exact .inl (Bool.eq_false_iff.mpr hlive)

/-- A `.c` FENCE is met by what a crew has under way, whatever its threads stand at. -/
theorem fenceOk_barWaits (s : State) (x : Ctx) (f : XF) (l : Nat) : (s.setCrew x.crew (barCrew s x f)).fenceOk x.crew l 0 = s.fenceOk x.crew l 0 := by
  unfold State.fenceOk
  rw [State.crew_setCrew_self]
  rfl

/-- The crew arrives. -/
theorem barArrive_eq {s : State} {x : Ctx} {f : XF} {e : BarEnt} (hent : s.barEnt (s.crew x.crew).block (bits f.w2.toNat 4 0) = some e)
    (hstate : e.state = 1) (hmask : e.mask.getLsbD (s.crew x.crew).idx = false) (hlive : (s.crew x.crew).live ≠ 0)
    (hall : (s.crew x.crew).live &&& ~~~((s.crew x.crew).atBar (bits f.w2.toNat 4 0) ||| x.lanes) = 0)
    (hfence : ((lanesOf (s.crew x.crew).live).all fun l => s.fenceOk x.crew l 0) = true) :
    let mask := e.mask ||| (1#16 <<< (s.crew x.crew).idx)
    let u := s.setCrew x.crew (barCrew s x f)
    u.barArrive x.crew (bits f.w2.toNat 4 0) =
      if ((List.range 16).filter mask.getLsbD).length < e.count then u.setBar (s.crew x.crew).block { e with mask := mask }
      else (u.setBar (s.crew x.crew).block { e with mask := 0, gen := (e.gen + 1) % 65536 }).barRelease (s.crew x.crew).block (bits f.w2.toNat 4 0) mask
        ((e.gen + 1) % 65536) 0 := by
  intro mask u
  unfold State.barArrive
  rw [show u.crew x.crew = barCrew s x f from State.crew_setCrew_self ..]
  dsimp only
  rw [show u.barEnt (barCrew s x f).block (bits f.w2.toNat 4 0) = some e from hent]
  have hidx : (barCrew s x f).idx = (s.crew x.crew).idx := rfl
  have hok : (!(lanesOf (barCrew s x f).live).all fun l => u.fenceOk x.crew l 0) = false := by
    rw [live_barCrew, Bool.not_eq_false', ← hfence]
    exact congrArg (List.all (lanesOf (s.crew x.crew).live)) (funext fun l => fenceOk_barWaits s x f l)
  have hgo : ¬(e.state ≠ 1 ∨ e.mask.getLsbD (barCrew s x f).idx = true ∨ (barCrew s x f).live &&& ~~~(barCrew s x f).atBar (bits f.w2.toNat 4 0) ≠ 0
      ∨ (barCrew s x f).live = 0) := by
    rw [live_barCrew] at *
    rintro (h | h | h | h)
    · exact h hstate
    · rw [hidx, hmask] at h
      cases h
    · exact h (live_barCrew s x f ▸ all_at_bar hall)
    · exact hlive h
  exact (if_neg hgo).trans ((if_neg (Bool.eq_false_iff.mp hok)).trans rfl)

/-- With fewer arrivals than the count the entry notes this one, and the group waits. -/
theorem exec_bar_arrives {s : State} {x : Ctx} {f : XF} {e : BarEnt} (hready : readyOut s x (Instr.bar f).shape f = true) (hac : act s x f ≠ 0)
    (hent : s.barEnt (s.crew x.crew).block (bits f.w2.toNat 4 0) = some e)
    (hstate : e.state = 1) (hmask : e.mask.getLsbD (s.crew x.crew).idx = false) (hlive : (s.crew x.crew).live ≠ 0)
    (hall : (s.crew x.crew).live &&& ~~~((s.crew x.crew).atBar (bits f.w2.toNat 4 0) ||| x.lanes) = 0)
    (hfence : ((lanesOf (s.crew x.crew).live).all fun l => s.fenceOk x.crew l 0) = true) :
    let mask := e.mask ||| (1#16 <<< (s.crew x.crew).idx)
    ((List.range 16).filter mask.getLsbD).length < e.count → bits f.c.toNat 4 0 ≠ 0 →
      ∃ t, exec (.bar f) s = .next t ∧ t.mem = s.mem ∧ t.barEnt (s.crew x.crew).block (bits f.w2.toNat 4 0) = some { e with mask := mask } ∧
        ∀ l, hasLane x.lanes l = true → SMap.find? (s.crew x.crew).threads l ≠ none →
          ∃ b, ((t.crew x.crew).thread l).blocked = some b ∧ b.kind = .bar (bits f.w2.toNat 4 0) ∧ b.lanes = act s x f := by
  intro mask hn htmo
  obtain ⟨-, hcases⟩ := exec_bar_answers hready hac
  obtain ⟨-, -, hexec⟩ := hcases e hent
  have hexec := hexec (by omega) (by omega)
  dsimp only at hexec
  rw [barWaits_eq, barArrive_eq hent hstate hmask hlive hall hfence, if_pos hn, if_neg fun h => htmo h.1] at hexec
  refine ⟨_, hexec, rfl, barEnt_setBar (e := { e with mask := mask }) (show e.block = _ ∧ e.id = _ from barEnt_some hent), fun l hl hlisted => ?_⟩
  have hthread := barCrew_thread (f := f) hl (Option.isSome_iff_ne_none.mpr hlisted)
  have hblocked : (((s.setCrew x.crew (barCrew s x f)).crew x.crew).thread l).blocked = (atBarThread s x f ((s.crew x.crew).thread l)).blocked := by
    rw [State.crew_setCrew_self, hthread]
  exact ⟨_, hblocked, rfl, rfl⟩

/-! ## The release -/

/-- Releasing the crews of a mask changes no entry and no byte. -/
theorem barRelease_keeps (s : State) (bk id : Nat) (mask : BitVec 16) (gen st : Nat) :
    (s.barRelease bk id mask gen st).mem = s.mem ∧ (s.barRelease bk id mask gen st).ex.cores = s.ex.cores ∧
      (s.barRelease bk id mask gen st).ex.blocks = s.ex.blocks := by
  unfold State.barRelease
  generalize (s.block bk).crews = ks
  induction ks generalizing s with
  | nil => exact ⟨rfl, rfl, rfl⟩
  | cons k rest ih =>
    obtain ⟨hmem, hcores, hblocks⟩ := ih (if mask.getLsbD (s.crew k).idx then
        s.modCrew k fun c => { (c.finishAll (c.atBar id) (some (statusWord gen 0 st))) with barAt := none }
      else s)
    refine ⟨hmem.trans ?_, hcores.trans ?_, hblocks.trans ?_⟩
    all_goals split <;> rfl

/-- One crew's part in a release. -/
def releaseCrew (id : Nat) (w : Word) (c : Crew) : Crew := { (c.finishAll (c.atBar id) (some w)) with barAt := none }

/-- A lane at rest stays so, and as it is. -/
theorem foldl_release_of_rests {mask : BitVec 16} {id : Nat} {w : Word} {k l : Nat} (ks : List Nat) {s : State} (h : Rests (s.crew k) l) :
    let t := ks.foldl (fun s j => if mask.getLsbD (s.crew j).idx then s.modCrew j (releaseCrew id w) else s) s
    Rests (t.crew k) l ∧ (t.crew k).thread l = (s.crew k).thread l := by
  induction ks generalizing s with
  | nil => exact ⟨h, rfl⟩
  | cons j rest ih =>
    rw [List.foldl_cons]
    by_cases hbit : mask.getLsbD (s.crew j).idx = true
    · rw [if_pos hbit]
      by_cases hj : k = j
      · subst hj
        have hcrew : (s.modCrew k (releaseCrew id w)).crew k = releaseCrew id w (s.crew k) := State.crew_setCrew_self ..
        obtain ⟨hrest, hthread⟩ := ih (s := s.modCrew k (releaseCrew id w)) (by rw [hcrew]; exact h.finishAll _ _)
        refine ⟨hrest, hthread.trans ?_⟩
        rw [hcrew]
        exact finishAll_thread_of_not (not_atBar_of_rests h id) _
      · have hcrew : (s.modCrew j (releaseCrew id w)).crew k = s.crew k := State.crew_setCrew_ne _ _ _ _ hj
        obtain ⟨hrest, hthread⟩ := ih (s := s.modCrew j (releaseCrew id w)) (by rw [hcrew]; exact h)
        exact ⟨hrest, hthread.trans (by rw [hcrew])⟩
    · rw [if_neg hbit]
      exact ih h

/-- A lane that stands at the barrier, of a crew of the mask, goes on with the status. -/
theorem foldl_release {mask : BitVec 16} {id : Nat} {w : Word} {k l : Nat} {b : Blocked} (ks : List Nat) (hk : k ∈ ks) {s : State}
    (hbit : mask.getLsbD (s.crew k).idx = true) (hat : hasLane ((s.crew k).atBar id) l = true)
    (hlisted : (SMap.find? (s.crew k).threads l).isSome = true) (hb : ((s.crew k).thread l).blocked = some b) :
    let t := ks.foldl (fun s j => if mask.getLsbD (s.crew j).idx then s.modCrew j (releaseCrew id w) else s) s
    Rests (t.crew k) l ∧ (t.crew k).thread l = ended b l (some w) ((s.crew k).thread l) := by
  induction ks generalizing s with
  | nil => cases hk
  | cons j rest ih =>
    rw [List.foldl_cons]
    by_cases hj : k = j
    · subst hj
      rw [if_pos hbit]
      have hcrew : (s.modCrew k (releaseCrew id w)).crew k = releaseCrew id w (s.crew k) := State.crew_setCrew_self ..
      obtain ⟨hend, hrests⟩ := finishAll_thread_of_has hat hlisted hb (some w)
      obtain ⟨hrest, hthread⟩ := foldl_release_of_rests (mask := mask) (id := id) (w := w) rest (s := s.modCrew k (releaseCrew id w)) (k := k) (l := l) (by rw [hcrew]; exact hrests)
      refine ⟨hrest, hthread.trans ?_⟩
      rw [hcrew]
      exact hend
    · have hcrew (t : State) (ht : t = if mask.getLsbD (s.crew j).idx then s.modCrew j (releaseCrew id w) else s) : t.crew k = s.crew k := by
        rw [ht]
        split
        · exact State.crew_setCrew_ne _ _ _ _ hj
        · rfl
      have hkeep := hcrew _ rfl
      have := ih ((List.mem_cons.mp hk).resolve_left hj) (s := if mask.getLsbD (s.crew j).idx then s.modCrew j (releaseCrew id w) else s)
        (by rw [hkeep]; exact hbit) (by rw [hkeep]; exact hat) (by rw [hkeep]; exact hlisted) (by rw [hkeep]; exact hb)
      rwa [hkeep] at this

theorem finish_block (c : Crew) (l : Nat) (val : Option Word) : (c.finish l val).block = c.block := by
  have hwrS (c : Crew) (h : Bool) (n : Nat) (v : Word) : (c.wrS h n v).block = c.block := by
    unfold Crew.wrS
    split <;> rfl
  unfold Crew.finish
  split
  · rfl
  · split
    · split
      · rfl
      · split
        · exact hwrS _ _ _ _
        · rfl
    · rfl

theorem finishAll_block (c : Crew) (m : Lanes) (val : Option Word) : (c.finishAll m val).block = c.block := by
  have hpush (waits : List (Nat × Nat × Lanes)) (F : Crew → Nat × Nat × Lanes → Crew) (hF : ∀ c w, (F c w).block = c.block) (c : Crew) :
      (waits.foldl F c).block = c.block := by
    induction waits generalizing c with
    | nil => rfl
    | cons w rest ih => exact (ih _).trans (hF c w)
  have hfold (ls : List Nat) (c : Crew) : (ls.foldl (fun c l => c.finish l val) c).block = c.block := by
    induction ls generalizing c with
    | nil => rfl
    | cons l rest ih => exact (ih _).trans (finish_block c l val)
  unfold Crew.finishAll
  rw [hfold]
  cases val with
  | none => rfl
  | some v =>
    show (c.pushWaited m _ _).block = c.block
    unfold Crew.pushWaited
    refine hpush _ _ (fun c w => ?_) c
    rfl

theorem barRelease_block (s : State) (bk id : Nat) (mask : BitVec 16) (gen st k : Nat) :
    ((s.barRelease bk id mask gen st).crew k).block = (s.crew k).block := by
  unfold State.barRelease
  generalize (s.block bk).crews = ks
  induction ks generalizing s with
  | nil => rfl
  | cons j rest ih =>
    refine (ih _).trans ?_
    dsimp only
    split
    · by_cases hj : k = j
      · rw [hj, State.modCrew, State.crew_setCrew_self]
        exact finishAll_block _ _ _
      · rw [State.modCrew, State.crew_setCrew_ne _ _ _ _ hj]
    · rfl

/-- A timeout after the release changes no byte, nor the entry, nor a lane at rest. -/
theorem barTimeout_of_released {s : State} {k id : Nat} {e : BarEnt} (hent : s.barEnt (s.crew k).block id = some e) (hmask : e.mask = 0) :
    (s.barTimeout k id).mem = s.mem ∧ (s.barTimeout k id).barEnt (s.crew k).block id = some e ∧
      ∀ l, Rests (s.crew k) l → ((s.barTimeout k id).crew k).thread l = (s.crew k).thread l := by
  unfold State.barTimeout
  dsimp only
  rw [hent]
  dsimp only
  have hsame : ({ e with mask := e.mask &&& ~~~(1#16 <<< (s.crew k).idx) } : BarEnt) = e := by
    rw [hmask, show (0 : BitVec 16) &&& ~~~(1#16 <<< (s.crew k).idx) = 0 from BitVec.zero_and, ← hmask]
  rw [hsame]
  refine ⟨rfl, barEnt_setBar (barEnt_some hent), fun l h => ?_⟩
  rw [State.modCrew, State.crew_setCrew_self]
  exact finishAll_thread_of_not (not_atBar_of_rests (h : Rests ((s.setBar (s.crew k).block e).crew k) l) id) _

theorem after_pc {x : Ctx} (h : x.rep = none) (t : Thread) : (State.after x t).1 = x.next := by
  unfold State.after
  rw [h]

/-- The thread of a lane that the barrier has let go. -/
theorem ended_atBar {s : State} {x : Ctx} {f : XF} {l : Nat} {t : Thread} (w : Word) :
    let b : Blocked := { barWait s x f with pc := x.pc, nextPc := (State.after x t).1, rep := (State.after x t).2 }
    let u := ended b l (some w) (atBarThread s x f t)
    u.blocked = none ∧ (x.rep = none → u.pc = x.next) ∧
      (hasLane (act s x f) l = true → f.sd = false → waitDest (Instr.bar f).shape f < 256 → u.rd f.d.toNat = w) := by
  intro b u
  refine ⟨blocked_ended .., fun hrep => ?_, fun hl hsd hdest => ?_⟩
  · rw [← after_pc hrep t]
    show (ended b l (some w) (atBarThread s x f t)).pc = _
    unfold ended
    dsimp only
    split <;> rfl
  · have hw : writesLane b l = true := by
      show (hasLane (act s x f) l && !f.sd && decide (waitDest (Instr.bar f).shape f < 256)) = true
      rw [hl, hsd, decide_eq_true hdest]
      rfl
    have hd : waitDest (Instr.bar f).shape f = f.d.toNat := by
      unfold waitDest at hdest ⊢
      split at hdest
      · omega
      · rfl
    show (ended b l (some w) (atBarThread s x f t)).rd _ = _
    unfold ended
    dsimp only
    rw [hw, if_pos rfl, ← hd]
    exact SMap.get_set_self _ _ _ _

/-- With the last arrival the entry starts its next generation, and the waiting lanes of the crew go on. -/
theorem exec_bar_releases {s : State} {x : Ctx} {f : XF} {e : BarEnt} (hready : readyOut s x (Instr.bar f).shape f = true) (hac : act s x f ≠ 0)
    (hent : s.barEnt (s.crew x.crew).block (bits f.w2.toNat 4 0) = some e)
    (hstate : e.state = 1) (hmask : e.mask.getLsbD (s.crew x.crew).idx = false) (hlive : (s.crew x.crew).live ≠ 0)
    (hall : (s.crew x.crew).live &&& ~~~((s.crew x.crew).atBar (bits f.w2.toNat 4 0) ||| x.lanes) = 0)
    (hfence : ((lanesOf (s.crew x.crew).live).all fun l => s.fenceOk x.crew l 0) = true) :
    let mask := e.mask ||| (1#16 <<< (s.crew x.crew).idx)
    let gen := (e.gen + 1) % 65536
    e.count ≤ ((List.range 16).filter mask.getLsbD).length → (s.crew x.crew).idx < 16 → x.crew ∈ (s.block (s.crew x.crew).block).crews →
      ∃ t, exec (.bar f) s = .next t ∧ t.mem = s.mem ∧ t.barEnt (s.crew x.crew).block (bits f.w2.toNat 4 0) = some { e with mask := 0, gen := gen } ∧
        ∀ l, hasLane x.lanes l = true → hasLane (s.crew x.crew).live l = true → ((t.crew x.crew).thread l).blocked = none ∧
          (x.rep = none → ((t.crew x.crew).thread l).pc = x.next) ∧
          (hasLane (act s x f) l = true → f.sd = false → waitDest (Instr.bar f).shape f < 256 →
            ((t.crew x.crew).thread l).rd f.d.toNat = BitVec.ofNat 32 (status gen 0 0)) := by
  intro mask gen hn hidx hmem
  obtain ⟨-, hcases⟩ := exec_bar_answers hready hac
  obtain ⟨-, -, hexec⟩ := hcases e hent
  have hexec := hexec (by omega) (by omega)
  dsimp only at hexec
  rw [barWaits_eq, barArrive_eq hent hstate hmask hlive hall hfence, if_neg (Nat.not_lt.mpr hn)] at hexec
  have hbk : (s.setCrew x.crew (barCrew s x f)).crew x.crew = barCrew s x f := State.crew_setCrew_self ..
  generalize hu : (s.setCrew x.crew (barCrew s x f)).setBar (s.crew x.crew).block { e with mask := 0, gen := gen } = u at hexec
  have hucrew : u.crew x.crew = barCrew s x f := by rw [← hu]; exact hbk
  have hublock : (u.block (s.crew x.crew).block).crews = (s.block (s.crew x.crew).block).crews := by rw [← hu]; rfl
  have humem : u.mem = s.mem := by rw [← hu]; rfl
  have huent : u.barEnt (s.crew x.crew).block (bits f.w2.toNat 4 0) = some { e with mask := 0, gen := gen } := by
    rw [← hu]
    exact barEnt_setBar (e := { e with mask := 0, gen := gen }) (show e.block = _ ∧ e.id = _ from barEnt_some hent)
  obtain ⟨hvmem, hvcores, hvblocks⟩ := barRelease_keeps u (s.crew x.crew).block (bits f.w2.toNat 4 0) mask gen 0
  have hvblock := barRelease_block u (s.crew x.crew).block (bits f.w2.toNat 4 0) mask gen 0 x.crew
  have hbit : mask.getLsbD (barCrew s x f).idx = true := by
    show (e.mask ||| (1#16 <<< (s.crew x.crew).idx)).getLsbD (s.crew x.crew).idx = true
    rw [BitVec.getLsbD_or]
    simp [hidx]
  have hlanes (l : Nat) (hl : hasLane x.lanes l = true) (hlv : hasLane (s.crew x.crew).live l = true) :
      Rests ((u.barRelease (s.crew x.crew).block (bits f.w2.toNat 4 0) mask gen 0).crew x.crew) l ∧
        ((u.barRelease (s.crew x.crew).block (bits f.w2.toNat 4 0) mask gen 0).crew x.crew).thread l =
          ended { barWait s x f with pc := x.pc, nextPc := (State.after x ((s.crew x.crew).thread l)).1, rep := (State.after x ((s.crew x.crew).thread l)).2 } l
            (some (statusWord gen 0 0)) (atBarThread s x f ((s.crew x.crew).thread l)) := by
    have hlisted := isSome_of_live (live_of_hasLane hlv)
    have hthread := barCrew_thread (f := f) hl hlisted
    have hat : hasLane ((barCrew s x f).atBar (bits f.w2.toNat 4 0)) l = true :=
      barCrew_atBar hlv (by rw [LaneSets.hasLane_or, hl, Bool.or_true])
    have := foldl_release (mask := mask) (id := bits f.w2.toNat 4 0) (w := statusWord gen 0 0) (u.block (s.crew x.crew).block).crews (by rw [hublock]; exact hmem)
      (s := u) (k := x.crew) (l := l) (by rw [hucrew]; exact hbit) (by rw [hucrew]; exact hat) (by rw [hucrew]; exact isSome_mapLanes hlisted x.lanes fun _ => atBarThread s x f)
      (by rw [hucrew, hthread]; rfl)
    rw [hucrew, hthread] at this
    exact this
  generalize u.barRelease (s.crew x.crew).block (bits f.w2.toNat 4 0) mask gen 0 = v at hexec hvmem hvcores hvblocks hvblock hlanes
  have hvent : v.barEnt (s.crew x.crew).block (bits f.w2.toNat 4 0) = some { e with mask := 0, gen := gen } := by
    rw [← huent]
    unfold State.barEnt State.core State.block
    rw [hvcores, hvblocks]
  rw [hucrew] at hvblock
  have hvcrew : (v.crew x.crew).block = (s.crew x.crew).block := hvblock
  obtain ⟨htmem, htent, htthread⟩ := barTimeout_of_released (k := x.crew) (hvcrew ▸ hvent) rfl
  have hfinal (t : State) (ht : t = v ∨ t = v.barTimeout x.crew (bits f.w2.toNat 4 0)) : t.mem = s.mem ∧
      t.barEnt (s.crew x.crew).block (bits f.w2.toNat 4 0) = some { e with mask := 0, gen := gen } ∧
      ∀ l, Rests (v.crew x.crew) l → (t.crew x.crew).thread l = (v.crew x.crew).thread l := by
    rcases ht with rfl | rfl
    · exact ⟨hvmem.trans humem, hvent, fun _ _ => rfl⟩
    · exact ⟨htmem.trans (hvmem.trans humem), hvcrew ▸ htent, htthread⟩
  obtain ⟨hmem, hent', hthread⟩ := hfinal (if bits f.c.toNat 4 0 = 0 ∧ (v.crew x.crew).atBar (bits f.w2.toNat 4 0) ≠ 0
    then v.barTimeout x.crew (bits f.w2.toNat 4 0) else v) (by
      split
      · exact .inr rfl
      · exact .inl rfl)
  refine ⟨_, hexec, hmem, hent', fun l hl hlv => ?_⟩
  obtain ⟨hrests, hended⟩ := hlanes l hl hlv
  rw [State.crew_endIssue, hthread l hrests, hended]
  exact ended_atBar (statusWord gen 0 0)

/-- Settles O21: each instruction by the entry that it finds, and a BAR's arrival by what its crew's threads stand at. -/
theorem blockBarriersArriveAndRelease : Obligations.BlockBarriersArriveAndRelease := by
  unfold Obligations.BlockBarriersArriveAndRelease
  intro s x f
  refine ⟨exec_barinit_cases, exec_barkill_cases, fun hready hac => ⟨(exec_bar_answers hready hac).1, fun e hent => ?_⟩⟩
  obtain ⟨h0, h2, hwait⟩ := (exec_bar_answers hready hac).2 e hent
  refine ⟨h0, h2, hwait, fun hstate hmask hlive hall hfence => ⟨?_, ?_⟩⟩
  · exact exec_bar_arrives hready hac hent hstate hmask hlive hall hfence
  · exact exec_bar_releases hready hac hent hstate hmask hlive hall hfence

end Sys2Proof.Proofs.Barriers
end

section
/-! PROOF. What work at the homes of memory (03) leaves as it was: crews, blocks, quadrants and cores, translation, time, the front end but for its launches'
snapshots, the platform but for what it records of poison. -/

namespace Sys2Proof.Proofs.Homes

open Sys2Proof.Machine Sys2Proof.Machine.State Sys2Proof.Proofs.Lives

/-- From `s` to `t` memory, the caches, snapshots and what the controllers record of poison may have changed, and nothing else has. -/
structure HomeWork (s t : State) : Prop where
  ex  : t.ex = s.ex
  tr  : t.tr = s.tr
  now : t.now = s.now
  ctr : t.ctr = s.ctr
  fr  : ∃ ls, t.fr = { s.fr with launches := ls }
  pl  : ∃ pu qu po fu, t.pl = { s.pl with poolUsed := pu, quar := qu, poisRec := po, funcs := fu }

namespace HomeWork

theorem refl (s : State) : HomeWork s s := ⟨rfl, rfl, rfl, rfl, ⟨_, rfl⟩, ⟨_, _, _, _, rfl⟩⟩

theorem trans {s t u : State} (h : HomeWork s t) (h' : HomeWork t u) : HomeWork s u := by
  obtain ⟨ls, hfr⟩ := h.fr
  obtain ⟨ls', hfr'⟩ := h'.fr
  obtain ⟨pu, qu, po, fu, hpl⟩ := h.pl
  obtain ⟨pu', qu', po', fu', hpl'⟩ := h'.pl
  refine ⟨h'.ex.trans h.ex, h'.tr.trans h.tr, h'.now.trans h.now, h'.ctr.trans h.ctr, ⟨ls', ?_⟩, ⟨pu', qu', po', fu', ?_⟩⟩
  · rw [hfr', hfr]
  · rw [hpl', hpl]

theorem foldl {α : Type} {f : State → α → State} (h : ∀ s a, HomeWork s (f s a)) (l : List α) (s : State) : HomeWork s (l.foldl f s) := by
  induction l generalizing s with
  | nil => exact refl s
  | cons a rest ih => exact (h s a).trans (ih _)

/-- Memory and the caches alone have changed. -/
theorem of_mem_coh (s : State) (m : Mem) (c : Coh) : HomeWork s { s with mem := m, coh := c } := ⟨rfl, rfl, rfl, rfl, ⟨_, rfl⟩, ⟨_, _, _, _, rfl⟩⟩

theorem of_coh (s : State) (c : Coh) : HomeWork s { s with coh := c } := ⟨rfl, rfl, rfl, rfl, ⟨_, rfl⟩, ⟨_, _, _, _, rfl⟩⟩

theorem of_mem (s : State) (m : Mem) : HomeWork s { s with mem := m } := ⟨rfl, rfl, rfl, rfl, ⟨_, rfl⟩, ⟨_, _, _, _, rfl⟩⟩

end HomeWork

theorem homeWork_performBytes (s : State) (bs : List (Nat × Byte)) : HomeWork s (s.performBytes bs) := ⟨rfl, rfl, rfl, rfl, ⟨_, rfl⟩, ⟨_, _, _, _, rfl⟩⟩

theorem homeWork_setLaunch (s : State) (k : Nat) (l : Launch) : HomeWork s (s.setLaunch k l) := ⟨rfl, rfl, rfl, rfl, ⟨_, rfl⟩, ⟨_, _, _, _, rfl⟩⟩

theorem homeWork_poolUsed (s : State) (p : SMap (List Nat)) : HomeWork s { s with pl := { s.pl with poolUsed := p } } :=
  ⟨rfl, rfl, rfl, rfl, ⟨_, rfl⟩, ⟨_, _, _, _, rfl⟩⟩

theorem homeWork_snapshot (s : State) (d key : Nat) : HomeWork s (s.snapshot d key) := by
  unfold snapshot
  dsimp only
  split
  · exact .refl s
  split
  · exact .refl s
  split
  · exact homeWork_setLaunch s _ _
  split
  · exact .refl s
  split
  · exact homeWork_setLaunch s _ _
  · exact (homeWork_poolUsed s _).trans (homeWork_setLaunch _ _ _)

theorem homeWork_pendBytes (s : State) (p : Pending) : HomeWork s (s.pendBytes p) := by
  unfold pendBytes
  dsimp only
  have h : HomeWork s ((s.performBytes (p.bytes.filter fun b => !p.masks.any fun m => decide (m.1 = b.1))).performNibbles p.bytes p.masks) :=
    (homeWork_performBytes s _).trans (.of_mem _ _)
  split
  · exact h.trans (.of_mem _ _)
  · exact h

theorem homeWork_performPend (s : State) (p : Pending) : HomeWork s (s.performPend p) := by
  unfold performPend
  refine HomeWork.trans ?_ (homeWork_pendBytes _ p)
  split
  · exact .refl s
  · exact homeWork_snapshot s _ _

theorem homeWork_performDue (s : State) (sec : Nat) : HomeWork s (s.performDue sec) :=
  (HomeWork.foldl homeWork_performPend _ s).trans (.of_coh _ _)

theorem homeWork_markDirty (s : State) (sec : Nat) : HomeWork s (s.markDirty sec) := by
  unfold markDirty
  split
  · exact .of_coh _ _
  · exact .refl s

theorem homeWork_performSector (s : State) (sec : Nat) : HomeWork s (s.performSector sec) := (homeWork_performDue s sec).trans (homeWork_markDirty _ _)

theorem homeWork_putLease (s : State) (sec : Nat) (l : Lease) : HomeWork s (s.putLease sec l) := by
  unfold putLease
  split
  · exact .of_coh _ _
  · exact .refl s

theorem homeWork_appendAt (s : State) (h launch w : Nat) (p : Nat × List (Nat × Byte)) (masks : List (Nat × BitVec 2)) :
    HomeWork s (s.appendAt h launch w p masks) := by
  unfold appendAt
  dsimp only
  have hput := (homeWork_putLease s p.1 { s.leaseOf p.1 with lastw := max (s.leaseOf p.1).lastw w }).trans (.of_coh _
    { (s.putLease p.1 { s.leaseOf p.1 with lastw := max (s.leaseOf p.1).lastw w }).coh with
      pend := (s.putLease p.1 { s.leaseOf p.1 with lastw := max (s.leaseOf p.1).lastw w }).coh.pend ++
        [{ sector := p.1, holder := h, wct := w, bytes := p.2, launch := launch, masks := masks }] })
  split
  · exact hput.trans (homeWork_performSector _ _)
  · exact hput

theorem homeWork_recordPoison (s : State) (sec : Nat) : HomeWork s (s.recordPoison sec) := by
  unfold recordPoison
  dsimp only
  repeat' split
  all_goals exact ⟨rfl, rfl, rfl, rfl, ⟨_, rfl⟩, ⟨_, _, _, _, rfl⟩⟩

theorem homeWork_backPoison (s : State) (sec : Nat) (x : Option (Lease × Bool)) : HomeWork s (s.backPoison sec x) := by
  unfold backPoison
  split
  · exact homeWork_recordPoison s sec
  · exact .refl s

theorem homeWork_evictL2 (s : State) (k : Nat) : HomeWork s (s.evictL2 k) := by
  unfold evictL2
  split
  · exact .refl s
  · exact ((homeWork_backPoison s _ _).trans (homeWork_backPoison _ _ _)).trans (.of_coh _ _)

theorem homeWork_residentL2 (s : State) (prt sec : Nat) : HomeWork s (s.residentL2 prt sec) := by
  unfold residentL2
  split
  · dsimp only
    split <;> exact .of_coh _ _
  · dsimp only
    split
    · exact .refl s
    · exact (homeWork_evictL2 s _).trans (.of_coh _ _)

theorem homeWork_acceptAll (s : State) (h prt launch : Nat) (ps : List (Nat × List (Nat × Byte))) : HomeWork s (s.acceptAll h prt launch ps).1 := by
  unfold acceptAll
  exact (HomeWork.foldl (fun t p => homeWork_residentL2 t _ _) _ s).trans (HomeWork.foldl (fun t p => homeWork_appendAt t _ _ _ p _) _ _)

theorem homeWork_invalL1 (s : State) (core prt sec : Nat) : HomeWork s (s.invalL1 core prt sec) := by
  unfold invalL1
  split
  · exact .of_coh _ _
  · exact .refl s

/-! ## Who a crew's partition is -/

/-- What names the partition of a crew is as it was. -/
structure SameOwners (s t : State) : Prop where
  quads  : t.ex.quads = s.ex.quads
  queues : t.fr.queues = s.fr.queues
  dcbs   : t.fr.dcbs = s.fr.dcbs
  queue  : ∀ k, (t.crew k).queue = (s.crew k).queue

namespace SameOwners

theorem refl (s : State) : SameOwners s s := ⟨rfl, rfl, rfl, fun _ => rfl⟩

theorem trans {s t u : State} (h : SameOwners s t) (h' : SameOwners t u) : SameOwners s u :=
  ⟨h'.quads.trans h.quads, h'.queues.trans h.queues, h'.dcbs.trans h.dcbs, fun k => (h'.queue k).trans (h.queue k)⟩

theorem foldl {α : Type} {f : State → α → State} (h : ∀ s a, SameOwners s (f s a)) (l : List α) (s : State) : SameOwners s (l.foldl f s) := by
  induction l generalizing s with
  | nil => exact refl s
  | cons a rest ih => exact (h s a).trans (ih _)

theorem of_homeWork {s t : State} (h : HomeWork s t) : SameOwners s t := by
  obtain ⟨ls, hfr⟩ := h.fr
  refine ⟨by rw [h.ex], by rw [hfr], by rw [hfr], fun k => ?_⟩
  unfold State.crew
  rw [h.ex]

theorem crewPart {s t : State} (h : SameOwners s t) (k : Nat) : t.crewPart k = s.crewPart k := by
  unfold State.crewPart State.partOf State.quad State.dcb State.queue
  rw [h.quads, h.queues, h.dcbs, h.queue k]

end SameOwners

theorem sameOwners_modCore (s : State) (k : Nat) (f : Core → Core) : SameOwners s (s.modCore k f) := ⟨rfl, rfl, rfl, fun _ => rfl⟩

theorem sameOwners_modBlock (s : State) (k : Nat) (f : Block → Block) : SameOwners s (s.modBlock k f) := ⟨rfl, rfl, rfl, fun _ => rfl⟩

theorem sameOwners_modCrew (s : State) (k : Nat) {f : Crew → Crew} (hf : ∀ c, (f c).queue = c.queue) : SameOwners s (s.modCrew k f) := by
  refine ⟨rfl, rfl, rfl, fun j => ?_⟩
  by_cases hj : j = k
  · rw [hj, State.modCrew, State.crew_setCrew_self, hf]
  · rw [State.modCrew, State.crew_setCrew_ne _ _ _ _ hj]

theorem sameOwners_noteWct (s : State) (d core va wct : Nat) : SameOwners s (s.noteWct d core va wct) := by
  unfold State.noteWct
  split
  · exact .refl s
  · exact sameOwners_modCore s _ _

theorem sameOwners_abUpdate (s : State) (r : AbRef) (blocks : List (Nat × Nat)) (h : Nat) : SameOwners s (s.abUpdate r blocks h).1 := by
  unfold abUpdate
  dsimp only
  split
  · refine (SameOwners.of_homeWork (homeWork_acceptAll s _ _ _ _)).trans (SameOwners.foldl (fun t b => ?_) _ _)
    split
    · exact sameOwners_noteWct t _ _ _ _
    · exact .refl t
  · exact SameOwners.foldl (fun t bs => .of_homeWork (homeWork_performBytes t bs)) _ s

theorem sameOwners_abPass (s : State) (k : Nat) (r : AbRef) (n : Nat) : SameOwners s (s.abPass k r n) := by
  unfold abPass
  refine SameOwners.foldl (fun t j => ?_) _ s
  split
  · split
    · exact .of_homeWork (homeWork_invalL1 t _ _ _)
    · exact .refl t
  · exact .refl t

theorem sameOwners_abPutBy (s : State) (k : Nat) (m : Lanes) (r : AbRef) (blocks : List (Nat × Nat)) : SameOwners s (s.abPutBy k m r blocks) := by
  unfold abPutBy
  refine ((sameOwners_abPass s k r (64 * blocks.length)).trans (sameOwners_abUpdate (s.abPass k r (64 * blocks.length)) r blocks (s.holderOf k))).trans ?_
  refine sameOwners_modCrew _ k ?_
  intro _
  rfl

end Sys2Proof.Proofs.Homes
end

section
/-! PROOF. Arrival barriers (R114 to R120, R125, R272): what ABINIT, ABTEST, ABWAIT and BARKILL.ab answer (O22). -/

namespace Sys2Proof.Proofs.Arrivals

open Sys2Proof.Machine Sys2Proof.Safety Sys2Proof.Proofs.Lives Sys2Proof.Proofs.Control Sys2Proof.Proofs.Loads Sys2Proof.Proofs.Stores
open Sys2Proof.Proofs.Waits Sys2Proof.Proofs.Homes

/-! ## What the instructions of an object share -/

/-- An instruction of an object may run: outside regions, with an active lane and no acquire pending. -/
def Runs (s : State) (x : Ctx) (i : Instr) (f : XF) : Prop :=
  readyOut s x i.shape f = true ∧ act s x f ≠ 0 ∧ State.acqPending (s.crew x.crew) (act s x f) = false

/-- The address that the instruction names. -/
def objAddr (s : State) (x : Ctx) (f : XF) : Nat := abAddr (s.crew x.crew) ((s.crew x.crew).inHandler x.lanes) f (act s x f)

/-- The object that the instruction names. -/
def objRef (s : State) (x : Ctx) (f : XF) : AbRef := s.abRefOf x.crew (abSpace f.ownN) (objAddr s x f)

/-- The object's bytes are reached, and nothing on its way holds them. -/
def Reaches (s : State) (x : Ctx) (f : XF) : Prop :=
  if abSpace f.ownN = 4 then objAddr s x f < s.nslot x.crew
  else s.abFault x.crew (abSpace f.ownN) (objAddr s x f) 64 = none ∧ objAddr s x f % 64 = 0 ∧
    s.abFault x.crew (abSpace f.ownN) (objAddr s x f) (abBytes (s.abHdr 0 true (objRef s x f)).nchunk (s.abHdr 0 true (objRef s x f)).ncont) = none ∧
    s.abBusy x.crew (objRef s x f) = false

theorem exec_abInstr {s t : State} {x : Ctx} {i : Instr} {f : XF} {F : State → Ctx → Crew → Lanes → AbRef → Except Stop State}
    (e : exec i s = abInstr s i.shape f F) (h : Runs s x i f) (hreach : Reaches s x f)
    (hF : F s x (s.crew x.crew) (act s x f) (objRef s x f) = .ok t) : exec i s = .next t.endIssue := by
  obtain ⟨hready, hact, hacq⟩ := h
  unfold abInstr at e
  refine exec_of_outside hready rfl e ((if_neg hact).trans ((if_neg (Bool.eq_false_iff.mp hacq)).trans ?_))
  unfold Reaches at hreach
  by_cases h4 : abSpace f.ownN = 4
  · rw [if_pos h4] at hreach
    refine (if_pos h4).trans ((if_neg (Nat.not_le.mpr hreach)).trans ?_)
    rw [← h4]
    exact hF
  · rw [if_neg h4] at hreach
    obtain ⟨hfault, hal, hfault', hbusy⟩ := hreach
    refine (if_neg h4).trans ?_
    rw [show s.abFault x.crew (abSpace f.ownN) (abAddr (s.crew x.crew) ((s.crew x.crew).inHandler x.lanes) f (act s x f)) 64 = none from hfault]
    refine (if_neg (Classical.not_not.mpr hal)).trans ?_
    rw [show s.abFault x.crew (abSpace f.ownN) (abAddr (s.crew x.crew) ((s.crew x.crew).inHandler x.lanes) f (act s x f))
      (abBytes (s.abHdr 0 true (s.abRefOf x.crew (abSpace f.ownN) (abAddr (s.crew x.crew) ((s.crew x.crew).inHandler x.lanes) f (act s x f)))).nchunk
        (s.abHdr 0 true (s.abRefOf x.crew (abSpace f.ownN) (abAddr (s.crew x.crew) ((s.crew x.crew).inHandler x.lanes) f (act s x f)))).ncont) = none from hfault']
    exact (if_neg (Bool.eq_false_iff.mp hbusy)).trans hF

/-- A misaligned object has no effect. -/
theorem writesD_misaligned {s : State} {x : Ctx} {i : Instr} {f : XF} {F : State → Ctx → Crew → Lanes → AbRef → Except Stop State}
    (e : exec i s = abInstr s i.shape f F) (h : Runs s x i f) (h4 : abSpace f.ownN ≠ 4) (hfault : s.abFault x.crew (abSpace f.ownN) (objAddr s x f) 64 = none)
    (hal : objAddr s x f % 64 ≠ 0) : WritesD s x i f false false fun _ => status 0 0 5 := by
  obtain ⟨hready, hact, hacq⟩ := h
  unfold abInstr at e
  refine writesD_of_writeD (exec_of_outside hready rfl e ((if_neg hact).trans ((if_neg (Bool.eq_false_iff.mp hacq)).trans ((if_neg h4).trans ?_))))
  rw [show s.abFault x.crew (abSpace f.ownN) (abAddr (s.crew x.crew) ((s.crew x.crew).inHandler x.lanes) f (act s x f)) 64 = none from hfault]
  exact (if_pos hal).trans (answer_eq ..)

/-- The header that the crew sees. -/
def objHdr (s : State) (x : Ctx) (f : XF) : AbHdr := s.abHdr (s.holderOf x.crew) false (objRef s x f)

theorem abStatus_eq (s : State) (r : AbRef) (h cond none : Nat) :
    s.abStatus r h cond none = statusWord (s.abHdr h false r).gen (s.abHdr h false r).err
      (if cond = 1 then 0 else if cond = 2 then 2 else if cond = 3 then 6 else none) := by
  unfold State.abStatus
  split <;> simp_all [stOk, stError, stKilled]

/-! ## ABTEST and ABWAIT (R117, R272) -/

/-- The chunk mask that the instruction names. -/
def objMask (s : State) (x : Ctx) (f : XF) : DWord :=
  if decide (f.vN = 1) then 0 else abMask (s.crew x.crew) ((s.crew x.crew).inHandler x.lanes) f (act s x f)

/-- What the named chunks and the state of the object say. -/
def objCond (s : State) (x : Ctx) (f : XF) : Nat :=
  s.abCond (s.holderOf x.crew) (objRef s x f) (State.abChunks (decide (f.vN = 1)) (bits f.w2.toNat 11 0) (objHdr s x f).nchunk (objMask s x f))

/-- A named chunk lies outside the object. -/
def objBeyond (s : State) (x : Ctx) (f : XF) : Bool :=
  abBeyond (decide (f.vN = 1)) (bits f.w2.toNat 11 0) (objHdr s x f).nchunk (objMask s x f)

/-- The status word of an answer, `none` where nothing has come. -/
def objAnswer (s : State) (x : Ctx) (f : XF) (none : Nat) : Nat :=
  status (objHdr s x f).gen (objHdr s x f).err (if objCond s x f = 1 then 0 else if objCond s x f = 2 then 2 else if objCond s x f = 3 then 6 else none)

theorem answer_abStatus (s : State) (x : Ctx) (i : Instr) (f : XF) (cond none : Nat) :
    s.answer x i.shape f (act s x f) (s.abStatus (objRef s x f) (s.holderOf x.crew) cond none) =
      .ok (writeD s x i.shape f (act s x f) false false fun _ =>
        status (objHdr s x f).gen (objHdr s x f).err (if cond = 1 then 0 else if cond = 2 then 2 else if cond = 3 then 6 else none)) := by
  rw [abStatus_eq, answer_eq]
  rfl

theorem writesD_abtest {s : State} {x : Ctx} {f : XF} (h : Runs s x (.abtest f) f) (hreach : Reaches s x f) :
    WritesD s x (.abtest f) f false false fun _ =>
      if objBeyond s x f then status (objHdr s x f).gen (objHdr s x f).err 5 else objAnswer s x f 7 := by
  have e := exec_abtest s f
  unfold execAbtest at e
  have hanswer := answer_abStatus s x (.abtest f) f (if objBeyond s x f then 0 else objCond s x f) (if objBeyond s x f then 5 else 7)
  refine writesD_of_writeD (exec_abInstr e h hreach (hanswer.trans ?_))
  refine congrArg (fun v => Except.ok (writeD s x (Instr.abtest f).shape f (act s x f) false false fun _ => v)) ?_
  cases objBeyond s x f <;> rfl

theorem writesD_abwait_beyond {s : State} {x : Ctx} {f : XF} (h : Runs s x (.abwait f) f) (hreach : Reaches s x f) (hb : objBeyond s x f = true) :
    WritesD s x (.abwait f) f false false fun _ => status (objHdr s x f).gen (objHdr s x f).err 5 := by
  have e := exec_abwait s f
  unfold execAbwait at e
  exact writesD_of_writeD (exec_abInstr e h hreach ((if_pos hb).trans (answer_abStatus s x (.abwait f) f _ _)))

theorem writesD_abwait_answers {s : State} {x : Ctx} {f : XF} (h : Runs s x (.abwait f) f) (hreach : Reaches s x f) (hb : objBeyond s x f = false)
    (hend : objCond s x f ≠ 0 ∨ bits f.c.toNat 4 0 = 0) : WritesD s x (.abwait f) f false false fun _ => objAnswer s x f 1 := by
  have e := exec_abwait s f
  unfold execAbwait at e
  exact writesD_of_writeD (exec_abInstr e h hreach ((if_neg (Bool.eq_false_iff.mp hb)).trans ((if_pos hend).trans (answer_abStatus s x (.abwait f) f _ _))))

theorem exec_abwait_waits {s : State} {x : Ctx} {f : XF} (h : Runs s x (.abwait f) f) (hreach : Reaches s x f) (hb : objBeyond s x f = false)
    (hcond : objCond s x f = 0) (htmo : bits f.c.toNat 4 0 ≠ 0) :
    exec (.abwait f) s = .next ((((s.popped x (Instr.abwait f).shape f (act s x f)).waitFor x x.lanes fun _ =>
      { kind := .abwait (abSpace f.ownN) (objAddr s x f) (decide (f.vN = 1)) (bits f.w2.toNat 11 0) (objMask s x f),
        deadline := some (s.now + 2 ^ (bits f.c.toNat 4 0 + 3)), lanes := act s x f, d := waitDest (Instr.abwait f).shape f,
        sd := f.sd }).abWaiters x.crew (objRef s x f) (act s x f) false).endIssue) := by
  have e := exec_abwait s f
  unfold execAbwait at e
  have hgo : ¬(objCond s x f ≠ 0 ∨ bits f.c.toNat 4 0 = 0) := not_or.mpr ⟨Classical.not_not.mpr hcond, htmo⟩
  refine exec_abInstr e h hreach ((if_neg (Bool.eq_false_iff.mp hb)).trans ((if_neg hgo).trans ?_))
  have hpark := park_of_timeout htmo (s.popped x (Instr.abwait f).shape f (act s x f)) x (act s x f) (Instr.abwait f).shape f fun _ =>
    .abwait (abSpace f.ownN) (objAddr s x f) (decide (f.vN = 1)) (bits f.w2.toNat 11 0) (objMask s x f)
  rw [popped_keeps State.now s x (Instr.abwait f).shape f (act s x f) fun _ => rfl] at hpark
  exact congrArg (fun t => Except.ok (State.abWaiters t x.crew (objRef s x f) (act s x f) false)) hpark

/-! ## BARKILL.ab (R118, R125) -/

theorem abSpace_cases (f : XF) : abSpace f.ownN = 0 ∨ abSpace f.ownN = 1 ∨ abSpace f.ownN = 3 ∨ abSpace f.ownN = 4 := by
  have := f.own.isLt
  unfold abSpace XF.ownN
  split <;> omega

theorem abRefOf_window (s : State) (k addr : Nat) : (s.abRefOf k 1 addr).sp ≠ 4 := by
  delta State.abRefOf
  cases h : (s.block (s.crew k).block).homed.find? fun p => decide (p.1 = addr) with
  | some p =>
    intro hsp
    simp only [h] at hsp
    cases hsp
  | none =>
    intro hsp
    simp only [h] at hsp
    split at hsp <;> cases hsp

theorem abRefOf_chip (s : State) (k addr : Nat) : (s.abRefOf k 3 addr).sp ≠ 4 := by
  delta State.abRefOf
  cases h : s.place k 0 3 addr 64 {} with
  | ok p =>
    intro hsp
    simp only at hsp
    cases hsp
  | error a =>
    intro hsp
    simp only at hsp
    cases hsp

theorem objRef_slot_iff (s : State) (x : Ctx) (f : XF) : (objRef s x f).sp = 4 ↔ abSpace f.ownN = 4 := by
  unfold objRef
  rcases abSpace_cases f with h | h | h | h
  · rw [h]
    simp [State.abRefOf]
  · rw [h]
    exact iff_of_false (abRefOf_window s _ _) (by decide)
  · rw [h]
    exact iff_of_false (abRefOf_chip s _ _) (by decide)
  · rw [h]
    simp [State.abRefOf]

/-- The object's header as it stands at home. -/
def objHome (s : State) (x : Ctx) (f : XF) : AbHdr := s.abHdr 0 true (objRef s x f)

theorem exec_barkillAb_slot {s : State} {x : Ctx} {f : XF} (h : Runs s x (.barkillAb f) f) (hreach : Reaches s x f) (h4 : abSpace f.ownN = 4) :
    exec (.barkillAb f) s = .next (writeD (s.slotForce (objRef s x f).core (objRef s x f).addr) x (Instr.barkillAb f).shape f (act s x f) false false
      fun _ => status (objHome s x f).gen (objHome s x f).err 0).endIssue := by
  have e := exec_barkillAb s f
  unfold execBarkillAb at e
  exact exec_abInstr e h hreach ((if_pos ((objRef_slot_iff s x f).mpr h4)).trans (answer_eq ..))

theorem exec_barkillAb_kills {s : State} {x : Ctx} {f : XF} (h : Runs s x (.barkillAb f) f) (hreach : Reaches s x f) (h4 : abSpace f.ownN ≠ 4)
    (hstate : (objHome s x f).state = 1 ∨ (objHome s x f).state = 2 ∨ (objHome s x f).state = 3) :
    exec (.barkillAb f) s = .next (writeD (((s.abPutHdr x.crew (act s x f) (objRef s x f) { objHome s x f with state := 4, tdone := if (objHome s x f).state = 1 then s.now else
      (objHome s x f).tdone }).abTidy (objRef s x f)).abWake) x (Instr.barkillAb f).shape f (act s x f) false false fun _ => status (objHome s x f).gen (objHome s x f).err 0).endIssue := by
  have e := exec_barkillAb s f
  unfold execBarkillAb at e
  exact exec_abInstr e h hreach ((if_neg fun h => h4 ((objRef_slot_iff s x f).mp h)).trans ((if_pos hstate).trans (answer_eq ..)))

theorem writesD_barkillAb_idle {s : State} {x : Ctx} {f : XF} (h : Runs s x (.barkillAb f) f) (hreach : Reaches s x f) (h4 : abSpace f.ownN ≠ 4)
    (h1 : (objHome s x f).state ≠ 1) (h2 : (objHome s x f).state ≠ 2) (h3 : (objHome s x f).state ≠ 3) :
    WritesD s x (.barkillAb f) f false false fun _ => status (objHome s x f).gen (objHome s x f).err 0 := by
  have e := exec_barkillAb s f
  unfold execBarkillAb at e
  have hstate : ¬((objHome s x f).state = 1 ∨ (objHome s x f).state = 2 ∨ (objHome s x f).state = 3) := by omega
  exact writesD_of_writeD (exec_abInstr e h hreach ((if_neg fun h => h4 ((objRef_slot_iff s x f).mp h)).trans ((if_neg hstate).trans (answer_eq ..))))

/-! ## ABINIT (R115, R119, R120, R272) -/

theorem status_gen (gen err st : Nat) : status (gen % 65536) err st = status gen err st := by
  unfold status
  rw [Nat.mod_mod]

/-- The home that an ABINIT of a `.c` object names. -/
def initHome (s : State) (x : Ctx) (f : XF) : Nat :=
  if abSpace f.ownN = 1 then ((s.crew x.crew).rdW ((s.crew x.crew).inHandler x.lanes) f.sb f.b.toNat ((lowLane (act s x f)).getD 0)).toNat else 0

/-- The bytes of the object that an ABINIT arms. -/
def initBytes (f : XF) : Nat := abBytes (bits f.w2.toNat 12 0) (bits f.w2.toNat 16 13)

/-- An ABINIT whose object is well formed and reached, and held by nothing on its way. -/
structure Inits (s : State) (x : Ctx) (f : XF) : Prop where
  runs   : Runs s x (.abinit f) f
  some   : 1 ≤ bits f.w2.toNat 12 0
  most   : bits f.w2.toNat 12 0 ≤ 4096
  contr  : bits f.w2.toNat 16 13 ≠ 0
  fault  : s.abFault x.crew (abSpace f.ownN) (objAddr s x f) (initBytes f) = none
  al     : objAddr s x f % 64 = 0
  home   : abSpace f.ownN = 1 → initHome s x f ≠ 0 ∧ initHome s x f % 64 = 0 ∧ s.abFault x.crew 0 (initHome s x f) (initBytes f) = none
  free   : s.abBusy x.crew (objRef s x f) (initBytes f) = false

/-- What an ABINIT that comes so far does. -/
def initTail (s : State) (x : Ctx) (f : XF) : Except Stop State :=
  let old := objHome s x f
  let r := objRef s x f
  let ac := act s x f
  let c := s.crew x.crew
  let nchunk := bits f.w2.toNat 12 0
  let ncont := bits f.w2.toNat 16 13
  let ok := fun (s : State) => s.answer x (Instr.abinit f).shape f ac (statusWord ((old.gen + 1) % 65536) 0 stOk)
  if 0 < old.waiters ∨ 0 < old.refs then s.answer x (Instr.abinit f).shape f ac (statusWord old.gen old.err stBusy)
  else if abSpace f.ownN ≠ 1 then ok (s.abArm x.crew ac r old (initHome s x f) nchunk ncont)
  else match s.abFree (coreOf x.crew) (if r.sp = 1 then some r.addr else none) with
    | none => s.answer x (Instr.abinit f).shape f ac (statusWord old.gen old.err stFull)
    | some j =>
      let u := if decide (r.sp = 0) then s.abArm x.crew ac r old (initHome s x f) nchunk ncont else s
      let u := u.modBlock c.block fun b => { b with homed := b.homed.filter fun p => !decide (p.1 = objAddr s x f) }
      let e : AbEnt := { key := (s.block c.block).scrBase.toNat + objAddr s x f, prt := u.crewPart x.crew, home := initHome s x f, launch := c.launch.getD 0 }
      let v := u.modCore (coreOf x.crew) fun c => { c with ab := SMap.put (if r.sp = 1 then SMap.erase c.ab r.addr else c.ab) j e }
      ok (v.abArm x.crew ac ⟨1, j, c.launch.getD 0, coreOf x.crew, v.crewPart x.crew⟩ old (initHome s x f) nchunk ncont)

theorem exec_of_inits {s t : State} {x : Ctx} {f : XF} (h : Inits s x f) (ht : initTail s x f = .ok t) : exec (.abinit f) s = .next t.endIssue := by
  obtain ⟨⟨hready, hact, hacq⟩, h1, h4096, hcont, hfault, hal, hhome, hfree⟩ := h
  have e := exec_abinit s f
  unfold execAbinit at e
  have hform : (decide (bits f.w2.toNat 12 0 = 0) || decide (4096 < bits f.w2.toNat 12 0) || decide (bits f.w2.toNat 16 13 = 0)) = false := by
    rw [decide_eq_false (by omega), decide_eq_false (by omega), decide_eq_false hcont]
    rfl
  refine exec_of_outside hready rfl e ((if_neg hact).trans ((if_neg (Bool.eq_false_iff.mp hacq)).trans ?_))
  rw [show (decide (bits f.wN 12 0 = 0) || decide (4096 < bits f.wN 12 0) || decide (bits f.wN 16 13 = 0)) = false from hform]
  rw [if_neg Bool.false_ne_true, show s.abFault x.crew (abSpace f.ownN) (abAddr (s.crew x.crew) ((s.crew x.crew).inHandler x.lanes) f (act s x f))
    (abBytes (bits f.wN 12 0) (bits f.wN 16 13)) = none from hfault]
  dsimp only
  have hhomeFault : (if (decide (abSpace f.ownN = 1) && decide (initHome s x f ≠ 0)) = true then s.abFault x.crew 0 (initHome s x f) (initBytes f) else none) = none := by
    split
    · exact (hhome (of_decide_eq_true (Bool.and_eq_true_iff.mp ‹_›).1)).2.2
    · rfl
  have hhomeForm : (decide (abSpace f.ownN = 1) && (decide (initHome s x f = 0) || decide (initHome s x f % 64 ≠ 0))) = false := by
    by_cases h1 : abSpace f.ownN = 1
    · rw [decide_eq_false (hhome h1).1, decide_eq_false (Classical.not_not.mpr (hhome h1).2.1), Bool.or_false, Bool.and_false]
    · rw [decide_eq_false h1, Bool.false_and]
  unfold initHome initBytes at hhomeFault
  rw [show (if (decide (abSpace f.ownN = 1) && decide ((if abSpace f.ownN = 1 then ((s.crew x.crew).rdW ((s.crew x.crew).inHandler x.lanes) f.sb f.b.toNat
    ((lowLane (act s x f)).getD 0)).toNat else 0) ≠ 0)) = true then s.abFault x.crew 0 _ (abBytes (bits f.wN 12 0) (bits f.wN 16 13)) else none) = none from hhomeFault]
  have hnoform : (false || decide (objAddr s x f % 64 ≠ 0) || (decide (abSpace f.ownN = 1) && (decide (initHome s x f = 0) || decide (initHome s x f % 64 ≠ 0)))) = false := by
    rw [hhomeForm, decide_eq_false (Classical.not_not.mpr hal)]
    rfl
  exact (if_neg (Bool.eq_false_iff.mp hnoform)).trans ((if_neg (Bool.eq_false_iff.mp hfree)).trans ht)

theorem writesD_abinit_busy {s : State} {x : Ctx} {f : XF} (h : Inits s x f) (hheld : 0 < (objHome s x f).waiters ∨ 0 < (objHome s x f).refs) :
    WritesD s x (.abinit f) f false false fun _ => status (objHome s x f).gen (objHome s x f).err 3 :=
  writesD_of_writeD (exec_of_inits h ((if_pos hheld).trans (answer_eq ..)))

theorem exec_abinit_arms {s : State} {x : Ctx} {f : XF} (h : Inits s x f) (hw : (objHome s x f).waiters = 0) (hr : (objHome s x f).refs = 0)
    (h1 : abSpace f.ownN ≠ 1) : exec (.abinit f) s = .next (writeD (s.abArm x.crew (act s x f) (objRef s x f) (objHome s x f) 0
      (bits f.w2.toNat 12 0) (bits f.w2.toNat 16 13)) x (Instr.abinit f).shape f (act s x f) false false fun _ => status ((objHome s x f).gen + 1) 0 0).endIssue := by
  refine exec_of_inits h ((if_neg (by omega)).trans ((if_pos h1).trans ((answer_eq ..).trans ?_)))
  rw [status_gen, initHome, if_neg h1]
  rfl

theorem writesD_abinit_full {s : State} {x : Ctx} {f : XF} (h : Inits s x f) (hw : (objHome s x f).waiters = 0) (hr : (objHome s x f).refs = 0)
    (h1 : abSpace f.ownN = 1) (hfree : s.abFree (coreOf x.crew) (if (objRef s x f).sp = 1 then some (objRef s x f).addr else none) = none) :
    WritesD s x (.abinit f) f false false fun _ => status (objHome s x f).gen (objHome s x f).err 4 := by
  refine writesD_of_writeD (exec_of_inits h ((if_neg (by omega)).trans ((if_neg (Classical.not_not.mpr h1)).trans ?_)))
  rw [hfree]
  exact answer_eq ..

/-- The state in which a `.c` object has its new entry `j`, before it is armed. -/
def entered (s : State) (x : Ctx) (f : XF) (j : Nat) : State :=
  let c := s.crew x.crew
  let r := objRef s x f
  let u := if r.sp = 0 then s.abArm x.crew (act s x f) r (objHome s x f) (initHome s x f) (bits f.w2.toNat 12 0) (bits f.w2.toNat 16 13) else s
  let u := u.modBlock c.block fun b => { b with homed := b.homed.filter fun p => !decide (p.1 = objAddr s x f) }
  let e : AbEnt := { key := (s.block c.block).scrBase.toNat + objAddr s x f, prt := s.crewPart x.crew, home := initHome s x f, launch := c.launch.getD 0 }
  u.modCore (coreOf x.crew) fun c => { c with ab := SMap.put (if r.sp = 1 then SMap.erase c.ab r.addr else c.ab) j e }

theorem crewPart_abArm (s : State) (k : Nat) (m : Lanes) (r : AbRef) (old : AbHdr) (home nchunk ncont j : Nat) :
    (s.abArm k m r old home nchunk ncont).crewPart j = s.crewPart j :=
  (sameOwners_abPutBy s k m r _).crewPart j

theorem crewPart_ite_abArm (s : State) (p : Prop) [Decidable p] (k : Nat) (m : Lanes) (r : AbRef) (old : AbHdr) (home nchunk ncont j : Nat) :
    (if p then s.abArm k m r old home nchunk ncont else s).crewPart j = s.crewPart j := by
  split
  · exact crewPart_abArm ..
  · rfl

theorem exec_abinit_enters {s : State} {x : Ctx} {f : XF} {j : Nat} (h : Inits s x f) (hw : (objHome s x f).waiters = 0) (hr : (objHome s x f).refs = 0)
    (h1 : abSpace f.ownN = 1) (hfree : s.abFree (coreOf x.crew) (if (objRef s x f).sp = 1 then some (objRef s x f).addr else none) = some j) :
    exec (.abinit f) s = .next (writeD ((entered s x f j).abArm x.crew (act s x f) ⟨1, j, (s.crew x.crew).launch.getD 0, coreOf x.crew, s.crewPart x.crew⟩
      (objHome s x f) (initHome s x f) (bits f.w2.toNat 12 0) (bits f.w2.toNat 16 13)) x (Instr.abinit f).shape f (act s x f) false false
        fun _ => status ((objHome s x f).gen + 1) 0 0).endIssue := by
  refine exec_of_inits h ((if_neg (by omega)).trans ((if_neg (Classical.not_not.mpr h1)).trans ?_))
  rw [hfree]
  refine (answer_eq ..).trans ?_
  rw [status_gen]
  simp only [decide_eq_true_eq, (sameOwners_modCore _ _ _).crewPart, (sameOwners_modBlock _ _ _).crewPart, crewPart_ite_abArm]
  rfl

/-- Settles O22: each answer, the wait, the kill and the two ways of arming are equations of `exec`. -/
theorem arrivalBarriersAnswer : Obligations.ArrivalBarriersAnswer := by
  unfold Obligations.ArrivalBarriersAnswer
  intro s x f
  refine ⟨?_, fun h => writesD_abtest h.1 h.2, fun h => writesD_abwait_beyond h.1 h.2, fun h hb => ⟨writesD_abwait_answers h.1 h.2 hb, exec_abwait_waits h.1 h.2 hb⟩,
    fun h h4 => exec_barkillAb_kills h.1 h.2 h4, fun h h4 => writesD_barkillAb_idle h.1 h.2 h4, fun h h4 => exec_barkillAb_slot h.1 h.2 h4, ?_⟩
  · refine List.forall_mem_cons.mpr ⟨fun h h4 hfault hal => ?_, List.forall_mem_cons.mpr ⟨fun h h4 hfault hal => ?_, List.forall_mem_singleton.mpr fun h h4 hfault hal => ?_⟩⟩
    · have e := exec_abtest s f
      unfold execAbtest at e
      exact writesD_misaligned e h h4 hfault hal
    · have e := exec_abwait s f
      unfold execAbwait at e
      exact writesD_misaligned e h h4 hfault hal
    · have e := exec_barkillAb s f
      unfold execBarkillAb at e
      exact writesD_misaligned e h h4 hfault hal
  · intro h h4 nchunk ncont n home free h1 h4096 hcont hfault hal hhome hbusy
    have hinits : Inits s x f := ⟨h, h1, h4096, hcont, hfault, hal, hhome, hbusy⟩
    exact ⟨writesD_abinit_busy hinits, fun hw hr => ⟨exec_abinit_arms hinits hw hr, writesD_abinit_full hinits hw hr, fun j => exec_abinit_enters hinits hw hr⟩⟩

end Sys2Proof.Proofs.Arrivals
end

section
/-! PROOF. Exchanges within a crew (R154, R273, R274): the lane that a SHF reads, the votes, the ballot and the combination, then O23. -/

namespace Sys2Proof.Proofs.Exchange

open Sys2Proof.Machine Sys2Proof.Safety Sys2Proof.Proofs.LaneSets Sys2Proof.Proofs.Control Sys2Proof.Proofs.Waits

/-! ## VOTE -/

theorem voteVal_map (n : Nat) (vs : List Nat) (pr : Nat → Bool) :
    voteVal n (vs.map pr) = match n with
      | 0 => vs.any pr
      | 1 => vs.all pr
      | _ => vs.all pr || !vs.any pr := by
  have hnone : (vs.map pr).all (!·) = !vs.any pr := by
    rw [List.all_map, List.not_any_eq_all_not]
    rfl
  unfold voteVal
  rw [hnone, List.any_map, List.all_map]
  rfl

/-! ## BALLOT -/

theorem hasLane_ballotMask (prot : Bool) (ls : List Nat) (hls : ∀ l ∈ ls, l < 64) (f : Nat → Bool) (b : Nat) :
    hasLane (ballotMask prot ls f) b = ls.any fun l => f l && decide ((if prot then l / 2 else l) = b) := by
  suffices h : ∀ m : Lanes, hasLane (ls.foldl (fun m l => if f l then m ||| oneLane (if prot then l / 2 else l) else m) m) b =
      (hasLane m b || ls.any fun l => f l && decide ((if prot then l / 2 else l) = b)) by
    rw [ballotMask, h, show hasLane 0 b = false from hasLane_zero b, Bool.false_or]
  intro m
  induction ls generalizing m with
  | nil => simp
  | cons l rest ih =>
    rw [List.foldl_cons, ih fun k hk => hls k (List.mem_cons_of_mem _ hk), List.any_cons]
    cases f l with
    | false => simp
    | true =>
      have hlt : (if prot then l / 2 else l) < 64 := by
        have := hls l List.mem_cons_self
        split <;> omega
      rw [if_pos rfl, hasLane_or, Machine.hasLane_oneLane _ _ hlt, Bool.true_and, Bool.or_assoc]
      simp only [eq_comm (a := b)]

theorem lt_of_mem_voters {prot : Bool} {m : Lanes} {l : Nat} (h : l ∈ voters prot m) : l < 64 :=
  lt_of_mem_lanesOf (List.mem_filter.mp h).1

theorem ballotMask_eq (prot : Bool) (m : Lanes) (pr : Nat → Bool) :
    ballotMask prot (voters prot m) pr = laneSet fun b =>
      if prot then decide (b < 32) && (voters prot m).any fun l => decide (l / 2 = b) && pr l else (voters prot m).contains b && pr b := by
  refine eq_of_hasLane fun b => ?_
  rw [hasLane_ballotMask prot _ fun l => lt_of_mem_voters, hasLane_laneSet]
  by_cases hb : b < 64
  · rw [decide_eq_true hb, Bool.true_and]
    cases prot with
    | true =>
      simp only [if_true, Bool.and_comm (pr _)]
      by_cases hb : b < 32
      · rw [decide_eq_true hb, Bool.true_and]
      · rw [decide_eq_false hb, Bool.false_and, List.any_eq_false]
        intro l hl h
        have hlt := lt_of_mem_voters hl
        have hhalf : l / 2 = b := of_decide_eq_true (Bool.and_eq_true_iff.mp h).1
        omega
    | false =>
      rw [Bool.eq_iff_iff]
      simp only [Bool.false_eq_true, if_false, List.any_eq_true, Bool.and_eq_true, decide_eq_true_eq, List.contains_iff_mem]
      exact ⟨fun ⟨l, hl, hpr, hlb⟩ => hlb ▸ ⟨hl, hpr⟩, fun ⟨hl, hpr⟩ => ⟨b, hl, hpr, rfl⟩⟩
  · rw [decide_eq_false hb, Bool.false_and, List.any_eq_false]
    intro l hl h
    have hlt := lt_of_mem_voters hl
    have heq : (if prot then l / 2 else l) = b := of_decide_eq_true (Bool.and_eq_true_iff.mp h).2
    split at heq <;> omega

/-! ## REDUX -/

theorem reduxAll_append (op n : Nat) (vals : List Nat) (v : Nat) : reduxAll op n (vals ++ [v]) = vals.foldr (reduxOp op n) v := by
  induction vals with
  | nil => rfl
  | cons w rest ih =>
    rw [List.foldr_cons, ← ih]
    cases rest <;> rfl

/-! ## SHF -/

/-- The lane that lane `l` of a SHF reads, as the statement says it: `b` is its offset. -/
def shfRead (prot : Bool) (f : XF) (b : Nat → Nat) (l : Nat) : Option Nat :=
  let u : Nat := if prot then l / 2 else l
  let w : Nat := 2 ^ (bits f.c.toNat 3 1 + 1)
  let o : Nat := u % w
  let j : Int := match bits f.vN 1 0 with
    | 0 => b l
    | 1 => (o : Int) - b l
    | 2 => (o : Int) + b l
    | _ => ((o ^^^ b l : Nat) : Int)
  let k : Option Nat := if 0 ≤ j ∧ j < w then some j.toNat
    else match bits f.vN 3 2 with
      | 0 => some (j % (w : Int)).toNat
      | 1 => some (if j < 0 then 0 else w - 1)
      | 2 => some o
      | _ => none
  k.map fun k => if prot then 2 * (u - o + k) + l % 2 else u - o + k

theorem shfLane_eq (mode pol w u b : Nat) :
    shfLane mode pol w u b = (if 0 ≤ shfOff mode (u % w) b ∧ shfOff mode (u % w) b < w then some (shfOff mode (u % w) b).toNat
      else match pol with
        | 0 => some (shfOff mode (u % w) b % (w : Int)).toNat
        | 1 => some (if shfOff mode (u % w) b < 0 then 0 else w - 1)
        | 2 => some (u % w)
        | _ => none).map fun k => u - u % w + k := by
  unfold shfLane
  dsimp only
  split
  · rfl
  · rcases pol with _ | _ | _ | n
    · rfl
    · rfl
    · exact congrArg some (Nat.sub_add_cancel (Nat.mod_le u w)).symm
    · rfl

theorem shfSource_eq (prot : Bool) (f : XF) (b : Nat → Nat) (l : Nat) :
    shfSource prot (bits f.vN 1 0) (bits f.vN 3 2) (2 ^ (bits f.cN 3 1 + 1)) l (b l) = shfRead prot f b l := by
  unfold shfSource
  cases prot with
  | true =>
    rw [if_pos rfl, shfLane_eq, Option.map_map]
    rfl
  | false =>
    rw [if_neg Bool.false_ne_true, shfLane_eq]
    rfl

/-- The lanes whose A some active lane reads. -/
def shfReads (s : State) (x : Ctx) (f : XF) (src : Nat → Option Nat) : Lanes := laneSet fun k => (lanesOf (act s x f)).any fun l => decide (src l = some k)

theorem exists_hasLane {m : Lanes} (h : m ≠ 0) : ∃ l, hasLane m l = true := by
  refine Classical.byContradiction fun hnone => ?_
  exact h (eq_zero_iff.mpr fun l => Bool.eq_false_iff.mpr fun hl => hnone ⟨l, hl⟩)

theorem gateFirst_of_zero {pre : Option Nat} {c : Crew} {sh : Shape} {f : XF} {m ac : Lanes} (h0 : ac = 0) (hgate : gate c sh f m ac = .ok ()) :
    gateFirst pre c sh f m ac = .ok () := by
  unfold gateFirst
  split
  · exact hgate
  · rw [if_pos (by rw [decide_eq_true h0, Bool.true_or])]
    exact hgate

theorem writesD_shf {s : State} {x : Ctx} {f : XF} (h : shfReady s x f (shfRead (s.protectedCrew x.crew) f (opB s x f false)) = true) :
    WritesD s x (.shf f) f f.o0 false fun l => fldA s x f f.o0 ((shfRead (s.protectedCrew x.crew) f (opB s x f false) l).getD l) := by
  have e := exec_shf s f
  unfold execShf at e
  unfold shfReady at h
  extract_lets sh c hd ac oa rs at h
  simp only [Bool.and_eq_true] at h
  obtain ⟨⟨hmay, hport⟩, hsrc⟩ := h
  obtain ⟨hcur, hgate⟩ := may_iff.mp hmay
  have hrun : ∀ run : State → Out, (if usesPort sh f then outsideRegions s f run else run s) = run s := by
    intro run
    split
    · rename_i hp
      rw [hp, Bool.not_true, Bool.false_or] at hport
      exact outside_of_calm hcur hport run
    · rfl
  refine writesD_of_writeD (e.trans ((hrun _).trans ((issue_of_cur hcur ..).trans ?_)))
  refine congrArg (fun r => Host.Outcome.next (settle s x ac r)) (a₂ := .ok (writeD s x sh f ac f.o0 false fun l =>
    fldA s x f f.o0 ((shfRead (s.protectedCrew x.crew) f (opB s x f false) l).getD l))) ?_
  clear e
  extract_lets act h prot w src out from' rs' empty pois port read' pre
  have hreads : src = shfRead (s.protectedCrew x.crew) f (opB s x f false) := funext fun l => shfSource_eq _ f (opB s x f false) l
  clear_value src
  subst hreads
  by_cases h0 : ac = 0
  · rw [show gateFirst pre (s.crew x.crew) { (Instr.shf f).shape with a := Fld.raw } f x.lanes act = .ok () from gateFirst_of_zero h0 (gate_of_ok hgate)]
    refine (if_pos h0).trans ?_
    rw [writeD, if_pos h0]
  rw [decide_eq_false h0, Bool.false_or] at hsrc
  simp only [Bool.and_eq_true, Bool.not_eq_true'] at hsrc
  obtain ⟨⟨⟨⟨hbeyond, halias⟩, hbad⟩, hwide⟩, hall⟩ := hsrc
  have hpre : pre = none := by
    have hw : (prot && decide (32 < w)) = false := by
      rw [Bool.and_eq_false_iff, Decidable.or_iff_not_imp_left, Bool.not_eq_false]
      intro hp
      rw [show s.protectedCrew x.crew = true from hp, Bool.not_true, Bool.false_or] at hwide
      have hle : 2 ^ (bits f.cN 3 1 + 1) ≤ 2 ^ 5 := Nat.pow_le_pow_right (by decide) (Nat.succ_le_succ (of_decide_eq_true hwide))
      exact decide_eq_false (Nat.not_lt.mpr hle)
    refine (if_neg (Bool.eq_false_iff.mp hbeyond)).trans ((if_neg (Bool.eq_false_iff.mp hw)).trans ?_)
    rw [show oa.aliasBound f.qp (s.crew x.crew) = false from halias, show oa.badPort f.qp (s.crew x.crew) = false from hbad]
    rfl
  have hgateFirst : gateFirst pre (s.crew x.crew) { (Instr.shf f).shape with a := Fld.raw } f x.lanes act = .ok () := by
    rw [hpre]
    exact gate_of_ok hgate
  clear_value pre
  rw [hgateFirst]
  have hlane : ∀ l, hasLane act l = true → ∃ k, shfRead (s.protectedCrew x.crew) f (opB s x f false) l = some k ∧
      (if oa.port f.qp = true then decide (c.popPois (oa.n - 248) read' = 0) && decide (c.streamEnd (oa.n - 248) ac = 0) && !c.popWaits (oa.n - 248) (ac ||| read')
        else if f.sa = true then !rs.any (c.sEmpty hd) && !rs.any (c.sPois hd)
        else rs.all fun r => !(c.thread k).vE.getLsbD r && !(c.thread k).vP.getLsbD r) = true := by
    intro l hl
    have hcond := List.all_eq_true.mp hall l (mem_lanesOf.mpr hl)
    split at hcond
    · cases hcond
    · exact ⟨_, ‹_›, hcond⟩
  have hout : out = 0 := by
    refine laneSet_eq_zero fun l hl => ?_
    obtain ⟨k, hk, -⟩ := hlane l hl
    rw [hk]
    rfl
  obtain ⟨l, hl⟩ := exists_hasLane h0
  obtain ⟨k, hk, hcond⟩ := hlane l hl
  refine (if_neg h0).trans ((if_neg (Classical.not_not.mpr hout)).trans ?_)
  by_cases hp : oa.port f.qp = true
  · rw [if_pos hp] at hcond
    simp only [Bool.and_eq_true, decide_eq_true_eq, Bool.not_eq_true'] at hcond
    obtain ⟨⟨hpois, hended⟩, hwaits⟩ := hcond
    exact (if_pos hp).trans ((if_neg (Classical.not_not.mpr hpois)).trans ((if_neg (Classical.not_not.mpr hended)).trans (if_neg (Bool.eq_false_iff.mp hwaits))))
  · refine (if_neg hp).trans ?_
    rw [if_neg hp] at hcond
    have hclean : empty = 0 ∧ pois = 0 := by
      by_cases hsa : f.sa = true
      · rw [if_pos hsa] at hcond
        simp only [Bool.and_eq_true, Bool.not_eq_true'] at hcond
        exact ⟨(if_pos hsa).trans ((if_pos rfl).trans (if_neg (Bool.eq_false_iff.mp hcond.1))), (if_pos hsa).trans ((if_pos rfl).trans (if_neg (Bool.eq_false_iff.mp hcond.2)))⟩
      · have hreg : ∀ l, hasLane act l = true → ∃ k, shfRead (s.protectedCrew x.crew) f (opB s x f false) l = some k ∧
            ∀ r ∈ rs, (c.thread k).vE.getLsbD r = false ∧ (c.thread k).vP.getLsbD r = false := by
          intro l hl
          obtain ⟨k, hk, hcond⟩ := hlane l hl
          rw [if_neg hp, if_neg hsa] at hcond
          simp only [List.all_eq_true, Bool.and_eq_true, Bool.not_eq_true'] at hcond
          exact ⟨k, hk, hcond⟩
        refine ⟨(if_neg hsa).trans (laneSet_eq_zero fun l hl => ?_), (if_neg hsa).trans (laneSet_eq_zero fun l hl => ?_)⟩
        · obtain ⟨k, hk, hfull⟩ := hreg l hl
          rw [hk]
          exact List.any_eq_false.mpr fun r hr => Bool.eq_false_iff.mp (hfull r hr).1
        · obtain ⟨k, hk, hfull⟩ := hreg l hl
          rw [hk]
          exact List.any_eq_false.mpr fun r hr => Bool.eq_false_iff.mp (hfull r hr).2
    obtain ⟨hempty, hpois⟩ := hclean
    have htrap : ¬(decide (empty ≠ 0) && f.fea) = true := by
      rw [hempty]
      exact Bool.false_ne_true
    exact (if_neg htrap).trans ((if_neg (Classical.not_not.mpr hempty)).trans (if_neg (Classical.not_not.mpr hpois)))

/-- Settles O23: a SHF from its own checks, the other three from what they do past the gate. -/
theorem exchangesAcrossTheCrew : Obligations.ExchangesAcrossTheCrew := by
  unfold Obligations.ExchangesAcrossTheCrew
  intro s x f c ac prot vs pr src
  refine ⟨writesD_shf, fun h hac => ?vote, fun h hac => ?ballot, fun h hac => ?redux⟩
  case vote =>
    intro r
    have e := exec_vote s f
    unfold execVote at e
    have hr : voteVal f.vN (vs.map pr) = r := voteVal_map ..
    by_cases hsd : f.sd = true
    · rw [if_pos hsd, ← hr]
      exact writesD_of_writeD (exec_of_ok h rfl e ((if_neg hac).trans (if_pos hsd)))
    · rw [if_neg hsd, ← hr]
      refine ⟨_, exec_of_ok h rfl e ((if_neg hac).trans (if_neg hsd)), ?_⟩
      rw [writeP_eq]
      exact ⟨crewOnly_set _ _ _, by rw [State.crew_endIssue, State.crew_setCrew_self]; rfl⟩
  case ballot =>
    have e := exec_ballot s f
    unfold execBallot at e
    rw [← ballotMask_eq]
    exact writesD_of_writeD (exec_of_ok h rfl e (if_neg hac))
  case redux =>
    intro n op vals v hvals
    have e := exec_redux s f
    unfold execRedux at e
    have hval : reduxAll f.vN (bitsOf f.o0) (vs.map (fldA s x f f.o0)) = vals.foldr op v := by
      rw [hvals, reduxAll_append]
      rfl
    rw [← hval]
    exact writesD_of_writeD (exec_of_ok (ready_may h) rfl (e.trans (portRun_of_ready h _)) (if_neg hac))

end Sys2Proof.Proofs.Exchange
end

section
/-! PROOF. Commands of engines, streams and landing pans at issue (R98 to R111, R123 to R130, R310 to R318): O24, O25 and O26. -/

namespace Sys2Proof.Proofs.EngineIssue

open Sys2Proof.Machine Sys2Proof.Safety Sys2Proof.Proofs.Control Sys2Proof.Proofs.Waits

/-! ## COPY, CHAIN and GATHER (R98 to R104, R108, R310 to R312) -/

@[simp] theorem chan_setChan (s : State) (core ch : Nat) (q : Channel) : (s.setChan core ch q).chan core ch = q := by
  rw [State.chan, State.setChan, State.modCore, State.core_setCore_self]
  exact SMap.get_put_self _ _ _ _

/-- The state in which a crew has one operation more and its channel one command more. -/
def copied (s : State) (x : Ctx) (ch : Nat) (q : Channel) (cmd : CopyCmd) : State :=
  let s := s.modCrew x.crew fun c => c.addOp { id := 0, kind := .copy, cls := 2, pc := x.pc, lanes := x.lanes, issued := s.ctr, errCls := clsEngine }
  let s := s.modCore (coreOf x.crew) fun c => { c with nextCmd := c.nextCmd + 1 }
  s.setChan (coreOf x.crew) ch { q with queue := q.queue ++ [cmd] }

theorem copied_spec (s : State) (x : Ctx) (ch : Nat) (q : Channel) (cmd : CopyCmd) :
    let t := ((copied s x ch q cmd).advance x).endIssue
    t.mem = s.mem ∧ (t.chan (coreOf x.crew) ch).queue = q.queue ++ [cmd] ∧ (t.core (coreOf x.crew)).nextCmd = (s.core (coreOf x.crew)).nextCmd + 1 ∧
      t.crew x.crew = goOnAll x ((s.crew x.crew).addOp
        { id := 0, kind := .copy, cls := 2, pc := x.pc, lanes := x.lanes, issued := s.ctr, errCls := 11 }) := by
  intro t
  have ht : t = ((copied s x ch q cmd).setCrew x.crew (goOnAll x ((copied s x ch q cmd).crew x.crew))).endIssue := by rw [← State.advance_eq]
  have hchan : t.chan (coreOf x.crew) ch = (copied s x ch q cmd).chan (coreOf x.crew) ch := by rw [ht]; rfl
  have hcore : t.core (coreOf x.crew) = (copied s x ch q cmd).core (coreOf x.crew) := by rw [ht]; rfl
  refine ⟨by rw [ht]; rfl, ?_, ?_, ?_⟩
  · rw [hchan, copied, chan_setChan]
  · rw [hcore, copied, State.setChan, State.modCore, State.core_setCore_self, State.modCore, State.core_setCore_self]
    rfl
  · rw [ht, State.crew_endIssue, State.crew_setCrew_self, show (copied s x ch q cmd).crew x.crew = _ from State.crew_setCrew_self ..]
    rfl

section

variable (s : State) (x : Ctx) (f : XF)

/-- The image that the instruction's s registers hold. -/
def image (n : Nat) : Nat := imageOf (s.crew x.crew) ((s.crew x.crew).inHandler x.lanes) f.a.toNat n

/-- The channel that COPY and CHAIN name. -/
def chanOf : Nat := bits f.w2.toNat 2 0

/-- The copy that the image describes, before it has a barrier. -/
def copyHere : CopyCmd := copyOf (image s x f 16) (s.core (coreOf x.crew)).nextCmd x.crew (s.crew x.crew).nextOp x.pc (s.engCtx x.crew)

/-- The barrier that a COPY names. -/
def copyRef : AbRef := s.abRefOf x.crew (recBarSp (image s x f 16)) (recBar (image s x f 16))

end

/-- A COPY passes the checks of its issue (R310). -/
structure Copies (s : State) (x : Ctx) (f : XF) : Prop where
  ready : readyOut s x (Instr.copy f).shape f = true
  owner : (s.chan (coreOf x.crew) (chanOf f)).owner.toNat = 128 + s.crewPart x.crew
  form  : copyFormBad (image s x f 16) false = false
  own   : bitOf (image s x f 16) 0 = true
  fault : s.copyFault x.crew (copyHere s x f) = none
  room  : (s.crew x.crew).clsRoom 2 = true
  queue : (s.chan (coreOf x.crew) (chanOf f)).queue.length < 16

/-- Its barrier, if it names one, is reached and gives a reference. -/
def CopyBar (s : State) (x : Ctx) (f : XF) (s' : State) (cmd : CopyCmd) : Prop :=
  (recBar (image s x f 16) = 0 ∧ s' = s ∧ cmd = copyHere s x f)
    ∨ (recBar (image s x f 16) ≠ 0 ∧ s.barFault x.crew (recBarSp (image s x f 16)) (recBar (image s x f 16)) = none ∧ s.abBusy x.crew (copyRef s x f) = false ∧
      ∃ gen, s.barTake (copyRef s x f) ((copyHere s x f).chb + (copyHere s x f).chunkCount - 1) = .ok (s', gen) ∧
        cmd = { copyHere s x f with bar := some (copyRef s x f), gen := gen })

theorem exec_copy_queues {s s' : State} {x : Ctx} {f : XF} {cmd : CopyCmd} (h : Copies s x f) (hbar : CopyBar s x f s' cmd) :
    exec (.copy f) s = .next ((copied s' x (chanOf f) (s.chan (coreOf x.crew) (chanOf f)) cmd).advance x).endIssue := by
  obtain ⟨hready, howner, hform, hown, hfault, hroom, hqueue⟩ := h
  have e := exec_copy s f
  unfold execCopy at e
  unfold CopyBar at hbar
  unfold copyRef copyHere image chanOf at *
  generalize hv : imageOf (s.crew x.crew) ((s.crew x.crew).inHandler x.lanes) f.a.toNat 16 = v at *
  have hok : (copyFormBad v false || !bitOf v 0) = false := by
    rw [hform, hown]
    rfl
  have hroom' : ¬((!(s.crew x.crew).clsRoom 2) = true ∨ 16 ≤ (s.chan (coreOf x.crew) (bits f.w2.toNat 2 0)).queue.length) := by
    rw [hroom]
    exact not_or.mpr ⟨Bool.false_ne_true, Nat.not_le.mpr hqueue⟩
  refine exec_of_outside hready rfl e ?_
  rw [hv]
  refine (if_neg (Classical.not_not.mpr howner)).trans ((if_neg (Bool.eq_false_iff.mp hok)).trans ?_)
  clear e hv hok
  generalize recBar v = bar at *
  rw [hfault]
  have hreached : (if bar = 0 then none else s.barFault x.crew (recBarSp v) bar) = none := by
    rcases hbar with ⟨h0, -, -⟩ | ⟨h0, hreach, -⟩
    · exact if_pos h0
    · exact (if_neg h0).trans hreach
  rw [hreached]
  have hfree : ¬(bar ≠ 0 ∧ s.abBusy x.crew (s.abRefOf x.crew (recBarSp v) bar) = true) := by
    rcases hbar with ⟨h0, -, -⟩ | ⟨h0, -, hbusy, -⟩
    · exact fun h => h.1 h0
    · exact fun h => Bool.eq_false_iff.mp hbusy h.2
  refine (if_neg hfree).trans ((if_neg hroom').trans ?_)
  rcases hbar with ⟨h0, rfl, rfl⟩ | ⟨h0, hreach, hbusy, gen, htake, rfl⟩
  · exact if_pos h0
  · refine (if_neg h0).trans ?_
    rw [htake]
    rfl

/-- A CHAIN passes the checks of its issue (R311). -/
structure Chains (s : State) (x : Ctx) (f : XF) (addr : Nat) : Prop where
  ready : readyOut s x (Instr.chain f).shape f = true
  names : (if f.ownN = 0 then ((s.crew x.crew).rdW ((s.crew x.crew).inHandler x.lanes) true f.a.toNat 0).toNat
    else ((s.crew x.crew).rdS ((s.crew x.crew).inHandler x.lanes) f.a.toNat).toNat) = addr
  owner : (s.chan (coreOf x.crew) (chanOf f)).owner.toNat = 128 + s.crewPart x.crew
  al    : addr % 64 = 0
  fault : s.rangeFault x.crew f.ownN addr 64 (if f.ownN = 0 then { r := true, w := true, e := true } else {}) = none

/-- A chain runs on the channel. -/
def chainRuns (q : Channel) : Bool :=
  match q.chain with
  | some n => !n.parked
  | none => false

/-- The state in which a crew has one operation more and its channel follows a new chain. -/
def chained (s : State) (x : Ctx) (f : XF) (addr : Nat) : State :=
  let q := s.chan (coreOf x.crew) (chanOf f)
  let n : Chain := { sp := f.ownN, addr := addr, crew := x.crew, op := (s.crew x.crew).nextOp, pc := x.pc, ctx := s.engCtx x.crew }
  let u := s.modCrew x.crew fun c => c.addOp { id := 0, kind := .chain, cls := 2, pc := x.pc, lanes := x.lanes, issued := s.ctr, errCls := clsEngine }
  u.setChan (coreOf x.crew) (chanOf f) { q with chain := some n, ending := q.ending ++ q.chain.toList.filter (·.rest) }

theorem writesD_chain_busy {s : State} {x : Ctx} {f : XF} {addr : Nat} (h : Chains s x f addr) (hrun : chainRuns (s.chan (coreOf x.crew) (chanOf f)) = true) :
    WritesD s x (.chain f) f false false fun _ => status 0 0 3 := by
  obtain ⟨hready, haddr, howner, hal, hfault⟩ := h
  have e := exec_chain s f
  unfold execChain at e
  subst haddr
  refine writesD_of_writeD (exec_of_outside hready rfl e ((if_neg (Classical.not_not.mpr howner)).trans ((if_neg (Classical.not_not.mpr hal)).trans ?_)))
  rw [hfault]
  exact (if_pos hrun).trans (answer_eq ..)

theorem exec_chain_starts {s : State} {x : Ctx} {f : XF} {addr : Nat} (h : Chains s x f addr) (hrun : chainRuns (s.chan (coreOf x.crew) (chanOf f)) = false)
    (hroom : (s.crew x.crew).clsRoom 2 = true) :
    exec (.chain f) s = .next (writeD (chained s x f addr) x (Instr.chain f).shape f (act s x f) false false fun _ => status 0 0 0).endIssue := by
  obtain ⟨hready, haddr, howner, hal, hfault⟩ := h
  have e := exec_chain s f
  unfold execChain at e
  subst haddr
  have hroom' : ¬(!(s.crew x.crew).clsRoom 2) = true := by
    rw [hroom]
    exact Bool.false_ne_true
  refine exec_of_outside hready rfl e ((if_neg (Classical.not_not.mpr howner)).trans ((if_neg (Classical.not_not.mpr hal)).trans ?_))
  rw [hfault]
  exact (if_neg (Bool.eq_false_iff.mp hrun)).trans ((if_neg hroom').trans (answer_eq ..))

theorem chained_spec (s : State) (x : Ctx) (f : XF) (addr : Nat) (val : Nat → Nat) :
    let t := (writeD (chained s x f addr) x (Instr.chain f).shape f (act s x f) false false val).endIssue
    let q := s.chan (coreOf x.crew) (chanOf f)
    t.mem = s.mem ∧ t.chan (coreOf x.crew) (chanOf f) = { q with
        chain := some { sp := f.ownN, addr := addr, crew := x.crew, op := (s.crew x.crew).nextOp, pc := x.pc, ctx := s.engCtx x.crew }
        ending := q.ending ++ q.chain.toList.filter (·.rest) } ∧
      t.crew x.crew = wrote ((s.crew x.crew).addOp { id := 0, kind := .chain, cls := 2, pc := x.pc, lanes := x.lanes, issued := s.ctr, errCls := 11 }) x
        (Instr.chain f).shape f (act s x f) false false val := by
  intro t q
  have ht : t = ((chained s x f addr).setCrew x.crew (wrote ((chained s x f addr).crew x.crew) x (Instr.chain f).shape f (act s x f) false false val)).endIssue := by
    rw [← writeD_eq]
  have hchan : t.chan (coreOf x.crew) (chanOf f) = (chained s x f addr).chan (coreOf x.crew) (chanOf f) := by rw [ht]; rfl
  refine ⟨by rw [ht]; rfl, ?_, ?_⟩
  · rw [hchan, chained, chan_setChan]
  · rw [ht, State.crew_endIssue, State.crew_setCrew_self, show (chained s x f addr).crew x.crew = _ from State.crew_setCrew_self ..]
    rfl

/-- The gather that the image describes, on engine `e`, before it has a barrier. -/
def gatherHere (s : State) (x : Ctx) (f : XF) (e : Nat) : GatherCmd :=
  gatherOf (image s x f 8) (16 * (f.w2.toNat % 256 + 1)) (s.gather e).nextCmd x.crew (s.crew x.crew).nextOp x.pc (s.engCtx x.crew)

/-- The barrier that a GATHER names. -/
def gatherRef (s : State) (x : Ctx) (f : XF) : AbRef := s.abRefOf x.crew (bits (image s x f 8) 19 17) (bits (image s x f 8) 191 128)

/-- A GATHER passes the checks of its issue (R312), and `e` is the partition's engine with the fewest commands. -/
structure Gathers (s : State) (x : Ctx) (f : XF) (e : Nat) : Prop where
  engine : s.shortest (s.gathersOf (dieOf (coreOf x.crew)) (s.crewPart x.crew)) = some e
  ready  : readyOut s x (Instr.gather f).shape f = true
  form   : gatherFormBad (image s x f 8) = false
  fault  : s.gatherFault x.crew (gatherHere s x f e) = none
  room   : (s.crew x.crew).clsRoom 4 = true
  queue  : (s.gather e).queue.length < 32

/-- Its barrier, if it names one, is reached and gives a reference. -/
def GatherBar (s : State) (x : Ctx) (f : XF) (e : Nat) (s' : State) (cmd : GatherCmd) : Prop :=
  (bits (image s x f 8) 191 128 = 0 ∧ s' = s ∧ cmd = { gatherHere s x f e with bar := none, gen := 0 })
    ∨ (bits (image s x f 8) 191 128 ≠ 0 ∧ s.barFault x.crew (bits (image s x f 8) 19 17) (bits (image s x f 8) 191 128) = none ∧
      s.abBusy x.crew (gatherRef s x f) = false ∧
      ∃ gen, s.barTake (gatherRef s x f) ((gatherHere s x f e).chb + (gatherHere s x f e).chunkCount - 1) = .ok (s', gen) ∧
        cmd = { gatherHere s x f e with bar := some (gatherRef s x f), gen := gen })

/-- The state in which a crew has one operation more and the engine one command more. -/
def gathered (s : State) (x : Ctx) (e : Nat) (cmd : GatherCmd) : State :=
  let s := s.modCrew x.crew fun c => c.addOp { id := 0, kind := .gather, cls := 4, pc := x.pc, lanes := x.lanes, issued := s.ctr, errCls := clsEngine }
  let g := s.gather e
  s.setGather e { g with queue := g.queue ++ [cmd], nextCmd := g.nextCmd + 1 }

theorem gathered_spec (s : State) (x : Ctx) (e : Nat) (cmd : GatherCmd) :
    let t := ((gathered s x e cmd).advance x).endIssue
    t.mem = s.mem ∧ (t.gather e).queue = (s.gather e).queue ++ [cmd] ∧
      t.crew x.crew = goOnAll x ((s.crew x.crew).addOp
        { id := 0, kind := .gather, cls := 4, pc := x.pc, lanes := x.lanes, issued := s.ctr, errCls := 11 }) := by
  intro t
  have ht : t = ((gathered s x e cmd).setCrew x.crew (goOnAll x ((gathered s x e cmd).crew x.crew))).endIssue := by rw [← State.advance_eq]
  have hgather : t.gather e = (gathered s x e cmd).gather e := by rw [ht]; rfl
  refine ⟨by rw [ht]; rfl, ?_, ?_⟩
  · rw [hgather, gathered, State.gather_setGather_self]
    rfl
  · rw [ht, State.crew_endIssue, State.crew_setCrew_self, show (gathered s x e cmd).crew x.crew = _ from State.crew_setCrew_self ..]
    rfl

theorem match_some {β : Type} {o : Option Nat} {e : Nat} (A : β) (F : Nat → β) : o = some e →
    (match o with
      | none => A
      | some e => F e) = F e := by
  rintro rfl
  rfl

theorem exec_gather_queues {s s' : State} {x : Ctx} {f : XF} {e : Nat} {cmd : GatherCmd} (h : Gathers s x f e) (hbar : GatherBar s x f e s' cmd) :
    exec (.gather f) s = .next ((gathered s' x e cmd).advance x).endIssue := by
  obtain ⟨hengine, hready, hform, hfault, hroom, hqueue⟩ := h
  have he := exec_gather s f
  unfold execGather at he
  unfold GatherBar at hbar
  unfold gatherRef gatherHere image at *
  generalize hv : imageOf (s.crew x.crew) ((s.crew x.crew).inHandler x.lanes) f.a.toNat 8 = v at *
  have hroom' : ¬((!(s.crew x.crew).clsRoom 4) = true ∨ 32 ≤ (s.gather e).queue.length) := by
    rw [hroom]
    exact not_or.mpr ⟨Bool.false_ne_true, Nat.not_le.mpr hqueue⟩
  refine exec_of_outside hready rfl he ?_
  rw [hv]
  clear he hv
  refine (match_some _ _ hengine).trans ?_
  generalize bits v 191 128 = bar at *
  generalize bits v 19 17 = bsp at *
  refine (if_neg (Bool.eq_false_iff.mp hform)).trans ?_
  rw [show f.wN = f.w2.toNat from rfl]
  generalize gatherOf v (16 * (f.w2.toNat % 256 + 1)) (s.gather e).nextCmd x.crew (s.crew x.crew).nextOp x.pc (s.engCtx x.crew) = cmd0 at *
  rw [hfault]
  have hreached : (if bar = 0 then none else s.barFault x.crew bsp bar) = none := by
    rcases hbar with ⟨h0, -, -⟩ | ⟨h0, hreach, -⟩
    · exact if_pos h0
    · exact (if_neg h0).trans hreach
  rw [hreached]
  have hfree : ¬(bar ≠ 0 ∧ s.abBusy x.crew (s.abRefOf x.crew bsp bar) = true) := by
    rcases hbar with ⟨h0, -, -⟩ | ⟨h0, -, hbusy, -⟩
    · exact fun h => h.1 h0
    · exact fun h => Bool.eq_false_iff.mp hbusy h.2
  refine (if_neg hfree).trans ?_
  rcases hbar with ⟨h0, rfl, rfl⟩ | ⟨h0, hreach, hbusy, gen, htake, rfl⟩
  · rw [if_pos h0]
    refine (if_neg hroom').trans ?_
    rw [if_pos h0]
    rfl
  · rw [if_neg h0, htake]
    refine (if_neg hroom').trans ?_
    rw [if_neg h0]
    rfl

/-- Settles O24: each command from the checks of its issue, then what its queue and its crew hold. -/
theorem engineCommandsAreQueued : Obligations.EngineCommandsAreQueued := by
  unfold Obligations.EngineCommandsAreQueued
  refine ⟨fun s x f => ⟨?copy, ?chain⟩, ?gather⟩
  case copy =>
    intro hready v cmd bar r howner hform hown hfault hroom hqueue s' cmd' hbar
    exact ⟨_, exec_copy_queues ⟨hready, howner, hform, hown, hfault, hroom, hqueue⟩ hbar, copied_spec s' x _ _ cmd'⟩
  case chain =>
    intro hready _ addr running howner hal hfault
    have h : Chains s x f addr := ⟨hready, rfl, howner, hal, hfault⟩
    exact ⟨writesD_chain_busy h, fun hrun hroom => ⟨_, exec_chain_starts h hrun hroom, chained_spec s x f addr _⟩⟩
  case gather =>
    intro s x f c k v bar bsp r e hengine cmd hready hform hfault hroom hqueue s' cmd' hbar
    exact ⟨_, exec_gather_queues ⟨hengine, hready, hform, hfault, hroom, hqueue⟩ hbar, gathered_spec s' x e cmd'⟩

end Sys2Proof.Proofs.EngineIssue
end

section
/-! PROOF. Streams and landing pans at issue (R110, R111, R123 to R130, R313, R314, R316 to R318): O25 and O26. -/

namespace Sys2Proof.Proofs.StreamsAndPans

open Sys2Proof.Machine Sys2Proof.Safety Sys2Proof.Proofs.Control Sys2Proof.Proofs.Waits Sys2Proof.Proofs.Loads

/-! ## QBIND, QUNB and QFLUSH (R110, R111, R313, R314) -/

/-- An instruction with an ILLEGAL of its own, outside regions, that does not raise it. -/
theorem exec_of_first {s t : State} {x : Ctx} {i : Instr} {sh : Shape} {f : XF} {pre : State → Ctx → Crew → Option Nat} {g : State → Ctx → Crew → Lanes → Except Stop State}
    (h : readyOut s x sh f = true) (e : exec i s = outsideRegions s f fun s => guardedFirst (pre s) s sh f (g s)) (hpre : pre s x (s.crew x.crew) = none)
    (hg : g s x (s.crew x.crew) (act s x f) = .ok t) : exec i s = .next t.endIssue := by
  have hmay := ready_may (ready_of_readyOut h)
  obtain ⟨hcur, hgate⟩ := may_iff.mp hmay
  rw [outside_of_calm hcur (calm_of_readyOut h), guardedFirst, issue_of_cur hcur] at e
  have hgo : (match gateFirst (pre s x (s.crew x.crew)) (s.crew x.crew) sh f x.lanes (act s x f) with
      | .error e => Except.error e
      | .ok _ => g s x (s.crew x.crew) (act s x f)) = .ok t := by
    rw [hpre, show gateFirst none (s.crew x.crew) sh f x.lanes (act s x f) = .ok () from gate_of_ok hgate]
    exact hg
  exact e.trans (congrArg (fun r => Host.Outcome.next (settle s x (act s x f) r)) hgo)

/-- The stream that the image of a QBIND describes (R313). -/
def bindOf (s : State) (x : Ctx) (f : XF) : Stream :=
  let c := s.crew x.crew
  let rd := fun j => c.rdS (c.inHandler x.lanes) (f.a.toNat + j)
  let sp := bits f.w2.toNat 2 0
  { space := sp, base := if sp = 0 then (rd 1 ++ rd 0).toNat else (rd 0).toNat, count := (rd 2).toNat, step := (rd 3).toInt,
    stride := (rd 4).toInt, bound := c.nextOp, pc := x.pc, prot := s.protectedCrew x.crew }

theorem leaves_qbind {s : State} {x : Ctx} {f : XF} (h : readyOut s x (Instr.qbind f).shape f = true) (hwhole : (s.crew x.crew).live &&& ~~~x.lanes = 0)
    (hregs : 256 ≤ (s.crew x.crew).nregs) (hfree : SMap.find? (s.crew x.crew).streams f.d.toNat = none) (h1 : 1 ≤ (bindOf s x f).count)
    (hmax : (bindOf s x f).count ≤ 65536) (hhigh : bits f.w2.toNat 2 0 ≠ 0 → (s.crew x.crew).rdS ((s.crew x.crew).inHandler x.lanes) (f.a.toNat + 1) = 0)
    (hstep : (bindOf s x f).step % 4 = 0) (hstride : (bindOf s x f).stride % 4 = 0) (hbase : (bindOf s x f).base % 4 = 0)
    (hfault : s.rangeFault x.crew (bits f.w2.toNat 2 0) (bindOf s x f).range.1 (bindOf s x f).range.2 (if f.d.toNat < 4 then .engRead else .engWrite) = none) :
    Leaves s x (.qbind f) (goOnAll x { s.crew x.crew with streams := SMap.put (s.crew x.crew).streams f.d.toNat (bindOf s x f) }) := by
  have e := exec_qbind s f
  unfold execQbind at e
  have hpre : qbindUse f x (s.crew x.crew) = none := by
    unfold qbindUse notWhole
    rw [decide_eq_false (Classical.not_not.mpr hwhole), decide_eq_false (Nat.not_lt.mpr hregs), hfree]
    rfl
  have hcount : ¬((bindOf s x f).count = 0 ∨ 65536 < (bindOf s x f).count) := by omega
  have hform : ¬((decide (bits f.w2.toNat 2 0 ≠ 0) && decide ((s.crew x.crew).rdS ((s.crew x.crew).inHandler x.lanes) (f.a.toNat + 1) ≠ 0))
      || decide ((bindOf s x f).step % 4 ≠ 0) || decide ((bindOf s x f).stride % 4 ≠ 0)) = true := by
    rw [hstep, hstride]
    simpa using hhigh
  refine leaves_of_advance (exec_of_first h e hpre ((if_neg hcount).trans ((if_neg hform).trans ((if_neg (Classical.not_not.mpr hbase)).trans ?_))))
  erw [hfault]
  rfl

/-- QUNB and QFLUSH of a bound port by the whole crew do their own effect. -/
theorem exec_of_streamInstr {s t : State} {x : Ctx} {i : Instr} {sh : Shape} {f : XF} {st : Stream} {g : State → Ctx → Crew → Nat → Stream → Except Stop State}
    (h : readyOut s x sh f = true) (e : exec i s = streamInstr s sh f g) (hbound : SMap.find? (s.crew x.crew).streams f.d.toNat = some st)
    (hwhole : (s.crew x.crew).live &&& ~~~x.lanes = 0) (hg : g s x (s.crew x.crew) f.d.toNat st = .ok t) : exec i s = .next t.endIssue := by
  unfold streamInstr at e
  refine exec_of_outside h rfl e ((if_neg (Classical.not_not.mpr hwhole)).trans ?_)
  rw [hbound]
  exact hg

/-- Settles O25: each instruction from its own checks. -/
theorem streamsAreBoundAndFreed : Obligations.StreamsAreBoundAndFreed := by
  unfold Obligations.StreamsAreBoundAndFreed
  intro s x f
  refine ⟨?bind, fun st hbound hwhole => ⟨?unbind, ?flushLoad, ?flushStore⟩⟩
  case bind =>
    intro h rd sp st hwhole hregs hfree h1 hmax hhigh hstep hstride hbase hfault
    exact leaves_qbind h hwhole hregs hfree h1 hmax hhigh hstep hstride hbase hfault
  case unbind =>
    intro h hqueued
    have e := exec_qunb s f
    unfold execQunb at e
    refine leaves_of_advance (exec_of_streamInstr h e hbound hwhole (if_neg ?_))
    rw [hqueued]
    exact Bool.false_ne_true
  case flushLoad =>
    intro h hport
    have e := exec_qflush s f
    unfold execQflush at e
    exact leaves_of_advance (exec_of_streamInstr h e hbound hwhole (if_pos hport))
  case flushStore =>
    intro h hport hopen
    have e := exec_qflush s f
    unfold execQflush at e
    exact leaves_of_advance_only (exec_of_streamInstr h e hbound hwhole ((if_neg (Nat.not_lt.mpr hport)).trans (if_neg (Bool.eq_false_iff.mp hopen))))

/-! ## PANRSV and PANPUT (R126, R127, R130, R316, R317) -/

/-- The s register that a field names. -/
def sReg (s : State) (x : Ctx) (n : BitVec 8) : Nat := ((s.crew x.crew).rdS ((s.crew x.crew).inHandler x.lanes) n.toNat).toNat

/-- The route's header and literal pass the checks of the route. -/
def Routed (s : State) (x : Ctx) (f : XF) (lit : BitVec 64) : Prop :=
  unroutable lit.toNat (panHdr f.w2.toNat) = false ∧
    (bits (panHdr f.w2.toNat) 5 1 < 24 → (s.port (bits (panHdr f.w2.toNat) 5 1)).owner.toNat = 128 + s.crewPart x.crew) ∧
    s.routeBad (coreOf x.crew) lit.toNat (panHdr f.w2.toNat) = false

/-- A PANRSV passes the checks of its form and its route. -/
structure Reserves (s : State) (x : Ctx) (f : XF) (lit : BitVec 64) : Prop where
  ready  : readyOut s x (Instr.panrsv f lit).shape f = true
  routed : Routed s x f lit
  form   : rsvFormBad f.w2.toNat (sReg s x f.b) = false

/-- A request that stands on the core is sent, or lost where its port is DOWN (R130). -/
def sendOrLose (s : State) (x : Ctx) (f : XF) (u : State) : State :=
  match SMap.find? (u.core (coreOf x.crew)).panReqs (s.core (coreOf x.crew)).nextCmd with
  | some r =>
    if (s.port (bits (panHdr f.w2.toNat) 5 1)).down then
      (u.breach r.ctx.launch 0x24 r.port 255).answerReq (coreOf x.crew) (s.core (coreOf x.crew)).nextCmd r [] (some badLink)
    else u.sendPans (coreOf x.crew)
  | none => u

theorem sendOrLose_of_some {s u : State} {x : Ctx} {f : XF} {r : PanReq}
    (hr : SMap.find? (u.core (coreOf x.crew)).panReqs (s.core (coreOf x.crew)).nextCmd = some r) :
    sendOrLose s x f u = if (s.port (bits (panHdr f.w2.toNat) 5 1)).down then
        (u.breach r.ctx.launch 0x24 r.port 255).answerReq (coreOf x.crew) (s.core (coreOf x.crew)).nextCmd r [] (some badLink)
      else u.sendPans (coreOf x.crew) := by
  unfold sendOrLose
  rw [hr]

/-- What a PANRSV that comes so far does. -/
def reserveTail (s : State) (x : Ctx) (f : XF) (lit : BitVec 64) : Except Stop State :=
  let c := s.crew x.crew
  let h := c.inHandler x.lanes
  let core := coreOf x.crew
  if 32 ≤ s.senderHeld core then
    let ws := (List.range 4).map fun j => (⟨none, f.d.toNat + j, if j = 0 then statusWord 0 0 stFull else 0⟩ : RegWrite)
    .ok ((s.setCrew x.crew (c.applyWrites h ws)).advance x)
  else if !c.clsRoom 5 then .error .hold
  else
    .ok ((sendOrLose s x f (s.panIssue x false f lit (sReg s x f.a) (sReg s x f.b) ((List.range 4).map fun j => (none, f.d.toNat + j)))).advance x)

theorem exec_of_reserves {s t : State} {x : Ctx} {f : XF} {lit : BitVec 64} (h : Reserves s x f lit) (ht : reserveTail s x f lit = .ok t) :
    exec (.panrsv f lit) s = .next t.endIssue := by
  obtain ⟨hready, ⟨hroute, howner, hbad⟩, hform⟩ := h
  have e := exec_panrsv s f lit
  unfold execPanrsv at e
  have howner' : ¬(bits (panHdr f.w2.toNat) 5 1 < 24 ∧ (s.port (bits (panHdr f.w2.toNat) 5 1)).owner.toNat ≠ 128 + s.crewPart x.crew) := fun h => h.2 (howner h.1)
  exact exec_of_outside hready rfl e ((if_neg (Bool.eq_false_iff.mp hroute)).trans ((if_neg (Bool.eq_false_iff.mp hform)).trans
    ((if_neg howner').trans ((if_neg (Bool.eq_false_iff.mp hbad)).trans ht))))

theorem leaves_panrsv_full {s : State} {x : Ctx} {f : XF} {lit : BitVec 64} (h : Reserves s x f lit) (hfull : 32 ≤ s.senderHeld (coreOf x.crew)) :
    Leaves s x (.panrsv f lit) (goOnAll x ((s.crew x.crew).applyWrites ((s.crew x.crew).inHandler x.lanes)
      ((List.range 4).map fun j => ⟨none, f.d.toNat + j, if j = 0 then 4#32 else 0#32⟩))) :=
  leaves_of_advance (exec_of_reserves h (if_pos hfull))

/-- The request that a reservation or a put enters. -/
theorem find?_panIssue (s : State) (x : Ctx) (isPut : Bool) (f : XF) (lit : BitVec 64) (arg pos : Nat) (dests : List (Option Nat × Nat)) :
    ∃ r, SMap.find? ((s.panIssue x isPut f lit arg pos dests).core (coreOf x.crew)).panReqs (s.core (coreOf x.crew)).nextCmd = some r := by
  exact ⟨_, (congrArg (fun c : Core => SMap.find? c.panReqs (s.core (coreOf x.crew)).nextCmd) (State.core_setCore_self _ _ _)).trans (SMap.find?_put_self _ _ _)⟩

theorem exec_panrsv_up {s : State} {x : Ctx} {f : XF} {lit : BitVec 64} (h : Reserves s x f lit) (hroom : s.senderHeld (coreOf x.crew) < 32)
    (hcls : (s.crew x.crew).clsRoom 5 = true) (hup : (s.port (bits (panHdr f.w2.toNat) 5 1)).down = false) :
    exec (.panrsv f lit) s = .next ((((s.panIssue x false f lit (sReg s x f.a) (sReg s x f.b) ((List.range 4).map fun j => (none, f.d.toNat + j))).sendPans
      (coreOf x.crew)).advance x).endIssue) := by
  obtain ⟨r, hr⟩ := find?_panIssue s x false f lit (sReg s x f.a) (sReg s x f.b) ((List.range 4).map fun j => (none, f.d.toNat + j))
  have hcls' : ¬(!(s.crew x.crew).clsRoom 5) = true := by
    rw [hcls]
    exact Bool.false_ne_true
  refine exec_of_reserves h ((if_neg (Nat.not_le.mpr hroom)).trans ((if_neg hcls').trans ?_))
  rw [sendOrLose_of_some hr, if_neg (Bool.eq_false_iff.mp hup)]

theorem exec_panrsv_down {s : State} {x : Ctx} {f : XF} {lit : BitVec 64} {r : PanReq} (h : Reserves s x f lit) (hroom : s.senderHeld (coreOf x.crew) < 32)
    (hcls : (s.crew x.crew).clsRoom 5 = true) (hdown : (s.port (bits (panHdr f.w2.toNat) 5 1)).down = true)
    (hr : SMap.find? ((s.panIssue x false f lit (sReg s x f.a) (sReg s x f.b) ((List.range 4).map fun j => (none, f.d.toNat + j))).core (coreOf x.crew)).panReqs
      (s.core (coreOf x.crew)).nextCmd = some r) :
    exec (.panrsv f lit) s = .next (((((s.panIssue x false f lit (sReg s x f.a) (sReg s x f.b) ((List.range 4).map fun j => (none, f.d.toNat + j))).breach
      r.ctx.launch 0x24 r.port 255).answerReq (coreOf x.crew) (s.core (coreOf x.crew)).nextCmd r [] (some 0x1B)).advance x).endIssue) := by
  have hcls' : ¬(!(s.crew x.crew).clsRoom 5) = true := by
    rw [hcls]
    exact Bool.false_ne_true
  refine exec_of_reserves h ((if_neg (Nat.not_le.mpr hroom)).trans ((if_neg hcls').trans ?_))
  rw [sendOrLose_of_some hr, if_pos hdown]
  rfl

theorem exec_panput_issues {s : State} {x : Ctx} {f : XF} {lit : BitVec 64} {j : Nat} {ent : SendEnt} (hready : readyOut s x (Instr.panput f lit).shape f = true)
    (hrouted : Routed s x f lit) (hform : putFormBad f.w2.toNat (sReg s x f.a) (sReg s x f.b) = false)
    (hfault : s.rangeFault x.crew 1 (sReg s x f.a) (512 * (bits f.w2.toNat 15 12 + 1)) {} = none) (hcls : (s.crew x.crew).clsRoom 5 = true)
    (hent : s.sendEnt (coreOf x.crew) ((s.crew x.crew).launch.getD 0) lit.toNat (panHdr f.w2.toNat) (panSlot f.w2.toNat) (bits (sReg s x f.b) 31 16) = some (j, ent))
    (hmode : ent.mode = panMode f.w2.toNat) :
    exec (.panput f lit) s = .next ((((s.panIssue x true f lit (sReg s x f.a) (sReg s x f.b) []).sendPans (coreOf x.crew)).advance x).endIssue) := by
  obtain ⟨hroute, howner, hbad⟩ := hrouted
  have e := exec_panput s f lit
  unfold execPanput at e
  have howner' : ¬(bits (panHdr f.w2.toNat) 5 1 < 24 ∧ (s.port (bits (panHdr f.w2.toNat) 5 1)).owner.toNat ≠ 128 + s.crewPart x.crew) := fun h => h.2 (howner h.1)
  have hcls' : ¬(!(s.crew x.crew).clsRoom 5) = true := by
    rw [hcls]
    exact Bool.false_ne_true
  refine exec_of_outside hready rfl e ((if_neg (Bool.eq_false_iff.mp hroute)).trans ((if_neg (Bool.eq_false_iff.mp hform)).trans ?_))
  erw [hfault]
  refine (if_neg howner').trans ((if_neg (Bool.eq_false_iff.mp hbad)).trans ?_)
  erw [hent]
  exact (if_neg (Classical.not_not.mpr hmode)).trans (if_neg hcls')

/-! ## PANREL and PANQRY (R124, R125, R318) -/

/-- The key of the slot that PANREL and PANQRY name. -/
def slotOf (s : State) (x : Ctx) (f : XF) : Nat := State.slotKey ((s.crew x.crew).launch.getD 0) (bits f.w2.toNat 5 0)

theorem exec_of_ownSlot {s t : State} {x : Ctx} {i : Instr} {sh : Shape} {f : XF} {g : State → Ctx → Crew → Lanes → Nat → Nat → Except Stop State}
    (h : readyOut s x sh f = true) (e : exec i s = ownSlot s sh f g) (hac : act s x f ≠ 0) (hslot : bits f.w2.toNat 5 0 < s.nslot x.crew)
    (hg : g s x (s.crew x.crew) (act s x f) (coreOf x.crew) (slotOf s x f) = .ok t) : exec i s = .next t.endIssue := by
  unfold ownSlot at e
  exact exec_of_outside h rfl e ((if_neg hac).trans ((if_neg (Nat.not_le.mpr hslot)).trans hg))

/-- What a PANREL answers, by what it makes of the slot. -/
theorem exec_panrel_of {s u : State} {x : Ctx} {f : XF} {st : Nat} (h : readyOut s x (Instr.panrel f).shape f = true) (hac : act s x f ≠ 0)
    (hslot : bits f.w2.toNat 5 0 < s.nslot x.crew) (hr : s.slotRelease (coreOf x.crew) (slotOf s x f) (decide (f.vN = 1)) = (u, st)) :
    exec (.panrel f) s = .next (writeD u x (Instr.panrel f).shape f (act s x f) false false fun _ =>
      status (s.slot (coreOf x.crew) (slotOf s x f)).gen.toNat 0 st).endIssue := by
  have e := exec_panrel s f
  unfold execPanrel at e
  refine exec_of_ownSlot h e hac hslot ?_
  rw [hr]
  exact answer_eq ..

/-- A PANREL without `.force` goes by the slot's state. -/
theorem slotRelease_of_free {s : State} {core key : Nat} {f : XF} (hv : f.vN = 0) :
    s.slotRelease core key (decide (f.vN = 1)) =
      if 0 < (s.slot core key).refs ∨ (s.slot core key).state = 1 ∨ (s.slot core key).state = 2 then (s, stBusy)
      else if (s.slot core key).state = 0 then (s, stOk)
      else (s.setSlot core key { s.slot core key with state := 0, abState := abIdle, ports := 0 }, stOk) := by
  rw [hv]
  rfl

theorem slotRelease_idle {s : State} {core key : Nat} {f : XF} (hv : f.vN = 0) (hrefs : (s.slot core key).refs = 0) (h0 : (s.slot core key).state = 0) :
    s.slotRelease core key (decide (f.vN = 1)) = (s, stOk) := by
  rw [slotRelease_of_free hv, if_neg (by omega), if_pos h0]

theorem slotRelease_ended {s : State} {core key : Nat} {f : XF} (hv : f.vN = 0) (hrefs : (s.slot core key).refs = 0) (h0 : (s.slot core key).state ≠ 0)
    (h1 : (s.slot core key).state ≠ 1) (h2 : (s.slot core key).state ≠ 2) :
    s.slotRelease core key (decide (f.vN = 1)) = (s.setSlot core key { s.slot core key with state := 0, abState := abIdle, ports := 0 }, stOk) := by
  rw [slotRelease_of_free hv, if_neg (by omega), if_neg h0]

@[simp] theorem slot_setSlot (s : State) (core key : Nat) (p : PanSlot) : (s.setSlot core key p).slot core key = p := by
  rw [State.slot, State.setSlot, State.modCore, State.core_setCore_self]
  exact SMap.get_put_self _ _ _ _

/-- Settles O26: reservations and puts from their checks in order, PANREL by the slot's state. -/
theorem pansReservePutAndRelease : Obligations.PansReservePutAndRelease := by
  unfold Obligations.PansReservePutAndRelease
  intro s x f lit
  refine ⟨fun hready hrouted hform => ?reserve, ?put, ?slots⟩
  case reserve =>
    have h : Reserves s x f lit := ⟨hready, hrouted, hform⟩
    exact ⟨leaves_panrsv_full h, fun hroom hcls => ⟨exec_panrsv_up h hroom hcls, fun hdown r => exec_panrsv_down h hroom hcls hdown⟩⟩
  case put => exact fun hready hrouted hform hfault hcls j ent hent hmode => exec_panput_issues hready hrouted hform hfault hcls hent hmode
  case slots =>
    intro slot key p hac hslot
    refine ⟨fun h hv => ⟨fun hbusy => ?_, fun hrefs hidle => ?_, fun hrefs h0 h1 h2 => ?_⟩, fun h hv => ?_, fun h => ?_⟩
    · exact writesD_of_writeD (exec_panrel_of h hac hslot ((slotRelease_of_free hv).trans (if_pos hbusy)))
    · exact writesD_of_writeD (exec_panrel_of h hac hslot (slotRelease_idle hv hrefs hidle))
    · refine ⟨_, exec_panrel_of h hac hslot (slotRelease_ended hv hrefs h0 h1 h2), ?_⟩
      rw [writeD_eq]
      refine ⟨rfl, slot_setSlot .., ?_⟩
      rw [State.crew_endIssue, State.crew_setCrew_self]
      rfl
    · exact exec_panrel_of h hac hslot (if_pos (decide_eq_true hv))
    · have e := exec_panqry s f
      unfold execPanqry at e
      exact leaves_of_advance (exec_of_ownSlot h e hac hslot rfl)

end Sys2Proof.Proofs.StreamsAndPans
end

section
/-! PROOF. The matrix unit at issue (R184, R254, R283 to R286, R299): O27 and O28. -/

namespace Sys2Proof.Proofs.MatrixIssue

open Sys2Proof.Machine Sys2Proof.Safety Sys2Proof.Proofs.Control Sys2Proof.Proofs.Waits Sys2Proof.Proofs.StreamsAndPans

/-! ## The counted instructions (R283, R285) -/

/-- The values of the address registers of a counted instruction. -/
def aReg (s : State) (x : Ctx) (f : XF) : Nat := ((s.crew x.crew).rdS ((s.crew x.crew).inHandler x.lanes) f.a.toNat).toNat
def bReg (s : State) (x : Ctx) (f : XF) : Nat := if f.sb then ((s.crew x.crew).rdS ((s.crew x.crew).inHandler x.lanes) f.b.toNat).toNat else 0

/-- A counted instruction passes its checks, with metadata `md`. -/
structure Posts (s : State) (x : Ctx) (i : Instr) (check : Nat → Nat → Nat → MxBad) (md : Nat → List Nat) (wait : Nat → Bool) : Prop where
  eq    : exec i s = mxInstr s i check md wait
  ready : readyOut s x i.shape i.xf = true
  whole : (s.crew x.crew).live &&& ~~~x.lanes = 0
  good  : check x.crew (aReg s x i.xf) (bReg s x i.xf) = none
  go    : wait x.crew = false
  chip  : (s.crew x.crew).chipOpen (s.crew x.crew).nextOp = false
  room  : (s.crew x.crew).clsRoom 3 = true

/-- The operation that it enters. -/
def mxOpOf (s : State) (x : Ctx) (i : Instr) (md : List Nat) : MxOp :=
  { crew := x.crew, op := (s.crew x.crew).nextOp, instr := i, a := aReg s x i.xf, b := bReg s x i.xf, metad := md, prio := (s.crew x.crew).prio }

/-- The state in which the crew counts the operation. -/
def mxCounted (s : State) (x : Ctx) (f : XF) : State :=
  s.modCrew x.crew fun c => c.addOp { id := 0, kind := .matrix, cls := 3, pc := x.pc, lanes := act s x f, issued := s.ctr }

section

variable {s : State} {x : Ctx} {i : Instr} {check : Nat → Nat → Nat → MxBad} {md : Nat → List Nat} {wait : Nat → Bool}

/-- Past its checks, and with room in the queue or on its convergence register, it is dispatched or posted. -/
theorem exec_of_posts (h : Posts s x i check md wait)
    (harmed : bitOf i.xf.c.toNat 4 = true ∨ (s.cv (quadOf x.crew) (bits i.xf.c.toNat 3 0)).count ≠ 0)
    (hfull : (bitOf i.xf.c.toNat 4 && (decide (16 ≤ (s.quad (quadOf x.crew)).mq.length) || !(s.quad (quadOf x.crew)).fired.isEmpty)) = false)
    (hposted : (!bitOf i.xf.c.toNat 4 && decide (4 ≤ (s.cv (quadOf x.crew) (bits i.xf.c.toNat 3 0)).posted.length)) = false) :
    exec i s = .next ((((if bitOf i.xf.c.toNat 4 then (mxCounted s x i.xf).mxDispatch (quadOf x.crew) (mxOpOf s x i (md x.crew))
      else ((mxCounted s x i.xf).setCv (quadOf x.crew) (bits i.xf.c.toNat 3 0) { s.cv (quadOf x.crew) (bits i.xf.c.toNat 3 0) with
        posted := (s.cv (quadOf x.crew) (bits i.xf.c.toNat 3 0)).posted ++ [mxOpOf s x i (md x.crew)] }).cvFire (quadOf x.crew) (bits i.xf.c.toNat 3 0) 5).mxStamp
          (quadOf x.crew / 4)).advance x).endIssue) := by
  obtain ⟨e, hready, hwhole, hgood, hgo, hchip, hroom⟩ := h
  unfold mxInstr at e
  have hpre : mxUse s i.xf x (s.crew x.crew) = none := by
    have hfree : (!bitOf i.xf.cN 4 && decide ((s.cv (quadOf x.crew) (bits i.xf.cN 3 0)).count = 0)) = false := by
      rcases harmed with hdir | hcount
      · rw [show bitOf i.xf.cN 4 = true from hdir]
        rfl
      · rw [show decide ((s.cv (quadOf x.crew) (bits i.xf.cN 3 0)).count = 0) = false from decide_eq_false hcount, Bool.and_false]
    unfold mxUse notWhole
    rw [decide_eq_false (Classical.not_not.mpr hwhole), hfree]
    rfl
  have hstays : ¬(wait x.crew || !(s.crew x.crew).clsRoom 3) = true := by
    rw [hgo, hroom]
    exact Bool.false_ne_true
  refine exec_of_first hready e hpre ((if_neg (Bool.eq_false_iff.mp hchip)).trans ?_)
  erw [hgood]
  exact (if_neg hstays).trans ((if_neg (Bool.eq_false_iff.mp hfull)).trans (if_neg (Bool.eq_false_iff.mp hposted)))

theorem exec_posts_direct (h : Posts s x i check md wait) (hdir : bitOf i.xf.c.toNat 4 = true) (hqueue : (s.quad (quadOf x.crew)).mq.length < 16)
    (hfired : (s.quad (quadOf x.crew)).fired = []) :
    exec i s = .next (((((mxCounted s x i.xf).mxDispatch (quadOf x.crew) (mxOpOf s x i (md x.crew))).mxStamp (quadOf x.crew / 4)).advance x).endIssue) := by
  have e := exec_of_posts h (.inl hdir) (by rw [hfired, decide_eq_false (Nat.not_le.mpr hqueue), Bool.and_comm]; rfl) (by rw [hdir]; rfl)
  rwa [if_pos hdir] at e

theorem exec_posts_on_register (h : Posts s x i check md wait) (hdir : bitOf i.xf.c.toNat 4 = false)
    (hcount : (s.cv (quadOf x.crew) (bits i.xf.c.toNat 3 0)).count ≠ 0) (hposted : (s.cv (quadOf x.crew) (bits i.xf.c.toNat 3 0)).posted.length < 4) :
    exec i s = .next ((((((mxCounted s x i.xf).setCv (quadOf x.crew) (bits i.xf.c.toNat 3 0) { s.cv (quadOf x.crew) (bits i.xf.c.toNat 3 0) with
      posted := (s.cv (quadOf x.crew) (bits i.xf.c.toNat 3 0)).posted ++ [mxOpOf s x i (md x.crew)] }).cvFire (quadOf x.crew) (bits i.xf.c.toNat 3 0) 5).mxStamp
        (quadOf x.crew / 4)).advance x).endIssue) := by
  have e := exec_of_posts h (.inr hcount) (by rw [hdir]; rfl) (by rw [decide_eq_false (Nat.not_le.mpr hposted), Bool.and_false])
  rwa [if_neg (Bool.eq_false_iff.mp hdir)] at e

/-- Both ways of a counted instruction with fields `f`. -/
theorem exec_counted {f : XF} (e : exec i s = mxInstr s i check md wait) (hxf : i.xf = f) (hready : readyOut s x i.shape f = true)
    (hwhole : (s.crew x.crew).live &&& ~~~x.lanes = 0) (hgood : check x.crew (aReg s x f) (bReg s x f) = none) (hgo : wait x.crew = false)
    (hchip : (s.crew x.crew).chipOpen (s.crew x.crew).nextOp = false) (hroom : (s.crew x.crew).clsRoom 3 = true) :
    let o : MxOp := { crew := x.crew, op := (s.crew x.crew).nextOp, instr := i, a := aReg s x f, b := bReg s x f, metad := md x.crew, prio := (s.crew x.crew).prio }
    let n := bits f.c.toNat 3 0
    let cv := s.cv (quadOf x.crew) n
    (bitOf f.c.toNat 4 = true → (s.quad (quadOf x.crew)).mq.length < 16 → (s.quad (quadOf x.crew)).fired = [] →
      exec i s = .next (((((mxCounted s x f).mxDispatch (quadOf x.crew) o).mxStamp (quadOf x.crew / 4)).advance x).endIssue)) ∧
    (bitOf f.c.toNat 4 = false → cv.count ≠ 0 → cv.posted.length < 4 →
      exec i s = .next ((((((mxCounted s x f).setCv (quadOf x.crew) n { cv with posted := cv.posted ++ [o] }).cvFire (quadOf x.crew) n 5).mxStamp
        (quadOf x.crew / 4)).advance x).endIssue)) := by
  subst hxf
  have h : Posts s x i check md wait := ⟨e, hready, hwhole, hgood, hgo, hchip, hroom⟩
  exact ⟨exec_posts_direct h, exec_posts_on_register h⟩

end

/-! ## CVSET, MSTAT and SIGN (R286) -/

/-- The signatures that a quadrant's crews owe register `n`. -/
def owedSigns (s : State) (quad n : Nat) : Nat :=
  (s.residents quad).foldl (fun t p => t + (p.2.signs.filter fun e => decide (e.1 = n)).foldl (fun t e => t + e.2.1) 0) 0

theorem leaves_sign {s : State} {x : Ctx} {i : Instr} {f : XF} {n : Nat} (h : readyOut s x i.shape f = true) (e : exec i s = sign s i.shape f n) :
    (act s x f = 0 → Leaves s x i (goOnAll x (s.crew x.crew))) ∧
    (act s x f ≠ 0 → (s.cv (quadOf x.crew) n).count ≠ 0 →
      (s.cv (quadOf x.crew) n).signed + owedSigns s (quadOf x.crew) n + signCount (s.protectedCrew x.crew) (act s x f) ≤ 2047 →
      Leaves s x i (goOnAll x { s.crew x.crew with signs := (s.crew x.crew).signs ++ [(n, signCount (s.protectedCrew x.crew) (act s x f), (s.crew x.crew).nextOp)] })) := by
  unfold sign at e
  refine ⟨fun hac => leaves_of_advance_only (exec_of_outside h rfl e (if_pos hac)), fun hac hcount hsum => ?_⟩
  exact leaves_of_advance (exec_of_outside h rfl e ((if_neg hac).trans (if_neg (not_or.mpr ⟨hcount, Nat.not_lt.mpr hsum⟩))))

/-- Settles O27: the counted instructions by one scheme, the others from their own checks. -/
theorem matrixInstructionsArePosted : Obligations.MatrixInstructionsArePosted := by
  unfold Obligations.MatrixInstructionsArePosted
  refine ⟨fun s x f => ?counted, fun s x f nb => ⟨fun h hwhole hchip hsigned hposted => ?cvset, fun h => ?mstat, ?sign⟩⟩
  case counted =>
    intro k c a b quad n cv
    exact List.forall_mem_cons.mpr ⟨exec_counted (exec_mldb s f) rfl, List.forall_mem_cons.mpr ⟨exec_counted (exec_mma s f) rfl, List.forall_mem_cons.mpr ⟨exec_counted (exec_mmaw s f) rfl,
      List.forall_mem_cons.mpr ⟨exec_counted (exec_mzero s f) rfl, List.forall_mem_cons.mpr ⟨exec_counted (exec_msta s f) rfl, List.forall_mem_cons.mpr ⟨exec_counted (exec_mlda s f) rfl, List.forall_mem_singleton.mpr (exec_counted (exec_scac s f) rfl)⟩⟩⟩⟩⟩⟩
  case cvset =>
    have e := exec_cvset s f
    unfold execCvset at e
    have hidle : ¬((s.cv (quadOf x.crew) f.d.toNat).signed ≠ 0 ∨ (!(s.cv (quadOf x.crew) f.d.toNat).posted.isEmpty) = true) := by
      rw [show (s.cv (quadOf x.crew) f.d.toNat).posted = [] from hposted]
      exact not_or.mpr ⟨Classical.not_not.mpr hsigned, Bool.false_ne_true⟩
    exact exec_of_outside h rfl e ((if_neg (Classical.not_not.mpr hwhole)).trans ((if_neg (Bool.eq_false_iff.mp hchip)).trans (if_neg hidle)))
  case mstat =>
    have e := exec_mstat s f
    unfold execMstat at e
    intro cv q
    refine writesD_of_writeD (exec_of_outside h rfl e ?_)
    by_cases hac : act s x f = 0
    · refine (if_pos hac).trans ?_
      rw [writeD, if_pos hac]
    · exact if_neg hac
  case sign =>
    exact List.forall_mem_cons.mpr ⟨fun h => leaves_sign h (exec_sign s nb), List.forall_mem_singleton.mpr fun h => leaves_sign h (exec_signX s f)⟩

/-! ## CBLD and CTLD (R184, R254) -/

/-- The address that a table load names. -/
def tableAddr (s : State) (x : Ctx) (f : XF) : Nat :=
  if tableSpace f.ownN = 0 then
    wrapInt 64 (((s.crew x.crew).rdW ((s.crew x.crew).inHandler x.lanes) true f.a.toNat ((lowLane (act s x f)).getD 0)).toNat + f.w2.toInt)
  else wrapInt 32 (((s.crew x.crew).rdS ((s.crew x.crew).inHandler x.lanes) f.a.toNat).toNat + f.w2.toInt)

/-- A table load of `n` bytes at an alignment `al` reads them, clean, and leaves `s'`; the slot is of kind `kind`. -/
def ReadsTable (s : State) (x : Ctx) (i : Instr) (f : XF) (n al kind : Nat) (s' : State) (bs : List Byte) : Prop :=
  readyOut s x i.shape f = true ∧ tableAddr s x f % al = 0 ∧ State.acqPending (s.crew x.crew) (act s x f) = false ∧
    s.slotInUse (quadOf x.crew) kind f.d.toNat = false ∧
    ∃ accs, (List.range (n / 16)).map (fun j => s.access x.crew ((lowLane (act s x f)).getD 0) (tableSpace f.ownN) (tableAddr s x f + 16 * j) 16 .load) = accs.map Except.ok ∧
      s.readTable x.crew x accs = some (s', bs, false)

/-- The first fault of some accesses. -/
theorem findSome?_map_ok {α : Type} (accs : List Acc) (F : Except Miss Acc → Option α) (hF : ∀ a, F (.ok a) = none) : (accs.map Except.ok).findSome? F = none := by
  rw [List.findSome?_eq_none_iff]
  intro a ha
  obtain ⟨b, -, rfl⟩ := List.mem_map.mp ha
  exact hF b

theorem filterMap_map_ok (accs : List Acc) (F : Except Miss Acc → Option Acc) (hF : ∀ a, F (.ok a) = some a) : (accs.map Except.ok).filterMap F = accs := by
  rw [List.filterMap_map]
  exact (ListFacts.filterMap_ext fun a _ => hF a).trans (List.filterMap_some)

theorem exec_of_readsTable {s s' : State} {x : Ctx} {i : Instr} {f : XF} {n al kind : Nat} {bs : List Byte} {ok : List Byte → Bool} {put : Quad → List Byte → Quad}
    (h : ReadsTable s x i f n al kind s' bs) (e : exec i s = loadTable s i.shape f n al kind ok put) :
    exec i s = .next (settle s x (act s x f) (if !ok bs then .error (.trapIn s' ⟨clsArith, 0x10, act s x f, 0⟩)
      else .ok ((s'.modQuad (quadOf x.crew) fun q => put q bs).advance x))) := by
  obtain ⟨hready, hal, hacq, huse, accs, haccs, hread⟩ := h
  have hmay := ready_may (Loads.ready_of_readyOut hready)
  unfold loadTable at e
  rw [outside_of_calm (may_iff.mp hmay).1 (Loads.calm_of_readyOut hready), guarded_of_may hmay] at e
  refine e.trans (congrArg (fun r => Host.Outcome.next (settle s x (act s x f) r)) ?_)
  extract_lets k hd sp m low addr accs' bad good
  have hbad : bad = none := (congrArg (List.findSome? _) haccs).trans (findSome?_map_ok accs _ fun _ => rfl)
  have hgood : good = accs := (congrArg (List.filterMap _) haccs).trans (filterMap_map_ok accs _ fun _ => rfl)
  have hgo : ¬(State.acqPending (s.crew x.crew) (act s x f) || s.slotInUse (quadOf x.crew) kind f.d.toNat) = true := by
    rw [hacq, huse]
    exact Bool.false_ne_true
  clear_value bad good
  subst hbad hgood
  refine (if_neg (Classical.not_not.mpr hal)).trans ((if_neg hgo).trans ?_)
  erw [hread]
  exact if_neg Bool.false_ne_true

theorem exec_of_readsTable_ok {s s' : State} {x : Ctx} {i : Instr} {f : XF} {n al kind : Nat} {bs : List Byte} {ok : List Byte → Bool}
    {put : Quad → List Byte → Quad} (h : ReadsTable s x i f n al kind s' bs) (e : exec i s = loadTable s i.shape f n al kind ok put) (hok : ok bs = true) :
    exec i s = .next (((s'.modQuad (quadOf x.crew) fun q => put q bs).advance x).endIssue) := by
  rw [exec_of_readsTable h e, hok]
  rfl

theorem advance_modQuad_spec (s : State) (x : Ctx) (k : Nat) (g : Quad → Quad) :
    (((s.modQuad k g).advance x).endIssue).mem = s.mem ∧ (((s.modQuad k g).advance x).endIssue).quad k = g (s.quad k) := by
  rw [State.advance_eq]
  exact ⟨rfl, State.quad_setQuad_self ..⟩

/-- Filling the entries `base` to `base + n - 1` of a table with entries of a default. -/
theorem get_fill {α : Type} [DecidableEq α] (d : α) (m : SMap α) (base n : Nat) (v : Nat → α) (j : Nat) :
    SMap.get d ((List.range n).foldl (fun m e => SMap.set d m (base + e) (v e)) m) j = if base ≤ j ∧ j < base + n then v (j - base) else SMap.get d m j := by
  induction n with
  | zero => rw [if_neg (by omega)]; rfl
  | succ n ih =>
    rw [List.range_succ, List.foldl_append, List.foldl_cons, List.foldl_nil]
    by_cases hj : j = base + n
    · rw [hj, SMap.get_set_self, if_pos (by omega), Nat.add_sub_cancel_left]
    · rw [SMap.get_set_ne _ _ _ _ _ hj, ih]
      exact ite_congr (propext (by omega)) (fun _ => rfl) fun _ => rfl

/-- Filling the entries `base` to `base + n - 1` of a table. -/
theorem find?_fill {α : Type} (m : SMap α) (base n : Nat) (v : Nat → α) (j : Nat) :
    SMap.find? ((List.range n).foldl (fun m e => SMap.put m (base + e) (v e)) m) j = if base ≤ j ∧ j < base + n then some (v (j - base)) else SMap.find? m j := by
  induction n with
  | zero => rw [if_neg (by omega)]; rfl
  | succ n ih =>
    rw [List.range_succ, List.foldl_append, List.foldl_cons, List.foldl_nil]
    by_cases hj : j = base + n
    · rw [hj, SMap.find?_put_self, if_pos (by omega), Nat.add_sub_cancel_left]
    · rw [SMap.find?_put_ne _ _ _ _ hj, ih]
      exact ite_congr (propext (by omega)) (fun _ => rfl) fun _ => rfl

/-- Settles O28: the read, then the slot's entries one by one. -/
theorem tableLoadsFillTheirSlot : Obligations.TableLoadsFillTheirSlot := by
  unfold Obligations.TableLoadsFillTheirSlot
  intro s x f
  refine ⟨fun s' bs h => ?book, fun s' bs h hvalid => ?curve, fun s' bs h hvalid => ?bad⟩
  case book =>
    refine ⟨_, exec_of_readsTable_ok h (exec_cbld s f) rfl, ?_⟩
    obtain ⟨hmem, hquad⟩ := advance_modQuad_spec s' x (quadOf x.crew) fun q =>
      { q with books := (List.range 16).foldl (fun m e => SMap.set 0 m (f.d.toNat * 16 + e) (BitVec.ofNat 16 (leNat ((bs.drop (2 * e)).take 2)))) q.books }
    refine ⟨hmem, fun e he => ?_, fun n hn => ?_⟩
    · rw [hquad]
      exact (get_fill 0 _ (f.d.toNat * 16) 16 (fun e => BitVec.ofNat 16 (leNat ((bs.drop (2 * e)).take 2))) _).trans (by rw [if_pos (by omega), Nat.add_sub_cancel_left])
    · rw [hquad]
      exact (get_fill 0 _ (f.d.toNat * 16) 16 (fun e => BitVec.ofNat 16 (leNat ((bs.drop (2 * e)).take 2))) _).trans (if_neg (by omega))
  case curve =>
    refine ⟨_, exec_of_readsTable_ok h (exec_ctld s f) hvalid, ?_⟩
    obtain ⟨hmem, hquad⟩ := advance_modQuad_spec s' x (quadOf x.crew) fun q =>
      { q with curves := (List.range 17).foldl (fun m b => SMap.put m (f.d.toNat * 17 + b) (BitVec.ofNat 32 (leNat ((bs.drop (4 * b)).take 4)))) q.curves }
    refine ⟨hmem, fun b hb => ?_, fun n hn => ?_⟩
    · rw [hquad]
      dsimp only
      rw [find?_fill _ (f.d.toNat * 17) 17 (fun b => BitVec.ofNat 32 (leNat ((bs.drop (4 * b)).take 4))), if_pos (by omega), Nat.add_sub_cancel_left]
    · rw [hquad]
      dsimp only
      rw [find?_fill _ (f.d.toNat * 17) 17 (fun b => BitVec.ofNat 32 (leNat ((bs.drop (4 * b)).take 4))), if_neg (by omega)]
  case bad =>
    rw [exec_of_readsTable h (exec_ctld s f), hvalid]
    rfl

end Sys2Proof.Proofs.MatrixIssue
end

section
/-! PROOF. Traps (R371 to R375): entering the handler (O54), TRAP, BKPT and TRET (O31). -/

namespace Sys2Proof.Proofs.Traps

open Sys2Proof.Machine Sys2Proof.Safety Sys2Proof.Proofs.Control Sys2Proof.Proofs.Waits Sys2Proof.Proofs.Loads Sys2Proof.Proofs.Lives

/-! ## Entering the handler -/

/-- A crew with what an entry notes (R348, R373). -/
def banked (c : Crew) (bank : BitVec 192) (traps : Nat) (entry : Option Nat) : Crew := { c with bank := bank, traps := traps, entryAt := entry }

theorem thread_banked_mapLanes (c : Crew) (bank : BitVec 192) (traps : Nat) (entry : Option Nat) (a : Lanes) (g : Thread → Thread) {l : Nat}
    (hl : SMap.find? c.threads l ≠ none) :
    ((banked c bank traps entry).mapLanes a fun _ u => g u).thread l = if hasLane a l then g (c.thread l) else c.thread l := by
  have hsome : (SMap.find? (banked c bank traps entry).threads l).isSome = true := Option.isSome_iff_ne_none.mpr hl
  cases ha : hasLane a l
  · rw [thread_mapLanes_of_not ha]
    rfl
  · rw [thread_mapLanes_of_has ha hsome]
    rfl

/-- A thread in the handler of `t` (R372). -/
def vectored (s : State) (x : Ctx) (t : Raise) (u : Thread) : Thread :=
  { u with
    tcause := State.causeWord t.cls false t.detail
    tpc := BitVec.ofNat 32 (if t.cls = clsSyscall ∨ t.cls = clsBreak then x.pc + 12 else x.pc)
    tmaskM := true
    pc := bits (s.crew x.crew).tvec.toNat 31 10 * 1024 + 0x40 * t.cls
    starve := 0 }

/-- The crew whose lanes `a` have entered the handler for `t`. -/
def entered (s : State) (x : Ctx) (a : Lanes) (t : Raise) : Crew :=
  (banked (s.crew x.crew) (State.bankWord (if s.protectedCrew x.crew then State.pairMask t.lanes else t.lanes) t.addr x.pc t.cls false (slotOf x.crew) t.detail)
    (if State.countedTrap t.cls then (s.crew x.crew).traps + 1 else (s.crew x.crew).traps)
    (if State.countedTrap t.cls ∨ t.cls = clsPoison then some s.now else none)).mapLanes a fun _ u => vectored s x t u

section

variable {s : State} {x : Ctx} {a : Lanes} {t : Raise}

/-- No lane that raises the trap stands in a speculative region. -/
theorem inside_isEmpty {c : Crew} {m : Lanes} (h : ∀ l, hasLane a l = true → hasLane m l = true → (c.thread l).specAct = false) :
    ((lanesOf (a &&& m)).filter fun l => (c.thread l).specAct).isEmpty = true := by
  rw [List.isEmpty_iff, List.filter_eq_nil_iff]
  intro l hl
  have hl' := mem_lanesOf.mp hl
  rw [LaneSets.hasLane_and, Bool.and_eq_true] at hl'
  rw [h l hl'.1 hl'.2]
  exact Bool.false_ne_true

/-- A trap below NTRAP enters as it is. -/
theorem enter_eq (hcause : State.trapBreach t.cls t.detail false = none)
    (hroom : ∀ d, (s.crew x.crew).launch = some d → State.countedTrap t.cls = true → (s.crew x.crew).traps < (s.launch d).q.ntrap) :
    s.enter x.crew a t.lanes t.cls t.detail t.addr x.pc (if t.cls = clsSyscall ∨ t.cls = clsBreak then x.pc + 12 else x.pc) false =
      s.setCrew x.crew (entered s x a t) := by
  unfold State.enter
  extract_lets c exceeds cls' detail' mask c1 c2 s1
  have hex : exceeds = false := by
    subst exceeds c
    cases hl : (s.crew x.crew).launch with
    | none => rfl
    | some d =>
      dsimp only
      cases hct : State.countedTrap t.cls
      · rfl
      · have := hroom d hl hct
        rw [decide_eq_false (by omega)]
        rfl
  have hcls : cls' = t.cls := by
    subst cls'
    rw [hex]
    rfl
  have hdet : detail' = t.detail := by
    subst detail'
    rw [hex]
    rfl
  clear_value cls' detail'
  subst hcls hdet
  rw [hcause]
  cases c2.launch <;> rfl

theorem take_enters (hp : t.cls ≠ 7) (hm : ∀ l, hasLane a l = true → ((s.crew x.crew).thread l).tmaskM = false)
    (hv : (s.crew x.crew).tvec.getLsbD 0 = true) (hb : State.handlerBusy (s.crew x.crew) = false) (tpc : Nat)
    (he : s.enter x.crew a t.lanes t.cls t.detail t.addr x.pc tpc false = s.setCrew x.crew (entered s x a t)) :
    s.take x.crew a t.lanes t.cls t.detail t.addr x.pc tpc false = some (s.setCrew x.crew (entered s x a t)) := by
  have hany : ((lanesOf a).any fun l => ((s.crew x.crew).thread l).tmaskM) = false := by
    rw [List.any_eq_false]
    exact fun l hl => Bool.eq_false_iff.mp (hm l (mem_lanesOf.mp hl))
  have hp' : decide (t.cls = clsPoison) = false := decide_eq_false hp
  unfold State.take
  dsimp only
  rw [he, hany, hv, hb, hp']
  have hp'' : ¬t.cls = clsPoison := hp
  cases (s.crew x.crew).launch <;> simp [hp'']

/-- A trap that is taken at once. -/
theorem raise_enters (hp : t.cls ≠ 7) (hcause : State.trapBreach t.cls t.detail false = none)
    (hin : ∀ l, hasLane a l = true → hasLane t.lanes l = true → ((s.crew x.crew).thread l).specAct = false)
    (hm : ∀ l, hasLane a l = true → ((s.crew x.crew).thread l).tmaskM = false)
    (hv : (s.crew x.crew).tvec.getLsbD 0 = true) (hb : State.handlerBusy (s.crew x.crew) = false)
    (hroom : ∀ d, (s.crew x.crew).launch = some d → State.countedTrap t.cls = true → (s.crew x.crew).traps < (s.launch d).q.ntrap) :
    s.raise x a t = (s.setCrew x.crew (entered s x a t)).endIssue := by
  unfold State.raise
  dsimp only
  rw [if_pos (inside_isEmpty hin), take_enters hp hm hv hb _ (enter_eq hcause hroom)]

theorem thread_entered {l : Nat} (hl : SMap.find? (s.crew x.crew).threads l ≠ none) :
    (entered s x a t).thread l = if hasLane a l then vectored s x t ((s.crew x.crew).thread l) else (s.crew x.crew).thread l :=
  thread_banked_mapLanes _ _ _ _ a (vectored s x t) hl

theorem causeWord_eq {cls detail : Nat} (h : cls < 16) : State.causeWord cls false detail = BitVec.ofNat 32 (cls * 2 ^ 28 + detail % 256) := by
  unfold State.causeWord b2n
  rw [Nat.mod_eq_of_lt h, if_neg Bool.false_ne_true, Nat.zero_mul, Nat.add_zero]

end

/-- Settles O54: the trap is taken at once and changes the crew alone. -/
theorem exceptionsSaveAndVector : Obligations.ExceptionsSaveAndVector := by
  unfold Obligations.ExceptionsSaveAndVector
  intro s x a t c tpc hcls hp hcause hlanes hv hb hroom u
  rw [List.all_eq_true] at hlanes
  have hlane : ∀ l, hasLane a l = true → (hasLane t.lanes l = true → (c.thread l).specAct = false) ∧ (c.thread l).tmaskM = false := fun l hl => by
    simpa [Decidable.imp_iff_not_or] using hlanes l (mem_lanesOf.mpr hl)
  have hu : u = (s.setCrew x.crew (entered s x a t)).endIssue :=
    raise_enters hp hcause (fun l hl => (hlane l hl).1) (fun l hl => (hlane l hl).2) hv hb hroom
  clear_value u
  subst hu
  rw [State.crew_endIssue, State.crew_setCrew_self]
  refine ⟨rfl, rfl, rfl, rfl, rfl, fun l hl => ?_⟩
  rw [thread_entered hl, vectored, causeWord_eq hcls]
  rfl

/-! ## TRAP and BKPT (R327) -/

section

variable {s : State} {x : Ctx} {i : Instr} {f : XF} {cls : Nat}

theorem exec_softTrap (h : readyOut s x i.shape f = true) (hac : act s x f ≠ 0) (e : exec i s = softTrap s i.shape f cls) :
    exec i s = .next (s.raise x (act s x f) ⟨cls, f.w2.toNat % 256, act s x f, 0⟩) := by
  have hmay := ready_may (ready_of_readyOut h)
  unfold softTrap at e
  rw [outside_of_calm (may_iff.mp hmay).1 (calm_of_readyOut h)] at e
  exact exec_of_trap hmay rfl e (if_neg hac)

theorem trapBreach_soft (hcls : cls = 9 ∨ cls = 10) (detail : Nat) : State.trapBreach cls detail false = none := by
  rcases hcls with rfl | rfl <;> rfl

theorem countedTrap_soft (hcls : cls = 9 ∨ cls = 10) : State.countedTrap cls = true := by
  rcases hcls with rfl | rfl <;> rfl

/-- The sum of a lane detail entry without its address and its imprecise bit, whatever their weights are. -/
theorem bankSum_soft (m p c t d u v w z : Nat) : m + 0 % u * v + p + c + (if false = true then 1 else 0) * w + t + d % z % z = m + p + c + t + d % z := by
  rw [Nat.zero_mod, if_neg Bool.false_ne_true, Nat.zero_mul, Nat.zero_mul, Nat.add_zero, Nat.add_zero, Nat.mod_mod]

/-- The lane detail entry of a trap with no address. -/
theorem bankWord_soft (h : cls < 16) (mask : Lanes) (pc slot detail : Nat) :
    State.bankWord mask 0 pc cls false slot (detail % 256) =
      BitVec.ofNat 192 (mask.toNat * 2 ^ 128 + pc % 2 ^ 32 * 2 ^ 32 + cls * 2 ^ 28 + slot % 16 * 2 ^ 20 + detail % 256) := by
  unfold State.bankWord b2n
  rw [Nat.mod_eq_of_lt h]
  exact congrArg (BitVec.ofNat 192) (bankSum_soft ..)

/-- TRAP and BKPT enter the handler. -/
theorem softTrap_enters (hcls : cls = 9 ∨ cls = 10) (h : readyOut s x i.shape f = true) (hac : act s x f ≠ 0) (e : exec i s = softTrap s i.shape f cls)
    (hv : (s.crew x.crew).tvec.getLsbD 0 = true) (hb : State.handlerBusy (s.crew x.crew) = false)
    (hm : ∀ l, hasLane (act s x f) l = true → ((s.crew x.crew).thread l).tmaskM = false)
    (hroom : ∀ d, (s.crew x.crew).launch = some d → (s.crew x.crew).traps < (s.launch d).q.ntrap) :
    exec i s = .next (s.setCrew x.crew (entered s x (act s x f) ⟨cls, f.w2.toNat % 256, act s x f, 0⟩)).endIssue := by
  rw [exec_softTrap h hac e, raise_enters (show cls ≠ 7 by omega) (trapBreach_soft hcls _)
    (fun l hl _ => specAct_of_calm (calm_of_readyOut h) hl) hm hv hb fun d hd _ => hroom d hd]

/-- What an entered soft trap leaves. -/
theorem softTrap_enters_spec (hcls : cls = 9 ∨ cls = 10) (e : exec i s = softTrap s i.shape f cls) (h : readyOut s x i.shape f = true) (hac : act s x f ≠ 0)
    (hv : (s.crew x.crew).tvec.getLsbD 0 = true) (hb : State.handlerBusy (s.crew x.crew) = false)
    (hm : ((lanesOf (act s x f)).all fun l => !((s.crew x.crew).thread l).tmaskM) = true)
    (hroom : ∀ d, (s.crew x.crew).launch = some d → (s.crew x.crew).traps < (s.launch d).q.ntrap) :
    ∃ t, exec i s = .next t ∧ t.mem = s.mem ∧ t.cur = none ∧
      (t.crew x.crew).traps = (s.crew x.crew).traps + 1 ∧
      (t.crew x.crew).bank = BitVec.ofNat 192
        ((if s.protectedCrew x.crew then State.pairMask (act s x f) else act s x f).toNat * 2 ^ 128 + x.pc % 2 ^ 32 * 2 ^ 32 + cls * 2 ^ 28
          + slotOf x.crew % 16 * 2 ^ 20 + f.w2.toNat % 256) ∧
      ∀ l, SMap.find? (s.crew x.crew).threads l ≠ none →
        (t.crew x.crew).thread l =
          if hasLane (act s x f) l then
            { (s.crew x.crew).thread l with
              tcause := BitVec.ofNat 32 (cls * 2 ^ 28 + f.w2.toNat % 256), tpc := BitVec.ofNat 32 (x.pc + 12), tmaskM := true
              pc := bits (s.crew x.crew).tvec.toNat 31 10 * 1024 + 0x40 * cls, starve := 0 }
          else (s.crew x.crew).thread l := by
  have hm' : ∀ l, hasLane (act s x f) l = true → ((s.crew x.crew).thread l).tmaskM = false := fun l hl =>
    (Bool.not_eq_eq_eq_not ..).mp (List.all_eq_true.mp hm l (mem_lanesOf.mpr hl))
  have hlt : cls < 16 := by omega
  refine ⟨_, softTrap_enters hcls h hac e hv hb hm' hroom, rfl, rfl, ?_⟩
  rw [State.crew_endIssue, State.crew_setCrew_self]
  refine ⟨?_, ?_, fun l hl => ?_⟩
  · show (if State.countedTrap cls then (s.crew x.crew).traps + 1 else (s.crew x.crew).traps) = _
    rw [countedTrap_soft hcls, if_pos rfl]
  · exact bankWord_soft hlt _ _ _ _
  · have htpc : (if cls = clsSyscall ∨ cls = clsBreak then x.pc + 12 else x.pc) = x.pc + 12 := if_pos hcls
    rw [thread_entered hl, vectored, htpc, causeWord_eq hlt, Nat.mod_mod]

/-- What a soft trap does where no lane stands in a region. -/
theorem exec_softTrap_take (h : readyOut s x i.shape f = true) (hac : act s x f ≠ 0) (e : exec i s = softTrap s i.shape f cls) :
    exec i s = .next (match s.take x.crew (act s x f) (act s x f) cls (f.w2.toNat % 256) 0 x.pc
        (if cls = clsSyscall ∨ cls = clsBreak then x.pc + 12 else x.pc) false with
      | some s' => s'.endIssue
      | none => s.stay) := by
  rw [exec_softTrap h hac e, State.raise]
  exact congrArg _ (if_pos (inside_isEmpty fun l hl _ => specAct_of_calm (calm_of_readyOut h) hl))

/-- Without a valid TVEC, or in a handler, a soft trap is unhandled (R374). -/
theorem softTrap_unhandled (hcls : cls = 9 ∨ cls = 10) (h : readyOut s x i.shape f = true) (hac : act s x f ≠ 0) (e : exec i s = softTrap s i.shape f cls)
    (hun : (s.crew x.crew).tvec.getLsbD 0 = false ∨ ((lanesOf (act s x f)).any fun l => ((s.crew x.crew).thread l).tmaskM) = true) :
    exec i s = .next (s.unhandled x.crew (act s x f)).endIssue := by
  have hp : ¬cls = clsPoison := by rcases hcls with rfl | rfl <;> decide
  have hcond : (!(s.crew x.crew).tvec.getLsbD 0 || (lanesOf (act s x f)).any fun l => ((s.crew x.crew).thread l).tmaskM) = true := by
    rcases hun with h | h <;> rw [h] <;> simp
  rw [exec_softTrap_take h hac e]
  unfold State.take
  dsimp only
  rw [hcond, trapBreach_soft hcls, decide_eq_false hp]
  cases (s.crew x.crew).launch <;> simp [hp]

/-- While another lane is in its handler the group waits. -/
theorem softTrap_held (hcls : cls = 9 ∨ cls = 10) (h : readyOut s x i.shape f = true) (hac : act s x f ≠ 0) (e : exec i s = softTrap s i.shape f cls)
    (hv : (s.crew x.crew).tvec.getLsbD 0 = true) (hm : ((lanesOf (act s x f)).any fun l => ((s.crew x.crew).thread l).tmaskM) = false)
    (hb : State.handlerBusy (s.crew x.crew) = true) : exec i s = .next { s with cur := none, rep := none, held := true } := by
  have hp : ¬cls = clsPoison := by rcases hcls with rfl | rfl <;> decide
  rw [exec_softTrap_take h hac e]
  unfold State.take
  dsimp only
  rw [hv, hm, hb, decide_eq_false hp]
  cases (s.crew x.crew).launch <;> rfl

end

/-! ## TRET (R327) -/

/-- A thread that no wait was interrupted in, back from its handler. -/
def returned (t : Thread) : Thread :=
  match t.resume with
  | some b => if BitVec.ofNat 32 b.pc = t.tpc then { t with tmaskM := false, resume := none, blocked := some b, pc := b.pc }
    else { t with tmaskM := false, resume := none, pc := t.tpc.toNat }
  | none => { t with tmaskM := false, pc := t.tpc.toNat }

/-- The crew after TRET. -/
def tretCrew (c : Crew) (x : Ctx) (a : Lanes) : Crew :=
  (c.mapLanes a fun _ t => returned t).mapLanes (x.lanes &&& ~~~a) fun _ t => { t with pc := x.next }

theorem hasLane_andnot (m a : Lanes) (l : Nat) : hasLane (m &&& ~~~a) l = (hasLane m l && !hasLane a l) := by
  have hnot : hasLane (~~~a) l = (decide (l < 64) && !hasLane a l) := BitVec.getLsbD_not
  rw [LaneSets.hasLane_and, hnot]
  cases hm : hasLane m l
  · rfl
  · rw [decide_eq_true (LaneSets.hasLane_lt hm), Bool.true_and]

theorem thread_tretCrew {c : Crew} {x : Ctx} {a : Lanes} {l : Nat} (hl : SMap.find? c.threads l ≠ none) :
    (tretCrew c x a).thread l =
      if hasLane a l then returned (c.thread l) else if hasLane x.lanes l then { c.thread l with pc := x.next } else c.thread l := by
  have hsome : (SMap.find? c.threads l).isSome = true := Option.isSome_iff_ne_none.mpr hl
  have hsome' : (SMap.find? (c.mapLanes a fun _ t => returned t).threads l).isSome = true := by
    rw [find?_mapLanes, Option.isSome_map, hsome]
  unfold tretCrew
  cases ha : hasLane a l
  · cases hx : hasLane x.lanes l
    · rw [thread_mapLanes_of_not (by rw [hasLane_andnot, hx]; rfl), thread_mapLanes_of_not ha]
      rfl
    · rw [thread_mapLanes_of_has (by rw [hasLane_andnot, hx, ha]; rfl) hsome', thread_mapLanes_of_not ha]
      rfl
  · rw [thread_mapLanes_of_not (by rw [hasLane_andnot, ha, Bool.not_true, Bool.and_false]), thread_mapLanes_of_has ha hsome, if_pos rfl]

theorem returned_of_none {t : Thread} (h : t.resume = none) : returned t = { t with tmaskM := false, pc := t.tpc.toNat } := by
  unfold returned
  rw [h]

/-- No thread whose wait ended leaves an arrival barrier. -/
theorem abLeave_zero (s : State) (k : Nat) : s.abLeave k 0 = s := by
  have hnil : lanesOf 0 = [] := by decide
  unfold State.abLeave
  rw [hnil]
  rfl

section

variable {s : State} {x : Ctx} {f : XF}

theorem exec_tret_returns (h : may s x (Instr.tret f).shape f = true)
    (hin : ∀ l, hasLane (act s x f) l = true → ((s.crew x.crew).thread l).tmaskM = true ∧ ((s.crew x.crew).thread l).resume = none)
    (hok : ∀ d, (s.crew x.crew).launch = some d → (s.launch d).failed = false) :
    exec (.tret f) s = .next (s.setCrew x.crew (tretCrew (s.crew x.crew) x (act s x f))).endIssue := by
  have e := exec_tret s f
  unfold execTret at e
  have hout : (laneSet fun l => hasLane (act s x f) l && !((s.crew x.crew).thread l).tmaskM) = 0 :=
    laneSet_eq_zero fun l hl => by rw [(hin l hl).1]; rfl
  refine exec_of_ok (t := s.setCrew x.crew (tretCrew (s.crew x.crew) x (act s x f))) h rfl e ((if_neg (Classical.not_not.mpr hout)).trans ?_)
  extract_lets gone s1 s2
  have hgone : gone = 0 := laneSet_eq_zero fun l hl => by
    rw [(hin l hl).2]
  have hs1 : s1 = s.setCrew x.crew ((s.crew x.crew).mapLanes (act s x f) fun _ t => returned t) := by
    subst s1
    rw [hgone, abLeave_zero]
    rfl
  have hs2 : s2 = s.setCrew x.crew (tretCrew (s.crew x.crew) x (act s x f)) := by
    subst s2
    rw [hs1, State.setPc, State.modCrew, State.crew_setCrew_self, State.setCrew_setCrew]
    rfl
  have hfailed : (match (s.crew x.crew).launch with
      | some d => (s.launch d).failed
      | none => false) = false := by
    cases hl : (s.crew x.crew).launch with
    | none => rfl
    | some d => exact hok d hl
  exact congrArg Except.ok ((if_neg (Bool.eq_false_iff.mp hfailed)).trans hs2)

end

/-- Settles O31: entry as in O54; the unhandled and the held trap by the cases of `take`; TRET by its crew. -/
theorem trapsEnterAndTretReturns : Obligations.TrapsEnterAndTretReturns := by
  unfold Obligations.TrapsEnterAndTretReturns
  refine ⟨⟨fun s x f => ?enters, fun s x f => ?stays⟩, fun s x f => ?tret⟩
  case enters =>
    intro c ac
    have spec (i : Instr) (cls : Nat) (e : exec i s = softTrap s i.shape f cls) (hcls : cls = 9 ∨ cls = 10) :=
      softTrap_enters_spec (s := s) (x := x) (i := i) (f := f) hcls e
    exact List.forall_mem_cons.mpr ⟨spec _ _ (exec_trap s f) (.inl rfl), List.forall_mem_singleton.mpr (spec _ _ (exec_bkpt s f) (.inr rfl))⟩
  case stays =>
    intro c ac
    have spec (i : Instr) (cls : Nat) (e : exec i s = softTrap s i.shape f cls) (hcls : cls = 9 ∨ cls = 10) (h : readyOut s x i.shape f = true) (hac : ac ≠ 0) :=
      And.intro (softTrap_unhandled hcls h hac e) fun hv hm hb => softTrap_held hcls h hac e hv hm hb
    exact List.forall_mem_cons.mpr ⟨spec _ _ (exec_trap s f) (.inl rfl), List.forall_mem_singleton.mpr (spec _ _ (exec_bkpt s f) (.inr rfl))⟩
  case tret =>
    intro c ac h
    refine ⟨fun hin hok => ?_, fun hout => ?_⟩
    · rw [List.all_eq_true] at hin
      have hin' : ∀ l, hasLane ac l = true → (c.thread l).tmaskM = true ∧ (c.thread l).resume = none := fun l hl => by
        simpa using hin l (mem_lanesOf.mpr hl)
      refine ⟨_, exec_tret_returns h hin' hok, crewOnly_set _ _ _, fun l hl => ?_⟩
      rw [State.crew_endIssue, State.crew_setCrew_self, thread_tretCrew hl]
      cases ha : hasLane ac l
      · rfl
      · rw [if_pos rfl, if_pos rfl, returned_of_none (hin' l ha).2]
    · have e := exec_tret s f
      unfold execTret at e
      exact exec_of_trap h rfl e (if_pos hout)

end Sys2Proof.Proofs.Traps
end

section
/-! PROOF. System instructions (R319 to R329): special registers (O29), the queue profile (O30) and ballast (O32). -/

namespace Sys2Proof.Proofs.SystemInstrs

open Sys2Proof.Machine Sys2Proof.Safety Sys2Proof.Proofs.Control Sys2Proof.Proofs.Waits Sys2Proof.Proofs.Loads

/-! ## Special registers (R319 to R324) -/

theorem lowLane_eq_none {m : Lanes} (h : lowLane m = none) : m = 0 := by
  rw [LaneSets.eq_zero_iff]
  intro l
  rw [Bool.eq_false_iff]
  intro hl
  have hmem := mem_lanesOf.mpr hl
  rw [List.head?_eq_none_iff.mp h] at hmem
  cases hmem

/-- The crew whose ports have been popped by an issue (R111). -/
theorem popped_of_zero {s : State} {x : Ctx} {i : Instr} {f : XF} (h : act s x f = 0) : popped s x i f = s.crew x.crew := by
  unfold popped State.popped
  rw [h, if_pos (.inl rfl)]

theorem popped_of_ne {s : State} {x : Ctx} {i : Instr} {f : XF} (h : act s x f ≠ 0) : popped s x i f = (s.crew x.crew).pop (popPorts i.shape f) (act s x f) := by
  unfold popped State.popped
  by_cases hp : popPorts i.shape f = []
  · rw [if_pos (.inr hp), hp]
    rfl
  · rw [if_neg (not_or.mpr ⟨h, hp⟩), State.modCrew, State.crew_setCrew_self]

theorem popped_eq_ite (s : State) (x : Ctx) (i : Instr) (f : XF) :
    popped s x i f = if act s x f = 0 then s.crew x.crew else (s.crew x.crew).pop (popPorts i.shape f) (act s x f) := by
  split
  · exact popped_of_zero ‹_›
  · exact popped_of_ne ‹_›

/-- What the source of CSRW, CSRS and CSRC holds in a lane. -/
def csrSrc (s : State) (x : Ctx) (f : XF) (l : Nat) : Nat := if f.imm then f.w2.toNat else fldA s x f (csrWide f.d.toNat) l

/-- The writable bits of the new value. -/
def csrVal (s : State) (x : Ctx) (f : XF) (op : Nat → Nat → Nat) (l : Nat) : Nat :=
  op (s.csrRead x.crew l f.d.toNat) (csrSrc s x f l) % 2 ^ 32 &&& csrMask f.d.toNat

theorem csrPerCrew_iff {n : Nat} : csrPerCrew n = true ↔ n = 0x10 ∨ n = 0x20 ∨ n = 0x31 ∨ n = 0x32 := by
  unfold csrPerCrew
  simp only [Bool.or_eq_true, decide_eq_true_eq, or_assoc]

theorem setCsr_tvec {c : Crew} {n v : Nat} (h : n = 0x10) : c.setCsr n v = { c with tvec := BitVec.ofNat 32 v } := by
  rw [h]
  rfl

theorem setCsr_fmode {c : Crew} {n v : Nat} (h : n = 0x20) : c.setCsr n v = { c with fmode := BitVec.ofNat 13 v } := by
  rw [h]
  rfl

theorem setCsr_ocnt {c : Crew} {n v : Nat} (h : n = 0x31) : c.setCsr n v = c := by
  rw [h]
  rfl

theorem leaves_csrChange {s : State} {x : Ctx} {i : Instr} {f : XF} {o : CsrOp} {op : Nat → Nat → Nat} (h : readyOut s x i.shape f = true)
    (e : exec i s = csrChange s i.shape f o) (hop : ∀ old v, o.apply old v = op old v) :
    Leaves s x i (goOnAll x (match lowLane (act s x f) with
      | none => popped s x i f
      | some l =>
        if f.d.toNat = 0x32 then { popped s x i f with errstat := errstatClear (s.crew x.crew).errstat (csrSrc s x f l) }
        else if f.d.toNat = 0x10 then { popped s x i f with tvec := BitVec.ofNat 32 (csrVal s x f op l) }
        else if f.d.toNat = 0x20 then { popped s x i f with fmode := BitVec.ofNat 13 (csrVal s x f op l) }
        else if f.d.toNat = 0x31 then popped s x i f
        else (popped s x i f).mapLanes (act s x f) fun l t => t.setCsr f.d.toNat (csrVal s x f op l))) := by
  unfold csrChange at e
  refine leaves_of_advance (exec_of_outside h rfl e (congrArg (fun c => Except.ok ((s.setCrew x.crew c).advance x)) ?_))
  have hval : ∀ l, csrNew f.d.toNat o (s.csrRead x.crew l f.d.toNat) (csrSrc s x f l) = csrVal s x f op l := fun l => by
    rw [csrNew, hop]
    rfl
  rw [popped_eq_ite]
  generalize (if act s x f = 0 then s.crew x.crew else (s.crew x.crew).pop (popPorts i.shape f) (act s x f)) = c
  cases hl : lowLane (act s x f) with
  | none =>
    have hzero : act s x f = 0 := lowLane_eq_none hl
    split
    · rfl
    · rw [hzero, mapLanes_zero]
  | some l =>
    dsimp only
    by_cases h32 : f.d.toNat = 0x32
    · rw [if_pos (csrPerCrew_iff.mpr (.inr (.inr (.inr h32)))), if_pos h32, if_pos h32]
      rfl
    rw [if_neg h32, if_neg h32]
    by_cases h10 : f.d.toNat = 0x10
    · rw [if_pos (csrPerCrew_iff.mpr (.inl h10)), if_pos h10, ← hval, setCsr_tvec h10]
      rfl
    rw [if_neg h10]
    by_cases h20 : f.d.toNat = 0x20
    · rw [if_pos (csrPerCrew_iff.mpr (.inr (.inl h20))), if_pos h20, ← hval, setCsr_fmode h20]
      rfl
    rw [if_neg h20]
    by_cases h31 : f.d.toNat = 0x31
    · rw [if_pos (csrPerCrew_iff.mpr (.inr (.inr (.inl h31)))), if_pos h31, setCsr_ocnt h31]
    · have hper : ¬csrPerCrew f.d.toNat = true := fun hper => by
        have := csrPerCrew_iff.mp hper
        omega
      rw [if_neg hper, if_neg h31]
      exact mapLanes_congr _ _ _ _ fun l t _ => congrArg (t.setCsr f.d.toNat) (hval l)

theorem leaves_mode {s : State} {x : Ctx} {f : XF} (h : may s x (Instr.mode f).shape f = true) :
    Leaves s x (.mode f) (goOnAll x { s.crew x.crew with fmode :=
      ((s.crew x.crew).fmode &&& ~~~(f.w2.extractLsb' 16 13 &&& 0x1F1F#13)) ||| (f.w2.extractLsb' 0 13 &&& (f.w2.extractLsb' 16 13 &&& 0x1F1F#13)) }) := by
  have e := exec_mode s f
  unfold execMode at e
  exact leaves_of_advance (exec_of_ok h rfl e rfl)

/-- Settles O29: the reads lane by lane, the three changes by one scheme. -/
theorem specialRegistersAreReadAndWritten : Obligations.SpecialRegistersAreReadAndWritten := by
  unfold Obligations.SpecialRegistersAreReadAndWritten
  intro s x f
  refine ⟨fun h => ?read, ?change, leaves_mode, fun h => writesD_of_lanewise _ h (exec_time s f) fun _ => rfl, fun h => ?energy⟩
  case read =>
    have e := exec_csrr s f
    unfold execCsrr at e
    rw [(may_iff.mp (ready_may h)).1] at e
    exact writesD_of_lanewise _ h e fun _ => rfl
  case energy =>
    have e := exec_enrg s f
    unfold execEnrg at e
    rw [(may_iff.mp (ready_may h)).1] at e
    exact writesD_of_lanewise _ h e fun _ => rfl
  case change =>
    refine List.forall_mem_cons.mpr ⟨fun h => leaves_csrChange h (exec_csrw s f) fun _ _ => rfl, List.forall_mem_cons.mpr
      ⟨fun h => leaves_csrChange h (exec_csrs s f) fun _ _ => rfl, List.forall_mem_singleton.mpr fun h => leaves_csrChange h (exec_csrc s f) fun _ _ => rfl⟩⟩

/-! ## The queue profile (R328, R329, R355) -/

/-- The values of the address registers of a queue-profile instruction of kind `kind`. -/
def frontA (s : State) (x : Ctx) (f : XF) : Nat :=
  ((s.crew x.crew).rdW ((s.crew x.crew).inHandler x.lanes) true f.a.toNat ((lowLane x.lanes).getD 0)).toNat
def frontB (s : State) (x : Ctx) (f : XF) (kind : Nat) : Nat :=
  if kind = 0 then ((s.crew x.crew).rdW ((s.crew x.crew).inHandler x.lanes) true f.b.toNat ((lowLane x.lanes).getD 0)).toNat else 0

/-- The destinations of a queue-profile instruction, and its crew with pushes entered. -/
def frontDests (s : State) (x : Ctx) (i : Instr) (f : XF) : Crew × List (Option Nat × Nat) :=
  (s.crew x.crew).destinations i.shape f x.pc (act s x f)
    (if f.sd then [(none, f.d.toNat)] else (lanesOf (act s x f)).map fun l => (some l, f.d.toNat))

/-- The crew with its operation. -/
def frontCrew (s : State) (x : Ctx) (i : Instr) (f : XF) (kind : Nat) : Crew :=
  (frontDests s x i f).1.addOp { id := 0, kind := .quote, cls := 6, pc := x.pc, lanes := act s x f, dests := (frontDests s x i f).2, fmt := kind,
                                 d := f.d.toNat, sd := f.sd, masked := (s.crew x.crew).inHandler x.lanes, issued := s.ctr }

/-- The request that the front end is handed. -/
def frontReq (s : State) (x : Ctx) (i : Instr) (f : XF) (kind : Nat) : FrontReq :=
  { id := (frontCrew s x i f kind).nextOp - 1, crew := x.crew, op := (frontCrew s x i f kind).nextOp - 1, lane := (lowLane x.lanes).getD 0, kind := kind,
    time := s.now, qid := if kind = 0 then 0 else BitVec.ofNat 64 (frontA s x f), req := if kind = 0 then frontA s x f else 0, recVa := frontB s x f kind }

section

variable {s : State} {x : Ctx} {i : Instr} {f : XF} {kind : Nat} {check : Nat → Nat → Nat → Option (Nat × Nat)}

theorem exec_front_illegal (h : may s x i.shape f = true) (e : exec i s = frontInstr s i.shape f kind check) (hq : (s.crew x.crew).queue = none) :
    exec i s = .next (s.raise x (act s x f) ⟨4, 0x10, act s x f, 0⟩) := by
  unfold frontInstr at e
  exact exec_of_trap h rfl e (if_pos (by rw [hq]; rfl))

/-- The state in which the front end holds the request. -/
def asked (s : State) (x : Ctx) (i : Instr) (f : XF) (kind : Nat) : State :=
  { s.setCrew x.crew ((frontCrew s x i f kind).markEmpty ((frontCrew s x i f kind).realDests ((s.crew x.crew).inHandler x.lanes) (frontDests s x i f).2)) with
    fr := { s.fr with reqs := s.fr.reqs ++ [frontReq s x i f kind] } }

theorem asked_spec : (((asked s x i f kind).advance x).endIssue).mem = s.mem ∧
    (((asked s x i f kind).advance x).endIssue).crew x.crew =
      goOnAll x ((frontCrew s x i f kind).markEmpty ((frontCrew s x i f kind).realDests ((s.crew x.crew).inHandler x.lanes) (frontDests s x i f).2)) ∧
    (((asked s x i f kind).advance x).endIssue).fr.reqs = s.fr.reqs ++ [frontReq s x i f kind] := by
  rw [State.advance_eq]
  have hself : (asked s x i f kind).crew x.crew =
      (frontCrew s x i f kind).markEmpty ((frontCrew s x i f kind).realDests ((s.crew x.crew).inHandler x.lanes) (frontDests s x i f).2) :=
    State.crew_setCrew_self _ _ _
  refine ⟨rfl, ?_, rfl⟩
  rw [State.crew_endIssue, State.crew_setCrew_self, hself]

theorem exec_front_asks (h : may s x i.shape f = true) (e : exec i s = frontInstr s i.shape f kind check) (hq : (s.crew x.crew).queue ≠ none)
    (hcheck : check x.crew (frontA s x f) (frontB s x f kind) = none) :
    ∃ t, exec i s = .next t ∧ t.mem = s.mem ∧
      t.crew x.crew = goOnAll x ((frontCrew s x i f kind).markEmpty ((frontCrew s x i f kind).realDests ((s.crew x.crew).inHandler x.lanes) (frontDests s x i f).2)) ∧
      t.fr.reqs = s.fr.reqs ++ [frontReq s x i f kind] := by
  unfold frontInstr at e
  have hq' : ¬(s.crew x.crew).queue.isNone = true := by
    rw [Option.isNone_iff_eq_none]
    exact hq
  refine ⟨_, exec_of_ok (t := (asked s x i f kind).advance x) h rfl e ((if_neg hq').trans ?_), asked_spec⟩
  erw [hcheck]
  rfl

end

/-- HALT ends the packet's crew, or is not a launch's to issue (R329). -/
theorem exec_halt_spec {s : State} {x : Ctx} {f : XF} (h : may s x (Instr.halt f).shape f = true) :
    ((s.crew x.crew).queue = none → exec (.halt f) s = .next (s.raise x (act s x f) ⟨4, 0x10, act s x f, 0⟩)) ∧
    ∀ q, (s.crew x.crew).queue = some q → exec (.halt f) s =
      .next ((((s.modQueue q fun u => { u with halting := some (1, f.w2.toNat % 65536) }).endLanes x.crew (s.crew x.crew).live).reap x.crew).endIssue) := by
  have e := exec_halt s f
  unfold execHalt at e
  refine ⟨fun hq => exec_of_trap h rfl e ?_, fun q hq => exec_of_ok h rfl e ?_⟩
  · dsimp only
    rw [hq]
    rfl
  · dsimp only
    rw [hq]
    rfl

/-- Settles O30: the three requests by one scheme, HALT by its two cases. -/
theorem queueProfileAsksTheFrontEnd : Obligations.QueueProfileAsksTheFrontEnd := by
  unfold Obligations.QueueProfileAsksTheFrontEnd
  intro s x f
  refine ⟨List.forall_mem_cons.mpr ⟨fun h => ⟨exec_front_illegal h (exec_quote s f), fun hq hc => exec_front_asks h (exec_quote s f) hq (hc rfl)⟩,
    List.forall_mem_cons.mpr ⟨fun h => ⟨exec_front_illegal h (exec_accept s f), fun hq _ => exec_front_asks h (exec_accept s f) hq rfl⟩,
    List.forall_mem_singleton.mpr fun h => ⟨exec_front_illegal h (exec_decline s f), fun hq _ => exec_front_asks h (exec_decline s f) hq rfl⟩⟩⟩,
    exec_halt_spec⟩

/-! ## Ballast (R326) -/

section

variable (s : State) (quad : Nat)

theorem modLaunch_mem (d : Nat) (g : Launch → Launch) : (s.modLaunch d g).mem = s.mem := by
  unfold State.modLaunch
  split <;> rfl

theorem meterBallast_mem : (s.meterBallast quad).mem = s.mem := by
  unfold State.meterBallast
  split
  · rfl
  · dsimp only
    split
    · rfl
    · exact modLaunch_mem _ _ _

/-- Ballast is set with its level, its beginning and its end. -/
theorem ballastOn_spec (k level dur : Nat) :
    (s.ballastOn k level dur).mem = s.mem ∧ (s.ballastOn k level dur).crew k = s.crew k ∧
    ∃ b, ((s.ballastOn k level dur).quad (quadOf k)).ballast = some b ∧ b.level = level ∧ b.crew = k ∧ b.since = s.now ∧
      b.endAt = s.now + s.clkNs (coreOf k) (16 * dur) := by
  have hcrew : ∀ {t : State}, Lives.SameCrews (s.meterBallast (quadOf k)) t → t.crew k = s.crew k := fun ht =>
    congrArg (fun m => SMap.get ({} : Crew) m k) ((Lives.sameCrews_meterBallast s (quadOf k)).trans ht)
  unfold State.ballastOn
  extract_lets quad core q b s1 cl
  have hb : (s1.quad quad).ballast = some b := by
    subst s1
    unfold State.modQuad
    rw [State.quad_setQuad_self]
  split
  · exact ⟨meterBallast_mem s _, hcrew (Lives.sameCrews_modQuad _ _ _), b, hb, rfl, rfl, rfl, rfl⟩
  · refine ⟨meterBallast_mem s _, hcrew rfl, b, ?_, rfl, rfl, rfl, rfl⟩
    unfold State.modQuad
    rw [State.quad_setQuad_self]
    exact hb

/-- Ballast ends. -/
theorem ballastOff_spec (k : Nat) :
    (s.ballastOff quad).mem = s.mem ∧ (s.ballastOff quad).crew k = s.crew k ∧ ((s.ballastOff quad).quad quad).ballast = none := by
  have hcrew : ∀ {t : State}, Lives.SameCrews (s.meterBallast quad) t → t.crew k = s.crew k := fun ht =>
    congrArg (fun m => SMap.get ({} : Crew) m k) ((Lives.sameCrews_meterBallast s quad).trans ht)
  unfold State.ballastOff
  extract_lets s1 q alone cl s2
  have hs2 : s2.mem = s1.mem ∧ Lives.SameCrews s1 s2 := by
    subst s2
    split
    · exact ⟨rfl, rfl⟩
    · exact ⟨rfl, rfl⟩
  refine ⟨hs2.1.trans (meterBallast_mem s quad), hcrew (hs2.2.trans rfl), ?_⟩
  unfold State.modQuad
  rw [State.quad_setQuad_self]

end

section

variable {s t : State} {x : Ctx}

/-- What an issue leaves that changes no crew before its group goes on. -/
theorem advance_spec (hm : t.mem = s.mem) (hc : t.crew x.crew = s.crew x.crew) :
    ((t.advance x).endIssue).mem = s.mem ∧ ((t.advance x).endIssue).crew x.crew = goOnAll x (s.crew x.crew) ∧
    ∀ q, ((t.advance x).endIssue).quad q = t.quad q := by
  rw [State.advance_eq]
  refine ⟨hm, ?_, fun _ => rfl⟩
  rw [State.crew_endIssue, State.crew_setCrew_self, hc]

end

/-- Settles O32: BLST.on, BLST.off of the block's own ballast, and of another's. -/
theorem ballastIsSetAndEnded : Obligations.BallastIsSetAndEnded := by
  unfold Obligations.BallastIsSetAndEnded
  intro s x f c quad h
  have e := exec_blst s f
  unfold execBlst at e
  refine ⟨fun hon => ?_, fun hoff hown => ?_, fun hoff hother => ?_⟩
  · obtain ⟨hm, hc, b, hb, hspec⟩ := ballastOn_spec s x.crew (bits f.w2.toNat 20 16) (bits f.w2.toNat 15 0)
    obtain ⟨hm', hc', hq⟩ := advance_spec hm hc
    exact ⟨_, exec_of_ok h rfl e (congrArg (fun t : State => Except.ok (t.advance x)) (if_pos hon)), hm', hc', b, (congrArg Quad.ballast (hq quad)).trans hb, hspec⟩
  · cases hb : (s.quad quad).ballast with
    | none =>
      obtain ⟨hm', hc', hq⟩ := advance_spec (s := s) (t := s) (x := x) rfl rfl
      refine ⟨_, exec_of_ok (t := s.advance x) h rfl e (congrArg (fun t : State => Except.ok (t.advance x)) ((if_neg hoff).trans ?_)), hm', hc',
        (congrArg Quad.ballast (hq quad)).trans hb⟩
      rw [hb]
    | some b =>
      obtain ⟨hm, hc, hnone⟩ := ballastOff_spec s quad x.crew
      obtain ⟨hm', hc', hq⟩ := advance_spec hm hc
      refine ⟨_, exec_of_ok (t := (s.ballastOff quad).advance x) h rfl e (congrArg (fun t : State => Except.ok (t.advance x)) ((if_neg hoff).trans ?_)), hm', hc',
        (congrArg Quad.ballast (hq quad)).trans hnone⟩
      rw [hb]
      exact if_pos (hown b hb)
  · refine leaves_of_advance_only (exec_of_ok h rfl e (congrArg (fun t : State => Except.ok (t.advance x)) ((if_neg hoff).trans ?_)))
    cases hb : (s.quad quad).ballast with
    | none => rfl
    | some b => exact if_neg (Bool.eq_false_iff.mp (hother b hb))

end Sys2Proof.Proofs.SystemInstrs
end

section
/-! PROOF. Speculative regions (R275 to R280): TRY, COMMIT and ABORT at issue (O33). -/

namespace Sys2Proof.Proofs.Regions

open Sys2Proof.Machine Sys2Proof.Safety Sys2Proof.Proofs.Control Sys2Proof.Proofs.Waits Sys2Proof.Proofs.Lives Sys2Proof.Proofs.Traps

/-! ## The region of a lane -/

section

variable {c : Crew} {i l : Nat} {m : Lanes} {r : Region}

/-- A lane that is inside a region has a thread. -/
theorem isSome_of_specAct (h : (c.thread l).specAct = true) : (SMap.find? c.threads l).isSome = true := by
  rw [thread_eq] at h
  cases hf : SMap.find? c.threads l with
  | none =>
    rw [hf] at h
    exact absurd h (by decide)
  | some t => rfl

/-- The threads of a change of lanes. -/
theorem thread_mapLanes_ite (hl : (SMap.find? c.threads l).isSome = true) (g : Nat → Thread → Thread) :
    (c.mapLanes m g).thread l = if hasLane m l then g l (c.thread l) else c.thread l := by
  cases hm : hasLane m l
  · exact thread_mapLanes_of_not hm g
  · exact thread_mapLanes_of_has hm hl g

/-- A field that a change of lanes keeps. -/
theorem thread_mapLanes_keeps {α : Type} (p : Thread → α) {g : Nat → Thread → Thread} (hg : ∀ l t, p (g l t) = p t) :
    p ((c.mapLanes m g).thread l) = p (c.thread l) := by
  rw [thread_mapLanes, thread_eq]
  cases SMap.find? c.threads l with
  | none => rfl
  | some t =>
    show p (if hasLane m l then g l t else t) = p t
    split
    · exact hg l t
    · rfl

theorem regionOf_eq (c : Crew) (l : Nat) : c.regionOf l =
    if !(c.thread l).specAct then none else if (c.thread l).specCrew then some (c.region.getD {}) else some ((c.thread l).region.getD {}) := rfl

theorem putRegion_of_crew (h : (c.thread i).specCrew = true) : c.putRegion i r = { c with region := some r } := if_pos h

theorem putRegion_of_lane (h : (c.thread i).specCrew = false) : c.putRegion i r = c.mapLanes (oneLane i) fun _ t => { t with region := some r } :=
  if_neg (Bool.eq_false_iff.mp h)

theorem regionOf_of_specAct (h : (c.thread l).specAct = true) :
    c.regionOf l = some (if (c.thread l).specCrew then c.region.getD {} else (c.thread l).region.getD {}) := by
  rw [regionOf_eq, h]
  cases (c.thread l).specCrew <;> rfl

theorem specAct_of_regionOf (h : c.regionOf l = some r) : (c.thread l).specAct = true := by
  refine Decidable.byContradiction fun hn => ?_
  rw [regionOf_eq, Bool.eq_false_iff.mpr hn] at h
  cases h

/-- Two crews agree on a lane's region where they agree on its SPEC and on the region's place. -/
theorem regionOf_congr {c' : Crew} (hs : (c'.thread l).spec = (c.thread l).spec) (hr : (c'.thread l).region = (c.thread l).region) (hc : c'.region = c.region) :
    c'.regionOf l = c.regionOf l := by
  rw [regionOf_eq, regionOf_eq, Thread.specAct, Thread.specAct, Thread.specCrew, Thread.specCrew, hs, hr, hc]

/-- Lanes that share one region: themselves, or both of the crew's. -/
def shares (c : Crew) (i l : Nat) : Prop := i = l ∨ (c.thread i).specCrew = true ∧ (c.thread l).specCrew = true

theorem spec_putRegion : ((c.putRegion i r).thread l).spec = (c.thread l).spec := by
  unfold Crew.putRegion
  split
  · rfl
  · exact thread_mapLanes_keeps Thread.spec fun _ _ => rfl

theorem blocked_putRegion : ((c.putRegion i r).thread l).blocked = (c.thread l).blocked := by
  unfold Crew.putRegion
  split
  · rfl
  · exact thread_mapLanes_keeps Thread.blocked fun _ _ => rfl

/-- Lanes that share a region have the same one. -/
theorem regionOf_eq_of_shares (hi : (c.thread i).specAct = true) (hl : (c.thread l).specAct = true) (h : shares c i l) : c.regionOf i = c.regionOf l := by
  rcases h with rfl | ⟨hci, hcl⟩
  · rfl
  · rw [regionOf_of_specAct hi, regionOf_of_specAct hl, hci, hcl]
    rfl

theorem regionOf_putRegion_of_shares (hi : (c.thread i).specAct = true) (hi64 : i < 64) (hl : (c.thread l).specAct = true) (h : shares c i l) :
    (c.putRegion i r).regionOf l = some r := by
  have hl' : ((c.putRegion i r).thread l).specAct = true := by
    rw [Thread.specAct, spec_putRegion]
    exact hl
  rw [regionOf_of_specAct hl', Thread.specCrew, spec_putRegion]
  change some (if (c.thread l).specCrew then _ else _) = _
  cases hci : (c.thread i).specCrew
  · have hil : i = l := h.resolve_right fun hc => by simp [hci] at hc
    subst hil
    have hone : hasLane (oneLane i) i = true := by rw [Machine.hasLane_oneLane _ _ hi64, decide_eq_true rfl]
    rw [hci, if_neg Bool.false_ne_true, putRegion_of_lane hci, thread_mapLanes_of_has hone (isSome_of_specAct hi)]
    rfl
  · have hcl : (c.thread l).specCrew = true := by
      rcases h with rfl | ⟨_, hcl⟩
      · exact hci
      · exact hcl
    rw [hcl, putRegion_of_crew hci]
    rfl

theorem regionOf_putRegion_of_not (hi64 : i < 64) (h : ¬shares c i l) : (c.putRegion i r).regionOf l = c.regionOf l := by
  unfold shares at h
  rw [not_or, not_and] at h
  cases hci : (c.thread i).specCrew
  · have hone : hasLane (oneLane i) l = false := by rw [Machine.hasLane_oneLane _ _ hi64, decide_eq_false (Ne.symm h.1)]
    rw [putRegion_of_lane hci]
    refine regionOf_congr ?_ ?_ rfl
    · rw [thread_mapLanes_of_not hone]
    · rw [thread_mapLanes_of_not hone]
  · rw [putRegion_of_crew hci, regionOf_eq, regionOf_eq]
    change (if (!(c.thread l).specAct) = true then none else if (c.thread l).specCrew = true then _ else _) = _
    rw [Bool.eq_false_iff.mpr (h.2 hci)]
    rfl

end

/-! ## The beginning of an abort (R277, R279) -/

/-- The region whose abort with the codes `q` lane `i` begins: one that is decided, or aborts already, stays. -/
def abortedBy (i : Nat) (q : Nat × Nat × Nat × Nat) (r : Region) : Region :=
  if r.decided.isSome then r else if r.abort.isNone then { r with abort := some q, trap := none, trapLanes := oneLane i, asked := 0 } else r

/-- The crew whose lane `i` has begun to abort the region `r`. -/
def aborting (c : Crew) (i : Nat) (q : Nat × Nat × Nat × Nat) (r : Region) : Crew :=
  (c.putRegion i (abortedBy i q r)).mapLanes (c.members i) fun _ t => { t with blocked := some { kind := .abort, pc := t.pc, nextPc := t.pc } }

section

variable (s : State) (k i code user tcls detail : Nat)

theorem beginAbort_of_none (h : (s.crew k).regionOf i = none) : s.beginAbort k i code user tcls detail none = s := by
  unfold State.beginAbort
  dsimp only
  rw [h]

theorem beginAbort_of_decided {r : Region} (h : (s.crew k).regionOf i = some r) (hd : r.decided.isSome = true) :
    s.beginAbort k i code user tcls detail none = s := by
  unfold State.beginAbort
  dsimp only
  rw [h]
  exact if_pos hd

theorem beginAbort_of_open {r : Region} (h : (s.crew k).regionOf i = some r) (hd : r.decided.isSome = false) :
    s.beginAbort k i code user tcls detail none = s.setCrew k (aborting (s.crew k) i (code, user, tcls, detail) r) := by
  unfold State.beginAbort
  dsimp only
  rw [h]
  refine (if_neg (Bool.eq_false_iff.mp hd)).trans ?_
  unfold aborting abortedBy
  rw [hd]
  rfl

/-- What the beginning of an abort leaves: memory and every SPEC are as they were, and the regions are those of the lanes that share lane `i`'s. -/
theorem beginAbort_spec (hi64 : i < 64) :
    (s.beginAbort k i code user tcls detail none).mem = s.mem ∧
    ∀ l, (((s.beginAbort k i code user tcls detail none).crew k).thread l).spec = ((s.crew k).thread l).spec ∧
      (((s.crew k).thread i).specAct = true → ((s.crew k).thread l).specAct = true →
        (shares (s.crew k) i l → ((s.beginAbort k i code user tcls detail none).crew k).regionOf l =
          ((s.crew k).regionOf l).map (abortedBy i (code, user, tcls, detail))) ∧
        (¬shares (s.crew k) i l → ((s.beginAbort k i code user tcls detail none).crew k).regionOf l = (s.crew k).regionOf l)) := by
  cases hr : (s.crew k).regionOf i with
  | none =>
    rw [beginAbort_of_none s k i code user tcls detail hr]
    exact ⟨rfl, fun l => ⟨rfl, fun hi => absurd ((regionOf_of_specAct hi).symm.trans hr) (Option.some_ne_none _)⟩⟩
  | some r =>
    cases hd : r.decided.isSome
    · rw [beginAbort_of_open s k i code user tcls detail hr hd]
      refine ⟨rfl, fun l => ?_⟩
      rw [State.crew_setCrew_self]
      have hspec : ((aborting (s.crew k) i (code, user, tcls, detail) r).thread l).spec = ((s.crew k).thread l).spec := by
        unfold aborting
        refine (thread_mapLanes_keeps Thread.spec ?_).trans spec_putRegion
        exact fun _ _ => rfl
      have hsame : (aborting (s.crew k) i (code, user, tcls, detail) r).regionOf l =
          ((s.crew k).putRegion i (abortedBy i (code, user, tcls, detail) r)).regionOf l :=
        regionOf_congr (thread_mapLanes_keeps Thread.spec fun _ _ => rfl) (thread_mapLanes_keeps Thread.region fun _ _ => rfl) rfl
      refine ⟨hspec, fun hi hl => ⟨fun hs => ?_, fun hs => ?_⟩⟩
      · rw [hsame, regionOf_putRegion_of_shares hi hi64 hl hs, ← regionOf_eq_of_shares hi hl hs, hr]
        rfl
      · rw [hsame, regionOf_putRegion_of_not hi64 hs]
    · rw [beginAbort_of_decided s k i code user tcls detail hr hd]
      refine ⟨rfl, fun l => ⟨rfl, fun hi hl => ⟨fun hs => ?_, fun _ => rfl⟩⟩⟩
      rw [← regionOf_eq_of_shares hi hl hs, hr, Option.map_some, abortedBy, if_pos hd]

end

/-- Lane `l`'s region, not decided, aborts with the codes `q`, or does not abort yet. -/
def Abortable (c : Crew) (q : Nat × Nat × Nat × Nat) (l : Nat) : Prop :=
  ∃ r, c.regionOf l = some r ∧ r.decided = none ∧ (r.abort = none ∨ r.abort = some q)

def Aborts (c : Crew) (q : Nat × Nat × Nat × Nat) (l : Nat) : Prop := ∃ r, c.regionOf l = some r ∧ r.decided = none ∧ r.abort = some q

theorem Aborts.abortable {c : Crew} {q : Nat × Nat × Nat × Nat} {l : Nat} (h : Aborts c q l) : Abortable c q l := by
  obtain ⟨r, hr, hd, ha⟩ := h
  exact ⟨r, hr, hd, .inr ha⟩

section

variable {k l code user tcls detail : Nat}

/-- One lane more begins its abort. -/
theorem abort_step (s : State) (i : Nat) (hi64 : i < 64) (hi : ((s.crew k).thread i).specAct = true) (h : Abortable (s.crew k) (code, user, tcls, detail) l) :
    Abortable ((s.beginAbort k i code user tcls detail none).crew k) (code, user, tcls, detail) l ∧
    (shares (s.crew k) i l ∨ Aborts (s.crew k) (code, user, tcls, detail) l →
      Aborts ((s.beginAbort k i code user tcls detail none).crew k) (code, user, tcls, detail) l) := by
  obtain ⟨r, hr, hd, ha⟩ := h
  obtain ⟨_, hstep⟩ := beginAbort_spec s k i code user tcls detail hi64
  obtain ⟨hshare, hnot⟩ := (hstep l).2 hi (specAct_of_regionOf hr)
  by_cases hs : shares (s.crew k) i l
  · have haborts : Aborts ((s.beginAbort k i code user tcls detail none).crew k) (code, user, tcls, detail) l := by
      refine ⟨_, (hshare hs).trans (by rw [hr]; rfl), ?_⟩
      unfold abortedBy
      rw [hd, if_neg (by decide)]
      rcases ha with ha | ha
      · rw [ha, if_pos Option.isNone_none]
        exact ⟨rfl, rfl⟩
      · rw [ha, if_neg (by simp)]
        exact ⟨hd, ha⟩
    exact ⟨haborts.abortable, fun _ => haborts⟩
  · refine ⟨⟨r, (hnot hs).trans hr, hd, ha⟩, fun h => ?_⟩
    obtain ⟨r', hr', hd', ha'⟩ := h.resolve_left hs
    exact ⟨r', (hnot hs).trans hr', hd', ha'⟩

/-- All lanes of a list begin their abort. -/
theorem abort_all (ls : List Nat) (s : State) (h64 : ∀ i ∈ ls, i < 64) (hin : ∀ i ∈ ls, ((s.crew k).thread i).specAct = true) :
    (ls.foldl (fun s i => s.beginAbort k i code user tcls detail none) s).mem = s.mem ∧
    (Abortable (s.crew k) (code, user, tcls, detail) l → l ∈ ls ∨ Aborts (s.crew k) (code, user, tcls, detail) l →
      Aborts ((ls.foldl (fun s i => s.beginAbort k i code user tcls detail none) s).crew k) (code, user, tcls, detail) l) := by
  induction ls generalizing s with
  | nil => exact ⟨rfl, fun _ h => h.resolve_left (List.not_mem_nil)⟩
  | cons i rest ih =>
    have hi := h64 i (List.mem_cons_self ..)
    obtain ⟨hmem, hstep⟩ := beginAbort_spec s k i code user tcls detail hi
    have hin' : ∀ j ∈ rest, (((s.beginAbort k i code user tcls detail none).crew k).thread j).specAct = true := fun j hj => by
      rw [Thread.specAct, (hstep j).1]
      exact hin j (List.mem_cons_of_mem _ hj)
    obtain ⟨hmem', hall⟩ := ih (s.beginAbort k i code user tcls detail none) (fun j hj => h64 j (List.mem_cons_of_mem _ hj)) hin'
    refine ⟨hmem'.trans hmem, fun hab hl => ?_⟩
    obtain ⟨hab', hdone⟩ := abort_step s i hi (hin i (List.mem_cons_self ..)) hab
    refine hall hab' ?_
    rcases hl with hl | hl
    · rcases List.mem_cons.mp hl with rfl | hl
      · exact .inr (hdone (.inl (.inl rfl)))
      · exact .inl hl
    · exact .inr (hdone (.inr hl))

end

/-! ## TRY (R276) -/

/-- The active lanes of a TRY that nest too deep, that go a level deeper, and that enter. -/
def tryNest (c : Crew) (a : Lanes) (cr : Bool) : Lanes :=
  laneSet fun l => hasLane a l && (c.thread l).specAct && ((c.thread l).specCrew != cr || decide ((c.thread l).specDepth = 4))
def tryDeeper (c : Crew) (a : Lanes) (cr : Bool) : Lanes := laneSet fun l => hasLane a l && (c.thread l).specAct && !hasLane (tryNest c a cr) l
def tryFresh (c : Crew) (a : Lanes) : Lanes := laneSet fun l => hasLane a l && !(c.thread l).specAct

/-- The members of the crew's region that stand outside the lanes that enter. -/
def tryOthers (c : Crew) (fresh : Lanes) : Lanes := c.allMembers (c.live &&& ~~~fresh) &&& laneSet fun l => (c.thread l).specAct && (c.thread l).specCrew

/-- A thread that enters a region. -/
def entersRegion (cr : Bool) (n target : Nat) (t : Thread) : Thread :=
  { t with spec := enterSpec t.spec cr, ckpt := some (t.checkpoint n target), region := if cr then none else some {} }

/-- The crew of a TRY: its lanes `deeper` count a level more, its lanes `fresh` enter. -/
def tryLanes (c : Crew) (cr : Bool) (n target : Nat) (fresh deeper : Lanes) : Crew :=
  (c.mapLanes deeper fun _ t => { t with spec := withDepth t.spec (t.specDepth + 1) }).mapLanes fresh fun _ t => entersRegion cr n target t

def tryCrew (c : Crew) (cr : Bool) (n target : Nat) (fresh deeper : Lanes) : Crew :=
  if cr && decide (fresh ≠ 0) && decide (tryOthers c fresh = 0) then { tryLanes c cr n target fresh deeper with region := some {} }
  else tryLanes c cr n target fresh deeper

section

variable {s : State} {x : Ctx} {f : XF}

theorem exec_try (h : may s x (Instr.tryRegion f).shape f = true) (hn : 16 * f.c.toNat ≤ (s.crew x.crew).nregs) {fresh deeper nest : Lanes}
    (hnest : tryNest (s.crew x.crew) (act s x f) (decide (f.vN = 1)) = nest) (hdeeper : tryDeeper (s.crew x.crew) (act s x f) (decide (f.vN = 1)) = deeper)
    (hfresh : tryFresh (s.crew x.crew) (act s x f) = fresh)
    (hlow : ((lanesOf fresh).any fun l => (List.range (16 * f.c.toNat)).any fun r => ((s.crew x.crew).thread l).vE.getLsbD r) = false)
    (hpred : (s.crew x.crew).predsPend fresh (List.range 7) = false) :
    exec (.tryRegion f) s = .next ((lanesOf nest).foldl (fun s l => s.beginAbort x.crew l 4 0 0 0 none)
      (s.setCrew x.crew ((tryCrew (s.crew x.crew) (decide (f.vN = 1)) (16 * f.c.toNat) (wrapInt 32 (x.pc + f.w2.toInt)) fresh deeper).mapLanes
        (x.lanes &&& ~~~nest) fun _ t => { t with pc := x.next }))).endIssue := by
  have e := exec_tryRegion s f
  unfold execTryRegion at e
  refine exec_of_ok h rfl e ((if_neg (Nat.not_lt.mpr hn)).trans ?_)
  subst hnest hdeeper hfresh
  refine (if_neg ?_).trans (congrArg (fun t : State => Except.ok (List.foldl _ t _)) ?_)
  · exact Bool.eq_false_iff.mp ((Bool.or_eq_false_iff ..).mpr ⟨hlow, hpred⟩)
  · unfold State.setPc State.modCrew
    rw [State.crew_setCrew_self, State.setCrew_setCrew]
    rfl

end

section

variable {c : Crew} {a : Lanes} {cr : Bool}

theorem hasLane_tryNest (l : Nat) : hasLane (tryNest c a cr) l =
    (hasLane a l && ((c.thread l).specAct && ((c.thread l).specCrew != cr || decide ((c.thread l).specDepth = 4)))) := by
  unfold tryNest
  simp only [Bool.and_assoc]
  exact LaneSets.hasLane_laneSet_and a _ l

theorem hasLane_tryDeeper (l : Nat) : hasLane (tryDeeper c a cr) l = (hasLane a l && ((c.thread l).specAct && !hasLane (tryNest c a cr) l)) := by
  unfold tryDeeper
  simp only [Bool.and_assoc]
  exact LaneSets.hasLane_laneSet_and a _ l

theorem hasLane_tryFresh (l : Nat) : hasLane (tryFresh c a) l = (hasLane a l && !(c.thread l).specAct) := LaneSets.hasLane_laneSet_and a _ l

/-- Outside regions every active lane enters. -/
theorem try_outside (h : ∀ l, hasLane a l = true → (c.thread l).specAct = false) : tryNest c a cr = 0 ∧ tryDeeper c a cr = 0 ∧ tryFresh c a = a := by
  refine ⟨LaneSets.eq_zero_iff.mpr fun l => ?_, LaneSets.eq_zero_iff.mpr fun l => ?_, LaneSets.eq_of_hasLane fun l => ?_⟩
  · rw [hasLane_tryNest]
    cases ha : hasLane a l
    · rfl
    · rw [h l ha]
      rfl
  · rw [hasLane_tryDeeper]
    cases ha : hasLane a l
    · rfl
    · rw [h l ha]
      rfl
  · rw [hasLane_tryFresh]
    cases ha : hasLane a l
    · rfl
    · rw [h l ha]
      rfl

/-- Inside regions no lane enters. -/
theorem tryFresh_inside (h : ∀ l, hasLane a l = true → (c.thread l).specAct = true) : tryFresh c a = 0 := LaneSets.eq_zero_iff.mpr fun l => by
  rw [hasLane_tryFresh]
  cases ha : hasLane a l
  · rfl
  · rw [h l ha]
    rfl

/-- Inside regions of the TRY's kind, not at level 4, every active lane goes a level deeper. -/
theorem try_deeper (h : ∀ l, hasLane a l = true → (c.thread l).specAct = true ∧ (c.thread l).specCrew = cr ∧ (c.thread l).specDepth ≠ 4) :
    tryNest c a cr = 0 ∧ tryDeeper c a cr = a := by
  have hnest : tryNest c a cr = 0 := LaneSets.eq_zero_iff.mpr fun l => by
    rw [hasLane_tryNest]
    cases ha : hasLane a l
    · rfl
    · obtain ⟨hin, hkind, hdepth⟩ := h l ha
      rw [hin, hkind, decide_eq_false hdepth, bne_self_eq_false]
      rfl
  refine ⟨hnest, LaneSets.eq_of_hasLane fun l => ?_⟩
  rw [hasLane_tryDeeper, hnest]
  cases ha : hasLane a l
  · rfl
  · rw [(h l ha).1, show hasLane 0 l = false from LaneSets.hasLane_zero l]
    rfl

/-- Inside regions of the other kind, or at level 4, every active lane nests too deep. -/
theorem try_nest (h : ∀ l, hasLane a l = true → (c.thread l).specAct = true ∧ ((c.thread l).specCrew ≠ cr ∨ (c.thread l).specDepth = 4)) :
    tryNest c a cr = a ∧ tryDeeper c a cr = 0 := by
  have hnest : tryNest c a cr = a := LaneSets.eq_of_hasLane fun l => by
    rw [hasLane_tryNest]
    cases ha : hasLane a l
    · rfl
    · obtain ⟨hin, hbad⟩ := h l ha
      rw [hin, Bool.true_and, Bool.true_and, Bool.or_eq_true, bne_iff_ne, decide_eq_true_iff]
      exact hbad
  refine ⟨hnest, LaneSets.eq_zero_iff.mpr fun l => ?_⟩
  rw [hasLane_tryDeeper, hnest]
  cases hasLane a l
  · rfl
  · rw [Bool.not_true, Bool.and_false, Bool.and_false]

/-- Where no live lane stands in the crew's region it has no other member. -/
theorem tryOthers_zero (h : ∀ l, hasLane c.live l = true → ((c.thread l).specAct && (c.thread l).specCrew) = false) (fresh : Lanes) : tryOthers c fresh = 0 := by
  have hself : ∀ i, hasLane c.live i = true → c.members i = oneLane i := fun i hi => by
    unfold Crew.members
    rw [h i hi]
    rfl
  have hlive : ∀ i, hasLane (c.live &&& ~~~fresh) i = true → hasLane c.live i = true := fun i hi => by
    rw [hasLane_andnot, Bool.and_eq_true] at hi
    exact hi.1
  rw [LaneSets.eq_zero_iff]
  intro l
  unfold tryOthers Crew.allMembers
  rw [LaneSets.hasLane_and, LaneSets.hasLane_union, show hasLane 0 l = false from LaneSets.hasLane_zero l, Bool.false_or, LaneSets.hasLane_laneSet, Bool.and_eq_false_iff]
  by_cases hl : hasLane c.live l = true
  · exact .inr (by rw [h l hl, Bool.and_false])
  · refine .inl (List.any_eq_false.mpr fun i hi => ?_)
    have hi' := hlive i (mem_lanesOf.mp hi)
    rw [hself i hi', Machine.hasLane_oneLane _ _ (LaneSets.hasLane_lt hi'), decide_eq_true_iff]
    rintro rfl
    exact hl hi'

end

theorem lanesOf_zero : lanesOf 0 = [] := by decide

theorem andnot_zero (m : Lanes) : m &&& ~~~0 = m := LaneSets.eq_of_hasLane fun l => by
  rw [hasLane_andnot, show hasLane 0 l = false from LaneSets.hasLane_zero l, Bool.not_false, Bool.and_true]

theorem predsPend_zero (c : Crew) (ps : List Nat) : c.predsPend 0 ps = false := by
  unfold Crew.predsPend
  refine List.any_eq_false.mpr fun o _ => ?_
  have haccs : (o.accs.any fun a => decide (a.stage < 2) && if o.sd then decide (0 &&& o.lanes ≠ 0) else hasLane 0 a.lane) = false := by
    refine List.any_eq_false.mpr fun a _ => ?_
    rw [show hasLane 0 a.lane = false from LaneSets.hasLane_zero _, show (0 : Lanes) &&& o.lanes = 0 from BitVec.zero_and]
    simp
  rw [Op.predPends, haccs, Bool.and_false]
  exact Bool.false_ne_true

section

variable {s : State} {x : Ctx} {f : XF}

theorem threads_tryCrew (c : Crew) (cr : Bool) (n target : Nat) (fresh deeper : Lanes) :
    (tryCrew c cr n target fresh deeper).threads = (tryLanes c cr n target fresh deeper).threads := by
  unfold tryCrew
  split <;> rfl

/-- The threads of a TRY that nests nowhere. -/
theorem thread_tryCrew {c : Crew} {l : Nat} (hl : SMap.find? c.threads l ≠ none) (cr : Bool) (n target pc : Nat) (fresh deeper m : Lanes) :
    ((tryCrew c cr n target fresh deeper).mapLanes m fun _ t => { t with pc := pc }).thread l =
      (let t := if hasLane deeper l then { c.thread l with spec := withDepth (c.thread l).spec ((c.thread l).specDepth + 1) } else c.thread l
       let u := if hasLane fresh l then entersRegion cr n target t else t
       if hasLane m l then { u with pc := pc } else u) := by
  have hsome : (SMap.find? c.threads l).isSome = true := Option.isSome_iff_ne_none.mpr hl
  have hthread : (tryCrew c cr n target fresh deeper).thread l = (tryLanes c cr n target fresh deeper).thread l := by
    unfold Crew.thread
    rw [threads_tryCrew]
  have hdeeper : (SMap.find? (c.mapLanes deeper fun _ t => { t with spec := withDepth t.spec (t.specDepth + 1) }).threads l).isSome = true := by
    rw [find?_mapLanes, Option.isSome_map, hsome]
  have htry : (SMap.find? (tryCrew c cr n target fresh deeper).threads l).isSome = true := by
    rw [threads_tryCrew, tryLanes, find?_mapLanes, Option.isSome_map, hdeeper]
  rw [thread_mapLanes_ite htry, hthread, tryLanes, thread_mapLanes_ite hdeeper, thread_mapLanes_ite hsome]

/-- The threads of a TRY outside regions. -/
theorem thread_try_enters {c : Crew} {l : Nat} {m : Lanes} (hl : SMap.find? c.threads l ≠ none) (cr : Bool) (n target pc : Nat) (a : Lanes) (hm : hasLane m l = true) :
    ((tryCrew c cr n target a 0).mapLanes m fun _ t => { t with pc := pc }).thread l =
      if hasLane a l then
        { c.thread l with
          pc := pc, spec := enterSpec (c.thread l).spec cr, ckpt := some ((c.thread l).checkpoint n target)
          region := if cr then none else some {} }
      else { c.thread l with pc := pc } := by
  rw [thread_tryCrew hl, show hasLane 0 l = false from LaneSets.hasLane_zero l, hm]
  generalize c.thread l = t
  dsimp only
  rw [if_neg Bool.false_ne_true, if_pos rfl]
  cases hasLane a l
  · rw [if_neg Bool.false_ne_true, if_neg Bool.false_ne_true]
  · rw [if_pos rfl, if_pos rfl, entersRegion]

/-- The threads of a TRY a level deeper. -/
theorem thread_try_deeper {c : Crew} {l : Nat} {m : Lanes} (hl : SMap.find? c.threads l ≠ none) (cr : Bool) (n target pc : Nat) (a : Lanes) (hm : hasLane m l = true) :
    ((tryCrew c cr n target 0 a).mapLanes m fun _ t => { t with pc := pc }).thread l =
      if hasLane a l then { c.thread l with pc := pc, spec := withDepth (c.thread l).spec ((c.thread l).specDepth + 1) } else { c.thread l with pc := pc } := by
  rw [thread_tryCrew hl, show hasLane 0 l = false from LaneSets.hasLane_zero l, hm]
  generalize c.thread l = t
  dsimp only
  rw [if_neg Bool.false_ne_true, if_pos rfl]
  cases hasLane a l
  · rw [if_neg Bool.false_ne_true, if_neg Bool.false_ne_true]
  · rw [if_pos rfl, if_pos rfl]

/-- The threads of a COMMIT of an inner level. -/
theorem thread_commit_inner {c : Crew} {l : Nat} {m : Lanes} (hl : SMap.find? c.threads l ≠ none) (pc : Nat) (a : Lanes) (hm : hasLane m l = true) :
    ((c.mapLanes m fun _ t => { t with pc := pc }).mapLanes a fun _ t => { t with spec := withDepth t.spec (t.specDepth - 1) }).thread l =
      if hasLane a l then { c.thread l with pc := pc, spec := withDepth (c.thread l).spec ((c.thread l).specDepth - 1) } else { c.thread l with pc := pc } := by
  have hsome : (SMap.find? c.threads l).isSome = true := Option.isSome_iff_ne_none.mpr hl
  rw [thread_mapLanes_ite (by rw [find?_mapLanes, Option.isSome_map]; exact hsome), thread_mapLanes_of_has hm hsome]
  generalize c.thread l = t
  cases hasLane a l <;> rfl

/-- TRY outside regions. -/
theorem try_enters (h : may s x (Instr.tryRegion f).shape f = true) (hn : 16 * f.c.toNat ≤ (s.crew x.crew).nregs)
    (hout : ∀ l, hasLane (act s x f) l = true → ((s.crew x.crew).thread l).specAct = false)
    (hlow : ((lanesOf (act s x f)).any fun l => (List.range (16 * f.c.toNat)).any fun r => ((s.crew x.crew).thread l).vE.getLsbD r) = false)
    (hpred : (s.crew x.crew).predsPend (act s x f) (List.range 7) = false) :
    exec (.tryRegion f) s = .next (s.setCrew x.crew ((tryCrew (s.crew x.crew) (decide (f.vN = 1)) (16 * f.c.toNat) (wrapInt 32 (x.pc + f.w2.toInt))
      (act s x f) 0).mapLanes x.lanes fun _ t => { t with pc := x.next })).endIssue := by
  obtain ⟨hnest, hdeeper, hfresh⟩ := try_outside (cr := decide (f.vN = 1)) hout
  rw [exec_try h hn hnest hdeeper hfresh hlow hpred, lanesOf_zero, List.foldl_nil, andnot_zero]

/-- TRY inside regions of its kind. -/
theorem try_goes_deeper (h : may s x (Instr.tryRegion f).shape f = true) (hn : 16 * f.c.toNat ≤ (s.crew x.crew).nregs)
    (hin : ∀ l, hasLane (act s x f) l = true → ((s.crew x.crew).thread l).specAct = true ∧ ((s.crew x.crew).thread l).specCrew = decide (f.vN = 1) ∧
      ((s.crew x.crew).thread l).specDepth ≠ 4) :
    exec (.tryRegion f) s = .next (s.setCrew x.crew ((tryCrew (s.crew x.crew) (decide (f.vN = 1)) (16 * f.c.toNat) (wrapInt 32 (x.pc + f.w2.toInt))
      0 (act s x f)).mapLanes x.lanes fun _ t => { t with pc := x.next })).endIssue := by
  obtain ⟨hnest, hdeeper⟩ := try_deeper hin
  rw [exec_try h hn hnest hdeeper (tryFresh_inside fun l hl => (hin l hl).1) (by rw [lanesOf_zero]; rfl) (predsPend_zero _ _), lanesOf_zero, List.foldl_nil,
    andnot_zero]

/-- TRY inside regions of the other kind, or at level 4. -/
theorem try_nests (h : may s x (Instr.tryRegion f).shape f = true) (hn : 16 * f.c.toNat ≤ (s.crew x.crew).nregs)
    (hin : ∀ l, hasLane (act s x f) l = true → ((s.crew x.crew).thread l).specAct = true ∧
      (((s.crew x.crew).thread l).specCrew ≠ decide (f.vN = 1) ∨ ((s.crew x.crew).thread l).specDepth = 4)) :
    exec (.tryRegion f) s = .next ((lanesOf (act s x f)).foldl (fun s l => s.beginAbort x.crew l 4 0 0 0 none)
      (s.setCrew x.crew ((s.crew x.crew).mapLanes (x.lanes &&& ~~~act s x f) fun _ t => { t with pc := x.next }))).endIssue := by
  obtain ⟨hnest, hdeeper⟩ := try_nest hin
  have hcrew : ∀ (c : Crew) cr n target, tryCrew c cr n target 0 0 = c := fun c cr n target => by
    unfold tryCrew tryLanes
    rw [mapLanes_zero, mapLanes_zero, decide_eq_false (Classical.not_not.mpr rfl), Bool.and_false, Bool.false_and]
    rfl
  rw [exec_try h hn hnest hdeeper (tryFresh_inside fun l hl => (hin l hl).1) (by rw [lanesOf_zero]; rfl) (predsPend_zero _ _), hcrew]

end

/-! ## COMMIT at issue (R278) -/

/-- The active lanes of a COMMIT at an inner level. -/
def commitInner (c : Crew) (a : Lanes) : Lanes := laneSet fun l => hasLane a l && decide (1 < (c.thread l).specDepth)

/-- A thread that waits for its COMMIT. -/
def awaitsCommit (x : Ctx) (outer : Lanes) (t : Thread) : Thread :=
  { t with blocked := some { kind := .commit, lanes := outer, pc := x.pc, nextPc := (State.after x t).1, rep := (State.after x t).2 } }

/-- The crew of a COMMIT: its lanes `inner` count a level less, its lanes `outer` wait. -/
def commitCrew (c : Crew) (x : Ctx) (inner outer : Lanes) : Crew :=
  ((c.mapLanes (x.lanes &&& ~~~outer) fun _ t => { t with pc := x.next }).mapLanes inner fun _ t =>
    { t with spec := withDepth t.spec (t.specDepth - 1) }).mapLanes outer fun _ t => awaitsCommit x outer t

/-- The lowest lanes, among those that commit, of each region. -/
def commitHeads (c : Crew) (outer : Lanes) : List Nat := (lanesOf outer).filter fun l => decide (lowLane (c.members l &&& outer) = some l)

section

variable {s : State} {x : Ctx} {f : XF}

theorem exec_commit_eq (h : may s x (Instr.commit f).shape f = true) {inner outer : Lanes}
    (hin : ∀ l, hasLane (act s x f) l = true → ((s.crew x.crew).thread l).specAct = true)
    (hinner : commitInner (s.crew x.crew) (act s x f) = inner) (houter : act s x f &&& ~~~inner = outer)
    (hbusy : (s.crew x.crew).regionBusy ((s.crew x.crew).allMembers outer) = false) (hchecks : (s.crew x.crew).openChecks (act s x f) = false) :
    exec (.commit f) s = .next ((commitHeads (s.crew x.crew) outer).foldl (fun s l => s.commitBegin x.crew l)
      (s.setCrew x.crew (commitCrew (s.crew x.crew) x inner outer))).endIssue := by
  have e := Machine.exec_commit s f
  unfold execCommit at e
  have hout : (laneSet fun l => hasLane (act s x f) l && !((s.crew x.crew).thread l).specAct) = 0 := tryFresh_inside hin
  subst hinner houter
  refine exec_of_ok h rfl e ((if_neg (Classical.not_not.mpr hout)).trans ((if_neg ?_).trans (congrArg (fun t : State => Except.ok (List.foldl _ t _)) ?_)))
  · exact Bool.eq_false_iff.mp ((Bool.or_eq_false_iff ..).mpr ⟨hbusy, hchecks⟩)
  · unfold State.setPc State.waitFor State.modCrew
    rw [State.crew_setCrew_self, State.crew_setCrew_self, State.setCrew_setCrew, State.setCrew_setCrew]
    rfl

theorem commitInner_all {c : Crew} {a : Lanes} (h : ∀ l, hasLane a l = true → 1 < (c.thread l).specDepth) : commitInner c a = a :=
  LaneSets.eq_of_hasLane fun l => by
    rw [commitInner, LaneSets.hasLane_laneSet_and]
    cases ha : hasLane a l
    · rfl
    · rw [decide_eq_true (h l ha), Bool.true_and]

theorem commitInner_none {c : Crew} {a : Lanes} (h : ∀ l, hasLane a l = true → (c.thread l).specDepth ≤ 1) : commitInner c a = 0 :=
  laneSet_eq_zero fun l hl => decide_eq_false (Nat.not_lt.mpr (h l hl))

/-- COMMIT of an inner level. -/
theorem commit_inner (h : may s x (Instr.commit f).shape f = true)
    (hin : ∀ l, hasLane (act s x f) l = true → ((s.crew x.crew).thread l).specAct = true ∧ 1 < ((s.crew x.crew).thread l).specDepth)
    (hbusy : (s.crew x.crew).regionBusy ((s.crew x.crew).allMembers 0) = false) (hchecks : (s.crew x.crew).openChecks (act s x f) = false) :
    exec (.commit f) s = .next (s.setCrew x.crew (((s.crew x.crew).mapLanes x.lanes fun _ t => { t with pc := x.next }).mapLanes (act s x f) fun _ t =>
      { t with spec := withDepth t.spec (t.specDepth - 1) })).endIssue := by
  have houter : act s x f &&& ~~~act s x f = 0 := BitVec.and_not_self _
  rw [exec_commit_eq h (fun l hl => (hin l hl).1) (commitInner_all fun l hl => (hin l hl).2) houter hbusy hchecks, commitHeads, lanesOf_zero, commitCrew, andnot_zero,
    mapLanes_zero]
  rfl

end

/-! ## COMMIT with a write set in `.g` -/

section

variable {k l : Nat}

theorem commitBegin_of_sectors {s : State} {i : Nat} {r : Region} (h : (s.crew k).regionOf i = some r) (hs : r.sectors.isEmpty = false) :
    s.commitBegin k i = s.setCrew k ((s.crew k).putRegion i { r with asked := 1, answers := [] }) := by
  unfold State.commitBegin
  rw [h]
  exact if_pos (by rw [hs]; rfl)

/-- A lane of a COMMIT with the write set `r`: its lock requests are due, or its region is `r` as it was. -/
def Asks (c : Crew) (i : Nat) (r : Region) : Prop := c.regionOf i = some { r with asked := 1, answers := [] }

/-- Every lane of a COMMIT waits, and its region is its own of before, asked for or not. -/
def Asking (c : Crew) (a : Lanes) (rs : Nat → Region) : Prop :=
  ∀ i, hasLane a i = true → (c.regionOf i = some (rs i) ∨ Asks c i (rs i)) ∧ (c.thread i).blocked.map (·.kind) = some .commit

theorem commit_ask_step {s : State} {a : Lanes} {rs : Nat → Region} (hrs : ∀ i, hasLane a i = true → (rs i).sectors.isEmpty = false)
    (h : Asking (s.crew k) a rs) {i : Nat} (hi : hasLane a i = true) :
    (s.commitBegin k i).mem = s.mem ∧ Asking ((s.commitBegin k i).crew k) a rs ∧
    (∀ j, ((((s.commitBegin k i).crew k).thread j).spec = ((s.crew k).thread j).spec)) ∧
    ∀ j, hasLane a j = true → shares (s.crew k) i j ∨ Asks (s.crew k) j (rs j) → Asks ((s.commitBegin k i).crew k) j (rs j) := by
  have hi64 := LaneSets.hasLane_lt hi
  have hact : ∀ j, hasLane a j = true → ((s.crew k).thread j).specAct = true := fun j hj => by
    rcases (h j hj).1 with hr | hr
    · exact specAct_of_regionOf hr
    · exact specAct_of_regionOf hr
  obtain ⟨r, hr, hnew⟩ : ∃ r, (s.crew k).regionOf i = some r ∧ r.sectors.isEmpty = false := by
    rcases (h i hi).1 with hr | hr
    · exact ⟨_, hr, hrs i hi⟩
    · exact ⟨_, hr, hrs i hi⟩
  rw [commitBegin_of_sectors hr hnew, State.crew_setCrew_self]
  have hask : ∀ j, hasLane a j = true → shares (s.crew k) i j → Asks ((s.crew k).putRegion i { r with asked := 1, answers := [] }) j (rs j) := fun j hj hs => by
    have hrj : (s.crew k).regionOf j = some r := by rw [← regionOf_eq_of_shares (hact i hi) (hact j hj) hs, hr]
    rw [Asks, regionOf_putRegion_of_shares (hact i hi) hi64 (hact j hj) hs]
    rcases (h j hj).1 with h' | h'
    · rw [hrj, Option.some.injEq] at h'
      rw [h']
    · rw [Asks, hrj, Option.some.injEq] at h'
      rw [h']
  refine ⟨rfl, fun j hj => ⟨?_, ?_⟩, fun j => spec_putRegion, fun j hj hor => ?_⟩
  · by_cases hs : shares (s.crew k) i j
    · exact .inr (hask j hj hs)
    · rw [Asks, regionOf_putRegion_of_not hi64 hs]
      exact (h j hj).1
  · rw [blocked_putRegion]
    exact (h j hj).2
  · by_cases hs : shares (s.crew k) i j
    · exact hask j hj hs
    · rw [Asks, regionOf_putRegion_of_not hi64 hs]
      exact hor.resolve_left hs

theorem shares_congr {c c' : Crew} (h : ∀ j, (c'.thread j).spec = (c.thread j).spec) (i j : Nat) : shares c' i j ↔ shares c i j := by
  unfold shares Thread.specCrew
  rw [h, h]

theorem commit_ask_all {a : Lanes} {rs : Nat → Region} (hrs : ∀ i, hasLane a i = true → (rs i).sectors.isEmpty = false) (ls : List Nat) (s : State)
    (h : Asking (s.crew k) a rs) (hls : ∀ i ∈ ls, hasLane a i = true) :
    (ls.foldl (fun s i => s.commitBegin k i) s).mem = s.mem ∧ Asking ((ls.foldl (fun s i => s.commitBegin k i) s).crew k) a rs ∧
    ∀ j, hasLane a j = true → (∃ i ∈ ls, shares (s.crew k) i j) ∨ Asks (s.crew k) j (rs j) →
      Asks ((ls.foldl (fun s i => s.commitBegin k i) s).crew k) j (rs j) := by
  induction ls generalizing s with
  | nil => exact ⟨rfl, h, fun j _ hor => hor.resolve_left fun ⟨i, hi, _⟩ => absurd hi List.not_mem_nil⟩
  | cons i rest ih =>
    obtain ⟨hmem, hasking, hspec, hask⟩ := commit_ask_step hrs h (hls i (List.mem_cons_self ..))
    obtain ⟨hmem', hasking', hall⟩ := ih (s.commitBegin k i) hasking fun j hj => hls j (List.mem_cons_of_mem _ hj)
    refine ⟨hmem'.trans hmem, hasking', fun j hj hor => hall j hj ?_⟩
    rcases hor with ⟨i', hi', hs⟩ | hdone
    · rcases List.mem_cons.mp hi' with rfl | hi'
      · exact .inr (hask j hj (.inl hs))
      · exact .inl ⟨i', hi', (shares_congr hspec i' j).mpr hs⟩
    · exact .inr (hask j hj (.inr hdone))

end

section

variable {c : Crew} {a : Lanes} {l : Nat}

theorem hasLane_of_lowLane {m : Lanes} {i : Nat} (h : lowLane m = some i) : hasLane m i = true := mem_lanesOf.mp (List.mem_of_head? h)

/-- The lanes of the crew's region. -/
theorem members_of_crew (hact : (c.thread l).specAct = true) (hcrew : (c.thread l).specCrew = true) :
    c.members l = laneSet fun j => (c.thread j).live && (c.thread j).specAct && (c.thread j).specCrew := by
  unfold Crew.members
  rw [hact, hcrew]
  rfl

theorem members_of_lane (hcrew : (c.thread l).specCrew = false) : c.members l = oneLane l := by
  unfold Crew.members
  rw [hcrew, Bool.and_false]
  rfl

/-- Each lane that commits shares its region with the lowest of those lanes. -/
theorem exists_head (hl : hasLane a l = true) (hlive : (c.thread l).live = true) (hact : (c.thread l).specAct = true) :
    ∃ i ∈ commitHeads c a, shares c i l := by
  have hself : hasLane (c.members l &&& a) l = true := by
    rw [LaneSets.hasLane_and, hl, Bool.and_true]
    cases hcrew : (c.thread l).specCrew
    · rw [members_of_lane hcrew, Machine.hasLane_oneLane _ _ (LaneSets.hasLane_lt hl), decide_eq_true rfl]
    · rw [members_of_crew hact hcrew, LaneSets.hasLane_laneSet, hlive, hact, hcrew, decide_eq_true (LaneSets.hasLane_lt hl)]
      rfl
  obtain ⟨i, hi⟩ : ∃ i, lowLane (c.members l &&& a) = some i := by
    cases hlow : lowLane (c.members l &&& a) with
    | some i => exact ⟨i, rfl⟩
    | none =>
      rw [SystemInstrs.lowLane_eq_none hlow, show hasLane 0 l = false from LaneSets.hasLane_zero l] at hself
      cases hself
  have hmem := hasLane_of_lowLane hi
  rw [LaneSets.hasLane_and, Bool.and_eq_true] at hmem
  have hshare : c.members i = c.members l ∧ shares c i l := by
    cases hcrew : (c.thread l).specCrew
    · rw [members_of_lane hcrew, Machine.hasLane_oneLane _ _ (LaneSets.hasLane_lt hl), decide_eq_true_iff] at hmem
      obtain ⟨rfl, _⟩ := hmem
      exact ⟨rfl, .inl rfl⟩
    · rw [members_of_crew hact hcrew, LaneSets.hasLane_laneSet] at hmem
      have hi3 : (c.thread i).specAct = true ∧ (c.thread i).specCrew = true := by simp_all
      exact ⟨(members_of_crew hi3.1 hi3.2).trans (members_of_crew hact hcrew).symm, .inr ⟨hi3.2, hcrew⟩⟩
  refine ⟨i, List.mem_filter.mpr ⟨mem_lanesOf.mpr hmem.2, ?_⟩, hshare.2⟩
  rw [hshare.1]
  exact decide_eq_true hi

theorem hasLane_of_head {i : Nat} (h : i ∈ commitHeads c a) : hasLane a i = true := mem_lanesOf.mp (List.mem_filter.mp h).1

end

section

variable {s : State} {x : Ctx} {f : XF} {c : Crew} {l : Nat}

/-- The threads of a COMMIT of outermost regions. -/
theorem commitCrew_outer (c : Crew) (x : Ctx) (a : Lanes) :
    commitCrew c x 0 a = (c.mapLanes (x.lanes &&& ~~~a) fun _ t => { t with pc := x.next }).mapLanes a fun _ t => awaitsCommit x a t := by
  unfold commitCrew
  rw [mapLanes_zero]

theorem spec_commitCrew (a : Lanes) : ((commitCrew c x 0 a).thread l).spec = (c.thread l).spec := by
  rw [commitCrew_outer]
  refine (thread_mapLanes_keeps Thread.spec ?_).trans (thread_mapLanes_keeps Thread.spec ?_)
  · exact fun _ _ => rfl
  · exact fun _ _ => rfl

theorem regionOf_commitCrew (a : Lanes) : (commitCrew c x 0 a).regionOf l = c.regionOf l := by
  refine regionOf_congr (spec_commitCrew a) ?_ (by rw [commitCrew_outer]; rfl)
  rw [commitCrew_outer]
  refine (thread_mapLanes_keeps Thread.region ?_).trans (thread_mapLanes_keeps Thread.region ?_)
  · exact fun _ _ => rfl
  · exact fun _ _ => rfl

/-- The thread of a lane that waits for its COMMIT. -/
theorem thread_commitCrew {a : Lanes} (hl : hasLane a l = true) (hsome : (SMap.find? c.threads l).isSome = true) :
    (commitCrew c x 0 a).thread l = awaitsCommit x a (c.thread l) := by
  have hsome' : (SMap.find? (c.mapLanes (x.lanes &&& ~~~a) fun _ t => { t with pc := x.next }).threads l).isSome = true := by
    rw [find?_mapLanes, Option.isSome_map, hsome]
  rw [commitCrew_outer, thread_mapLanes_of_has hl hsome', thread_mapLanes_of_not (by rw [hasLane_andnot, hl]; exact Bool.and_false _)]

/-- COMMIT of outermost regions with sectors to lock. -/
theorem commit_asks (h : may s x (Instr.commit f).shape f = true) {rs : Nat → Region}
    (hin : ∀ l, hasLane (act s x f) l = true → ((s.crew x.crew).thread l).live = true ∧ ((s.crew x.crew).thread l).specAct = true ∧
      ((s.crew x.crew).thread l).specDepth ≤ 1 ∧ (s.crew x.crew).regionOf l = some (rs l) ∧ (rs l).sectors.isEmpty = false)
    (hbusy : (s.crew x.crew).regionBusy ((s.crew x.crew).allMembers (act s x f)) = false) (hchecks : (s.crew x.crew).openChecks (act s x f) = false) :
    ∃ t, exec (.commit f) s = .next t ∧ t.mem = s.mem ∧ ∀ l, hasLane (act s x f) l = true →
      (t.crew x.crew).regionOf l = some { rs l with asked := 1, answers := [] } ∧ ((t.crew x.crew).thread l).blocked.map (·.kind) = some .commit := by
  have hasking : Asking ((s.setCrew x.crew (commitCrew (s.crew x.crew) x 0 (act s x f))).crew x.crew) (act s x f) rs := fun i hi => by
    obtain ⟨_, hact, _, hr, _⟩ := hin i hi
    rw [State.crew_setCrew_self, Asks, regionOf_commitCrew, thread_commitCrew hi (isSome_of_specAct hact)]
    exact ⟨.inl hr, rfl⟩
  obtain ⟨hmem, hask, hdone⟩ := commit_ask_all (fun i hi => (hin i hi).2.2.2.2) (commitHeads (s.crew x.crew) (act s x f)) _ hasking fun i hi => hasLane_of_head hi
  refine ⟨_, exec_commit_eq h (fun l hl => (hin l hl).2.1) (commitInner_none fun l hl => (hin l hl).2.2.1) (andnot_zero _) hbusy hchecks, hmem, fun l hl => ?_⟩
  obtain ⟨hlive, hact, _⟩ := hin l hl
  obtain ⟨i, hi, hs⟩ := exists_head hl hlive hact
  refine ⟨hdone l hl (.inl ⟨i, hi, ?_⟩), (hask l hl).2⟩
  rw [State.crew_setCrew_self]
  exact (shares_congr (fun j => spec_commitCrew _) i l).mpr hs

end

/-! ## COMMIT with nothing to write -/

/-- A thread whose COMMIT has succeeded at `now`. -/
def committed (now : Nat) (t : Thread) : Thread :=
  let th := { t with spec := t.spec &&& 0x40000000#32, region := none, ckpt := none, wctlast := max t.wctlast now }
  match th.blocked with
  | some b => if b.kind = .commit then th.unblock else th
  | none => th

theorem spec_committed (now : Nat) (t : Thread) : (committed now t).spec = t.spec &&& 0x40000000#32 := by
  unfold committed
  dsimp only
  cases hb : t.blocked with
  | none => rfl
  | some b =>
    dsimp only
    split
    · unfold Thread.unblock
      rfl
    · rfl

theorem specAct_committed (now : Nat) (t : Thread) : (committed now t).specAct = false := by
  rw [Thread.specAct, spec_committed, BitVec.getLsbD_and]
  exact Bool.and_false _

/-- The crew in which the region of lane `i` has committed. -/
def committedCrew (c : Crew) (i now : Nat) : Crew :=
  (if (c.thread i).specCrew then { c with region := none } else c).mapLanes (c.members i) fun _ t => committed now t

section

variable {k : Nat} {s : State} {i : Nat}

theorem commitBegin_of_outside (h : ((s.crew k).thread i).specAct = false) : s.commitBegin k i = s := by
  unfold State.commitBegin
  rw [regionOf_eq, h]
  rfl

/-- With no sector to lock the COMMIT ends at once. -/
theorem commitBegin_of_empty {r : Region} (h : (s.crew k).regionOf i = some r) (hssb : r.ssb = []) (hallows : r.allows s.now = true) :
    (s.commitBegin k i).now = s.now ∧ (s.commitBegin k i).crew k = committedCrew (s.crew k) i s.now := by
  have hsec : r.sectors = [] := by
    unfold Region.sectors
    rw [hssb]
    rfl
  have he : s.commitBegin k i = (s.commitSlices r).setCrew k (committedCrew (s.crew k) i s.now) := by
    unfold State.commitBegin
    rw [h]
    dsimp only
    rw [hsec, hallows]
    refine (if_neg (by decide)).trans ((if_pos rfl).trans ?_)
    unfold State.commitDone
    dsimp only
    rw [h]
    rfl
  rw [he]
  exact ⟨rfl, State.crew_setCrew_self _ _ _⟩

end

section

variable {c₀ c : Crew} {a : Lanes} {now i l : Nat}

/-- Lane `l` has not committed since the crew was `c₀`; it has. -/
def Uncommitted (c₀ c : Crew) (l : Nat) : Prop := c.thread l = c₀.thread l ∧ c.regionOf l = c₀.regionOf l
def Committed (c₀ c : Crew) (now l : Nat) : Prop := c.thread l = committed now (c₀.thread l)

/-- In the course of a COMMIT of the lanes `a`: each has committed or not, those of the crew's region all or none. -/
structure Committing (c₀ c : Crew) (a : Lanes) (now : Nat) : Prop where
  some   : ∀ l, hasLane a l = true → (SMap.find? c.threads l).isSome = true
  either : ∀ l, hasLane a l = true → Uncommitted c₀ c l ∨ Committed c₀ c now l
  alike  : ∀ l j, hasLane a l = true → hasLane a j = true → (c₀.thread l).specCrew = true → (c₀.thread j).specCrew = true →
    (c.thread l).specAct = (c.thread j).specAct

theorem Committing.committed_of_outside (h : Committing c₀ c a now) (hl : hasLane a l = true) (hact₀ : (c₀.thread l).specAct = true)
    (hact : (c.thread l).specAct = false) : Committed c₀ c now l :=
  (h.either l hl).resolve_left fun hu => by rw [hu.1, hact₀] at hact; cases hact

theorem Committed.outside (h : Committed c₀ c now l) : (c.thread l).specAct = false := by
  rw [h]
  exact specAct_committed _ _

theorem thread_committedCrew (hl : (SMap.find? c.threads l).isSome = true) :
    (committedCrew c i now).thread l = if hasLane (c.members i) l then committed now (c.thread l) else c.thread l := by
  unfold committedCrew
  split
  · exact thread_mapLanes_ite (c := { c with region := none }) hl _
  · exact thread_mapLanes_ite hl _

theorem isSome_committedCrew : (SMap.find? (committedCrew c i now).threads l).isSome = (SMap.find? c.threads l).isSome := by
  unfold committedCrew
  rw [find?_mapLanes, Option.isSome_map]
  split <;> rfl

section

variable (h₀ : ∀ l, hasLane a l = true → (c₀.thread l).live = true ∧ (c₀.thread l).specAct = true) (h : Committing c₀ c a now)
  (hi : hasLane a i = true) (hact : (c.thread i).specAct = true)

include h₀ h hi hact

omit h₀ in
/-- A lane that shares the region of lane `i`, which has not committed, has not committed. -/
theorem uncommitted_of_shares (hl : hasLane a l = true) (hs : shares c₀ i l) : Uncommitted c₀ c l := by
  refine (h.either l hl).resolve_right fun hc => ?_
  have hout := hc.outside
  rcases hs with rfl | ⟨hci, hcl⟩
  · rw [hact] at hout
    cases hout
  · rw [← h.alike i l hi hl hci hcl, hact] at hout
    cases hout

/-- The members of lane `i`'s region are the lanes that share it. -/
theorem members_iff_shares (hl : hasLane a l = true) : hasLane (c.members i) l = true ↔ shares c₀ i l := by
  have hi' : Uncommitted c₀ c i := uncommitted_of_shares h hi hact hi (.inl rfl)
  constructor
  · intro hm
    cases hcrew : (c.thread i).specCrew
    · rw [members_of_lane hcrew, Machine.hasLane_oneLane _ _ (LaneSets.hasLane_lt hi), decide_eq_true_iff] at hm
      exact .inl hm.symm
    · rw [members_of_crew hact hcrew, LaneSets.hasLane_laneSet, Bool.and_eq_true, Bool.and_eq_true, Bool.and_eq_true] at hm
      obtain ⟨_, ⟨_, hin⟩, hcl⟩ := hm
      have hl' : Uncommitted c₀ c l := (h.either l hl).resolve_right fun hc => by
        rw [hc.outside] at hin
        cases hin
      exact .inr ⟨hi'.1 ▸ hcrew, hl'.1 ▸ hcl⟩
  · intro hs
    have hl' := uncommitted_of_shares h hi hact hl hs
    cases hcrew : (c.thread i).specCrew
    · rw [members_of_lane hcrew, Machine.hasLane_oneLane _ _ (LaneSets.hasLane_lt hi), decide_eq_true_iff]
      rcases hs with rfl | ⟨hci, _⟩
      · rfl
      · rw [hi'.1, hci] at hcrew
        cases hcrew
    · have hcl : (c₀.thread l).specCrew = true := by
        rcases hs with rfl | ⟨_, hcl⟩
        · exact hi'.1 ▸ hcrew
        · exact hcl
      obtain ⟨hlive, hin⟩ := h₀ l hl
      rw [members_of_crew hact hcrew, LaneSets.hasLane_laneSet, hl'.1, hlive, hin, hcl, decide_eq_true (LaneSets.hasLane_lt hl)]
      rfl

theorem committed_of_shares (hl : hasLane a l = true) (hs : shares c₀ i l) : Committed c₀ (committedCrew c i now) now l := by
  rw [Committed, thread_committedCrew (h.some l hl), if_pos ((members_iff_shares h₀ h hi hact hl).mpr hs), (uncommitted_of_shares h hi hact hl hs).1]

theorem thread_of_not_shares (hl : hasLane a l = true) (hs : ¬shares c₀ i l) : (committedCrew c i now).thread l = c.thread l := by
  rw [thread_committedCrew (h.some l hl), if_neg (mt (members_iff_shares h₀ h hi hact hl).mp hs)]

/-- The region of a lane that does not share lane `i`'s. -/
theorem uncommitted_of_not_shares (hl : hasLane a l = true) (hs : ¬shares c₀ i l) (hu : Uncommitted c₀ c l) : Uncommitted c₀ (committedCrew c i now) l := by
  have hi' : Uncommitted c₀ c i := uncommitted_of_shares h hi hact hi (.inl rfl)
  have hthread := thread_of_not_shares h₀ h hi hact hl hs
  refine ⟨hthread.trans hu.1, Eq.trans ?_ hu.2⟩
  cases hcrew : (c.thread i).specCrew
  · refine regionOf_congr (congrArg Thread.spec hthread) (congrArg Thread.region hthread) ?_
    unfold committedCrew
    rw [hcrew]
    rfl
  · have hcl : (c.thread l).specCrew = false := Bool.eq_false_iff.mpr fun hcl => hs (.inr ⟨hi'.1 ▸ hcrew, hu.1 ▸ hcl⟩)
    rw [regionOf_eq, regionOf_eq, hthread, hcl]
    rfl

/-- Lane `i`, inside its region, commits; the lanes `a` are live. -/
theorem committing_step :
    Committing c₀ (committedCrew c i now) a now ∧
    ∀ l, hasLane a l = true → shares c₀ i l ∨ Committed c₀ c now l → Committed c₀ (committedCrew c i now) now l := by
  have hkeeps : ∀ l, hasLane a l = true → Committed c₀ c now l → Committed c₀ (committedCrew c i now) now l := fun l hl hc => by
    by_cases hs : shares c₀ i l
    · exact committed_of_shares h₀ h hi hact hl hs
    · exact (thread_of_not_shares h₀ h hi hact hl hs).trans hc
  refine ⟨⟨fun l hl => isSome_committedCrew.trans (h.some l hl), fun l hl => ?_, fun l j hl hj hcl hcj => ?_⟩, fun l hl hor => ?_⟩
  · by_cases hs : shares c₀ i l
    · exact .inr (committed_of_shares h₀ h hi hact hl hs)
    · exact (h.either l hl).imp (uncommitted_of_not_shares h₀ h hi hact hl hs) (hkeeps l hl)
  · by_cases hci : (c₀.thread i).specCrew = true
    · rw [(committed_of_shares h₀ h hi hact hl (.inr ⟨hci, hcl⟩)).outside, (committed_of_shares h₀ h hi hact hj (.inr ⟨hci, hcj⟩)).outside]
    · have hnot : ∀ l, (c₀.thread l).specCrew = true → ¬shares c₀ i l := fun l hcl hs => by
        rcases hs with rfl | ⟨hci', _⟩
        · exact hci hcl
        · exact hci hci'
      rw [thread_of_not_shares h₀ h hi hact hl (hnot l hcl), thread_of_not_shares h₀ h hi hact hj (hnot j hcj)]
      exact h.alike l j hl hj hcl hcj
  · exact hor.elim (committed_of_shares h₀ h hi hact hl) (hkeeps l hl)

end

end

section

variable {k : Nat} {c₀ : Crew} {a : Lanes} {rs : Nat → Region} {now : Nat}

/-- All heads of a COMMIT with nothing to write. -/
theorem commit_done_all (h₀ : ∀ l, hasLane a l = true → (c₀.thread l).live = true ∧ (c₀.thread l).specAct = true)
    (hrs : ∀ l, hasLane a l = true → c₀.regionOf l = some (rs l) ∧ (rs l).ssb = [] ∧ (rs l).allows now = true) (ls : List Nat) (s : State) (hnow : s.now = now)
    (h : Committing c₀ (s.crew k) a now) (hls : ∀ i ∈ ls, hasLane a i = true) (l : Nat) (hl : hasLane a l = true)
    (hor : (∃ i ∈ ls, shares c₀ i l) ∨ Committed c₀ (s.crew k) now l) : Committed c₀ ((ls.foldl (fun s i => s.commitBegin k i) s).crew k) now l := by
  induction ls generalizing s with
  | nil => exact hor.resolve_left fun ⟨i, hi, _⟩ => absurd hi List.not_mem_nil
  | cons i rest ih =>
    have hi := hls i (List.mem_cons_self ..)
    rw [List.foldl_cons]
    cases hact : ((s.crew k).thread i).specAct
    · rw [commitBegin_of_outside hact]
      refine ih s hnow h (fun j hj => hls j (List.mem_cons_of_mem _ hj)) ?_
      rcases hor with ⟨i', hi', hs⟩ | hc
      · rcases List.mem_cons.mp hi' with rfl | hi'
        · rcases hs with rfl | ⟨hci, hcl⟩
          · exact .inr (h.committed_of_outside hl (h₀ _ hl).2 hact)
          · exact .inr (h.committed_of_outside hl (h₀ l hl).2 ((h.alike i' l hi hl hci hcl).symm.trans hact))
        · exact .inl ⟨i', hi', hs⟩
      · exact .inr hc
    · obtain ⟨hr, hssb, hallows⟩ := hrs i hi
      have hregion : (s.crew k).regionOf i = some (rs i) := (uncommitted_of_shares h hi hact hi (.inl rfl)).2.trans hr
      obtain ⟨hnow', hcrew⟩ := commitBegin_of_empty hregion hssb (hnow ▸ hallows)
      rw [hnow] at hcrew
      obtain ⟨hstep, hdone⟩ := committing_step h₀ h hi hact
      refine ih (s.commitBegin k i) (hnow'.trans hnow) (hcrew ▸ hstep) (fun j hj => hls j (List.mem_cons_of_mem _ hj)) ?_
      rcases hor with ⟨i', hi', hs⟩ | hc
      · rcases List.mem_cons.mp hi' with rfl | hi'
        · exact .inr (hcrew ▸ hdone l hl (.inl hs))
        · exact .inl ⟨i', hi', hs⟩
      · exact .inr (hcrew ▸ hdone l hl (.inr hc))

end

section

variable {s : State} {x : Ctx} {f : XF}

/-- A thread whose COMMIT, outside a REP, has succeeded. -/
theorem committed_awaitsCommit (hrep : x.rep = none) (a : Lanes) (now : Nat) (t : Thread) :
    (committed now (awaitsCommit x a t)).specAct = false ∧ (committed now (awaitsCommit x a t)).region = none ∧ (committed now (awaitsCommit x a t)).ckpt = none ∧
      (committed now (awaitsCommit x a t)).pc = x.next ∧ (committed now (awaitsCommit x a t)).wctlast = max t.wctlast now := by
  refine ⟨specAct_committed _ _, ?_⟩
  have hafter : State.after x t = (x.next, none) := by
    unfold State.after
    rw [hrep]
  unfold committed awaitsCommit
  rw [hafter]
  exact ⟨rfl, rfl, rfl, rfl⟩

/-- COMMIT of outermost regions with nothing to write. -/
theorem commit_ends (h : may s x (Instr.commit f).shape f = true) (hrep : x.rep = none) {rs : Nat → Region}
    (hin : ∀ l, hasLane (act s x f) l = true → ((s.crew x.crew).thread l).live = true ∧ ((s.crew x.crew).thread l).specAct = true ∧
      ((s.crew x.crew).thread l).specDepth ≤ 1 ∧ (s.crew x.crew).regionOf l = some (rs l) ∧ (rs l).ssb = [] ∧ (rs l).allows s.now = true)
    (hbusy : (s.crew x.crew).regionBusy ((s.crew x.crew).allMembers (act s x f)) = false) (hchecks : (s.crew x.crew).openChecks (act s x f) = false) :
    ∃ t, exec (.commit f) s = .next t ∧ ∀ l, hasLane (act s x f) l = true →
      ((t.crew x.crew).thread l).specAct = false ∧ ((t.crew x.crew).thread l).region = none ∧ ((t.crew x.crew).thread l).ckpt = none ∧
      ((t.crew x.crew).thread l).pc = x.next ∧ ((t.crew x.crew).thread l).wctlast = max ((s.crew x.crew).thread l).wctlast s.now := by
  have hthread : ∀ l, hasLane (act s x f) l = true → (commitCrew (s.crew x.crew) x 0 (act s x f)).thread l = awaitsCommit x (act s x f) ((s.crew x.crew).thread l) :=
    fun l hl => thread_commitCrew hl (isSome_of_specAct (hin l hl).2.1)
  have h₀ : ∀ l, hasLane (act s x f) l = true → ((commitCrew (s.crew x.crew) x 0 (act s x f)).thread l).live = true ∧
      ((commitCrew (s.crew x.crew) x 0 (act s x f)).thread l).specAct = true := fun l hl => by
    rw [hthread l hl]
    exact ⟨(hin l hl).1, (hin l hl).2.1⟩
  have hstart : Committing (commitCrew (s.crew x.crew) x 0 (act s x f)) (commitCrew (s.crew x.crew) x 0 (act s x f)) (act s x f) s.now :=
    ⟨fun l hl => isSome_of_specAct (h₀ l hl).2, fun l _ => .inl ⟨rfl, rfl⟩, fun l j hl hj _ _ => by rw [(h₀ l hl).2, (h₀ j hj).2]⟩
  refine ⟨_, exec_commit_eq h (fun l hl => (hin l hl).2.1) (commitInner_none fun l hl => (hin l hl).2.2.1) (andnot_zero _) hbusy hchecks, fun l hl => ?_⟩
  obtain ⟨hlive, hact, _⟩ := hin l hl
  obtain ⟨i, hi, hs⟩ := exists_head hl hlive hact
  have hdone := commit_done_all (k := x.crew) h₀ (rs := rs) (fun l hl => by rw [regionOf_commitCrew]; exact (hin l hl).2.2.2)
    (commitHeads (s.crew x.crew) (act s x f)) (s.setCrew x.crew (commitCrew (s.crew x.crew) x 0 (act s x f))) rfl (by rw [State.crew_setCrew_self]; exact hstart)
    (fun i hi => hasLane_of_head hi) l hl (.inl ⟨i, hi, (shares_congr (fun j => spec_commitCrew _) i l).mpr hs⟩)
  rw [State.crew_endIssue, hdone, hthread l hl]
  exact committed_awaitsCommit hrep _ _ _

/-! ## ABORT at issue (R279) -/

theorem exec_abort_eq (h : may s x (Instr.abort f).shape f = true) (hin : ∀ l, hasLane (act s x f) l = true → ((s.crew x.crew).thread l).specAct = true) :
    exec (.abort f) s = .next ((lanesOf (act s x f)).foldl (fun s l => s.beginAbort x.crew l 1 (f.w2.toNat % 256) 0 0 none)
      (s.setCrew x.crew ((s.crew x.crew).mapLanes (x.lanes &&& ~~~act s x f) fun _ t => { t with pc := x.next }))).endIssue := by
  have e := Machine.exec_abort s f
  unfold execAbort at e
  exact exec_of_ok h rfl e (if_neg (Classical.not_not.mpr (tryFresh_inside hin)))

/-- The lanes of an issue begin their aborts, the others go on. -/
theorem aborts_all (m a : Lanes) (pc code user tcls detail : Nat) (hin : ∀ l, hasLane a l = true → ((s.crew x.crew).thread l).specAct = true) (l : Nat)
    (hl : hasLane a l = true) (r : Region) (hr : (s.crew x.crew).regionOf l = some r) (ha : r.abort = none) (hd : r.decided = none) :
    ∃ r', (((lanesOf a).foldl (fun s i => s.beginAbort x.crew i code user tcls detail none)
      (s.setCrew x.crew ((s.crew x.crew).mapLanes m fun _ t => { t with pc := pc }))).endIssue.crew x.crew).regionOf l = some r' ∧
      r'.abort = some (code, user, tcls, detail) := by
  have hspec : ∀ i, (((s.crew x.crew).mapLanes m fun _ t => { t with pc := pc }).thread i).spec = ((s.crew x.crew).thread i).spec := fun i =>
    thread_mapLanes_keeps Thread.spec fun _ _ => rfl
  obtain ⟨r', hr', _, ha'⟩ := (abort_all (k := x.crew) (l := l) (code := code) (user := user) (tcls := tcls) (detail := detail) (lanesOf a)
    (s.setCrew x.crew ((s.crew x.crew).mapLanes m fun _ t => { t with pc := pc })) (fun i hi => lt_of_mem_lanesOf hi)
    (fun i hi => by rw [State.crew_setCrew_self, Thread.specAct, hspec]; exact hin i (mem_lanesOf.mp hi))).2
    ⟨r, by rw [State.crew_setCrew_self, regionOf_congr (hspec l) (thread_mapLanes_keeps Thread.region fun _ _ => rfl) rfl]; exact hr, hd, .inl ha⟩
    (.inl (mem_lanesOf.mpr hl))
  exact ⟨r', hr', ha'⟩

theorem aborts_all_mem (m a : Lanes) (pc code user tcls detail : Nat) (hin : ∀ l, hasLane a l = true → ((s.crew x.crew).thread l).specAct = true) :
    ((lanesOf a).foldl (fun s i => s.beginAbort x.crew i code user tcls detail none)
      (s.setCrew x.crew ((s.crew x.crew).mapLanes m fun _ t => { t with pc := pc }))).mem = s.mem := by
  have hspec : ∀ i, (((s.crew x.crew).mapLanes m fun _ t => { t with pc := pc }).thread i).spec = ((s.crew x.crew).thread i).spec := fun i =>
    thread_mapLanes_keeps Thread.spec fun _ _ => rfl
  exact (abort_all (k := x.crew) (l := 0) (lanesOf a) (s.setCrew x.crew ((s.crew x.crew).mapLanes m fun _ t => { t with pc := pc }))
    (fun i hi => lt_of_mem_lanesOf hi) (fun i hi => by rw [State.crew_setCrew_self, Thread.specAct, hspec]; exact hin i (mem_lanesOf.mp hi))).1

end

/-- Settles O33: TRY by its three kinds of lanes; COMMIT by a fold over the regions' lowest lanes; ABORT, and the aborts of a TRY, by a fold over the lanes. -/
theorem regionsBeginAndEnd : Obligations.RegionsBeginAndEnd := by
  unfold Obligations.RegionsBeginAndEnd
  intro s x f c k ac cr
  refine ⟨fun h hn hout hlow hpred => ?enters, fun h hn hin => ?deeper, fun h hn hin => ?nests, fun h hin hbusy hchecks => ?inner,
    fun h hrep hin hbusy hchecks => ?ends, fun h hin hbusy hchecks => ?asks, fun h hin => ?aborts, ?illegal⟩
  case enters =>
    have hout' : ∀ l, hasLane ac l = true → (c.thread l).specAct = false := fun l hl => by
      simpa using List.all_eq_true.mp hout l (mem_lanesOf.mpr hl)
    refine ⟨_, try_enters h hn hout' hlow hpred, crewOnly_set _ _ _, fun hcr hac hnone => ?_, fun l hl hsome => ?_⟩
    · have hothers := tryOthers_zero (c := c) (fun l hl => (Bool.not_eq_eq_eq_not ..).mp (List.all_eq_true.mp hnone l (mem_lanesOf.mpr hl))) ac
      rw [State.crew_endIssue, State.crew_setCrew_self]
      exact congrArg Crew.region (if_pos (by rw [hothers, decide_eq_true hac, decide_eq_true rfl, Bool.and_true, Bool.and_true]; exact hcr))
    · rw [State.crew_endIssue, State.crew_setCrew_self]
      exact thread_try_enters hsome _ _ _ _ _ hl
  case deeper =>
    have hin' : ∀ l, hasLane ac l = true → (c.thread l).specAct = true ∧ (c.thread l).specCrew = cr ∧ (c.thread l).specDepth ≠ 4 := fun l hl => by
      simpa [and_assoc] using List.all_eq_true.mp hin l (mem_lanesOf.mpr hl)
    refine ⟨_, try_goes_deeper h hn hin', crewOnly_set _ _ _, fun l hl hsome => ?_⟩
    rw [State.crew_endIssue, State.crew_setCrew_self]
    exact thread_try_deeper hsome _ _ _ _ _ hl
  case nests =>
    have hin' : ∀ l, hasLane ac l = true → (c.thread l).specAct = true ∧ ((c.thread l).specCrew ≠ cr ∨ (c.thread l).specDepth = 4) := fun l hl => by
      simpa using List.all_eq_true.mp hin l (mem_lanesOf.mpr hl)
    exact ⟨_, try_nests h hn hin', aborts_all_mem _ _ _ _ _ _ _ fun l hl => (hin' l hl).1, fun l hl _ r hr ha hd =>
      aborts_all _ _ _ _ _ _ _ (fun l hl => (hin' l hl).1) l hl r hr ha hd⟩
  case inner =>
    have hin' : ∀ l, hasLane ac l = true → (c.thread l).specAct = true ∧ 1 < (c.thread l).specDepth := fun l hl => by
      simpa using List.all_eq_true.mp hin l (mem_lanesOf.mpr hl)
    refine ⟨_, commit_inner h hin' hbusy hchecks, crewOnly_set _ _ _, fun l hl hsome => ?_⟩
    rw [State.crew_endIssue, State.crew_setCrew_self]
    exact thread_commit_inner hsome _ _ hl
  case ends =>
    have hin' : ∀ l, hasLane ac l = true → (c.thread l).live = true ∧ (c.thread l).specAct = true ∧ (c.thread l).specDepth ≤ 1 ∧
        c.regionOf l = some ((c.regionOf l).getD {}) ∧ ((c.regionOf l).getD {}).ssb = [] ∧ ((c.regionOf l).getD {}).allows s.now = true := fun l hl => by
      have hl' := List.all_eq_true.mp hin l (mem_lanesOf.mpr hl)
      cases hr : c.regionOf l with
      | none => simp [hr] at hl'
      | some r => simpa [hr, and_assoc] using hl'
    exact commit_ends h hrep hin' hbusy hchecks
  case asks =>
    have hin' : ∀ l, hasLane ac l = true → (c.thread l).live = true ∧ (c.thread l).specAct = true ∧ (c.thread l).specDepth ≤ 1 ∧
        c.regionOf l = some ((c.regionOf l).getD {}) ∧ ((c.regionOf l).getD {}).sectors.isEmpty = false := fun l hl => by
      have hl' := List.all_eq_true.mp hin l (mem_lanesOf.mpr hl)
      cases hr : c.regionOf l with
      | none => simp [hr] at hl'
      | some r => simpa [hr, and_assoc] using hl'
    obtain ⟨t, ht, hmem, hspec⟩ := commit_asks h hin' hbusy hchecks
    refine ⟨t, ht, hmem, fun l r hl hr => ?_⟩
    have := hspec l hl
    rwa [hr] at this
  case aborts =>
    have hin' : ∀ l, hasLane ac l = true → (c.thread l).specAct = true := fun l hl => List.all_eq_true.mp hin l (mem_lanesOf.mpr hl)
    exact ⟨_, exec_abort_eq h hin', aborts_all_mem _ _ _ _ _ _ _ hin', fun l hl _ r hr ha hd => aborts_all _ _ _ _ _ _ _ hin' l hl r hr ha hd⟩
  case illegal =>
    refine List.forall_mem_cons.mpr ⟨fun h hout => ?_, List.forall_mem_singleton.mpr fun h hout => ?_⟩
    · have e := Machine.exec_commit s f
      unfold execCommit at e
      exact exec_of_trap h rfl e (if_pos hout)
    · have e := Machine.exec_abort s f
      unfold execAbort at e
      exact exec_of_trap h rfl e (if_pos hout)

end Sys2Proof.Proofs.Regions
end

section
/-! PROOF. What a record of a breach, an overrun or a fault (R346 to R352) leaves as it was: everything but memory, what was sent out, and the front end's
quotations, launches, tenants and DCBs. -/

namespace Sys2Proof.Proofs.Records

open Sys2Proof.Machine Sys2Proof.Machine.State

/-- From `s` to `t` memory, what was sent out, and the front end's quotations, launches, tenants and DCBs may have changed, and nothing else has. -/
def Recorded (s t : State) : Prop :=
  t = { s with
    mem := t.mem
    fr := { s.fr with quotes := t.fr.quotes, launches := t.fr.launches, tenants := t.fr.tenants, dcbs := t.fr.dcbs }
    pl := { s.pl with out := t.pl.out } }

namespace Recorded

theorem refl (s : State) : Recorded s s := rfl

theorem trans {s t u : State} (h : Recorded s t) (h' : Recorded t u) : Recorded s u := by
  unfold Recorded at h h' ⊢
  rw [h] at h'
  exact h'

theorem foldl {α : Type} {f : State → α → State} (h : ∀ s a, Recorded s (f s a)) (l : List α) (s : State) : Recorded s (l.foldl f s) := by
  induction l generalizing s with
  | nil => exact refl s
  | cons a rest ih => exact (h s a).trans (ih _)

variable {s t : State}

theorem tr (h : Recorded s t) : t.tr = s.tr := by rw [h]
theorem ex (h : Recorded s t) : t.ex = s.ex := by rw [h]
theorem coh (h : Recorded s t) : t.coh = s.coh := by rw [h]
theorem now (h : Recorded s t) : t.now = s.now := by rw [h]
theorem ctr (h : Recorded s t) : t.ctr = s.ctr := by rw [h]
theorem events (h : Recorded s t) : t.events = s.events := by rw [h]
theorem edges (h : Recorded s t) : t.fr.edges = s.fr.edges := by rw [h]
theorem reqs (h : Recorded s t) : t.fr.reqs = s.fr.reqs := by rw [h]
theorem order (h : Recorded s t) : t.fr.order = s.fr.order := by rw [h]
theorem queues (h : Recorded s t) : t.fr.queues = s.fr.queues := by rw [h]
theorem preempts (h : Recorded s t) : t.fr.preempts = s.fr.preempts := by rw [h]
theorem saved (h : Recorded s t) : t.fr.saved = s.fr.saved := by rw [h]
theorem ports (h : Recorded s t) : t.pl.ports = s.pl.ports := by rw [h]
theorem parts (h : Recorded s t) : t.pl.parts = s.pl.parts := by rw [h]
theorem funcs (h : Recorded s t) : t.pl.funcs = s.pl.funcs := by rw [h]
theorem clusters (h : Recorded s t) : t.pl.clusters = s.pl.clusters := by rw [h]
theorem units (h : Recorded s t) : t.pl.units = s.pl.units := by rw [h]
theorem mgmt (h : Recorded s t) : t.pl.mgmt = s.pl.mgmt := by rw [h]

end Recorded

theorem recorded_mem (s : State) (m : Mem) : Recorded s { s with mem := m } := rfl
theorem recorded_send (s : State) (k : Nat) (v : List Nat) : Recorded s (s.send k v) := rfl
theorem recorded_setTenant (s : State) (k : Nat) (t : Tenant) : Recorded s (s.setTenant k t) := rfl
theorem recorded_setQuote (s : State) (k : Nat) (q : Quote) : Recorded s (s.setQuote k q) := rfl
theorem recorded_setDcb (s : State) (k v : Nat) : Recorded s (s.setDcb k v) := rfl

theorem recorded_modLaunch (s : State) (k : Nat) (f : Launch → Launch) : Recorded s (s.modLaunch k f) := by
  unfold modLaunch
  split <;> exact .refl _

theorem recorded_logRecord (s : State) (d quoted actual detail cause kind party core time : Nat) (voided : Bool) :
    Recorded s (s.logRecord d quoted actual detail cause kind party core time voided) := by
  unfold logRecord
  dsimp only
  split
  · exact recorded_setTenant ..
  · split
    · exact ((recorded_mem ..).trans (recorded_send ..)).trans (recorded_setTenant ..)
    · exact (recorded_send ..).trans (recorded_setTenant ..)

theorem recorded_setStatus (s : State) (qid status attr : Nat) : Recorded s (s.setStatus qid status attr) := by
  unfold setStatus
  dsimp only
  split
  · exact .refl s
  · split
    · exact recorded_setQuote ..
    · exact (recorded_setQuote ..).trans (recorded_mem ..)

theorem recorded_countFault (s : State) (d : Nat) : Recorded s (s.countFault d) := by
  unfold countFault
  dsimp only
  split
  · exact .refl s
  · exact recorded_setDcb ..

theorem recorded_breach (s : State) (d cause detail core : Nat) : Recorded s (s.breach d cause detail core) := by
  unfold breach
  split
  · exact .refl s
  · dsimp only
    split
    · exact (((recorded_logRecord ..).trans (recorded_setStatus ..)).trans (recorded_modLaunch ..)).trans (.foldl recorded_countFault _ _)
    · exact ((recorded_logRecord ..).trans (recorded_setStatus ..)).trans (recorded_modLaunch ..)

theorem recorded_setDcbState (s : State) (d st : Nat) : Recorded s (s.setDcbState d st) :=
  (recorded_setDcb s _ _).trans (.foldl (fun t k => recorded_setDcb t k _) _ _)

theorem recorded_noteStopped (s : State) (d : Nat) : Recorded s (s.noteStopped d) := by
  unfold noteStopped
  split
  · exact .refl s
  · exact ((recorded_breach s _ _ _ _).trans (recorded_modLaunch _ _ _)).trans (recorded_setDcbState _ _ _)

theorem recorded_overrun (s : State) (d kind quoted actual : Nat) : Recorded s (s.overrun d kind quoted actual) := recorded_logRecord ..

/-! ## Units (R411, R412) -/

/-- From `s` to `t` quadrants and cores, the units and what management notes of routes may have changed, and nothing else has. -/
def UnitWork (s t : State) : Prop :=
  t = { s with
    ex := { s.ex with quads := t.ex.quads, cores := t.ex.cores }
    pl := { s.pl with units := t.pl.units, mgmt := { s.pl.mgmt with routesOld := t.pl.mgmt.routesOld } } }

namespace UnitWork

theorem refl (s : State) : UnitWork s s := rfl

theorem trans {s t u : State} (h : UnitWork s t) (h' : UnitWork t u) : UnitWork s u := by
  unfold UnitWork at h h' ⊢
  rw [h] at h'
  exact h'

theorem foldl {α : Type} {f : State → α → State} (h : ∀ s a, UnitWork s (f s a)) (l : List α) (s : State) : UnitWork s (l.foldl f s) := by
  induction l generalizing s with
  | nil => exact refl s
  | cons a rest ih => exact (h s a).trans (ih _)

variable {s t : State}

theorem mem (h : UnitWork s t) : t.mem = s.mem := by rw [h]
theorem tr (h : UnitWork s t) : t.tr = s.tr := by rw [h]
theorem fr (h : UnitWork s t) : t.fr = s.fr := by rw [h]
theorem now (h : UnitWork s t) : t.now = s.now := by rw [h]
theorem events (h : UnitWork s t) : t.events = s.events := by rw [h]
theorem crews (h : UnitWork s t) : t.ex.crews = s.ex.crews := by rw [h]
theorem ports (h : UnitWork s t) : t.pl.ports = s.pl.ports := by rw [h]
theorem parts (h : UnitWork s t) : t.pl.parts = s.pl.parts := by rw [h]
theorem clusters (h : UnitWork s t) : t.pl.clusters = s.pl.clusters := by rw [h]
theorem out (h : UnitWork s t) : t.pl.out = s.pl.out := by rw [h]

end UnitWork

theorem unitWork_modCore (s : State) (k : Nat) (f : Core → Core) : UnitWork s (s.modCore k f) := rfl
theorem unitWork_modQuad (s : State) (k : Nat) (f : Quad → Quad) : UnitWork s (s.modQuad k f) := rfl

theorem unitWork_retireUnit (s : State) (u : Nat) : UnitWork s (s.retireUnit u) := by
  unfold retireUnit
  dsimp only
  refine UnitWork.trans (t := match u / 4096 with
    | 0 => s.modQuad (u % 4096) fun q => { q with owner := 0 }
    | 1 => s.modCore (u % 4096) fun c => { c with retired := true }
    | 2 => s.modCore (u % 4096) fun c => { c with retired := true }
    | 3 => s.modCore (u % 4096) fun c => { c with chans := c.chans.map fun (p : Nat × Channel) => (p.1, { p.2 with owner := 0 }) }
    | 4 => (List.range 8).foldl (fun s i => s.modCore (u % 4096 * 8 + i) fun c => { c with retired := true }) s
    | _ => s) ?_ rfl
  split
  · exact unitWork_modQuad ..
  · exact unitWork_modCore ..
  · exact unitWork_modCore ..
  · exact unitWork_modCore ..
  · exact .foldl (fun t i => unitWork_modCore t _ _) _ s
  · exact .refl s

theorem unitWork_retireUnits (s : State) : UnitWork s s.retireUnits := by
  unfold retireUnits
  refine .foldl (fun t p => ?_) _ s
  split
  · exact .refl t
  · exact unitWork_retireUnit t _

theorem unitWork_countUnit (s : State) (u : Nat) : UnitWork s (s.countUnit u) := by
  unfold countUnit
  refine UnitWork.trans ?_ (unitWork_retireUnits _)
  rfl

end Sys2Proof.Proofs.Records
end

section
/-! PROOF. Walks, the refill of a bad entry, and invalidations (R23 to R28, R416): O34. -/

namespace Sys2Proof.Proofs.Translation

open Sys2Proof.Machine Sys2Proof.Machine.State Sys2Proof.Proofs.Records Sys2Proof.Proofs.EngineIssue

theorem walkPool_setWalk (s : State) (die : Nat) (w : WalkPool) : (s.setWalk die w).walkPool die = w := SMap.get_put_self _ _ _ _

theorem func_setFunc (s : State) (k : Nat) (f : Func) : (s.setFunc k f).func k = f := SMap.get_put_self _ _ _ _

/-! ## Walk requests (R24, R25) -/

section

variable {s : State} {die asid va kind who : Nat}

/-- The walk in progress that a request may join. -/
def sharedWalk (w : WalkPool) (asid va : Nat) : Option Walk :=
  w.walks.find? fun k => decide (k.req.asid = asid) && !k.discard && sameDown k.req.va va k.level

theorem joinWalk_eq (w : WalkPool) (r : WalkReq) : joinWalk w r = (sharedWalk w r.asid r.va).map fun k =>
    { w with walks := w.walks.map fun o => if o.id = k.id then { o with followers := o.followers ++ [r] } else o } := rfl

theorem walkRequest_joins {k : Walk} (h : sharedWalk (s.walkPool die) asid va = some k) :
    exec (.walkRequest die asid va kind who) s = .next (s.setWalk die { s.walkPool die with
      walks := (s.walkPool die).walks.map fun o => if o.id = k.id then { o with followers := o.followers ++ [{ asid := asid, va := va, kind := kind, who := who }] } else o }) := by
  rw [exec_walkRequest, execWalkRequest]
  dsimp only
  rw [takeWalk, joinWalk_eq, h]
  cases (s.walkPool die).queue.isEmpty <;> rfl

/-- A request that may lead a walk does what `takeWalk` says. -/
theorem walkRequest_takes (hq : (s.walkPool die).queue = []) {w : WalkPool} (h : s.takeWalk (s.walkPool die) { asid := asid, va := va, kind := kind, who := who } = some w) :
    exec (.walkRequest die asid va kind who) s = .next (s.setWalk die w) := by
  rw [exec_walkRequest, execWalkRequest]
  rw [hq, h]
  rfl

theorem takeWalk_of_none {w : WalkPool} {r : WalkReq} (h : sharedWalk w r.asid r.va = none) (hw : busyWalkers w < 64) :
    s.takeWalk w r = match s.rootOf r.asid with
      | .error e => some (endWalks w [r] fun r => ⟨r, none, e⟩)
      | .ok root => some { w with
          walks := w.walks ++ [{ id := w.nextId, req := r, level := ((walkCached w r.asid r.va).getD (4, root)).1, table := ((walkCached w r.asid r.va).getD (4, root)).2 }]
          nextId := w.nextId + 1 } := by
  rw [takeWalk, joinWalk_eq, h]
  exact (if_neg (Nat.not_le.mpr hw)).trans rfl

theorem walkRequest_waits (h : sharedWalk (s.walkPool die) asid va = none) (hbusy : (s.walkPool die).queue ≠ [] ∨ 64 ≤ busyWalkers (s.walkPool die)) :
    exec (.walkRequest die asid va kind who) s = .next (if (s.walkPool die).queue.length < 512 then
      s.setWalk die { s.walkPool die with queue := (s.walkPool die).queue ++ [{ asid := asid, va := va, kind := kind, who := who }] } else s) := by
  have hnone : (if (s.walkPool die).queue.isEmpty then s.takeWalk (s.walkPool die) { asid := asid, va := va, kind := kind, who := who }
      else joinWalk (s.walkPool die) { asid := asid, va := va, kind := kind, who := who }) = none := by
    rw [takeWalk, joinWalk_eq, h]
    rcases hbusy with hq | hb
    · rw [if_neg (by rwa [List.isEmpty_iff])]
      rfl
    · dsimp only [Option.map_none]
      rw [if_pos hb, ite_self]
  rw [exec_walkRequest, execWalkRequest]
  dsimp only
  rw [hnone]
  dsimp only
  by_cases hl : (s.walkPool die).queue.length < 512
  · rw [if_pos hl, if_neg (Nat.not_le.mpr hl)]
  · rw [if_neg hl, if_pos (Nat.not_lt.mp hl)]

end

/-! ## Entries read (R25 to R27) -/

theorem walkEntryRead_eq {s : State} {die walk : Nat} {k : Walk} (h : ((s.walkPool die).walks.find? fun k => decide (k.id = walk)) = some k) (hr : k.running = true) :
    exec (.walkEntryRead die walk) s =
      (let u := s.touchL2 (sectorOf (memKey 1 (k.table + 8 * vaIdx k.req.va k.level)))
       if k.discard then .next (u.closeWalk die k.id (s.walkPool die))
       else match u.readPte k.req.asid k.req.va k.level k.table with
        | .fail e => .next (u.closeWalk die k.id (endWalks (s.walkPool die) (k.req :: k.followers) fun r => ⟨r, none, e⟩))
        | .table pa => .next (u.walkSplit die (s.walkPool die) k pa)
        | .leaf t => .next (u.walkLeaf die (s.walkPool die) k t)) := by
  rw [exec_walkEntryRead, execWalkEntryRead]
  dsimp only
  rw [h]
  dsimp only
  rw [hr]
  rfl

/-! ## The refill of a bad entry (R23) -/

theorem tlbParityRefill_spec {s : State} {cluster asid va k : Nat} {e : TlbEnt} {p : Pin}
    (he : List.find? (fun e : Nat × TlbEnt => decide (e.1 / 8192 = cluster) && e.2.pinned && e.2.tr.covers asid va) s.tr.tlb = some (k, e))
    (hp : ((SMap.get [] s.tr.pins (cluster / 5)).find? fun p => p.tr.covers asid va && !p.forced) = some p) :
    ∃ t, exec (.tlbParityRefill cluster asid va) s = .next t ∧ SMap.find? t.tr.tlb k = some { e with tr := p.tr, bad := false } := by
  rw [exec_tlbParityRefill, execTlbParityRefill]
  dsimp only
  rw [he]
  dsimp only
  rw [hp]
  dsimp only
  refine ⟨_, rfl, ?_⟩
  rw [(Recorded.foldl (f := fun (s : State) (d : Nat) => if (s.launch d).q.quads.any fun q => decide (clusterOf (q / 4) = cluster) then s.breach d 0x27 cluster (s.coreIn d cluster) else s)
    (fun t d => by
      split
      · exact recorded_breach t _ _ _ _
      · exact .refl t) _ _).tr, (unitWork_countUnit _ _).tr]
  exact SMap.find?_put_self _ _ _

/-! ## Invalidations (R27, R28, R416) -/

/-- INVCMD as a command leaves it. -/
def invWord (kind force va status : Nat) : DWord := BitVec.ofNat 64 (va / 4096 % 2 ^ 52 * 4096 + kind * 64 + force * 32 + status)

theorem invWord_spec {kind force status : Nat} (va : Nat) (hk : kind ≤ 3) (hf : force ≤ 1) (hs : status ≤ 3) :
    bits (invWord kind force va status).toNat 7 6 = kind ∧ (invWord kind force va status).toNat % 4 = status := by
  have hva : va / 4096 % 4503599627370496 < 4503599627370496 := Nat.mod_lt _ (by decide)
  unfold invWord bits
  rw [BitVec.toNat_ofNat]
  omega

section

variable (s : State) (kind asid va : Nat)

theorem invClear_spec : (s.invClear kind asid va).mem = s.mem ∧ (s.invClear kind asid va).pl = s.pl ∧
    (s.invClear kind asid va).tr.tlb = List.filter (fun e : Nat × TlbEnt => e.2.pinned || !invMatches kind asid va e.2.tr) s.tr.tlb := ⟨rfl, rfl, rfl⟩

theorem invStatus_le : s.invStatus kind asid va ≤ 3 := by
  unfold invStatus
  split
  · decide
  · split <;> decide

/-- After the clearing of an invalidation what is left is pinned or does not match. -/
theorem invClear_clears : ∀ q ∈ (s.invClear kind asid va).tr.tlb, q.2.pinned = true ∨ invMatches kind asid va q.2.tr = false := fun q hq => by
  rw [(invClear_spec s kind asid va).2.2] at hq
  simpa using (List.mem_filter.mp hq).2

end

section

variable {s : State} {port fn : Nat}

theorem doInvalidate_eq (hr : (s.func (funcKey port fn)).resetting = false) (hb : (s.func (funcKey port fn)).invcmd.toNat % 4 ≠ 1) (kind va : Nat) :
    s.doInvalidate port fn kind va =
      (let asid := s.funcAsid (s.func (funcKey port fn))
       let u := s.invClear kind asid va
       let st := u.invStatus kind asid va
       u.setInv (funcKey port fn) (s.func (funcKey port fn)) kind 0 va st (if st = 0 then [] else [(kind, asid, va)])) := by
  unfold doInvalidate
  dsimp only
  rw [hr, decide_eq_false hb]
  rfl

theorem invRefuse_eq (hr : (s.func (funcKey port fn)).resetting = false) (hb : (s.func (funcKey port fn)).invcmd.toNat % 4 ≠ 1) (kind va : Nat) :
    s.invRefuse port fn kind va = s.setInv (funcKey port fn) (s.func (funcKey port fn)) kind 0 va 3 [] := by
  unfold invRefuse
  dsimp only
  rw [hr, decide_eq_false hb]
  rfl

theorem invcmd_setInv (s : State) (k : Nat) (f : Func) (kind force va status : Nat) (l : List (Nat × Nat × Nat)) :
    ((s.setInv k f kind force va status l).func k).invcmd = invWord kind force va status := by
  unfold setInv
  rw [func_setFunc]
  rfl

/-- What an invalidation leaves. -/
theorem doInvalidate_spec (hr : (s.func (funcKey port fn)).resetting = false) (hb : (s.func (funcKey port fn)).invcmd.toNat % 4 ≠ 1) {kind : Nat} (hk : kind ≤ 3) (va : Nat) :
    (∀ q ∈ (s.doInvalidate port fn kind va).tr.tlb, q.2.pinned = true ∨ invMatches kind (s.funcAsid (s.func (funcKey port fn))) va q.2.tr = false) ∧
    bits ((s.doInvalidate port fn kind va).func (funcKey port fn)).invcmd.toNat 7 6 = kind ∧ (s.doInvalidate port fn kind va).mem = s.mem := by
  rw [doInvalidate_eq hr hb]
  refine ⟨invClear_clears s _ _ _, ?_, rfl⟩
  dsimp only
  rw [invcmd_setInv]
  exact (invWord_spec va hk (Nat.zero_le 1) (invStatus_le ..)).1

theorem invRefuse_spec (hr : (s.func (funcKey port fn)).resetting = false) (hb : (s.func (funcKey port fn)).invcmd.toNat % 4 ≠ 1) {kind : Nat} (hk : kind ≤ 3) (va : Nat) :
    (s.invRefuse port fn kind va).tr = s.tr ∧ ((s.invRefuse port fn kind va).func (funcKey port fn)).invcmd.toNat % 4 = 3 := by
  rw [invRefuse_eq hr hb]
  refine ⟨rfl, ?_⟩
  rw [invcmd_setInv]
  exact (invWord_spec va hk (Nat.zero_le 1) (Nat.le_refl 3)).2

/-- A forced invalidation leaves no matching entry at all. -/
theorem forcedInvalidation_spec (hr : (s.func (funcKey port fn)).resetting = false) (hb : (s.func (funcKey port fn)).invcmd.toNat % 4 ≠ 1) {kind : Nat} (vpn : Nat)
    (hk : kind ≤ 2) (hall : kind = 2 → fn = 0) :
    ∃ t, exec (.forcedInvalidation port fn kind vpn) s = .next t ∧
      ∀ q ∈ t.tr.tlb, invMatches kind (s.funcAsid (s.func (funcKey port fn))) (if kind = 0 then vpn * 4096 % 2 ^ 64 else 0) q.2.tr = false := by
  have hok : ¬(kind = 3 ∨ (kind = 2 ∧ fn ≠ 0)) := by omega
  rw [exec_forcedInvalidation, execForcedInvalidation]
  dsimp only
  rw [if_neg hok, hr, decide_eq_false hb]
  generalize (if kind = 0 then vpn * 4096 % 2 ^ 64 else 0) = va
  generalize s.funcAsid (s.func (funcKey port fn)) = asid
  refine ⟨_, rfl, fun q hq => ?_⟩
  rw [(Recorded.foldl (fun t d => recorded_breach t d 0x44 0 255) _ _).tr] at hq
  change q ∈ List.filter _ (List.filter _ _) at hq
  rw [List.mem_filter, List.mem_filter] at hq
  obtain ⟨⟨_, hpinned⟩, hleft⟩ := hq
  cases hp : q.2.pinned <;> simp_all

end

/-- Settles O34: walks by the cases of `takeWalk` and of the entry, invalidations by what their clearing leaves. -/
theorem translationEventsAct : Obligations.TranslationEventsAct := by
  unfold Obligations.TranslationEventsAct
  refine ⟨fun s die asid va kind who => ?requests, fun s die walk k h hr => ?entries, fun s cluster asid va k e p he hp => tlbParityRefill_spec he hp,
    fun s port fn vpn => ?invalidations, fun s port fn kind asid va l => ?completion⟩
  case requests =>
    intro w r shared
    refine ⟨fun k hk => walkRequest_joins hk, fun root hnone hq hw hroot => ?_, fun e hnone hq hw hroot => ?_, fun hnone hbusy => walkRequest_waits hnone hbusy⟩
    · have htake := takeWalk_of_none (s := s) (w := w) (r := r) hnone hw
      rw [show s.rootOf r.asid = .ok root from hroot] at htake
      refine ⟨_, walkRequest_takes hq htake, rfl, ?_⟩
      rw [walkPool_setWalk]
    · have htake := takeWalk_of_none (s := s) (w := w) (r := r) hnone hw
      rw [show s.rootOf r.asid = .error e from hroot] at htake
      exact walkRequest_takes hq htake
  case entries =>
    intro w u
    have e := walkEntryRead_eq h hr
    refine ⟨fun hd => e.trans (if_pos hd), fun err hd hp => ?_, fun pa hd hp => ?_, fun l hd hp => ?_⟩
    all_goals
      refine e.trans ((if_neg (Bool.eq_false_iff.mp hd)).trans ?_)
      rw [show readPte _ k.req.asid k.req.va k.level k.table = _ from hp]
  case invalidations =>
    intro k f hres hbusy asid Cleared
    refine ⟨⟨_, exec_invalidatePage s port fn vpn, doInvalidate_spec hres hbusy (by decide) _⟩, ⟨_, exec_invalidateAsid s port fn, doInvalidate_spec hres hbusy (by decide) _⟩,
      fun h0 => ?_, fun h0 => ?_, fun kind hkind => ?_, fun kind hk hall => forcedInvalidation_spec hres hbusy vpn hk hall⟩
    · refine ⟨_, (exec_invalidateAllAsids s port fn).trans (congrArg Host.Outcome.next (if_pos h0)), doInvalidate_spec hres hbusy (by decide) _⟩
    · refine ⟨_, (exec_invalidateAllAsids s port fn).trans (congrArg Host.Outcome.next (if_neg h0)), invRefuse_spec hres hbusy (by decide) _⟩
    · refine ⟨_, (exec_invcmdRefused s port fn kind).trans (congrArg Host.Outcome.next (if_pos hkind)), invRefuse_spec hres hbusy (by omega) _⟩
  case completion =>
    intro k f st hl
    refine ⟨s.setFunc k { f with invcmd := BitVec.ofNat 64 (f.invcmd.toNat - f.invcmd.toNat % 4 + st), invList := if st = 0 then [] else f.invList }, ?_, rfl, func_setFunc _ _ _⟩
    rw [exec_invalidationComplete, execInvalidationComplete]
    dsimp only
    rw [show (s.func (funcKey port fn)).invList = _ from hl]

end Sys2Proof.Proofs.Translation
end

section
/-! PROOF. Accesses at their homes (R66 to R70, R78, R145, R261): O35. -/

namespace Sys2Proof.Proofs.HomeEvents

open Sys2Proof.Machine Sys2Proof.Machine.State Sys2Proof.Safety Sys2Proof.Proofs.Homes Sys2Proof.Proofs.Lives

/-! ## The caches alone -/

/-- Home work that changes no byte, no pending store and no lock. -/
structure CacheWork (s t : State) : Prop where
  home  : HomeWork s t
  mem   : t.mem = s.mem
  pend  : t.coh.pend = s.coh.pend
  locks : t.coh.locks = s.coh.locks

namespace CacheWork

theorem refl (s : State) : CacheWork s s := ⟨.refl s, rfl, rfl, rfl⟩

theorem trans {s t u : State} (h : CacheWork s t) (h' : CacheWork t u) : CacheWork s u :=
  ⟨h.home.trans h'.home, h'.mem.trans h.mem, h'.pend.trans h.pend, h'.locks.trans h.locks⟩

theorem foldl {α : Type} {f : State → α → State} (h : ∀ s a, CacheWork s (f s a)) (l : List α) (s : State) : CacheWork s (l.foldl f s) := by
  induction l generalizing s with
  | nil => exact refl s
  | cons a rest ih => exact (h s a).trans (ih _)

theorem of_l2 (s : State) (m : SMap L2Way) (f : SMap Nat) : CacheWork s { s with coh := { s.coh with l2 := m, floors := f } } := ⟨.of_coh s _, rfl, rfl, rfl⟩

end CacheWork

theorem cacheWork_recordPoison (s : State) (sec : Nat) : CacheWork s (s.recordPoison sec) := by
  refine ⟨homeWork_recordPoison s sec, ?_, ?_, ?_⟩
  all_goals
    unfold recordPoison
    dsimp only
    repeat' split
    all_goals rfl

theorem cacheWork_backPoison (s : State) (sec : Nat) (x : Option (Lease × Bool)) : CacheWork s (s.backPoison sec x) := by
  unfold backPoison
  split
  · exact cacheWork_recordPoison s sec
  · exact .refl s

theorem cacheWork_evictL2 (s : State) (k : Nat) : CacheWork s (s.evictL2 k) := by
  unfold evictL2
  split
  · exact .refl s
  · exact ((cacheWork_backPoison s _ _).trans (cacheWork_backPoison _ _ _)).trans (.of_l2 _ _ _)

theorem cacheWork_residentL2 (s : State) (prt sec : Nat) : CacheWork s (s.residentL2 prt sec) := by
  unfold residentL2
  split
  · dsimp only
    split <;> exact .of_l2 s _ _
  · dsimp only
    split
    · exact .refl s
    · exact (cacheWork_evictL2 s _).trans (.of_l2 _ _ _)

theorem cacheWork_putLease (s : State) (sec : Nat) (l : Lease) : CacheWork s (s.putLease sec l) := by
  unfold putLease
  split
  · exact .of_l2 s _ _
  · exact .refl s

theorem cacheWork_markDirty (s : State) (sec : Nat) : CacheWork s (s.markDirty sec) := by
  unfold markDirty
  split
  · exact .of_l2 s _ _
  · exact .refl s

theorem cacheWork_touchL2 (s : State) (sec : Nat) : CacheWork s (s.touchL2 sec) := by
  unfold touchL2
  split
  · exact .of_l2 s _ _
  · exact .refl s

/-! ## Operations of a crew -/

theorem findOp_modOp {c : Crew} {op : Nat} {o : Op} (h : c.findOp op = some o) (f : Op → Op) (hid : ∀ o, (f o).id = o.id) : (c.modOp op f).findOp op = some (f o) := by
  unfold Crew.findOp at h ⊢
  unfold Crew.modOp
  generalize c.ops = os at h ⊢
  induction os with
  | nil => cases h
  | cons p rest ih =>
    rw [List.map_cons, List.find?_cons]
    rw [List.find?_cons] at h
    by_cases hp : p.id = op
    · rw [if_pos hp, hid, decide_eq_true hp]
      rw [decide_eq_true hp] at h
      rw [Option.some.inj h]
    · rw [if_neg hp, decide_eq_false hp]
      rw [decide_eq_false hp] at h
      exact ih h

theorem findOp_setAcc {c : Crew} {op : Nat} {o : Op} (h : c.findOp op = some o) (k : Nat) (a : Acc) : (c.modOp op fun o => o.setAcc k a).findOp op = some (o.setAcc k a) :=
  findOp_modOp h _ fun _ => rfl

theorem accOf_eq {c : Crew} {op k : Nat} {o : Op} {a : Acc} (ho : c.findOp op = some o) (ha : (o.accs.drop k).head? = some a) : c.accOf op k = some (o, a) := by
  unfold Crew.accOf
  rw [ho]
  dsimp only
  rw [ha]
  rfl

theorem crew_of_home {s t : State} (h : HomeWork s t) (k : Nat) : t.crew k = s.crew k := congrArg (fun e : Exec => SMap.get ({} : Crew) e.crews k) h.ex

theorem crew_modCrew_self (s : State) (k : Nat) (f : Crew → Crew) : (s.modCrew k f).crew k = f (s.crew k) := State.crew_setCrew_self _ _ _

/-! ## A store that its home accepts (R66) -/

theorem acceptStore_spec (s : State) (h prt launch sec : Nat) (bs : List (Nat × Byte)) (masks : List (Nat × BitVec 2)) :
    HomeWork s (s.acceptStore h prt launch sec bs masks).1 ∧
    (s.acceptStore h prt launch sec bs masks).2 = wctOf ((s.residentL2 prt sec).leaseOf sec) s.now h ((s.pendOf sec).foldl (fun m p => max m p.wct) 0) ∧
    (s.now < (s.acceptStore h prt launch sec bs masks).2 → (s.acceptStore h prt launch sec bs masks).1.mem = s.mem ∧
      ∃ p ∈ (s.acceptStore h prt launch sec bs masks).1.coh.pend, p.sector = sec ∧ p.holder = h ∧ p.wct = (s.acceptStore h prt launch sec bs masks).2) := by
  unfold acceptStore
  extract_lets s1 l prev w s2 _ s3
  have h1 : CacheWork s s1 := cacheWork_residentL2 s prt sec
  have h2 : CacheWork s s2 := h1.trans (cacheWork_putLease s1 sec _)
  have h3 : HomeWork s s3 := h2.home.trans (.of_coh _ _)
  have hprev : prev = (s.pendOf sec).foldl (fun m p => max m p.wct) 0 := by
    subst prev
    unfold pendOf
    rw [h1.pend]
  have hw : w = wctOf ((s.residentL2 prt sec).leaseOf sec) s.now h ((s.pendOf sec).foldl (fun m p => max m p.wct) 0) := by
    subst w
    rw [hprev, h1.home.now]
  have hnow : s3.now = s.now := h3.now
  dsimp only
  refine ⟨?_, hw, fun hlt => ?_⟩
  · split
    · exact h3.trans (homeWork_performSector s3 sec)
    · exact h3
  · rw [if_neg (by omega)]
    exact ⟨h2.mem, _, List.mem_append_right _ (List.mem_singleton_self _), rfl, rfl, rfl⟩

theorem le_wctOf (l : Lease) (now h prev : Nat) : now ≤ wctOf l now h prev := Nat.le_trans (Nat.le_max_left ..) (Nat.le_max_left ..)

/-- The state in which an atomic has been served at its home. -/
def atomicServed (s : State) (crew op k : Nat) (o : Op) (a : Acc) : State :=
  let v := s.homeView 0 (Acc.sector a) true
  let old := a.keys.map v.mem.byte
  let r := s.acceptStore (s.holderOf crew) (s.crewPart crew) (s.launchNo crew) (Acc.sector a) (a.keys.zip (atomBytes o a old))
  let t := if keepsPoison o.fmt then r.1.poisonKeys (a.keys.filter v.poisoned) else r.1
  t.modCrew crew fun c => c.modOp op fun o => o.setAcc k { a with data := old, pois := v.poisonWords a.keys, stage := 1, wct := r.2 }

theorem noteRegionWct_spec (s : State) (k region wct : Nat) : (∀ j, (s.noteRegionWct k region wct).crew j = s.crew j) ∧
    (s.noteRegionWct k region wct).fr = s.fr ∧ (s.noteRegionWct k region wct).now = s.now ∧ (s.noteRegionWct k region wct).mem = s.mem := by
  unfold noteRegionWct
  split
  · exact ⟨fun _ => rfl, rfl, rfl, rfl⟩
  · exact ⟨fun _ => rfl, rfl, rfl, rfl⟩

theorem pairLanes_congr {s t : State} {k : Nat} (hcrew : t.crew k = s.crew k) (hfr : t.fr = s.fr) (l : Nat) : t.pairLanes k l = s.pairLanes k l := by
  unfold pairLanes protectedCrew State.launch
  rw [hcrew, hfr]

section

variable {s : State} {crew op k : Nat} {o : Op} {a : Acc}

/-- Nothing holds an access back at its home. -/
structure Admitted (s : State) (crew k : Nat) (o : Op) (a : Acc) : Prop where
  lock   : s.locked (Acc.sector a) = false
  turn   : s.inTurn crew o k (Acc.sector a) = true
  frozen : (s.crew crew).frozen = false
  grant  : s.inGrants (s.crewPart crew) (a.keys.headD 0) = true

variable (ho : (s.crew crew).findOp op = some o) (ha : (o.accs.drop k).head? = some a)

include ho ha

theorem fillRequest_eq (hkind : o.kind = .load) (hspace : a.space = 0) (hstage : a.stage = 0) (hfree : Admitted s crew k o a)
    (hcommit : s.commitHolds (coreOf crew) (s.crewPart crew) (Acc.sector a) = false) {p : State × Acc}
    (hp : (if 2 ≤ a.loc ∧ a.loc ≤ 3 then (s, s.readHost a) else s.fillAt crew o a) = p) :
    exec (.fillRequest crew op k) s = .next (p.1.modCrew crew fun c => c.modOp op fun o => o.setAcc k p.2) := by
  rw [exec_fillRequest, execFillRequest]
  dsimp only
  rw [ho]
  dsimp only
  rw [ha]
  refine (if_neg ?_).trans ((if_neg (by rw [hfree.grant]; exact Bool.false_ne_true)).trans ?_)
  · rw [hkind, hspace, hstage, hfree.lock, hfree.turn, hcommit, hfree.frozen]
    simp
  · rw [hp]

/-- STORE_AT_HOME past its checks. -/
theorem storeAtHome_eq (hkind : o.kind = .store) (hspace : a.space = 0) (hstage : a.stage = 0) (hchecked : o.checked = true) (hfree : Admitted s crew k o a) :
    exec (.storeAtHome crew op k) s =
      (if 2 ≤ a.loc ∧ a.loc ≤ 3 then
        .next ((s.snapshot (s.launchNo crew) (a.keys.headD 0)).modCrew crew fun c => c.modOp op fun o => o.setAcc k { a with stage := 1 })
      else if 2048 ≤ s.pendCount (homeDie (a.keys.headD 0)) then .next s
      else
        let bs := if a.nib = 0 then [] else a.keys.zip a.data
        let masks := if a.nib = 3 then [] else a.keys.map fun key => (key, a.nib)
        let r := s.acceptStore (s.holderOf crew) (s.crewPart crew) (s.launchNo crew) (Acc.sector a) bs masks
        .next (r.1.modCrew crew fun c => c.modOp op fun o => o.setAcc k { a with stage := 1, wct := r.2 })) := by
  rw [exec_storeAtHome, execStoreAtHome]
  dsimp only
  rw [accOf_eq ho ha]
  refine (if_neg ?_).trans (if_neg (by rw [hfree.grant]; exact Bool.false_ne_true))
  rw [hkind, hspace, hstage, hchecked, hfree.lock, hfree.turn, hfree.frozen]
  simp

theorem storeAtHome_spec (hkind : o.kind = .store) (hspace : a.space = 0) (hstage : a.stage = 0) (hloc : a.loc < 2) (hchecked : o.checked = true)
    (hfree : Admitted s crew k o a) (hroom : s.pendCount (homeDie (a.keys.headD 0)) < 2048) {w : Nat}
    (hw : w = wctOf ((s.residentL2 (s.crewPart crew) (Acc.sector a)).leaseOf (Acc.sector a)) s.now (s.holderOf crew) ((s.pendOf (Acc.sector a)).foldl (fun m p => max m p.wct) 0)) :
    ∃ t, exec (.storeAtHome crew op k) s = .next t ∧ (t.crew crew).findOp op = some (o.setAcc k { a with stage := 1, wct := w }) ∧
      (s.now < w → (∀ b, t.mem.byte b = s.mem.byte b) ∧ ∃ p ∈ t.coh.pend, p.sector = Acc.sector a ∧ p.holder = s.holderOf crew ∧ p.wct = w) := by
  have e := storeAtHome_eq ho ha hkind hspace hstage hchecked hfree
  rw [if_neg (by omega), if_neg (Nat.not_le.mpr hroom)] at e
  obtain ⟨hhome, hwct, hpend⟩ := acceptStore_spec s (s.holderOf crew) (s.crewPart crew) (s.launchNo crew) (Acc.sector a)
    (if a.nib = 0 then [] else a.keys.zip a.data) (if a.nib = 3 then [] else a.keys.map fun key => (key, a.nib))
  rw [← hw] at hwct
  refine ⟨_, e, ?_, fun hlt => ?_⟩
  · rw [crew_modCrew_self, crew_of_home hhome, findOp_setAcc ho, hwct]
  · obtain ⟨hmem, p, hp, hsec, hholder, hpw⟩ := hpend (hwct.symm ▸ hlt)
    exact ⟨fun b => congrArg (fun m : Mem => m.byte b) hmem, p, hp, hsec, hholder, hpw.trans hwct⟩

theorem atomicAtHome_spec (hkind : o.kind = .atomic) (hspace : a.space = 0) (hstage : a.stage = 0) (hfree : Admitted s crew k o a)
    (hroom : s.pendCount (homeDie (a.keys.headD 0)) < 2048) :
    ∃ t w, exec (.atomicAtHome crew op k) s = .next t ∧ s.now ≤ w ∧ (t.crew crew).findOp op = some (o.setAcc k
      { a with data := a.keys.map (s.homeView 0 (Acc.sector a) true).mem.byte, pois := (s.homeView 0 (Acc.sector a) true).poisonWords a.keys, stage := 1, wct := w }) := by
  obtain ⟨hhome, hwct, _⟩ := acceptStore_spec s (s.holderOf crew) (s.crewPart crew) (s.launchNo crew) (Acc.sector a)
    (a.keys.zip (atomBytes o a (a.keys.map (s.homeView 0 (Acc.sector a) true).mem.byte))) []
  have e : exec (.atomicAtHome crew op k) s = .next (atomicServed s crew op k o a) := by
    rw [exec_atomicAtHome, execAtomicAtHome]
    dsimp only
    rw [accOf_eq ho ha]
    refine (if_neg ?_).trans ((if_neg (by rw [hfree.grant]; exact Bool.false_ne_true)).trans (if_neg (Nat.not_le.mpr hroom)))
    rw [hkind, hspace, hstage, hfree.lock, hfree.turn, hfree.frozen]
    simp
  refine ⟨_, _, e, hwct ▸ le_wctOf .., ?_⟩
  unfold atomicServed
  rw [crew_modCrew_self]
  refine findOp_setAcc ?_ _ _
  split
  · exact (congrArg (fun c : Crew => c.findOp op) (crew_of_home hhome crew)).trans ho
  · exact (congrArg (fun c : Crew => c.findOp op) (crew_of_home hhome crew)).trans ho

omit ha in
/-- A WCT returns to the lanes `m` of the crew. -/
theorem acked_spec {t : State} (hcrew : t.crew crew = s.crew crew) (m : Lanes) (w : Nat) (a' : Acc) :
    ((t.modCrew crew fun c => (c.modOp op fun o => o.setAcc k a').mapLanes m fun _ u => { u with wctlast := max u.wctlast w }).crew crew).findOp op = some (o.setAcc k a') ∧
    ∀ l, hasLane m l = true → SMap.find? (s.crew crew).threads l ≠ none →
      (((t.modCrew crew fun c => (c.modOp op fun o => o.setAcc k a').mapLanes m fun _ u => { u with wctlast := max u.wctlast w }).crew crew).thread l).wctlast =
        max ((s.crew crew).thread l).wctlast w := by
  rw [crew_modCrew_self, hcrew]
  refine ⟨findOp_setAcc ho k a', fun l hl hsome => ?_⟩
  rw [thread_mapLanes_of_has (c := (s.crew crew).modOp op fun o => o.setAcc k a') hl (Option.isSome_iff_ne_none.mpr hsome)]
  rfl

theorem portStoreReport_spec (hkind : o.kind = .store) (hloc : 2 ≤ a.loc) (hloc' : a.loc ≤ 3) (hstage : a.stage = 1) :
    ∃ t, exec (.portStoreReport crew op k) s = .next t ∧ (t.crew crew).findOp op = some (o.setAcc k { a with stage := 2, wct := s.now }) ∧
      (∀ b, b ∉ a.keys → t.mem.byte b = s.mem.byte b) ∧
      ∀ l, hasLane (s.pairLanes crew a.lane) l = true → SMap.find? (s.crew crew).threads l ≠ none →
        ((t.crew crew).thread l).wctlast = max ((s.crew crew).thread l).wctlast s.now := by
  have hstore := Stores.memOnly_storeHere s a
  have hnote := noteRegionWct_spec (s.storeHere a) crew a.region s.now
  have hcrew : ((s.storeHere a).noteRegionWct crew a.region s.now).crew crew = s.crew crew :=
    (hnote.1 crew).trans (congrArg (fun e : Exec => SMap.get ({} : Crew) e.crews crew) hstore.ex)
  have hlanes : ((s.storeHere a).noteRegionWct crew a.region s.now).pairLanes crew a.lane = s.pairLanes crew a.lane :=
    pairLanes_congr hcrew (hnote.2.1.trans hstore.fr) _
  have hnow : ((s.storeHere a).noteRegionWct crew a.region s.now).now = s.now := hnote.2.2.1.trans hstore.now
  obtain ⟨hop, hwct⟩ := acked_spec (k := k) ho hcrew (s.pairLanes crew a.lane) s.now { a with stage := 2, wct := s.now }
  refine ⟨_, (exec_portStoreReport s crew op k).trans ?_, hop, fun b hb => ?_, hwct⟩
  · rw [execPortStoreReport, accOf_eq ho ha]
    refine (if_neg (by rw [hkind, hstage]; simp; omega)).trans ?_
    dsimp only
    rw [hlanes, hnow]
  · exact (congrArg (fun m : Mem => m.byte b) hnote.2.2.2).trans (Stores.storeHere_byte s a b hb)

theorem storeAck_spec (hkind : o.kind = .store ∨ o.kind = .atomic) (hstage : a.stage = 1) (hloc : a.loc < 2) :
    ∃ t, exec (.storeAck crew op k) s = .next t ∧ t.mem = s.mem ∧ (t.crew crew).findOp op = some (o.setAcc k { a with stage := 2 }) ∧
      ∀ l, hasLane (s.pairLanes crew a.lane) l = true → SMap.find? (s.crew crew).threads l ≠ none →
        ((t.crew crew).thread l).wctlast = max ((s.crew crew).thread l).wctlast a.wct := by
  have hnoted : ∃ u : State, (if a.space = 0 then s.noteRegionWct crew a.region a.wct else s) = u ∧ u.crew crew = s.crew crew ∧ u.fr = s.fr ∧ u.mem = s.mem := by
    by_cases h : a.space = 0
    · have hnote := noteRegionWct_spec s crew a.region a.wct
      exact ⟨_, if_pos h, hnote.1 crew, hnote.2.1, hnote.2.2.2⟩
    · exact ⟨_, if_neg h, rfl, rfl, rfl⟩
  obtain ⟨u, hu, hcrew, hfr, hmem⟩ := hnoted
  obtain ⟨hop, hwct⟩ := acked_spec (k := k) ho hcrew (s.pairLanes crew a.lane) a.wct { a with stage := 2 }
  refine ⟨_, (exec_storeAck s crew op k).trans ?_, ?_, hop, hwct⟩
  · rw [execStoreAck, accOf_eq ho ha]
    refine (if_neg ?_).trans ?_
    · rcases hkind with hkind | hkind <;> rw [hkind, hstage] <;> simp <;> omega
    · dsimp only
      rw [hu, pairLanes_congr hcrew hfr]
  · exact hmem

/-- An LDFE access that finds its granule FULL (R42). -/
theorem ldfeRepresentation_spec (hkind : o.kind = .ldfe) (hstage : a.stage = 0) (hfull : SMap.get false s.mem.fe a.gran = true) :
    ∃ t, exec (.ldfeRepresentation crew op k) s = .next t ∧ (∀ b, t.mem.byte b = s.mem.byte b) ∧ SMap.get false t.mem.fe a.gran = !o.clr ∧
      (t.crew crew).findOp op = some (o.setAcc k { s.readHere a with found := true }) := by
  have hp : s.presentFe o.clr true a =
      ((if o.clr then { s with mem := { s.mem with fe := SMap.set false s.mem.fe a.gran false } } else s), { s.readHere a with found := true }) := by
    unfold State.presentFe
    dsimp only
    rw [hfull]
    rfl
  have hgo : ¬(o.kind ≠ .ldfe ∨ a.stage ≠ 0) := by
    rw [hkind, hstage]
    simp
  have e : ∀ p, s.presentFe o.clr true a = p → exec (.ldfeRepresentation crew op k) s = .next (p.1.modCrew crew fun c => c.modOp op fun o => o.setAcc k p.2) := by
    rintro _ rfl
    rw [exec_ldfeRepresentation, execLdfeRepresentation, ho]
    dsimp only
    rw [ha]
    exact if_neg hgo
  refine ⟨_, e _ hp, ?_⟩
  rw [crew_modCrew_self]
  cases o.clr
  · exact ⟨fun _ => rfl, hfull, findOp_setAcc ho _ _⟩
  · exact ⟨fun _ => rfl, SMap.get_set_self false s.mem.fe a.gran false, findOp_setAcc ho _ _⟩

end

/-! ## What a fill returns does not depend on its lease -/

/-- The state with other caches. -/
def withCoh (s : State) (c : Coh) : State := { s with coh := c }

theorem pendBytes_withCoh (s : State) (c : Coh) (p : Pending) : (withCoh s c).pendBytes p = withCoh (s.pendBytes p) c := by
  unfold pendBytes
  dsimp only
  split <;> rfl

theorem foldl_pendBytes_withCoh (ps : List Pending) (s : State) (c : Coh) : ps.foldl pendBytes (withCoh s c) = withCoh (ps.foldl pendBytes s) c := by
  induction ps generalizing s with
  | nil => rfl
  | cons p rest ih => rw [List.foldl_cons, pendBytes_withCoh, ih, List.foldl_cons]

theorem homeView_withCoh (s : State) (c : Coh) (hp : c.pend = s.coh.pend) (h sec : Nat) (all : Bool) :
    (withCoh s c).homeView h sec all = withCoh (s.homeView h sec all) c := by
  have hpend : (withCoh s c).pendOf sec = s.pendOf sec := congrArg (List.filter fun p : Pending => decide (p.sector = sec)) hp
  unfold homeView
  rw [hpend]
  exact foldl_pendBytes_withCoh _ s c

theorem sectorData_withCoh (s : State) (c : Coh) (sec : Nat) : sectorData (withCoh s c) sec = sectorData s sec := rfl

/-- A grant at the home changes the lease alone. -/
theorem fillSector_fst (s : State) (h prt sec len : Nat) :
    ∃ c : Coh, (s.fillSector h prt sec len).1 = withCoh (s.residentL2 prt sec) c ∧ c.pend = (s.residentL2 prt sec).coh.pend := by
  have hself : ∀ t : State, t = withCoh t t.coh := fun _ => rfl
  unfold fillSector
  dsimp only
  split
  · exact ⟨_, hself _, rfl⟩
  · split
    · exact ⟨_, hself _, rfl⟩
    · dsimp only
      unfold putLease
      split
      · exact ⟨_, rfl, rfl⟩
      · exact ⟨_, hself _, rfl⟩

/-- The bytes that a fill brings are those that its home shows once the sector is resident. -/
theorem fillAt_snd (s : State) (k : Nat) (o : Op) (a : Acc) :
    (s.fillAt k o a).2 =
      (let d := sectorData ((s.residentL2 (s.crewPart k) (Acc.sector a)).homeView (s.holderOf k) (Acc.sector a) false) (Acc.sector a)
       { a with data := overlay (lineBytes d.1 a.keys) a.overlaid, pois := linePois d.2 a.keys, stage := 1 }) := by
  unfold fillAt
  extract_lets core prt sec h lease lease'
  obtain ⟨c, hc, hp⟩ := fillSector_fst s h prt sec lease'
  generalize s.fillSector h prt sec lease' = r at hc
  obtain ⟨t, e⟩ := r
  dsimp only at hc ⊢
  subst hc
  rw [homeView_withCoh _ _ hp, sectorData_withCoh]

section

variable {s : State} {crew op : Nat} {o : Op} (ho : (s.crew crew).findOp op = some o)

include ho

theorem stRetire_eq (hkind : o.kind = .store ∨ o.kind = .atomic ∨ o.kind = .push) (hchecked : o.checked = true) (hvalues : o.kind = .atomic → o.dests = [] ∨ o.extra ≠ 0)
    (haccs : (o.accs.all fun a => decide (2 ≤ a.stage) && (decide (a.space ≠ 0) || decide (a.wct < s.now))) = true) :
    exec (.stRetire crew op) s = .next ((s.modCrew crew fun c => c.modOp op fun o => { o with done := true }).retire crew) := by
  have hnone : (o.accs.any fun a => decide (a.stage < 2) || (decide (a.space = 0) && decide (s.now ≤ a.wct))) = false := by
    rw [List.all_eq_true] at haccs
    refine List.any_eq_false.mpr fun a ha => ?_
    have := haccs a ha
    simp only [Bool.and_eq_true, Bool.or_eq_true, decide_eq_true_iff] at this ⊢
    omega
  rw [exec_stRetire, execStRetire, ho]
  refine if_neg ?_
  rw [hnone, hchecked]
  rintro (⟨hs, ha, hp⟩ | h | ⟨ha, hd, hx⟩ | h)
  · rcases hkind with h | h | h
    · exact hs h
    · exact ha h
    · exact hp h
  · exact absurd h (by decide)
  · rcases hvalues ha with h | h
    · rw [h] at hd
      exact absurd hd (by decide)
    · exact h hx
  · exact absurd h (by decide)

theorem loadReturn_eq (hkind : o.kind = .load ∨ o.kind = .ldfe) :
    exec (.loadReturn crew op) s = .next ((s.modCrew crew fun c => returnAccs c o).retire crew) := by
  rw [exec_loadReturn, execLoadReturn, ho]
  exact if_neg fun h => hkind.elim h.1 h.2

theorem longLatencyResult_eq (hkind : o.kind = .longLat ∨ o.kind = .pop) : exec (.longLatencyResult crew op) s =
    .next ((s.modCrew crew fun c => (c.applyWrites o.masked o.writes).modOp op fun o => { o with done := true }).retire crew) := by
  rw [exec_longLatencyResult, execLongLatencyResult, ho]
  exact if_pos hkind

theorem longLatencyResult_atomic_eq (hkind : o.kind = .atomic) (hextra : o.extra = 0) (hdests : o.dests ≠ [])
    (haccs : (o.accs.all fun a => decide (1 ≤ a.stage)) = true) : exec (.longLatencyResult crew op) s =
    .next (s.modCrew crew fun c => (atomWrites c (s.protectedCrew crew) o).modOp op fun o => { o with extra := 1 }) := by
  rw [exec_longLatencyResult, execLongLatencyResult, ho]
  refine (if_neg (by rw [hkind]; simp)).trans (if_pos ⟨hkind, hextra, ?_, haccs⟩)
  simpa using hdests

theorem storeChecksPass_eq (hchecked : o.checked = false) (hbad : o.bad = 0) : exec (.storeChecksPass crew op) s =
    .next (s.modCrew crew fun c => (c.unskid op).modOp op fun o => { o with checked := true }) := by
  rw [exec_storeChecksPass, execStoreChecksPass, ho]
  exact if_neg (by rw [hchecked, hbad]; simp)

theorem storeCheckFail_eq (hchecked : o.checked = false) (hbad : o.bad ≠ 0) :
    let c := s.crew crew
    let r : SfRec := { mask := o.bad, addr := BitVec.ofNat 64 o.badAddr, trec := o.trec, spc := o.pc, slot := slotOf crew, detail := o.err.getD 0, seq := c.seq }
    let u := s.setCrew crew { ((c.unskid op).modOp op fun o => { o with checked := true }) with seq := c.seq + 1 }
    exec (.storeCheckFail crew op) s = .next (
      if o.bad &&& c.live = 0 then u
      else if o.masked then u.unhandledStore crew (o.bad &&& c.live) (o.err.getD 0)
      else (u.modQuad (quadOf crew) fun q => { q with sfq := q.sfq ++ [r] }).trimSfq crew) := by
  intro c r u
  rw [exec_storeCheckFail, execStoreCheckFail, ho]
  refine (if_neg (by rw [hchecked]; simpa using hbad)).trans ?_
  dsimp only
  by_cases hlive : o.bad &&& c.live = 0
  · exact (if_pos hlive).trans (congrArg Host.Outcome.next (if_pos hlive).symm)
  · refine (if_neg hlive).trans (Eq.trans ?_ (congrArg Host.Outcome.next (if_neg hlive).symm))
    cases o.masked <;> rfl

end

/-! ## Due stores (R66) -/

theorem mem_snapshot (s : State) (d key : Nat) : (s.snapshot d key).mem = s.mem := by
  unfold snapshot
  dsimp only
  repeat' split
  all_goals rfl

theorem byte_pendBytes (s : State) (p : Pending) (b : Nat) (h : ∀ q ∈ p.bytes, q.1 ≠ b) : (s.pendBytes p).mem.byte b = s.mem.byte b := by
  have hn : ((s.performBytes (p.bytes.filter fun b => !p.masks.any fun m => decide (m.1 = b.1))).performNibbles p.bytes p.masks).mem.byte b = s.mem.byte b := by
    unfold performNibbles
    refine (Small.byte_writeAll_ne _ _ _ fun q hq => ?_).trans ?_
    · obtain ⟨a, ha, hq⟩ := List.mem_filterMap.mp hq
      obtain ⟨m, _, rfl⟩ := Option.map_eq_some_iff.mp hq
      exact h a (List.filter_sublist.subset ha)
    · rw [Small.performBytes_byte]
      exact Small.byte_writeAll_ne _ _ _ fun q hq => h q (List.filter_sublist.subset (List.filter_sublist.subset hq))
  unfold pendBytes
  dsimp only
  split
  · exact hn
  · exact hn

theorem byte_performPend (s : State) (p : Pending) (b : Nat) (h : ∀ q ∈ p.bytes, q.1 ≠ b) : (s.performPend p).mem.byte b = s.mem.byte b := by
  unfold performPend
  dsimp only
  rw [byte_pendBytes _ _ _ h]
  split
  · rfl
  · rw [mem_snapshot]

theorem byte_foldl_performPend (ps : List Pending) (s : State) (b : Nat) (h : ∀ p ∈ ps, ∀ q ∈ p.bytes, q.1 ≠ b) : (ps.foldl performPend s).mem.byte b = s.mem.byte b := by
  induction ps generalizing s with
  | nil => rfl
  | cons p rest ih => rw [List.foldl_cons, ih _ fun q hq => h q (List.mem_cons_of_mem _ hq), byte_performPend _ _ _ (h p (List.mem_cons_self ..))]

theorem byte_performSector (s : State) (sec b : Nat) (h : ∀ p ∈ s.coh.pend, p.sector = sec → p.wct ≤ s.now → ∀ q ∈ p.bytes, q.1 ≠ b) :
    (s.performSector sec).mem.byte b = s.mem.byte b := by
  unfold performSector performDue
  rw [(cacheWork_markDirty _ _).mem]
  refine byte_foldl_performPend _ _ _ fun p hp => ?_
  obtain ⟨hp', hwct⟩ := List.mem_filter.mp hp
  obtain ⟨hp'', hsec⟩ := List.mem_filter.mp hp'
  exact h p hp'' (of_decide_eq_true hsec) (of_decide_eq_true hwct)

theorem pendingStorePerformed_spec (s : State) (sector : Nat) :
    ∃ t, exec (.pendingStorePerformed sector) s = .next t ∧ (t.coh.pend.all fun p => decide (p.sector ≠ sector) || decide (s.now < p.wct)) = true ∧
      ∀ b, (∀ p ∈ s.coh.pend, p.sector = sector → p.wct ≤ s.now → ∀ q ∈ p.bytes, q.1 ≠ b) → t.mem.byte b = s.mem.byte b := by
  rw [exec_pendingStorePerformed, execPendingStorePerformed]
  cases hdue : (s.pendOf sector).any fun p => decide (p.wct ≤ s.now)
  · refine ⟨s, rfl, List.all_eq_true.mpr fun p hp => ?_, fun _ _ => rfl⟩
    by_cases hsec : p.sector = sector
    · have := List.any_eq_false.mp hdue p (List.mem_filter.mpr ⟨hp, decide_eq_true hsec⟩)
      simpa [hsec] using this
    · rw [decide_eq_true hsec, Bool.true_or]
  · refine ⟨_, rfl, List.all_eq_true.mpr fun p hp => ?_, fun b hb => byte_performSector s sector b hb⟩
    rw [Overdue.performSector_pend] at hp
    simpa [Decidable.imp_iff_not_or] using (List.mem_filter.mp hp).2

/-- Settles O35: each event past its checks, with the home work that changes no crew. -/
theorem homeEventsServeAccesses : Obligations.HomeEventsServeAccesses := by
  unfold Obligations.HomeEventsServeAccesses
  refine ⟨fun s crew op k o a => ?accesses, pendingStorePerformed_spec⟩
  intro c sec prt key ho
  refine ⟨fun ha => ?_, stRetire_eq ho, loadReturn_eq ho, longLatencyResult_eq ho, longLatencyResult_atomic_eq ho, storeChecksPass_eq ho, storeCheckFail_eq ho⟩
  intro Free
  have hadm : Free → Admitted s crew k o a := fun ⟨hl, ht, hf, hg⟩ => ⟨hl, ht, hf, hg⟩
  refine ⟨fun hk hsp hst hloc hfree hcommit => ?fill, fun hk hsp hst hloc hloc' hfree hcommit => ?host,
    fun hk hsp hst hloc hc hfree hroom => ?accept,
    fun hk hsp hst hloc hloc' hc hfree => (storeAtHome_eq ho ha hk hsp hst hc (hadm hfree)).trans (if_pos ⟨hloc, hloc'⟩),
    fun hk hsp hst hfree hroom => atomicAtHome_spec ho ha hk hsp hst (hadm hfree) hroom, portStoreReport_spec ho ha, storeAck_spec ho ha, ldfeRepresentation_spec ho ha⟩
  case fill =>
    have hp : (if 2 ≤ a.loc ∧ a.loc ≤ 3 then (s, s.readHost a) else s.fillAt crew o a) = s.fillAt crew o a := if_neg fun hl => Nat.not_lt.mpr hl.1 hloc
    refine (fillRequest_eq ho ha hk hsp hst (hadm hfree) hcommit hp).trans
      (congrArg (fun g : Op → Op => Host.Outcome.next ((s.fillAt crew o a).1.modCrew crew fun c => c.modOp op g)) (funext fun o' => ?_))
    rw [fillAt_snd, fillAt_snd]
  case host =>
    have hp : (if 2 ≤ a.loc ∧ a.loc ≤ 3 then (s, s.readHost a) else s.fillAt crew o a) = (s, s.readHost a) := if_pos ⟨hloc, hloc'⟩
    rw [fillRequest_eq ho ha hk hsp hst (hadm hfree) hcommit hp]
  case accept => exact storeAtHome_spec ho ha hk hsp hst hloc hc (hadm hfree) hroom rfl

end Sys2Proof.Proofs.HomeEvents
end

section
/-! PROOF. The host at the module's memory (R57, R83, R84, R388): O36 does not hold. A reduction of L2 ways breaks the quotations of the partition's launches on
the die, and the record of a breach is written to memory (R352). -/

namespace Sys2Proof.Proofs.HostMemory

open Sys2Proof.Machine

/-- A launch of partition 0 resident on die 0. -/
def resident : Launch := { dcb := 1, q := { quads := [0], tenant := 1 } }

/-- It runs while partition 0 has ways 0 to 2 of die 0, and its tenant's breach log has room for a record. -/
def reducible : State :=
  { fr := { launches := [(1, resident)], tenants := [(1, { logSize := 1 })] }, pl := { ways := [(0, 7)] } }

/-- The memory that an event leaves. -/
def memoryAfter (o : Out) : Mem :=
  match o with
  | .next t => t.mem
  | _ => {}

/-- The write of mask 3 takes way 2 away. -/
theorem reduction_begins :
    (((reducible.wayEnt 0 0 &&& ~~~(3#32 &&& 0x60000000#32)).getLsbD 31
      || ((List.range 32).any fun p => decide (p ≠ 0) && decide (((3#32).setWidth 24 &&& ~~~(reducible.wayEnt 0 0 &&& ~~~(3#32 &&& 0x60000000#32)).setWidth 24)
        &&& ((reducible.wayEnt 0 p).setWidth 24 ||| reducible.releasingOf 0 p) ≠ 0))
      || (decide (((List.range 24).filter ((3#32).setWidth 24).getLsbD).length < 2) && !(reducible.residentOn 0 0).isEmpty)) = false) ∧
    (reducible.wayEnt 0 0 &&& ~~~(3#32 &&& 0x60000000#32)).setWidth 24 &&& ~~~((3#32).setWidth 24) ≠ 0 := by decide +kernel

/-- Its breach is recorded in memory: the byte of the cause is 0x42. -/
theorem breach_recorded : (memoryAfter (exec (.l2WayMaskWrite 0 0 3#32) reducible)).bytes ≠ [] := by decide +kernel

/-- Refutes O36: where a launch of the partition is resident on the die, the write that begins a reduction of its ways records a breach of the launch in the
tenant's breach log, so that memory is not as it was. -/
theorem not_hostEventsReachMemory : ¬ Obligations.HostEventsReachMemory := by
  unfold Obligations.HostEventsReachMemory
  intro h
  obtain ⟨-, -, -, -, -, -, -, hmask, -⟩ := h reducible 0 0 0 0 0 0 0 [] false 3#32
  obtain ⟨-, -, hreduce⟩ := hmask (by decide) (by decide)
  obtain ⟨t, hexec, hmem, -⟩ := hreduce reduction_begins.1 reduction_begins.2
  have hbytes := breach_recorded
  rw [hexec, memoryAfter, hmem] at hbytes
  exact hbytes rfl

end Sys2Proof.Proofs.HostMemory
end

section
/-! PROOF. The ends of waits on a thread's own operations and on time (R72, R93, R262, R264, R267, R270, R325): O37. -/

namespace Sys2Proof.Proofs.WaitsOver

open Sys2Proof.Machine Sys2Proof.Safety Sys2Proof.Proofs.WaitEnds Sys2Proof.Proofs.Lives

section

variable {s : State} {crew lane : Nat} {b : Blocked}

/-- A thread that waits is there. -/
theorem isSome_of_blocked {c : Crew} {l : Nat} (h : (c.thread l).blocked ≠ none) : (SMap.find? c.threads l).isSome = true := by
  rw [thread_eq] at h
  cases hf : SMap.find? c.threads l with
  | none =>
    rw [hf] at h
    exact absurd rfl h
  | some t => rfl

/-- The waits of the lanes `m` end with no value. -/
theorem finishWait_spec (m : Lanes) : (s.finishWait crew m none).mem = s.mem ∧ ∀ l, ((s.crew crew).thread l).blocked ≠ none →
    ((s.finishWait crew m none).crew crew).thread l = if hasLane m l then ((s.crew crew).thread l).unblock else (s.crew crew).thread l := by
  refine ⟨rfl, fun l hl => ?_⟩
  unfold State.finishWait State.modCrew
  rw [State.crew_setCrew_self]
  obtain ⟨b, hb⟩ := Option.ne_none_iff_exists'.mp hl
  cases hm : hasLane m l
  · exact finishAll_thread_of_not hm none
  · exact (finishAll_thread_of_has hm (isSome_of_blocked hl) hb none).1

/-- A fence whose condition holds for every lane of its group ends (R72, R262). -/
theorem fenceRelease_fence (hb : ((s.crew crew).thread lane).blocked = some b) (hstop : (s.block (s.crew crew).block).stop < 3) {scope : Nat}
    (hkind : b.kind = .fence scope) (hok : ((lanesOf ((s.crew crew).waitMates lane &&& b.lanes)).all fun l => s.fenceOk crew l scope) = true) :
    exec (.fenceRelease crew lane) s = .next (s.finishWait crew ((s.crew crew).waitMates lane) none) := by
  rw [exec_fenceRelease, execFenceRelease]
  dsimp only
  rw [if_neg (Nat.not_le.mpr hstop), hb]
  dsimp only
  rw [hkind]
  exact congrArg Host.Outcome.next (if_pos hok)

/-- So does a drain of streams (R112, R262). -/
theorem fenceRelease_sdrain (hb : ((s.crew crew).thread lane).blocked = some b) (hstop : (s.block (s.crew crew).block).stop < 3)
    (hkind : b.kind = .sdrain) (hok : ((lanesOf ((s.crew crew).waitMates lane &&& b.lanes)).all fun l => s.drained crew l) = true) :
    exec (.fenceRelease crew lane) s = .next (s.finishWait crew ((s.crew crew).waitMates lane) none) := by
  rw [exec_fenceRelease, execFenceRelease]
  dsimp only
  rw [if_neg (Nat.not_le.mpr hstop), hb]
  dsimp only
  rw [hkind]
  exact congrArg Host.Outcome.next (if_pos hok)

theorem sleepWake_eq (hb : ((s.crew crew).thread lane).blocked = some b) (hkind : b.kind = .sleep)
    (hdue : ((lanesOf ((s.crew crew).waitMates lane &&& b.lanes)).all fun l => match ((s.crew crew).thread l).blocked with
      | some o => o.due s.now
      | none => true) = true) :
    exec (.sleepWake crew lane) s = .next (s.finishWait crew ((s.crew crew).waitMates lane) none) := by
  rw [exec_sleepWake, execSleepWake, State.sleepEnd]
  dsimp only
  rw [hb]
  refine congrArg _ (if_pos ?_)
  rw [hkind, decide_eq_true rfl]
  exact hdue

/-- LDFE lanes that expire change no thread. -/
theorem thread_ldfeExpire (l : Nat) : ((s.ldfeExpire crew lane).crew crew).thread l = (s.crew crew).thread l := by
  unfold State.ldfeExpire State.modCrew
  rw [State.crew_setCrew_self]
  rfl

theorem block_ldfeExpire : (s.ldfeExpire crew lane).block ((s.ldfeExpire crew lane).crew crew).block = s.block (s.crew crew).block := by
  unfold State.ldfeExpire State.modCrew
  rw [State.crew_setCrew_self]
  rfl

/-- A WAITC whose time is over takes its status (R267, R270). -/
theorem timeoutExpiry_waitc (hb : ((s.crew crew).thread lane).blocked = some b) (hstop : (s.block (s.crew crew).block).stop < 3) {cls n q : Nat}
    (hkind : b.kind = .waitc cls n q) (hdue : b.due s.now = true) :
    let u := s.ldfeExpire crew lane
    let st := if (u.crew crew).outstanding cls ≤ n then (if b.last = 0 then 0 else 2) else 1
    exec (.timeoutExpiry crew lane) s = .next (u.finishWait crew ((u.crew crew).waitMates lane) (some (BitVec.ofNat 32 (status 0 0 st)))) := by
  intro u st
  rw [exec_timeoutExpiry, execTimeoutExpiry]
  dsimp only
  rw [block_ldfeExpire, if_neg (Nat.not_le.mpr hstop), thread_ldfeExpire, hb]
  refine (if_neg (by rw [show b.due (s.ldfeExpire crew lane).now = true from hdue]; exact Bool.false_ne_true)).trans ?_
  rw [hkind]
  rfl

/-- A WAITAD's read (R93). -/
theorem waitadReread_eq (hb : ((s.crew crew).thread lane).blocked = some b) {sp addr cc pk : Nat} {v w : Word} {bad : Bool} (hkind : b.kind = .waitad sp addr cc v pk)
    (hfin : b.fin = none) (hlane : hasLane b.lanes lane = true) (hread : s.waitadRead crew lane sp addr = some (w, bad)) :
    let b' := { b with last := w, pois := bad, seen := true, fin := if icmpOp 32 cc w.toNat v.toNat then some true else if b.due s.now then some false else none }
    exec (.waitadReread crew lane) s =
      .next ((s.modCrew crew fun c => c.mapLanes (oneLane lane) fun _ t => { t with blocked := some b' }).waitadEnd crew lane) := by
  intro b'
  obtain ⟨kind, _, _, _, _, _, _, _, _, _, _, fin⟩ := b
  subst hkind hfin
  rw [exec_waitadReread, execWaitadReread, hb]
  dsimp only
  rw [show hasLane _ lane = true from hlane]
  refine (if_neg Bool.false_ne_true).trans ?_
  rw [hread]

end

/-- Settles O37: a wait's end by `finishAll`, WAITC and WAITAD by their cases. -/
theorem waitsEndWhenTheyMay : Obligations.WaitsEndWhenTheyMay := by
  unfold Obligations.WaitsEndWhenTheyMay
  intro s crew lane b c m Ended hb hstop
  exact ⟨fun scope hkind hok => ⟨_, fenceRelease_fence hb hstop hkind hok, finishWait_spec m⟩,
    fun hkind hok => ⟨_, fenceRelease_sdrain hb hstop hkind hok, finishWait_spec m⟩, fun hkind hdue => ⟨_, sleepWake_eq hb hkind hdue, finishWait_spec m⟩,
    fun cls n q hkind hdue => timeoutExpiry_waitc hb hstop hkind hdue,
    fun sp addr cc v pk w bad hkind hfin hlane hread => waitadReread_eq hb hkind hfin hlane hread⟩

end Sys2Proof.Proofs.WaitsOver
end

section
/-! PROOF. COMMIT at its homes and the end of an abort (R89, R90, R96, R275, R279, R280): O38. -/

namespace Sys2Proof.Proofs.Commits

open Sys2Proof.Machine Sys2Proof.Safety Sys2Proof.Proofs.HomeEvents Sys2Proof.Proofs.Regions

section

variable {s : State} {crew lane k sec : Nat} {r : Region}

/-- The answer of a home joins the region's answers. -/
def answered (c : Crew) (lane : Nat) (r : Region) (a : LockAns) : Crew := c.putRegion lane { r with answers := r.answers ++ [a] }

/-- A home that is asked and where no lock stands (R89 step 1). -/
def lockedAt (s : State) (crew lane sec : Nat) : State :=
  let u := s.residentL2 (s.crewPart crew) sec
  { u with coh := { u.coh with locks := u.coh.locks ++ [⟨sec, crew, (s.crew crew).lockName lane⟩] } }

theorem cacheWork_lockedAt (s : State) (crew lane sec : Nat) : (lockedAt s crew lane sec).mem = s.mem ∧ (lockedAt s crew lane sec).crew crew = s.crew crew ∧
    (lockedAt s crew lane sec).locked sec = true := by
  have h := cacheWork_residentL2 s (s.crewPart crew) sec
  refine ⟨h.mem, crew_of_home h.home crew, List.any_eq_true.mpr ⟨_, List.mem_append_right _ (List.mem_singleton_self _), decide_eq_true rfl⟩⟩

/-- The bytes that a COMMIT buffered and that the holder's own copies take. -/
def buffered (s : State) (crew : Nat) (r : Region) : List (Nat × Byte) :=
  r.sectors.flatMap fun sec =>
    match s.l1Copy (coreOf crew) (s.crewPart crew) sec with
    | some (_, l) => (r.ssb.filter fun e => decide (sectorOf e.key = sec)).map fun e => (e.key, mergeNib (State.getByte l.data (e.key % 64)) e.val e.nib)
    | none => []

section

variable (hr : (s.crew crew).regionOf lane = some r)
include hr

theorem lockRequest_busy (hsec : r.sectors[k]? = some sec) (hopen : ¬(r.asked = 0 ∨ r.decided.isSome ∨ r.abort.isSome ∨ r.answers.any (fun a => decide (a.sector = sec)) ∨ (s.crew crew).frozen))
    (hlocked : s.locked sec = true) :
    exec (.commitLockRequest crew lane k) s = .next (s.modCrew crew fun c => answered c lane r ⟨sec, 0, true⟩) := by
  rw [exec_commitLockRequest, execCommitLockRequest]
  dsimp only
  rw [hr]
  dsimp only
  rw [hsec]
  exact (if_neg hopen).trans (if_pos hlocked)

theorem lockRequest_free (hsec : r.sectors[k]? = some sec) (hopen : ¬(r.asked = 0 ∨ r.decided.isSome ∨ r.abort.isSome ∨ r.answers.any (fun a => decide (a.sector = sec)) ∨ (s.crew crew).frozen))
    (hlocked : s.locked sec = false) (hway : s.onTheWay (coreOf crew) (s.crewPart crew) sec (fun _ _ _ => true) true = false)
    (hroom : s.pendCount (homeDie (sec * 64)) < 2048) (hgrant : s.inGrants (s.crewPart crew) (sec * 64) = true) :
    ∃ w, s.now ≤ w ∧ exec (.commitLockRequest crew lane k) s = .next ((lockedAt s crew lane sec).modCrew crew fun c => answered c lane r ⟨sec, w, false⟩) := by
  have h := (cacheWork_residentL2 s (s.crewPart crew) sec).home
  refine ⟨State.wctOf ((s.residentL2 (s.crewPart crew) sec).leaseOf sec) (s.residentL2 (s.crewPart crew) sec).now ((s.residentL2 (s.crewPart crew) sec).holderOf crew)
    (((s.residentL2 (s.crewPart crew) sec).pendOf sec).foldl (fun m p => max m p.wct) 0), ?_, ?_⟩
  · rw [h.now]
    exact le_wctOf ..
  · rw [exec_commitLockRequest, execCommitLockRequest]
    dsimp only
    rw [hr]
    dsimp only
    rw [hsec]
    refine (if_neg hopen).trans ((if_neg (by rw [hlocked]; exact Bool.false_ne_true)).trans ((if_neg ?_).trans ((if_neg ?_).trans rfl)))
    · rw [hway]
      exact fun h => h.elim Bool.false_ne_true (Nat.not_le.mpr hroom)
    · rw [hgrant]
      exact Bool.false_ne_true

theorem commitDecide_eq (hopen : ¬(r.asked = 0 ∨ r.decided.isSome ∨ r.abort.isSome ∨ r.answers.length < r.sectors.length)) :
    exec (.commitDecide crew lane) s = (let t := r.answers.foldl (fun m a => max m a.cand) 0
      if r.answers.any (·.busy) || !r.allows t then .next (s.beginAbort crew lane 2 0 0 0 none)
      else .next ((s.passL1 (coreOf crew) (s.crewPart crew) (buffered s crew r)).modCrew crew fun c => c.putRegion lane { r with decided := some t })) := by
  rw [exec_commitDecide, execCommitDecide]
  dsimp only
  rw [hr]
  exact if_neg hopen

theorem decisionAtHome_told {t : Nat} (hsec : r.sectors[k]? = some sec) (hdecided : r.decided = some t) (htold : bitOf r.told k = false) :
    let told := Nat.lor r.told (2 ^ k)
    let u := (s.tellHome crew lane r t sec).modCrew crew fun c => c.putRegion lane { r with told := told }
    exec (.commitDecisionAtHome crew lane k) s = .next (if (List.range r.sectors.length).all (bitOf told) then u.commitDone crew lane t else u) := by
  rw [exec_commitDecisionAtHome, execCommitDecisionAtHome]
  dsimp only
  rw [hr]
  dsimp only
  rw [hsec]
  dsimp only
  rw [hdecided]
  exact if_neg (by rw [htold]; exact Bool.false_ne_true)

theorem decisionAtHome_drop (hsec : r.sectors[k]? = some sec) (hdecided : r.decided = none) (habort : r.abort ≠ none) :
    exec (.commitDecisionAtHome crew lane k) s = .next (s.dropLock crew ((s.crew crew).lockName lane) sec) := by
  rw [exec_commitDecisionAtHome, execCommitDecisionAtHome]
  dsimp only
  rw [hr]
  dsimp only
  rw [hsec]
  dsimp only
  rw [hdecided]
  exact if_pos (Option.isSome_iff_ne_none.mpr habort)

/-- What an abort leaves of a member (R279). -/
def aborted (r : Region) (code user tcls detail l : Nat) (t : Thread) : Thread :=
  let p := t.ckpt.getD { n := 0, v := [], p := t.p, target := t.pc }
  let u := t.restore p
  { u with spec := abortSpec u.spec code user tcls detail, region := none, ckpt := none, blocked := none, pc := p.target
           specTrap := if code = 4 ∨ code = 7 then some (clsSpec, code, p.target) else if hasLane r.trapLanes l then r.trap else u.specTrap }

theorem regionAbort_eq {code user tcls detail : Nat} (habort : r.abort = some (code, user, tcls, detail))
    (hbusy : (s.crew crew).regionBusy ((s.crew crew).members lane) = false) :
    exec (.regionAbort crew lane) s = .next ((s.dropLocks crew ((s.crew crew).lockName lane)).modCrew crew fun c =>
      (if ((s.crew crew).thread lane).specCrew then { c with region := none } else c).mapLanes ((s.crew crew).members lane) (aborted r code user tcls detail)) := by
  rw [exec_regionAbort, execRegionAbort]
  dsimp only
  rw [hr]
  dsimp only
  rw [habort]
  exact if_neg (by rw [hbusy]; exact Bool.false_ne_true)

end

/-- Dropping a crew's region changes no thread. -/
theorem thread_ite_region (c : Crew) (p : Prop) [Decidable p] (m : Lanes) (g : Nat → Thread → Thread) (l : Nat) (hl : (SMap.find? c.threads l).isSome = true) :
    ((if p then { c with region := none } else c).mapLanes m g).thread l = if hasLane m l then g l (c.thread l) else c.thread l := by
  split <;> exact thread_mapLanes_ite hl g

end

/-- Settles O38: each event by its equation above, the homes' caches by `CacheWork`. -/
theorem commitsAndAborts : Obligations.CommitsAndAborts := by
  unfold Obligations.CommitsAndAborts
  intro s crew lane k r c prt hr
  refine ⟨fun sec hsec hasked hdec hab hans hfrozen => ?_, fun hasked hdec hab hlen => ?_, fun sec t hsec hdec htold => decisionAtHome_told hr hsec hdec htold,
    fun sec hsec hdec hab => decisionAtHome_drop hr hsec hdec hab, fun code user tcls detail hab hbusy => ?_⟩
  · have hopen : ¬(r.asked = 0 ∨ r.decided.isSome ∨ r.abort.isSome ∨ r.answers.any (fun a => decide (a.sector = sec)) ∨ (s.crew crew).frozen) := by
      rw [hdec, hab, hans, show (s.crew crew).frozen = false from hfrozen]
      simpa using hasked
    refine ⟨fun hlocked => ⟨_, lockRequest_busy hr hsec hopen hlocked, rfl, rfl, crew_modCrew_self _ _ _⟩, fun hlocked hway hroom hgrant => ?_⟩
    obtain ⟨w, hw, hexec⟩ := lockRequest_free hr hsec hopen hlocked hway hroom hgrant
    obtain ⟨hmem, hcrew, hlock⟩ := cacheWork_lockedAt s crew lane sec
    refine ⟨_, hexec, hmem, hlock, w, hw, (crew_modCrew_self _ _ _).trans ?_⟩
    rw [hcrew]
    rfl
  · have hopen : ¬(r.asked = 0 ∨ r.decided.isSome ∨ r.abort.isSome ∨ r.answers.length < r.sectors.length) := by
      rw [hdec, hab]
      simpa using ⟨hasked, hlen⟩
    intro t
    have e := commitDecide_eq hr hopen
    refine ⟨fun hno => e.trans (if_pos ?_), fun hbusy hall => ⟨_, e.trans (if_neg ?_), ?_, ?_⟩⟩
    · rcases hno with hno | hno <;> simp [hno, t]
    · simp [hbusy, hall, t]
    · obtain ⟨l1, hl1⟩ := GlobalStores.l1Only_passL1 s (coreOf crew) (s.crewPart crew) (buffered s crew r)
      rw [hl1]
      rfl
    · obtain ⟨l1, hl1⟩ := GlobalStores.l1Only_passL1 s (coreOf crew) (s.crewPart crew) (buffered s crew r)
      refine (crew_modCrew_self _ _ _).trans ?_
      rw [hl1]
      rfl
  · refine ⟨_, regionAbort_eq hr hab hbusy, rfl, fun l hl => ?_⟩
    rw [crew_modCrew_self]
    exact thread_ite_region c _ _ _ l (Option.isSome_iff_ne_none.mpr hl)

end Sys2Proof.Proofs.Commits
end

section
/-! PROOF. What comes after a launch's last store (R85, R86, R87, R347, R348, R358): O39. -/

namespace Sys2Proof.Proofs.LaunchEnds

open Sys2Proof.Machine Sys2Proof.Safety

section

variable {s : State} {d : Nat} {l : Launch} (hl : SMap.find? s.fr.launches d = some l)
include hl

theorem launch_eq : s.launch d = l := by
  rw [State.launch, SMap.get_eq, hl]
  rfl

theorem regionWctReport_eq {core : Nat} (hphase : l.phase = 2) (hcore : (s.launchCores d).contains core = true) (hrep : (s.core core).reported.contains d = false) :
    exec (.regionWctReport d core) s = .next ((s.setLaunch d { l with dieWct := SMap.put l.dieWct (dieOf core) (State.maxWcts (SMap.get [] l.dieWct (dieOf core))
      ((List.filter (fun e : Nat × Nat => decide (e.1 / 64 = d)) (s.core core).regionWct).map fun e => (e.1 % 64, e.2))) }).modCore core
        fun c => { c with reported := d :: c.reported }) := by
  rw [exec_regionWctReport, execRegionWctReport, hl]
  exact if_neg (by simp [hphase, hcore, hrep, -List.contains_eq_mem])

theorem regionWctForward_eq {die : Nat} (hphase : l.phase = 2) (hdie : ((s.launchCores d).any fun c => decide (dieOf c = die)) = true)
    (hfwd : l.forwarded.contains die = false) (hall : ((s.launchCores d).all fun c => decide (dieOf c ≠ die) || (s.core c).reported.contains d) = true) :
    exec (.regionWctForward d die) s =
      .next (s.setLaunch d { l with wct := State.maxWcts l.wct (SMap.get [] l.dieWct die), forwarded := die :: l.forwarded }) := by
  rw [exec_regionWctForward, execRegionWctForward, hl]
  have hmine : ((s.launchCores d).filter fun c => decide (dieOf c = die)).isEmpty = false := by
    obtain ⟨c, hc, hcd⟩ := List.any_eq_true.mp hdie
    exact List.isEmpty_eq_false_iff_exists_mem.mpr ⟨c, List.mem_filter.mpr ⟨hc, hcd⟩⟩
  have hreported : (((s.launchCores d).filter fun c => decide (dieOf c = die)).all fun c => (s.core c).reported.contains d) = true := by
    refine List.all_eq_true.mpr fun c hc => ?_
    obtain ⟨hc, hcd⟩ := List.mem_filter.mp hc
    have h := List.all_eq_true.mp hall c hc
    simpa [of_decide_eq_true hcd, -List.contains_eq_mem] using h
  refine if_neg ?_
  rw [hmine, hfwd, hreported, hphase]
  simp

theorem completionSignal_eq {consumer : Nat} {e : Edge} (he : (s.fr.edges.find? fun e => decide (e.prod = d ∧ e.cons = consumer) && !e.raised) = some e)
    (hphase : l.phase = 2) (hfwd : s.allForwarded d = true) (hpast : s.regionsPast d e.regions = true) :
    exec (.completionSignal d consumer) s = (let u := s.flushHost (State.regionFrames l e.regions)
      .next { u with fr := { u.fr with edges := u.fr.edges.map fun o => if o.prod = d ∧ o.cons = consumer then { o with raised := true, raisedAt := u.now } else o } }) := by
  rw [exec_completionSignal, execCompletionSignal, he, hl]
  exact if_neg (by simp [hphase, hfwd, hpast])

theorem hostCompletionPost_eq (hphase : l.phase = 2) (hfwd : s.allForwarded d = true) (hpast : s.regionsPast d (s.awaited d) = true)
    (hreset : s.queueResetting l.q.queue = false) (hfirst : s.firstEnded d = true) :
    exec (.hostCompletionPost d) s = match s.completionKey l.q.queue with
      | .error m => .next (s.feMiss (bits (s.queue l.q.queue).desc.toNat 240 239) (State.feQueue l.q.queue) m fun s _ => s.postCompletion d none)
      | .ok key => .next (s.postCompletion d (some key)) := by
  rw [exec_hostCompletionPost, execHostCompletionPost, hl]
  exact (if_neg (by simp [hphase, hfwd, hpast, hreset, hfirst])).trans rfl

theorem breachAllowanceExpiry_eq {at' : Nat} (hat : l.callerAt = some at') (hphase : l.phase = 1) (hdue : at' + l.q.hbudget * 1000 ≤ s.now) :
    exec (.breachAllowanceExpiry d) s = .next (s.allowanceEnd d) := by
  rw [exec_breachAllowanceExpiry, execBreachAllowanceExpiry, hl]
  dsimp only
  rw [hat]
  exact if_neg (not_or.mpr ⟨Classical.not_not.mpr hphase, Nat.not_lt.mpr hdue⟩)

theorem handlerTimeout_eq {k : Nat} {c : Crew} {at' : Nat} (hc : SMap.find? s.ex.crews k = some c) (hlaunch : c.launch = some d) (hat : c.entryAt = some at')
    (hbusy : State.handlerBusy c = true) (hdue : at' + l.q.hallow * 1000 ≤ s.now) : exec (.handlerTimeout k) s = .next (s.handlerEnd k d) := by
  rw [exec_handlerTimeout, execHandlerTimeout, hc]
  dsimp only
  rw [hlaunch, hat]
  refine if_neg ?_
  rw [launch_eq hl, hbusy]
  exact not_or.mpr ⟨Bool.false_ne_true, Nat.not_lt.mpr hdue⟩

end

/-- Settles O39: each event by its equation above. -/
theorem launchesEndAndReport : Obligations.LaunchesEndAndReport := by
  unfold Obligations.LaunchesEndAndReport
  intro s d l hl
  refine ⟨fun core hphase hcore hrep => ⟨_, regionWctReport_eq hl hphase hcore hrep, rfl, ?_, ?_⟩, fun die hphase hdie hfwd hall => regionWctForward_eq hl hphase hdie hfwd hall,
    fun consumer e he hphase hfwd hpast => ⟨_, completionSignal_eq hl he hphase hfwd hpast, rfl, rfl⟩, fun hphase hfwd hpast hreset hfirst => ?_,
    fun at' hat hphase hdue => breachAllowanceExpiry_eq hl hat hphase hdue, fun k c at' hc hlaunch hat hbusy hdue => handlerTimeout_eq hl hc hlaunch hat hbusy hdue⟩
  · rw [State.modCore, State.core_setCore_self]
    exact List.contains_iff_mem.mpr List.mem_cons_self
  · refine Eq.trans (congrArg (fun m => SMap.get [] m (dieOf core)) (congrArg Launch.dieWct (State.launch_setLaunch_self s d _))) ?_
    exact SMap.get_put_self _ _ _ _
  · have e := hostCompletionPost_eq hl hphase hfwd hpast hreset hfirst
    refine ⟨fun key hkey => ?_, fun asid va hkey => ?_, fun st hkey => ?_⟩ <;> rw [hkey] at e <;> exact e

end Sys2Proof.Proofs.LaunchEnds
end

section
/-! PROOF. The copy and gather engines and the streams at work (R82, R99, R100, R102, R104, R109, R111, R116, R120): O40. -/

namespace Sys2Proof.Proofs.Engines

open Sys2Proof.Machine Sys2Proof.Safety

/-! ## Copies and their chunks -/

section

variable {s : State} {core ch : Nat}

theorem transferStart_eq {c : CopyCmd} {isRec : Bool} {u : State} (hu : u = if ((s.chan core ch).live.any fun c => c.finished && c.record.isSome) then s.settleChan core ch else s)
    (hch : ch ≠ 8) (hroom : (u.core core).transfers.length < 128) (hnext : u.nextChan core = some ch) (hc : u.chanNext (u.chan core ch) = some (c, isRec)) :
    exec (.transferStart core ch) s = .next (u.startTransfer core ch c isRec) := by
  rw [exec_transferStart, execTransferStart]
  refine (if_neg hch).trans ?_
  rw [← hu]
  refine (if_neg (not_or.mpr ⟨Nat.not_le.mpr hroom, Classical.not_not.mpr hnext⟩)).trans ?_
  rw [hc]

/-- A transfer has left the core's table. -/
def landed (s : State) (core : Nat) (t : Transfer) : State :=
  s.setCore core { s.core core with transfers := (s.core core).transfers.filter fun u => !decide (u.id = t.id) }

section

variable {cmd chunk : Nat} {t : Transfer} (hcore : core < 256) (ht : (s.core core).transfers.find? (fun t => decide (t.cmd = cmd ∧ t.chunk = chunk)) = some t)
include hcore ht

theorem chunkComplete_eq : exec (.chunkComplete core cmd chunk) s = .next (
    if !t.done || decide (s.now ≤ t.wct) then s
    else
      let bar := (State.cmdOf (s.chan core t.ch) cmd).bind fun c => c.bar.map fun r => (r, c.gen)
      if bar.any fun p => s.barLocked p.1 (some chunk) then s
      else
        let u := match bar with
          | some (r, gen) => ((landed s core t).abSend r 0 chunk gen).abWake
          | none => landed s core t
        u.settleChan core t.ch) := by
  rw [exec_chunkComplete, execChunkComplete, if_neg (Nat.not_le.mpr hcore), State.chunkDone, ht]
  rfl

theorem chunkComplete_waits (h : t.done = false ∨ s.now ≤ t.wct) : exec (.chunkComplete core cmd chunk) s = .next s :=
  (chunkComplete_eq hcore ht).trans (congrArg _ (if_pos (by rcases h with h | h <;> simp [h])))

theorem chunkComplete_plain (hdone : t.done = true) (hwct : t.wct < s.now) (hbar : (State.cmdOf (s.chan core t.ch) cmd).bind (·.bar) = none) :
    exec (.chunkComplete core cmd chunk) s = .next ((landed s core t).settleChan core t.ch) := by
  have hnone : ((State.cmdOf (s.chan core t.ch) cmd).bind fun c => c.bar.map fun r => (r, c.gen)) = none := by
    cases ho : State.cmdOf (s.chan core t.ch) cmd with
    | none => rfl
    | some o =>
      rw [ho] at hbar
      exact congrArg (Option.map _) hbar
  rw [chunkComplete_eq hcore ht]
  refine congrArg _ ((if_neg (by simp [hdone, hwct])).trans ?_)
  rw [hnone]
  rfl

theorem chunkComplete_contributes {o : CopyCmd} {r : AbRef} (hdone : t.done = true) (hwct : t.wct < s.now) (ho : State.cmdOf (s.chan core t.ch) cmd = some o)
    (hbar : o.bar = some r) (hfree : s.barLocked r (some chunk) = false) :
    exec (.chunkComplete core cmd chunk) s = .next (((landed s core t).abSend r 0 chunk o.gen).abWake.settleChan core t.ch) := by
  have hsome : ((State.cmdOf (s.chan core t.ch) cmd).bind fun c => c.bar.map fun r => (r, c.gen)) = some (r, o.gen) := by
    rw [ho]
    exact congrArg (Option.map _) hbar
  rw [chunkComplete_eq hcore ht]
  refine congrArg _ ((if_neg (by simp [hdone, hwct])).trans ?_)
  rw [hsome]
  exact if_neg (by simp [hfree])

end

end

/-! ## A chain's record -/

/-- The barrier that a record names is one that can be told of a failure. -/
def knownBar (view : State × Nat) (v : Nat) (r : AbRef) : Bool :=
  decide (recBar v ≠ 0) && decide (recBarSp v < 4) && decide (recBarSp v ≠ 2) && decide (recBar v % 64 = 0)
    && (view.1.barFault view.2 (recBarSp v) (recBar v)).isNone && decide (r.sp ≠ 2)

theorem knownBar_zero (view : State × Nat) {v : Nat} (h : recBar v = 0) (r : AbRef) : knownBar view v r = false := by
  rw [knownBar, decide_eq_false (Classical.not_not.mpr h)]
  rfl

/-- Whom a record's failure is told of. -/
def told (view : State × Nat) (v : Nat) (r : AbRef) (bit : Nat) : Option (AbRef × Nat) := if knownBar view v r then some (r, bit) else none

theorem told_zero (view : State × Nat) {v : Nat} (h : recBar v = 0) (r : AbRef) (bit : Nat) : told view v r bit = none :=
  if_neg (by rw [knownBar_zero view h]; exact Bool.false_ne_true)

/-- What becomes of a record that has been read: `head` and `all` say that its first bytes, or any, are poisoned. -/
def recordOutcome (s u : State) (core ch : Nat) (n : Chain) (view : State × Nat) (v : Nat) (head all : Bool) (c : CopyCmd) (r : AbRef) : Out :=
  let q := s.chan core ch
  if head then .next (u.recordFail core ch n c 0x24 clsPoison none true)
  else if !bitOf v 0 then .next ((u.setChan core ch { q with chain := some { n with parked := true }, ending := q.ending ++ [n] }).settleChan core ch)
  else if all then .next (u.recordFail core ch n c 0x24 clsPoison none true)
  else if u.restParks n v then .next (u.setChan core ch { q with chain := some { n with parked := true, rest := true } })
  else if copyFormBad v true then .next (u.recordFail core ch n c badForm clsEngine (told view v r errForm) true)
  else match view.1.copyFault view.2 c with
    | some (d, _, b) => .next (u.recordFail core ch n c d clsEngine (told view v r b) true)
    | none =>
      if recBar v = 0 then .next (u.recordTake core ch n c (bits v 511 448))
      else match view.1.barFault view.2 (recBarSp v) (recBar v) with
        | some d => .next (u.recordFail core ch n c d clsEngine none true)
        | none =>
          match u.barTake r (c.chb + c.chunkCount - 1) with
          | .error d => .next (u.recordFail core ch n c d clsEngine (if d = badRange then some (r, errRange) else none) true)
          | .ok (t, gen) => .next (t.recordTake core ch n { c with bar := some r, gen := gen } (bits v 511 448))

theorem chainRecordRead_eq {s : State} {core ch : Nat} {n : Chain} {keys : List Nat} (hchain : (s.chan core ch).chain = some n) (hparked : n.parked = false)
    (hcur : (s.chan core ch).cur = none) (hfrozen : (s.chan core ch).frozen = false) (hready : s.engReady n.crew n.op = true)
    (hkeys : s.engKeys n.ctx n.sp n.addr 64 = some keys)
    (hrange : (s.engView n.ctx).1.rangeFault (s.engView n.ctx).2 n.sp n.addr 64 (if n.sp = 0 then { r := true, w := true, e := true } else {}) = none) :
    let u := s.engFetch n.ctx n.sp n.addr keys
    let view := ((s.engView n.ctx).1.engFetch n.ctx n.sp n.addr keys, (s.engView n.ctx).2)
    let v := leNat (u.engRead keys).1
    let c := { copyOf v (s.core core).nextCmd n.crew n.op n.pc n.ctx with record := some (n.sp, n.addr) }
    let r := { view.1.abRefOf view.2 (recBarSp v) (recBar v) with core := core }
    u.engBlocked keys false = false → (recBar v = 0 ∨ u.barLocked r none = false) →
      exec (.chainRecordRead core ch) s = recordOutcome s u core ch n view v (u.engRead (keys.take 1)).2 (u.engRead keys).2 c r := by
  intro u view v c r hblocked hbar
  rw [exec_chainRecordRead, execChainRecordRead]
  dsimp only
  rw [hchain]
  refine (if_neg (by rw [hparked, hcur, hfrozen, hready]; exact Bool.false_ne_true)).trans ?_
  rw [hrange]
  dsimp only
  rw [hkeys]
  refine (if_neg ?_).trans rfl
  change ¬(u.engBlocked keys false || (knownBar view v r && u.barLocked r none)) = true
  rcases hbar with hbar | hbar
  · rw [hblocked, knownBar_zero view hbar]
    exact Bool.false_ne_true
  · rw [hblocked, hbar, Bool.and_false]
    exact Bool.false_ne_true

section

variable {s u : State} {core ch : Nat} {n : Chain} {view : State × Nat} {v : Nat} {head all : Bool} {c : CopyCmd} {r : AbRef}

theorem recordOutcome_dead (hhead : head = true) : recordOutcome s u core ch n view v head all c r = .next (u.recordFail core ch n c 0x24 clsPoison none true) :=
  if_pos hhead

theorem recordOutcome_parks (hhead : head = false) (hown : bitOf v 0 = false) : recordOutcome s u core ch n view v head all c r =
    .next ((u.setChan core ch { s.chan core ch with chain := some { n with parked := true }, ending := (s.chan core ch).ending ++ [n] }).settleChan core ch) :=
  (if_neg (by rw [hhead]; exact Bool.false_ne_true)).trans (if_pos (by rw [hown]; rfl))

section

variable (hhead : head = false) (hown : bitOf v 0 = true)
include hhead hown

theorem recordOutcome_poisoned (hall : all = true) : recordOutcome s u core ch n view v head all c r =
    .next (u.recordFail core ch n c 0x24 clsPoison none true) :=
  (if_neg (by rw [hhead]; exact Bool.false_ne_true)).trans ((if_neg (by rw [hown]; exact Bool.false_ne_true)).trans (if_pos hall))

variable (hall : all = false)
include hall

theorem recordOutcome_clean : recordOutcome s u core ch n view v head all c r =
    if u.restParks n v then .next (u.setChan core ch { s.chan core ch with chain := some { n with parked := true, rest := true } })
    else if copyFormBad v true then .next (u.recordFail core ch n c badForm clsEngine (told view v r errForm) true)
    else match view.1.copyFault view.2 c with
      | some (d, _, b) => .next (u.recordFail core ch n c d clsEngine (told view v r b) true)
      | none =>
        if recBar v = 0 then .next (u.recordTake core ch n c (bits v 511 448))
        else match view.1.barFault view.2 (recBarSp v) (recBar v) with
          | some d => .next (u.recordFail core ch n c d clsEngine none true)
          | none =>
            match u.barTake r (c.chb + c.chunkCount - 1) with
            | .error d => .next (u.recordFail core ch n c d clsEngine (if d = badRange then some (r, errRange) else none) true)
            | .ok (t, gen) => .next (t.recordTake core ch n { c with bar := some r, gen := gen } (bits v 511 448)) :=
  (if_neg (by rw [hhead]; exact Bool.false_ne_true)).trans ((if_neg (by rw [hown]; exact Bool.false_ne_true)).trans
    (if_neg (by rw [hall]; exact Bool.false_ne_true)))

theorem recordOutcome_rests (hrest : u.restParks n v = true) : recordOutcome s u core ch n view v head all c r =
    .next (u.setChan core ch { s.chan core ch with chain := some { n with parked := true, rest := true } }) :=
  (recordOutcome_clean hhead hown hall).trans (if_pos hrest)

variable (hrest : u.restParks n v = false)
include hrest

theorem recordOutcome_form (hform : copyFormBad v true = true) : recordOutcome s u core ch n view v head all c r =
    .next (u.recordFail core ch n c badForm clsEngine (told view v r errForm) true) :=
  (recordOutcome_clean hhead hown hall).trans ((if_neg (by rw [hrest]; exact Bool.false_ne_true)).trans (if_pos hform))

variable (hform : copyFormBad v true = false)
include hform

theorem recordOutcome_rows {d b : Nat} {at' : Nat} (hrows : view.1.copyFault view.2 c = some (d, at', b)) : recordOutcome s u core ch n view v head all c r =
    .next (u.recordFail core ch n c d clsEngine (told view v r b) true) := by
  refine (recordOutcome_clean hhead hown hall).trans ((if_neg (by rw [hrest]; exact Bool.false_ne_true)).trans ((if_neg (by rw [hform]; exact Bool.false_ne_true)).trans ?_))
  rw [hrows]

variable (hrows : view.1.copyFault view.2 c = none)
include hrows

theorem recordOutcome_takes (hbar : recBar v = 0) : recordOutcome s u core ch n view v head all c r =
    .next (u.recordTake core ch n c (bits v 511 448)) := by
  refine (recordOutcome_clean hhead hown hall).trans ((if_neg (by rw [hrest]; exact Bool.false_ne_true)).trans ((if_neg (by rw [hform]; exact Bool.false_ne_true)).trans ?_))
  rw [hrows]
  exact if_pos hbar

theorem recordOutcome_references {t : State} {gen : Nat} (hbar : recBar v ≠ 0) (hfault : view.1.barFault view.2 (recBarSp v) (recBar v) = none)
    (htake : u.barTake r (c.chb + c.chunkCount - 1) = .ok (t, gen)) : recordOutcome s u core ch n view v head all c r =
    .next (t.recordTake core ch n { c with bar := some r, gen := gen } (bits v 511 448)) := by
  refine (recordOutcome_clean hhead hown hall).trans ((if_neg (by rw [hrest]; exact Bool.false_ne_true)).trans ((if_neg (by rw [hform]; exact Bool.false_ne_true)).trans ?_))
  rw [hrows]
  refine (if_neg hbar).trans ?_
  rw [hfault]
  dsimp only
  rw [htake]

end

end

/-! ## Gathers and forwarded contributions -/

section

variable {s : State} {die engine : Nat} {c : GatherCmd}

theorem gatherStart_eq (hnow : s.gatherNow (die * 8 + engine) = none) (hc : (s.gather (die * 8 + engine)).queue.head? = some c) (hready : s.engReady c.crew c.op = true) :
    exec (.gatherStart die engine) s = .next ((s.gatherBegin (die * 8 + engine) c).settleGather (die * 8 + engine)) := by
  rw [exec_gatherStart, execGatherStart]
  rw [hnow, hc]
  exact (if_neg Bool.false_ne_true).trans (if_pos hready)

theorem gatherRowComplete_eq {row : Nat} (hnow : s.gatherNow (die * 8 + engine) = some c) (hn : row < c.n) (hstop : row < c.stop)
    (hnew : (c.rows.any fun r => decide (r.1 = row)) = false) (hfrozen : (s.launch c.ctx.launch).frozen = false) :
    exec (.gatherRowComplete die engine row) s = .next ((s.gatherRow (die * 8 + engine) c row).settleGather (die * 8 + engine)) := by
  rw [exec_gatherRowComplete, execGatherRowComplete]
  rw [hnow]
  refine if_neg ?_
  rw [hnew, hfrozen]
  simp [hn, hstop, Nat.lt_min]

theorem chunkComplete_gather (e num chunk : Nat) : exec (.chunkComplete (256 + e) num chunk) s = .next (s.gatherChunk e num chunk) := by
  rw [exec_chunkComplete, execChunkComplete, if_pos (Nat.le_add_right _ _), Nat.add_sub_cancel_left]

theorem homedContribution_eq {core entry : Nat} {e : AbEnt} {x : Nat × Nat × Nat} {rest : List (Nat × Nat × Nat)} (he : SMap.find? (s.core core).ab entry = some e)
    (hfwd : e.fwd = x :: rest) (hready : s.abReady ⟨1, entry, e.launch, core, e.prt⟩ (if x.1 = 0 then some x.2.1 else none) = true) :
    exec (.homedContribution core entry) s = .next (((s.setCore core { s.core core with ab := SMap.put (s.core core).ab entry { e with fwd := rest } }).abApply
      ⟨1, entry, e.launch, core, e.prt⟩ x).abWake) := by
  rw [exec_homedContribution, execHomedContribution, he]
  dsimp only
  rw [hfwd]
  exact if_neg (by rw [hready]; exact Bool.false_ne_true)

end

/-! ## Streams -/

section

variable {s : State} {crew port lane : Nat} {c : Crew} {st : Stream} (hc : SMap.find? s.ex.crews crew = some c) (hst : SMap.find? c.streams port = some st)
  (hfrozen : c.frozen = false)
include hc hst hfrozen

theorem streamPrefetchRead_eq {keys : List Nat} {ahead : List (Word × Bool)} {j : Nat} (hahead : ahead = SMap.get [] st.fetched lane)
    (hj : j = SMap.get 0 st.pos lane + ahead.length) (hport : port < 4) (hroom : ahead.length < 16) (hmore : j < st.count) (hlive : hasLane c.live lane = true)
    (hready : State.streamReady c st = true) (hkeys : s.engKeys (s.engCtx crew) st.space (st.addr lane j) 4 = some keys) (hblocked : s.engBlocked keys false = false)
    (hgrant : s.inGrants (s.crewPart crew) (keys.headD 0) = true) :
    let u := s.engFetch (s.engCtx crew) st.space (st.addr lane j) keys
    let d := u.engRead keys
    let st' := { st with fetched := SMap.set [] st.fetched lane (ahead ++ [(BitVec.ofNat 32 (leNat d.1), d.2)]) }
    exec (.streamPrefetchRead crew port lane) s = .next (u.setCrew crew { c with streams := SMap.put c.streams port st' }) := by
  intro u d st'
  rw [exec_streamPrefetchRead, execStreamPrefetchRead, hc]
  dsimp only
  rw [hst]
  dsimp only
  rw [← hahead, ← hj]
  refine (if_neg ?_).trans ?_
  · rw [hfrozen, hready, hlive]
    simp [hport, hroom, hmore]
  · rw [hkeys]
    exact (if_neg (by rw [hblocked]; exact Bool.false_ne_true)).trans (if_neg (by rw [hgrant]; exact Bool.false_ne_true))

/-- The values of a push that stand in a pair of lanes. -/
def pairOf (st : Stream) (m : Lanes) (op : Nat) : List (Nat × Word) :=
  (st.queued.filter fun q => hasLane m q.1 && decide (q.2.2.2 = op)).map fun q => (q.1, q.2.2.1)

section

variable {l j op : Nat} {w : Word} {o : Op}
  (hq : st.queued.find? (fun q => decide (q.1 = lane)) = some (l, j, w, op)) (ho : c.findOp op = some o)
  (hfound : ((o.accs.filter fun a => hasLane (s.pairLanes crew l) a.lane).all (·.found)) = true) (hready : State.pushReady c st op (s.pairLanes crew l) = true)
include hq ho hfound hready

theorem streamPushWrite_eq : exec (.streamPushWrite crew port lane) s =
    if st.prot = true ∧ pairOf st (s.pairLanes crew l) op ≠ [(l - l % 2, w), (l - l % 2 + 1, w)] then .next (s.mismatchCrew crew)
    else
      match s.engKeys (s.engCtx crew) st.space (st.addr l j) 4 with
      | none => .next (s.pushSent crew port op (s.pairLanes crew l) [] 0 true)
      | some keys =>
        if s.engBlocked keys true then .next s
        else if !s.inGrants (s.engCtx crew).prt (keys.headD 0) then .next (s.freezeCrew crew)
        else
          let u := s.engFetch (s.engCtx crew) st.space (st.addr l j) keys
          let r := u.engWrite (s.engCtx crew) (st.addr l j) keys (leBytes 4 w.toNat) ((o.accs.filter fun a => hasLane (s.pairLanes crew l) a.lane).any fun a => decide (a.pois ≠ 0))
          .next (r.1.pushSent crew port op (s.pairLanes crew l) keys r.2 false) := by
  rw [exec_streamPushWrite, execStreamPushWrite, hc]
  dsimp only
  rw [hst]
  dsimp only
  rw [hq]
  dsimp only
  rw [ho]
  refine (if_neg ?_).trans rfl
  rw [hfrozen, hready]
  exact fun h => h.elim Bool.false_ne_true fun h => h.elim (fun h => by rw [Option.map_some, Option.getD_some, hfound] at h; exact Bool.false_ne_true h) Bool.false_ne_true

theorem streamPushWrite_mismatch (hprot : st.prot = true) (hpair : pairOf st (s.pairLanes crew l) op ≠ [(l - l % 2, w), (l - l % 2 + 1, w)]) :
    exec (.streamPushWrite crew port lane) s = .next (s.mismatchCrew crew) :=
  (streamPushWrite_eq hc hst hfrozen hq ho hfound hready).trans (if_pos ⟨hprot, hpair⟩)

theorem streamPushWrite_sends {keys : List Nat} (hpair : st.prot = false ∨ pairOf st (s.pairLanes crew l) op = [(l - l % 2, w), (l - l % 2 + 1, w)])
    (hkeys : s.engKeys (s.engCtx crew) st.space (st.addr l j) 4 = some keys) (hblocked : s.engBlocked keys true = false)
    (hgrant : s.inGrants (s.engCtx crew).prt (keys.headD 0) = true) :
    let u := s.engFetch (s.engCtx crew) st.space (st.addr l j) keys
    let r := u.engWrite (s.engCtx crew) (st.addr l j) keys (leBytes 4 w.toNat) ((o.accs.filter fun a => hasLane (s.pairLanes crew l) a.lane).any fun a => decide (a.pois ≠ 0))
    exec (.streamPushWrite crew port lane) s = .next (r.1.pushSent crew port op (s.pairLanes crew l) keys r.2 false) := by
  intro u r
  refine (streamPushWrite_eq hc hst hfrozen hq ho hfound hready).trans ((if_neg ?_).trans ?_)
  · rintro ⟨hprot, hne⟩
    exact hpair.elim (fun h => absurd (hprot.symm.trans h) Bool.true_eq_false.mp) hne
  · rw [hkeys]
    exact (if_neg (by rw [hblocked]; exact Bool.false_ne_true)).trans (if_neg (by rw [hgrant]; exact Bool.false_ne_true))

end

end

/-- Settles O40: a copy's chunks, a chain's record by `recordOutcome`, gathers, contributions and streams, each by its equation. -/
theorem enginesMoveTheirCommands : Obligations.EnginesMoveTheirCommands := by
  unfold Obligations.EnginesMoveTheirCommands
  refine ⟨⟨fun s core ch c isRec => transferStart_eq rfl, fun s core => rfl, fun s core id => rfl,
    fun s core cmd chunk t hcore ht => ⟨chunkComplete_waits hcore ht, chunkComplete_plain hcore ht, fun o r => chunkComplete_contributes hcore ht⟩, ?_,
    fun s die engine c => ⟨gatherStart_eq, fun row => gatherRowComplete_eq, chunkComplete_gather _⟩,
    fun s core entry e x rest => homedContribution_eq⟩,
    fun s crew port lane c st hc hst hfrozen => ⟨fun keys => streamPrefetchRead_eq hc hst hfrozen rfl rfl,
      fun l j w op o keys hq ho hfound hready => ⟨streamPushWrite_mismatch hc hst hfrozen hq ho hfound hready,
        streamPushWrite_sends hc hst hfrozen hq ho hfound hready⟩⟩⟩
  intro s core ch n keys hchain hparked hcur hfrozen hready hkeys hrange i u view v c r hblocked hbar
  have e := chainRecordRead_eq hchain hparked hcur hfrozen hready hkeys hrange hblocked hbar
  refine ⟨fun hhead => e.trans (recordOutcome_dead hhead), fun hhead hown => e.trans (recordOutcome_parks hhead hown),
    fun hhead hown hall => e.trans (recordOutcome_poisoned hhead hown hall), fun hhead hown hall => ⟨fun hrest => e.trans (recordOutcome_rests hhead hown hall hrest),
      fun hrest hform hzero => ?_, fun d at' b hrest hform hrows hzero => ?_,
      fun hrest hform hrows => ⟨fun hzero => e.trans (recordOutcome_takes hhead hown hall hrest hform hrows hzero),
        fun t gen hbar hfault htake => e.trans (recordOutcome_references hhead hown hall hrest hform hrows hbar hfault htake)⟩⟩⟩
  · refine (e.trans (recordOutcome_form hhead hown hall hrest hform)).trans ?_
    rw [told_zero _ hzero]
    rfl
  · refine (e.trans (recordOutcome_rows hhead hown hall hrest hform hrows)).trans ?_
    rw [told_zero _ hzero]

end Sys2Proof.Proofs.Engines
end

section
/-! PROOF. Landing pans and Celore ports (R125 to R130, R132, R133, R135, R137, R316, R317): O41. -/

namespace Sys2Proof.Proofs.PansAndPorts

open Sys2Proof.Machine Sys2Proof.Safety

/-! ## A pan's answers to reservations -/

section

variable {s : State} {seg2 port slot mode ncont nchunk : Nat} {key : BitVec 32} {durUs smod score : Nat} {join : Bool}

theorem panrsvArrival_shut (h : s.portShut port = true) : exec (.panrsvArrival seg2 port slot mode ncont nchunk key durUs smod score join) s = .next s := by
  rw [exec_panrsvArrival, execPanrsvArrival]
  exact if_pos h

variable (hshut : s.portShut port = false)
include hshut

theorem panrsvArrival_route (hcore : State.arrivalCore port seg2 = none) : exec (.panrsvArrival seg2 port slot mode ncont nchunk key durUs smod score join) s =
    .next ((s.flowControl port 0).panReply port smod score slot 0x17 0 0) := by
  rw [exec_panrsvArrival, execPanrsvArrival]
  refine (if_neg (by rw [hshut]; exact Bool.false_ne_true)).trans ?_
  rw [hcore]
  rfl

variable {core : Nat} (hcore : State.arrivalCore port seg2 = some core)
include hcore

theorem panrsvArrival_nopan (hkey : ∀ d ∈ (s.flowControl port 0).panLaunches core, bits ((s.flowControl port 0).launch d).q.pan.toNat 63 32 ≠ key.toNat) :
    exec (.panrsvArrival seg2 port slot mode ncont nchunk key durUs smod score join) s = .next ((s.flowControl port 0).panReply port smod score slot 8 0 0) := by
  rw [exec_panrsvArrival, execPanrsvArrival]
  refine (if_neg (by rw [hshut]; exact Bool.false_ne_true)).trans ?_
  rw [hcore]
  dsimp only
  rw [List.find?_eq_none.mpr fun d hd => by simpa using hkey d hd]
  rfl

/-- What a reservation asks fits the pan. -/
def fits (pan slot nchunk mode ncont durUs : Nat) : Prop :=
  slot < bits pan 6 0 ∧ 0 < nchunk ∧ nchunk ≤ bits pan 23 12 ∧ mode < 3 ∧ 0 < ncont ∧ ncont ≤ 15 ∧ (mode = 0 → ncont = 1) ∧ 0 < durUs

/-- A reservation joins the one that a slot holds. -/
abbrev joins (p : PanSlot) (mode ncont : Nat) (join : Bool) : Prop :=
  join = true ∧ (p.state = 1 ∨ p.state = 2) ∧ p.mode = mode ∧ p.ncont = ncont ∧ p.joined < p.ncont

/-- A slot that one more contributor has joined. -/
def joined (p : PanSlot) (port : Nat) : PanSlot := { p with joined := p.joined + 1, ports := p.ports ||| (1#24 <<< port) }

variable {d : Nat} (hd : ((s.flowControl port 0).panLaunches core).find? (fun d => decide (bits ((s.flowControl port 0).launch d).q.pan.toNat 63 32 = key.toNat)) = some d)
include hd

theorem panrsvArrival_eq : exec (.panrsvArrival seg2 port slot mode ncont nchunk key durUs smod score join) s =
    (let u := s.flowControl port 0
     let pan := (u.launch d).q.pan.toNat
     let k := State.slotKey d slot
     let p := u.slot core k
     if bits pan 6 0 ≤ slot ∨ nchunk = 0 ∨ bits pan 23 12 < nchunk ∨ 3 ≤ mode ∨ ncont = 0 ∨ 15 < ncont ∨ (mode = 0 ∧ ncont ≠ 1) ∨ durUs = 0 then
       .next (u.panReply port smod score slot stDenied 0 0)
     else if p.state = 0 then
       if join then .next (u.panReply port smod score slot stBusy 0 0) else .next (u.slotReserve core k mode ncont nchunk durUs smod score port)
     else if join ∧ (p.state = 1 ∨ p.state = 2) ∧ p.mode = mode ∧ p.ncont = ncont ∧ p.joined < p.ncont then
       if p.owed.isEmpty then .next ((u.setSlot core k (joined p port)).panReply port smod score slot stOk p.gen.toNat p.expiry.toNat)
       else .next (u.setSlot core k { joined p port with owed := p.owed ++ [(port, smod, score)] })
     else .next (u.panReply port smod score slot stBusy 0 0)) := by
  rw [exec_panrsvArrival, execPanrsvArrival]
  refine (if_neg (by rw [hshut]; exact Bool.false_ne_true)).trans ?_
  rw [hcore]
  dsimp only
  rw [hd]
  rfl

theorem panrsvArrival_unfit (h : ¬fits ((s.flowControl port 0).launch d).q.pan.toNat slot nchunk mode ncont durUs) :
    exec (.panrsvArrival seg2 port slot mode ncont nchunk key durUs smod score join) s = .next ((s.flowControl port 0).panReply port smod score slot 8 0 0) := by
  refine (panrsvArrival_eq hshut hcore hd).trans (if_pos ?_)
  unfold fits at h
  omega

variable (hfits : fits ((s.flowControl port 0).launch d).q.pan.toNat slot nchunk mode ncont durUs)
include hfits

theorem panrsvArrival_fit : exec (.panrsvArrival seg2 port slot mode ncont nchunk key durUs smod score join) s =
    (let u := s.flowControl port 0
     let k := State.slotKey d slot
     let p := u.slot core k
     if p.state = 0 then
       if join then .next (u.panReply port smod score slot stBusy 0 0) else .next (u.slotReserve core k mode ncont nchunk durUs smod score port)
     else if joins p mode ncont join then
       if p.owed.isEmpty then .next ((u.setSlot core k (joined p port)).panReply port smod score slot stOk p.gen.toNat p.expiry.toNat)
       else .next (u.setSlot core k { joined p port with owed := p.owed ++ [(port, smod, score)] })
     else .next (u.panReply port smod score slot stBusy 0 0)) := by
  refine (panrsvArrival_eq hshut hcore hd).trans (if_neg ?_)
  unfold fits at hfits
  omega

theorem panrsvArrival_reserves (hfree : ((s.flowControl port 0).slot core (State.slotKey d slot)).state = 0) (hjoin : join = false) :
    exec (.panrsvArrival seg2 port slot mode ncont nchunk key durUs smod score join) s =
      .next ((s.flowControl port 0).slotReserve core (State.slotKey d slot) mode ncont nchunk durUs smod score port) :=
  (panrsvArrival_fit hshut hcore hd hfits).trans ((if_pos hfree).trans (if_neg (by rw [hjoin]; exact Bool.false_ne_true)))

theorem panrsvArrival_busy (hno : ¬joins ((s.flowControl port 0).slot core (State.slotKey d slot)) mode ncont join)
    (hused : ((s.flowControl port 0).slot core (State.slotKey d slot)).state ≠ 0 ∨ join = true) :
    exec (.panrsvArrival seg2 port slot mode ncont nchunk key durUs smod score join) s = .next ((s.flowControl port 0).panReply port smod score slot 3 0 0) := by
  refine (panrsvArrival_fit hshut hcore hd hfits).trans ?_
  by_cases hfree : ((s.flowControl port 0).slot core (State.slotKey d slot)).state = 0
  · exact (if_pos hfree).trans (if_pos (hused.resolve_left (Classical.not_not.mpr hfree)))
  · exact (if_neg hfree).trans (if_neg hno)

theorem panrsvArrival_joins (hjoins : joins ((s.flowControl port 0).slot core (State.slotKey d slot)) mode ncont join) :
    exec (.panrsvArrival seg2 port slot mode ncont nchunk key durUs smod score join) s =
      (let u := s.flowControl port 0
       let k := State.slotKey d slot
       let p := u.slot core k
       if p.owed.isEmpty then .next ((u.setSlot core k (joined p port)).panReply port smod score slot stOk p.gen.toNat p.expiry.toNat)
       else .next (u.setSlot core k { joined p port with owed := p.owed ++ [(port, smod, score)] })) := by
  have hused : ((s.flowControl port 0).slot core (State.slotKey d slot)).state ≠ 0 := by
    have h := hjoins.2.1
    omega
  exact (panrsvArrival_fit hshut hcore hd hfits).trans ((if_neg hused).trans (if_pos hjoins))

end

theorem now_flowControl (s : State) (p vc : Nat) : (s.flowControl p vc).now = s.now := by
  unfold State.flowControl
  dsimp only
  split
  · rfl
  · split <;> rfl

/-! ## The replies a slot owes, and its expiry -/

/-- Replies through open ports on which nothing waits leave in order. -/
theorem foldl_sendReply (os : List (Nat × Nat × Nat)) (f : Nat × Nat × Nat → List Nat) (s : State) (h : ∀ o ∈ os, s.portOpen o.1 1 = true ∧ (s.port o.1).vc1.isEmpty = true) :
    (os.foldl (fun s o => s.sendReply o.1 8 (f o)) s).pl.out = s.pl.out ++ os.map fun o => ⟨8, f o⟩ := by
  induction os generalizing s with
  | nil => exact (List.append_nil _).symm
  | cons o os ih =>
    obtain ⟨ho, hos⟩ := List.forall_mem_cons.mp h
    have hsend : s.sendReply o.1 8 (f o) = s.send 8 (f o) := by
      have hup : (s.port o.1).down = false := by
        have h := ho.1
        unfold State.portOpen at h
        simp only [Bool.and_eq_true, Bool.not_eq_true'] at h
        exact h.1.1
      unfold State.sendReply
      exact (if_neg (by rw [hup]; exact Bool.false_ne_true)).trans (if_pos (by rw [ho.1, ho.2]; rfl))
    rw [List.foldl_cons, hsend, ih (s.send 8 (f o)) hos]
    exact List.append_assoc _ _ _

theorem mem_sendReply (s : State) (p kind : Nat) (nums : List Nat) : (s.sendReply p kind nums).mem = s.mem := by
  unfold State.sendReply
  dsimp only
  split
  · rfl
  · split <;> rfl

theorem mem_foldl_sendReply (os : List (Nat × Nat × Nat)) (f : Nat × Nat × Nat → List Nat) (s : State) :
    (os.foldl (fun s o => s.sendReply o.1 8 (f o)) s).mem = s.mem := by
  induction os generalizing s with
  | nil => rfl
  | cons o os ih => exact (ih _).trans (mem_sendReply ..)

theorem slotReplies_spec (s : State) (core slot : Nat) :
    (s.slotReplies core slot).mem = s.mem ∧ ((s.slotReplies core slot).slot core slot).owed = [] ∧
      (((s.slot core slot).owed.all fun o => s.portOpen o.1 1 && (s.port o.1).vc1.isEmpty) = true →
        (s.slotReplies core slot).pl.out = s.pl.out ++ (s.slot core slot).owed.map fun o =>
          ⟨8, [o.1, o.2.1, o.2.2, slot % 64, 0, (s.slot core slot).gen.toNat, (s.slot core slot).expiry.toNat]⟩) := by
  unfold State.slotReplies
  dsimp only
  split
  · next hnone =>
    rw [List.isEmpty_iff] at hnone
    rw [hnone]
    exact ⟨rfl, rfl, fun _ => (List.append_nil _).symm⟩
  · refine ⟨mem_foldl_sendReply _ (fun o => [o.1, o.2.1, o.2.2, slot % 64, 0, (s.slot core slot).gen.toNat, (s.slot core slot).expiry.toNat]) s, ?_, fun hopen => ?_⟩
    · rw [StreamsAndPans.slot_setSlot]
    · refine foldl_sendReply _ (fun o => [o.1, o.2.1, o.2.2, slot % 64, 0, (s.slot core slot).gen.toNat, (s.slot core slot).expiry.toNat]) s fun o ho => ?_
      exact Bool.and_eq_true_iff.mp (List.all_eq_true.mp hopen o ho)

theorem slotExpiry_eq {s : State} {core slot : Nat} (hdue : (s.slot core slot).expiry.toNat ≤ s.now) (hstate : (s.slot core slot).state = 1 ∨ (s.slot core slot).state = 2) :
    exec (.slotExpiry core slot) s = .next (s.setSlot core slot { State.withHdr (s.slot core slot) ((State.slotHdr (s.slot core slot)).fail s.now errStopped) with
      state := 4, cause := 2 }).abWake := by
  rw [exec_slotExpiry, execSlotExpiry, if_pos hdue, State.slotFail]
  exact congrArg _ (if_neg (by omega))

/-! ## Puts that come in -/

section

variable {s : State} {seg2 port slot gen mode off n : Nat} {data : List (BitVec 8)}

/-- The acknowledgement of a put. -/
def putAck (s : State) (port slot gen off n cause : Nat) : State := s.sendReply port 9 [port, slot, gen, off, n, cause]

theorem panputArrival_shut (h : s.portShut port = true) : exec (.panputArrival seg2 port slot gen mode off n data) s = .next s := by
  rw [exec_panputArrival, execPanputArrival]
  exact if_pos (by simp [h])

section

variable (hn : 0 < n) (hn' : n ≤ 16) (hdata : data.length = 512 * n) (hshut : s.portShut port = false)
include hn hn' hdata hshut

theorem panputArrival_route (hcore : State.arrivalCore port seg2 = none) :
    exec (.panputArrival seg2 port slot gen mode off n data) s = .next (putAck (s.flowControl port 2) port slot gen off n 0x17) := by
  rw [exec_panputArrival, execPanputArrival]
  refine (if_neg (by rw [hshut]; simp [hdata]; omega)).trans ?_
  rw [hcore]
  rfl

variable {core : Nat} (hcore : State.arrivalCore port seg2 = some core)
include hcore

theorem panputArrival_nopan (hpans : ((s.flowControl port 2).panLaunches core).filter (fun d => decide (slot < bits ((s.flowControl port 2).launch d).q.pan.toNat 6 0)) = []) :
    exec (.panputArrival seg2 port slot gen mode off n data) s = .next (putAck (s.flowControl port 2) port slot gen off n 0x1C) := by
  rw [exec_panputArrival, execPanputArrival]
  refine (if_neg (by rw [hshut]; simp [hdata]; omega)).trans ?_
  rw [hcore]
  dsimp only
  rw [hpans]
  rfl

/-- A put has been performed on a slot of a core. -/
def putDone (u : State) (core key gen off n : Nat) (data : List (BitVec 8)) : State :=
  let v := u.setSlot core key { u.slot core key with refs := (u.slot core key).refs + 1 }
  let v := (List.range n).foldl (fun s j => s.putChunk core key gen (off + j) ((data.drop (512 * j)).take 512)) v
  ((v.setSlot core key { v.slot core key with refs := (v.slot core key).refs - 1 }).slotSync core key).abWake

variable {d : Nat} (hpans : ((s.flowControl port 2).panLaunches core).filter (fun d => decide (slot < bits ((s.flowControl port 2).launch d).q.pan.toNat 6 0)) = [d])
include hpans

theorem panputArrival_eq : exec (.panputArrival seg2 port slot gen mode off n data) s =
    (let u := s.flowControl port 2
     let key := State.slotKey d slot
     let c := State.putCause (u.slot core key) gen mode off n
     if c ≠ 0 then .next (putAck u port slot gen off n c)
     else
       let v := putDone u core key gen off n data
       .next (putAck v port slot gen off n (if (v.slot core key).cause = 5 then badPanRange else 0))) := by
  rw [exec_panputArrival, execPanputArrival]
  refine (if_neg (by rw [hshut]; simp [hdata]; omega)).trans ?_
  rw [hcore]
  dsimp only
  rw [hpans]
  have hone : ∀ p : Nat → Bool, (([d].find? p).orElse fun _ => [d].head?) = some d := fun p => by
    cases h : p d <;> simp [h]
  rw [hone]
  rfl

theorem panputArrival_refused {c : Nat} (hc : State.putCause ((s.flowControl port 2).slot core (State.slotKey d slot)) gen mode off n = c) (hbad : c ≠ 0) :
    exec (.panputArrival seg2 port slot gen mode off n data) s = .next (putAck (s.flowControl port 2) port slot gen off n c) := by
  refine (panputArrival_eq hn hn' hdata hshut hcore hpans).trans ?_
  dsimp only
  rw [hc]
  exact if_pos hbad

theorem panputArrival_done (hc : State.putCause ((s.flowControl port 2).slot core (State.slotKey d slot)) gen mode off n = 0) :
    exec (.panputArrival seg2 port slot gen mode off n data) s =
      (let v := putDone (s.flowControl port 2) core (State.slotKey d slot) gen off n data
       .next (putAck v port slot gen off n (if (v.slot core (State.slotKey d slot)).cause = 5 then 0x18 else 0))) :=
  (panputArrival_eq hn hn' hdata hshut hcore hpans).trans (if_neg (Classical.not_not.mpr hc))

end

/-! Why a slot refuses a put, by its state (R127, R130). -/

/-- A put of a FAILED slot is refused, whatever made the slot fail. -/
theorem failedCause_ne_zero (c : Nat) : (if c = 1 then 0x1B else if c = 2 then 0x1D else if c = 3 then 0x1C else if c = 4 then 0x1E else 0x18) ≠ 0 := by
  repeat' split
  all_goals decide

section

variable {p : PanSlot}

theorem putCause_gen (h : p.gen.toNat ≠ gen) : State.putCause p gen mode off n = 0x1A := if_pos h

variable (hgen : p.gen.toNat = gen)
include hgen

theorem putCause_eq : State.putCause p gen mode off n = match p.state with
    | 0 => 0x1E
    | 3 => badPanRange
    | 4 => [badPanRange, badLink, 0x1D, 0x1C, 0x1E, badPanRange].getD p.cause badPanRange
    | _ => if p.mode ≠ mode then badPanMode else if p.nchunk < off + n then badPanRange else 0 :=
  (if_neg (Classical.not_not.mpr hgen)).trans rfl

theorem putCause_free (h : p.state = 0) : State.putCause p gen mode off n = 0x1E := by
  rw [putCause_eq hgen, h]
  rfl

theorem putCause_complete (h : p.state = 3) : State.putCause p gen mode off n = 0x18 := by
  rw [putCause_eq hgen, h]
  rfl

theorem putCause_failed (h : p.state = 4) : State.putCause p gen mode off n =
    if p.cause = 1 then 0x1B else if p.cause = 2 then 0x1D else if p.cause = 3 then 0x1C else if p.cause = 4 then 0x1E else 0x18 := by
  rw [putCause_eq hgen, h]
  match hc : p.cause with
  | 0 | 1 | 2 | 3 | 4 | 5 => rfl
  | k + 6 => simp [badPanRange]

theorem putCause_held (h : p.state = 1 ∨ p.state = 2) : State.putCause p gen mode off n =
    if p.mode ≠ mode then 0x19 else if p.nchunk < off + n then 0x18 else 0 := by
  rw [putCause_eq hgen]
  rcases h with h | h <;> rw [h] <;> rfl

end

end

/-! ## The sender's side -/

section

variable {s : State} {core idx : Nat} {r : PanReq} (hr : SMap.find? (s.core core).panReqs idx = some r) (hopen : r.answered = false)
include hr hopen

section

variable {st gen expiry : Nat} (hrsv : r.isPut = false) (hsent : r.sent = true) (hport : s.portShut r.port = false)
include hrsv hsent hport

theorem panrsvReply_eq : exec (.panrsvReply core idx st gen expiry) s =
    if badPanForm ≤ st then .next (s.answerReq core idx r [] (some st))
    else if st ≠ stOk then .next (s.answerReq core idx r [(statusWord 0 0 st).toNat] none)
    else
      let w := r.w2.toNat
      let e : SendEnt := { lit := r.lit, hdr := BitVec.ofNat 8 (panHdr w), slot := panSlot w, gen := gen % 65536, mode := panMode w, port := r.port,
                           launch := r.ctx.launch }
      let free := (List.range 32).find? fun j => (SMap.find? (s.core core).sender j).isNone
      let s := s.modCore core fun c => { c with sender := match free with
        | some j => SMap.put c.sender j e
        | none => c.sender }
      .next (s.answerReq core idx r [(statusWord gen 0 stOk).toNat, 0, expiry % 2 ^ 32, expiry / 2 ^ 32 % 2 ^ 32] none) := by
  rw [exec_panrsvReply, execPanrsvReply, hr]
  refine (if_neg ?_).trans rfl
  rw [hrsv, hopen, hsent, hport]
  exact Bool.false_ne_true

theorem panrsvReply_error (hst : 0x16 ≤ st) : exec (.panrsvReply core idx st gen expiry) s = .next (s.answerReq core idx r [] (some st)) :=
  (panrsvReply_eq hr hopen hrsv hsent hport).trans (if_pos hst)

theorem panrsvReply_status (hst : st < 0x16) (hst' : st ≠ 0) : exec (.panrsvReply core idx st gen expiry) s = .next (s.answerReq core idx r [status 0 0 st] none) := by
  refine (panrsvReply_eq hr hopen hrsv hsent hport).trans ((if_neg (Nat.not_le.mpr hst)).trans ((if_pos hst').trans ?_))
  rw [Waits.status_eq]

/-- The sender table entry of a reservation that has its generation (R126). -/
def sendEntry (r : PanReq) (gen : Nat) : SendEnt :=
  { lit := r.lit, hdr := BitVec.ofNat 8 (bits r.w2.toNat 31 24), slot := bits r.w2.toNat 23 18, gen := gen % 65536, mode := bits r.w2.toNat 17 16, port := r.port,
    launch := r.ctx.launch }

theorem panrsvReply_ok {j : Nat} (hst : st = 0) (hfree : (List.range 32).find? (fun j => (SMap.find? (s.core core).sender j).isNone) = some j) :
    exec (.panrsvReply core idx st gen expiry) s =
      .next ((s.setCore core { s.core core with sender := SMap.put (s.core core).sender j (sendEntry r gen) }).answerReq core idx r
        [status gen 0 0, 0, expiry % 2 ^ 32, expiry / 2 ^ 32 % 2 ^ 32] none) := by
  refine (panrsvReply_eq hr hopen hrsv hsent hport).trans ((if_neg (by rw [hst]; decide)).trans ((if_neg (Classical.not_not.mpr hst)).trans ?_))
  dsimp only
  rw [hfree, Waits.status_eq]
  rfl

end

theorem panputAck_eq {cause : Nat} (hput : r.isPut = true) (hsent : r.sent = true) (hport : s.portShut r.port = false) : exec (.panputAck core idx cause) s =
    .next ((if cause = badLink then s.breach r.ctx.launch 0x24 r.port 255 else s).answerReq core idx r [] (if cause = 0 then none else some cause)) := by
  rw [exec_panputAck, execPanputAck, hr]
  refine if_neg ?_
  rw [hput, hopen, hsent, hport]
  exact Bool.false_ne_true

theorem panResponseTimeout_eq : exec (.panResponseTimeout core idx) s =
    if s.now < r.sentAt + 2 * (s.port r.port).flight + 4000000 then .next s else .next (s.answerReq core idx r [] (some 0x1F)) := by
  rw [exec_panResponseTimeout, execPanResponseTimeout, hr]
  dsimp only
  rw [hopen]
  simp only [Bool.false_eq_true, false_or]

end

/-! ## Celore ports -/

section

variable {s : State} {port : Nat} (hport : port < 24)
include hport

theorem not_le_port : ¬24 ≤ port := Nat.not_le.mpr hport

section

variable {vc : Nat} (hvc : vc < 4)
include hvc

theorem celoreStop_eq : exec (.celoreStop port vc) s = .next (s.setPort port { s.port port with stopped := (s.port port).stopped ||| (1#4 <<< vc) }) := by
  rw [exec_celoreStop, execCeloreStop]
  exact congrArg Host.Outcome.next (if_neg (not_or.mpr ⟨Nat.not_le.mpr hport, Nat.not_le.mpr hvc⟩))

theorem celoreGo_eq : exec (.celoreGo port vc) s =
    .next ((s.setPort port { s.port port with stopped := (s.port port).stopped &&& ~~~(1#4 <<< vc) }).releaseVc1 port) := by
  rw [exec_celoreGo, execCeloreGo]
  exact congrArg Host.Outcome.next (if_neg (not_or.mpr ⟨Nat.not_le.mpr hport, Nat.not_le.mpr hvc⟩))

end

omit hport in
/-- What waited for VC1 leaves when it opens (R132). -/
theorem releaseVc1_spec {q : Port} (hup : q.down = false) (hon : q.retrain = false) (hopen : q.stopped.getLsbD 1 = false) :
    let t := (s.setPort port q).releaseVc1 port
    t.mem = s.mem ∧ t.pl.out = s.pl.out ++ q.vc1 ∧ (t.port port).vc1 = [] := by
  have hportOpen : (s.setPort port q).portOpen port 1 = true := by
    rw [State.portOpen, State.port_setPort_self, hup, hon, hopen]
    rfl
  unfold State.releaseVc1
  dsimp only
  rw [State.port_setPort_self, if_pos hportOpen]
  exact ⟨rfl, rfl, congrArg Port.vc1 (State.port_setPort_self (s.setPort port q) port _)⟩

omit hport in
theorem not_getLsbD_go (x : BitVec 4) : (x &&& ~~~(1#4 <<< 1)).getLsbD 1 = false := by simp

theorem flitCrcFail_eq (hup : (s.port port).down = false) (hon : (s.port port).retrain = false) : exec (.flitCrcFail port) s =
    (let recent := ((s.port port).replays.filter fun t => decide (s.now < t + 10000)) ++ [s.now]
     let u := s.setPort port { s.port port with replays := recent }
     .next (if 16 ≤ recent.length then u.doRetrain port else u)) := by
  rw [exec_flitCrcFail, execFlitCrcFail]
  refine if_neg ?_
  rw [hup, hon]
  simpa using hport

theorem portRetrain_eq (hup : (s.port port).down = false) (hon : (s.port port).retrain = false) : exec (.portRetrain port) s =
    (let recent := ((s.port port).retrains.filter fun t => decide (s.now < t + 1000000000)) ++ [s.now]
     .next (if 4 ≤ recent.length then (s.setPort port { s.port port with retrains := recent }).doPortDown port
       else (s.portUsers port).foldl (fun (s : State) d => s.breach d 0x24 port 255)
         (s.setPort port { s.port port with retrain := true, retrains := recent, replays := [] }))) := by
  rw [exec_portRetrain, execPortRetrain, if_neg (Nat.not_le.mpr hport), State.doRetrain]
  refine congrArg Host.Outcome.next ((if_neg ?_).trans rfl)
  rw [hup, hon]
  exact Bool.false_ne_true

omit hport in
theorem portRetrainComplete_eq (hon : (s.port port).retrain = true) (ok : Bool) : exec (.portRetrainComplete port ok) s =
    .next (if ok then (s.setPort port { s.port port with retrain := false }).releaseVc1 port else s.doPortDown port) := by
  rw [exec_portRetrainComplete, execPortRetrainComplete]
  exact congrArg Host.Outcome.next (if_neg (by rw [hon]; exact Bool.false_ne_true))

theorem portDown_eq : exec (.portDown port) s = .next (if (s.port port).down then s else s.doPortDown port) := by
  rw [exec_portDown, execPortDown]
  simp only [not_le_port hport, false_or]

/-- A port that has been trained (R133). -/
def trained (q : Port) (pmod pport trip : Nat) : Port :=
  let f := min 65535 (cdiv trip 20 * 10)
  { q with peer := BitVec.ofNat 64 (pmod % 65536 * 2 ^ 48 + pport % 32 * 2 ^ 43 + 2 ^ 42 + f * 2 ^ 26), measured := f, down := false, retrain := false,
           stopped := 0, told := 0, vc1 := [], replays := [], retrains := [] }

theorem portTraining_eq (pmod pport trip : Nat) : exec (.portTraining port pmod pport trip) s = .next (s.setPort port (trained (s.port port) pmod pport trip)) := by
  rw [exec_portTraining, execPortTraining]
  exact if_neg (Nat.not_le.mpr hport)

omit hport in
theorem trained_fields (q : Port) (pmod pport trip : Nat) : (trained q pmod pport trip).down = false ∧ (trained q pmod pport trip).pmod = pmod % 65536 ∧
    (trained q pmod pport trip).valid = true ∧ (trained q pmod pport trip).flight = min 65535 ((trip + 19) / 20 * 10) := by
  have hf : min 65535 (cdiv trip 20 * 10) = min 65535 ((trip + 19) / 20 * 10) := rfl
  have hle : min 65535 ((trip + 19) / 20 * 10) ≤ 65535 := Nat.min_le_left ..
  refine ⟨rfl, ?_, ?_, ?_⟩ <;> simp only [trained, Port.pmod, Port.valid, Port.flight, bits, bitOf, BitVec.toNat_ofNat, hf] <;>
    generalize min 65535 ((trip + 19) / 20 * 10) = f at hle ⊢
  · omega
  · exact decide_eq_true (by omega)
  · omega

theorem peerTableWrite_eq (value : BitVec 64) : exec (.peerTableWrite port value) s =
    .next (if s.portHeld port = true ∨ bits value.toNat 41 26 < (s.port port).measured then s
      else s.setPort port { s.port port with peer := value &&& 0xFFFFFFFFFC000000#64 }) := by
  rw [exec_peerTableWrite, execPeerTableWrite]
  simp only [not_le_port hport, false_or]
  rfl

end

/-- Settles O41: pans by what a slot holds, the sender's side by its request, ports by their equations. -/
theorem pansAndPortsAnswer : Obligations.PansAndPortsAnswer := by
  unfold Obligations.PansAndPortsAnswer
  refine ⟨⟨?_, fun s core slot => ⟨_, exec_slotZeroingDone s core slot, slotReplies_spec s core slot⟩, fun s core slot => slotExpiry_eq, ?_, ?_⟩, ?_⟩
  case refine_1 =>
    intro s seg2 port slot mode ncont nchunk key durUs smod score join ev u
    refine ⟨panrsvArrival_shut, fun hshut => ⟨panrsvArrival_route hshut, fun core hcore => ⟨panrsvArrival_nopan hshut hcore, fun d hd => ?_⟩⟩⟩
    intro k p fits' joins' p'
    refine ⟨panrsvArrival_unfit hshut hcore hd, fun hfits hfree hjoin => ⟨_, panrsvArrival_reserves hshut hcore hd hfits hfree hjoin, ?_⟩,
      fun hfits hno hused => panrsvArrival_busy hshut hcore hd hfits hno hused, fun hfits hjoins howed => ?_, fun hfits hjoins howed => ?_⟩
    · unfold State.slotReserve
      dsimp only
      rw [StreamsAndPans.slot_setSlot, now_flowControl]
      exact ⟨rfl, rfl, rfl, rfl, rfl⟩
    · exact (panrsvArrival_joins hshut hcore hd hfits hjoins).trans (if_pos (List.isEmpty_iff.mpr howed))
    · exact (panrsvArrival_joins hshut hcore hd hfits hjoins).trans (if_neg fun h => howed (List.isEmpty_iff.mp h))
  case refine_2 =>
    intro s seg2 port slot gen mode off n data ev ack u
    refine ⟨panputArrival_shut, fun hn hn' hdata hshut => ⟨panputArrival_route hn hn' hdata hshut, fun core hcore => ⟨panputArrival_nopan hn hn' hdata hshut hcore, fun d hpans => ?_⟩⟩⟩
    have refused := fun {c : Nat} => panputArrival_refused hn hn' hdata hshut hcore hpans (gen := gen) (mode := mode) (off := off) (c := c)
    refine ⟨fun h => refused (putCause_gen h) (by decide), fun hgen h => refused (putCause_free hgen h) (by decide), fun hgen h => refused (putCause_complete hgen h) (by decide),
      fun hgen h => refused (putCause_failed hgen h) (failedCause_ne_zero _), fun hgen h hmode => refused ((putCause_held hgen h).trans (if_pos hmode)) (by decide),
      fun hgen h hmode hsize => refused ((putCause_held hgen h).trans ((if_neg (Classical.not_not.mpr hmode)).trans (if_pos hsize))) (by decide), fun hgen h hmode hsize => ?_⟩
    exact panputArrival_done hn hn' hdata hshut hcore hpans ((putCause_held hgen h).trans ((if_neg (Classical.not_not.mpr hmode)).trans (if_neg (Nat.not_lt.mpr hsize))))
  case refine_3 =>
    intro s core idx r hr hopen
    refine ⟨fun st gen expiry hrsv hsent hport => ⟨panrsvReply_error hr hopen hrsv hsent hport, panrsvReply_status hr hopen hrsv hsent hport,
      fun j hst hfree => panrsvReply_ok hr hopen hrsv hsent hport hst hfree⟩, fun cause hput hsent hport => ?_, fun hdue => ?_, fun hearly => ?_⟩
    · have e := panputAck_eq (cause := cause) hr hopen hput hsent hport
      refine ⟨fun h => ?_, fun h => ?_, fun h0 hlink => ?_⟩
      · rw [e, h]
        rfl
      · rw [e, h]
        rfl
      · rw [e, if_neg (show cause ≠ badLink from hlink), if_neg h0]
    · exact (panResponseTimeout_eq hr hopen).trans (if_neg (Nat.not_lt.mpr hdue))
    · exact (panResponseTimeout_eq hr hopen).trans (if_pos hearly)
  case refine_4 =>
    intro s port hport q
    refine ⟨fun vc hvc => ⟨celoreStop_eq hport hvc, celoreGo_eq hport hvc⟩, fun hup hon => ⟨_, celoreGo_eq hport (by decide), releaseVc1_spec hup hon (not_getLsbD_go _)⟩,
      fun hup hon => ⟨fun h => (flitCrcFail_eq hport hup hon).trans (congrArg Host.Outcome.next (if_neg (Nat.not_le.mpr h))),
        fun h => (flitCrcFail_eq hport hup hon).trans (congrArg Host.Outcome.next (if_pos h))⟩,
      fun hup hon => ⟨fun h => (portRetrain_eq hport hup hon).trans (congrArg Host.Outcome.next (if_pos h)),
        fun h => (portRetrain_eq hport hup hon).trans (congrArg Host.Outcome.next (if_neg (Nat.not_le.mpr h)))⟩,
      fun hon => ⟨portRetrainComplete_eq hon true, portRetrainComplete_eq hon false⟩,
      fun hup => (portDown_eq hport).trans (congrArg Host.Outcome.next (if_neg (by rw [hup]; exact Bool.false_ne_true))),
      fun hdown => (portDown_eq hport).trans (congrArg Host.Outcome.next (if_pos hdown)),
      fun pmod pport trip => ⟨_, portTraining_eq hport pmod pport trip, ?_⟩, fun value => ⟨fun h => ?_, fun hheld hflight => ?_⟩⟩
    · dsimp only
      rw [State.port_setPort_self]
      exact trained_fields _ pmod pport trip
    · exact (peerTableWrite_eq hport value).trans (congrArg Host.Outcome.next (if_pos h))
    · refine (peerTableWrite_eq hport value).trans (congrArg Host.Outcome.next (if_neg ?_))
      rw [hheld]
      exact not_or.mpr ⟨Bool.false_ne_true, Nat.not_lt.mpr hflight⟩

end Sys2Proof.Proofs.PansAndPorts
end

section
/-! PROOF. Signatures, starts, completions and windrow fires of the matrix units (R285 to R290, R303 to R306): O42. -/

namespace Sys2Proof.Proofs.MatrixUnits

open Sys2Proof.Machine Sys2Proof.Safety

/-! ## Signatures -/

theorem signatureCount_eq {s : State} {crew idx : Nat} {c : Crew} {n k bound : Nat} (hc : SMap.find? s.ex.crews crew = some c)
    (hsign : (c.signs.drop idx).head? = some (n, k, bound)) : exec (.signatureCount crew idx) s =
      if c.chipOpen bound then .next s
      else
        let quad := quadOf crew
        let cv := s.cv quad n
        let u := s.setCrew crew { c with signs := c.signs.take idx ++ c.signs.drop (idx + 1) }
        .next ((((u.setCv quad n { cv with signed := cv.signed + k }).cvFire quad n 5).mxStamp (quad / 4)).reap crew) := by
  rw [exec_signatureCount, execSignatureCount, hc]
  dsimp only
  rw [hsign]

/-! ## The operations of a unit -/

section

variable {s : State} {core quad : Nat}

theorem matrixOpStart_rests (h : (s.quad (core * 4 + quad)).running ≠ [] ∨ (State.mxChosen (s.quad (core * 4 + quad))).isSome = true) :
    exec (.matrixOpStart core quad) s = .next s := by
  rw [exec_matrixOpStart, execMatrixOpStart]
  by_cases hrun : (s.quad (core * 4 + quad)).running = []
  · exact (if_neg (by rw [hrun]; exact Bool.false_ne_true)).trans (if_pos (h.resolve_left (Classical.not_not.mpr hrun)))
  · refine if_pos ?_
    rw [List.isEmpty_eq_false_iff.mpr hrun]
    rfl

theorem matrixOpStart_picks {p : MxPick} (hrun : (s.quad (core * 4 + quad)).running = []) (hchosen : State.mxChosen (s.quad (core * 4 + quad)) = none)
    (hpick : s.mxPick (core * 4 + quad) = some p) : exec (.matrixOpStart core quad) s =
      .next (if s.mustAsk (core * 4 + quad) p then s.mxAsk (core * 4 + quad) p else s.mxStart (core * 4 + quad) p) := by
  rw [exec_matrixOpStart, execMatrixOpStart]
  refine (if_neg (by rw [hrun]; exact Bool.false_ne_true)).trans ((if_neg (by rw [hchosen]; exact Bool.false_ne_true)).trans ?_)
  rw [hpick]

theorem matrixOpComplete_eq {r : Running} {o : MxOp} (hrun : (s.quad (core * 4 + quad)).running = [r]) (ho : r.op = some o) :
    let k := core * 4 + quad
    let e := (s.meterBallast k).mxEffect k o r.pre
    exec (.matrixOpComplete core quad) s = .next
      (((e.1.modQuad k fun q => { q with running := [], drew := if isMma o then some s.now else q.drew }).mxDone o e.2).mxStamp core) := by
  intro k e
  rw [exec_matrixOpComplete, execMatrixOpComplete]
  dsimp only
  rw [hrun]
  dsimp only
  rw [ho]

end

/-! ## The windrow -/

section

variable {s : State} {core entry : Nat} {w : WEnt} (hw : s.wEnt core entry = some w)
include hw

theorem windrowDeadlineFire_eq : exec (.windrowDeadlineFire core entry) s = .next (if isOpen w ∧ wDeadline w ≤ s.now then s.wFire core entry else s) := by
  rw [exec_windrowDeadlineFire, execWindrowDeadlineFire, hw]

theorem windrowBArrived_eq : exec (.windrowBArrived core entry) s =
    if w.fired.isNone ∨ w.arrived then .next s else .next ((s.setWEnt core entry { w with arrived := true }).mxStamp core) := by
  rw [exec_windrowBArrived, execWindrowBArrived, hw]

end

theorem windrowFireComplete_eq {s : State} {core entry quad : Nat} {r : Running} (h : s.fireOf core entry = some (quad, r)) :
    exec (.windrowFireComplete core entry) s = .next (s.wFireEnd core quad r) := by
  rw [exec_windrowFireComplete, execWindrowFireComplete, h]

/-- Settles O42: each event by its equation above. -/
theorem matrixUnitsWork : Obligations.MatrixUnitsWork := by
  unfold Obligations.MatrixUnitsWork
  refine ⟨fun s crew idx c n k bound hc hsign => ⟨fun hlate => (signatureCount_eq hc hsign).trans (if_pos hlate),
      fun hlate => (signatureCount_eq hc hsign).trans (if_neg (by rw [hlate]; exact Bool.false_ne_true))⟩,
    fun s core quad => ⟨matrixOpStart_rests, fun p => matrixOpStart_picks, fun r o => matrixOpComplete_eq⟩, fun s core entry w hw => ?_,
    fun s core entry quad r => windrowFireComplete_eq⟩
  refine ⟨fun hopen hdue => (windrowDeadlineFire_eq hw).trans (congrArg Host.Outcome.next (if_pos ⟨hopen, hdue⟩)),
    fun hno => (windrowDeadlineFire_eq hw).trans (congrArg Host.Outcome.next (if_neg ?_)), fun hfired hnew => (windrowBArrived_eq hw).trans (if_neg ?_),
    fun hno => (windrowBArrived_eq hw).trans (if_pos (hno.imp_left Option.isNone_iff_eq_none.mpr))⟩
  · rintro ⟨hopen, hdue⟩
    exact hno.elim (fun h => Bool.false_ne_true (h.symm.trans hopen)) fun h => Nat.not_le.mpr h hdue
  · rw [hnew, Option.isNone_eq_false_iff.mpr hfired]
    exact not_or.mpr ⟨Bool.false_ne_true, Bool.false_ne_true⟩

end Sys2Proof.Proofs.MatrixUnits
end

section
/-! PROOF. Power events (R326, R391, R395, R397, R398, R402, R411): O43. -/

namespace Sys2Proof.Proofs.PowerEvents

open Sys2Proof.Machine Sys2Proof.Safety

/-- A table whose values are changed one by one, by a change that keeps what it says of the default. -/
theorem get_map {α β : Type} (dflt : α) (f : Nat → α → α) (p : α → β) (m : SMap α) (k : Nat) (h : p (f k dflt) = p dflt) :
    p (SMap.get dflt (List.map (fun e : Nat × α => (e.1, f e.1 e.2)) m) k) = p (f k (SMap.get dflt m k)) := by
  rw [SMap.get_eq, SMap.get_eq, Lives.find?_map]
  cases SMap.find? m k with
  | none => exact h.symm
  | some v => rfl

section

variable {s : State} {cl : Nat} (hcl : cl < 20)
include hcl

theorem rampTableWrite_eq (value : BitVec 96) : exec (.rampTableWrite cl value) s =
    (let a := fun (j : Nat) => bits value.toNat (6 * j + 5) (6 * j)
     let bad := decide (a 0 < 1) || decide (a 15 ≠ 32) || (List.range 15).any fun j => decide (a (j + 1) < a j)
     let busy := (State.clusterQuads cl).any fun q => s.draws q || (s.quad q).ramp
     .next (if bad ∨ busy then s else s.setCluster cl { s.cluster cl with ramp := value, rampSet := true, j := 0, d := 0 })) := by
  rw [exec_rampTableWrite, execRampTableWrite]
  simp only [Nat.not_le.mpr hcl, false_or]

theorem slewLimiterStep_eq : exec (.slewLimiterStep cl) s =
    .next (if (s.cluster cl).stepAt ≠ 0 ∧ s.now < (s.cluster cl).stepAt + s.clkNs (cl * 8) 4 then s else s.limiterStep cl) := by
  rw [exec_slewLimiterStep, execSlewLimiterStep]
  simp only [Nat.not_le.mpr hcl, false_or]

theorem railReachedPoint_eq : exec (.railReachedPoint cl) s =
    .next (if (s.cluster cl).target ≤ (s.cluster cl).clock ∨ s.railNow (s.cluster cl) ≠ State.pointMv (s.cluster cl).target then s
      else s.setCluster cl (s.setClock { s.cluster cl with rail := State.pointMv (s.cluster cl).target, railAt := s.now } (s.cluster cl).target)) := by
  rw [exec_railReachedPoint, execRailReachedPoint]
  simp only [Nat.not_le.mpr hcl, false_or]

end

/-! ## A rail that fails -/

/-- What a ramp under the management plane leaves as it is. -/
theorem operatorRamp_spec (s : State) (prt : Nat) (gone quads : List Nat) :
    (s.operatorRamp prt gone quads).mem = s.mem ∧ (s.operatorRamp prt gone quads).events = s.events := by
  have hfold : ∀ (l : List Nat) (s : State), (l.foldl (fun (s : State) q => s.modQuad q fun x => { x with stall := 0 }) s).mem = s.mem ∧
      (l.foldl (fun (s : State) q => s.modQuad q fun x => { x with stall := 0 }) s).events = s.events := fun l => by
    induction l with
    | nil => exact fun s => ⟨rfl, rfl⟩
    | cons q rest ih => exact fun s => ih _
  exact hfold gone s

theorem foldl_operatorRamp_spec (f : State → Nat → List Nat × List Nat) (l : List Nat) (s : State) :
    (l.foldl (fun (s : State) p => s.operatorRamp p (f s p).1 (f s p).2) s).mem = s.mem ∧
    (l.foldl (fun (s : State) p => s.operatorRamp p (f s p).1 (f s p).2) s).events = s.events := by
  induction l generalizing s with
  | nil => exact ⟨rfl, rfl⟩
  | cons p rest ih =>
    obtain ⟨hm, he⟩ := ih (s.operatorRamp p (f s p).1 (f s p).2)
    obtain ⟨hm', he'⟩ := operatorRamp_spec s p (f s p).1 (f s p).2
    exact ⟨hm.trans hm', he.trans he'⟩

/-- The partitions that lose quadrants to a rail ramp down under the management plane. -/
def ramped (s : State) (hit : Nat → Bool) (ls : List (Nat × Launch)) : State :=
  (List.flatMap (fun p : Nat × Launch => (p.2.q.quads.filter hit).map s.partOf) ls).eraseDups.foldl
    (fun (s : State) p => s.operatorRamp p ((s.ballastQuads p).filter hit) (s.ballastQuads p)) s

theorem ramped_spec (s : State) (hit : Nat → Bool) (ls : List (Nat × Launch)) : (ramped s hit ls).mem = s.mem ∧ (ramped s hit ls).events = s.events :=
  foldl_operatorRamp_spec (fun s p => ((s.ballastQuads p).filter hit, s.ballastQuads p)) _ s

/-- The launches that run on some quadrants. -/
def runningOn (s : State) (hit : Nat → Bool) : List (Nat × Launch) :=
  List.filter (fun p : Nat × Launch => decide (p.2.phase = 1) && p.2.q.quads.any hit) s.fr.launches

theorem railFault_sram (s : State) (die : Nat) : exec (.railFault true die) s =
    (let hit := fun q => decide (dieOf (q / 4) = die)
     .next ((ramped s hit (runningOn s hit)).due ((runningOn s hit).map fun p => .launchReplay p.1 0x22))) := by
  rw [exec_railFault, execRailFault]
  rfl

theorem railFault_logic (s : State) (cl : Nat) : exec (.railFault false cl) s =
    (let hit := fun q => decide (q / 32 = cl)
     let u := ramped s hit (runningOn s hit)
     .next ((u.setCluster cl { u.toPoint (u.cluster cl) 0 with fallen := true }).due ((runningOn s hit).map fun p => .launchReplay p.1 0x22))) := by
  rw [exec_railFault, execRailFault]
  rfl

theorem target_toPoint (s : State) (c : Cluster) (p : Nat) : (s.toPoint c p).target = p := by
  unfold State.toPoint
  split
  · next h => exact h.symm
  · dsimp only
    split <;> rfl

/-! ## Samples and windows -/

theorem telemetrySample_eq {s : State} (hdue : (s.pl.mgmt.samples + 1) * 100000 ≤ s.now) : exec .telemetrySample s =
    (let m := s.pl.mgmt
     let t := s.send 4 [s.sampleBits]
     .next { t with pl := { t.pl with
       mgmt := { m with samples := m.samples + 1, sampleSeq := m.sampleSeq + 1, ints := 0, modAcc := 0, balAcc := 0, opAcc := 0, rampx := 0 }
       parts := s.pl.parts.map fun (p : Nat × Part) => (p.1, { p.2 with acc := 0 }) } }) := by
  rw [exec_telemetrySample, execTelemetrySample]
  exact if_neg (Nat.not_lt.mpr hdue)

theorem budgetWindow_rolls {s : State} {n : Nat} (hn : n = s.now / 1000000 - s.pl.mgmt.msWindow) (h0 : n ≠ 0) : exec .budgetWindowBoundary s = .next { s with
    pl := { s.pl with mgmt := { s.pl.mgmt with msWindow := s.pl.mgmt.msWindow + n } }
    fr := { s.fr with tenants := s.fr.tenants.map fun (p : Nat × Tenant) => (p.1, { p.2 with used := 0, timeNs := p.2.timeNs - n * (1000 * bits (s.dcb p.1) 63 44) }) } } := by
  rw [exec_budgetWindowBoundary, execBudgetWindowBoundary, State.rollWindows]
  dsimp only
  rw [← hn, if_neg h0]

theorem budgetWindow_rests {s : State} (h0 : s.now / 1000000 - s.pl.mgmt.msWindow = 0) : exec .budgetWindowBoundary s = .next s := by
  rw [exec_budgetWindowBoundary, execBudgetWindowBoundary, State.rollWindows]
  exact congrArg Host.Outcome.next (if_pos h0)

theorem eventWindowEnd_eq {s : State} {unit : Nat} {c : UnitCnt} (hc : SMap.find? s.pl.units unit = some c) (hdue : c.since + s.pl.mgmt.window ≤ s.now) :
    exec (.eventWindowEnd unit) s = .next { s with pl := { s.pl with units := SMap.put s.pl.units unit { c with events := 0, corrected := 0, since := s.now } } } := by
  rw [exec_eventWindowEnd, execEventWindowEnd, hc]
  exact congrArg Host.Outcome.next (if_neg (Nat.not_lt.mpr hdue))

theorem ballastEnd_eq {s : State} {core quad : Nat} {b : Ballast} (hb : (s.quad (core * 4 + quad)).ballast = some b) : exec (.ballastEnd core quad) s =
    .next (if b.endAt ≤ s.now then s.ballastOff (core * 4 + quad) else s) := by
  rw [exec_ballastEnd, execBallastEnd, hb]

/-- Settles O43: each event by its equation above. -/
theorem powerEventsAct : Obligations.PowerEventsAct := by
  unfold Obligations.PowerEventsAct
  intro s
  refine ⟨?ramp, ?cluster, fun die => ⟨_, railFault_sram s die, (ramped_spec s _ _).1, ?_⟩, fun hdue => ?_, fun hearly => ?_, fun hdue => ⟨_, telemetrySample_eq hdue, ?_⟩,
    fun n hn => ⟨fun h0 => ⟨_, budgetWindow_rolls hn h0, rfl, ?_, fun k => ?_⟩, fun h0 => budgetWindow_rests (hn.symm.trans h0)⟩, fun unit c => eventWindowEnd_eq, ?_⟩
  case ramp =>
    intro cl value hcl a good
    refine ⟨fun hgood => ?_, fun hbad => ?_⟩ <;> refine (rampTableWrite_eq hcl value).trans (congrArg Host.Outcome.next ?_)
    · obtain ⟨h0, h15, hup, hidle⟩ := hgood
      refine if_neg ?_
      simp only [Bool.or_eq_true, decide_eq_true_eq, List.any_eq_true, List.mem_range, not_or, not_exists, not_and, Nat.not_lt, Bool.not_eq_true, Decidable.not_not]
      exact ⟨⟨⟨h0, h15⟩, fun j hj => hup j hj⟩, fun q hq => hidle q hq⟩
    · refine if_pos ?_
      refine Classical.byContradiction fun hno => ?_
      simp only [Bool.or_eq_true, decide_eq_true_eq, List.any_eq_true, List.mem_range, not_or, not_exists, not_and, Nat.not_lt, Bool.not_eq_true, Decidable.not_not] at hno
      obtain ⟨⟨⟨h0, h15⟩, hup⟩, hidle⟩ := hno
      exact hbad ⟨h0, h15, hup, hidle⟩
  case cluster =>
    intro cl hcl c
    refine ⟨fun hdue => ?_, fun h0 hearly => ?_, fun hclock hrail => ⟨_, (railReachedPoint_eq hcl).trans (congrArg Host.Outcome.next (if_neg ?_)), rfl, ?_, ?_⟩,
      fun hrail => (railReachedPoint_eq hcl).trans (congrArg Host.Outcome.next (if_pos (Or.inr hrail))), _, railFault_logic s cl, (ramped_spec s _ _).1, ?_, ?_, ?_⟩
    · refine (slewLimiterStep_eq hcl).trans (congrArg Host.Outcome.next (if_neg ?_))
      rintro ⟨h0, hearly⟩
      exact hdue.elim h0 (Nat.not_le.mpr hearly)
    · exact (slewLimiterStep_eq hcl).trans (congrArg Host.Outcome.next (if_pos ⟨h0, hearly⟩))
    · exact not_or.mpr ⟨Nat.not_le.mpr hclock, Classical.not_not.mpr hrail⟩
    · exact congrArg Cluster.clock (SMap.get_put_self _ _ _ _)
    · exact congrArg Cluster.rail (SMap.get_put_self _ _ _ _)
    · exact congrArg Cluster.fallen (SMap.get_put_self _ _ _ _)
    · exact (congrArg Cluster.target (SMap.get_put_self _ _ _ _)).trans (target_toPoint _ _ 0)
    · exact congrArg (· ++ _) (ramped_spec s _ _).2
  · exact congrArg (· ++ _) (ramped_spec s _ _).2
  · rw [exec_controlIntervalBoundary, execControlIntervalBoundary, if_neg (Nat.not_lt.mpr hdue)]
  · rw [exec_controlIntervalBoundary, execControlIntervalBoundary, if_pos hearly]
  · exact ⟨rfl, rfl, rfl, rfl, rfl, rfl, rfl, rfl, fun p => get_map ({} : Part) (fun _ x => { x with acc := 0 }) Part.acc s.pl.parts p rfl⟩
  · show s.pl.mgmt.msWindow + n = _
    omega
  · have h := fun {β : Type} (f : Tenant → β) => get_map ({} : Tenant) (fun k x => { x with used := 0, timeNs := x.timeNs - n * (1000 * bits (s.dcb k) 63 44) }) f s.fr.tenants k
    exact ⟨h Tenant.used rfl, h Tenant.timeNs (Nat.zero_sub _)⟩
  · intro core quad b hb
    obtain ⟨hm, -, hnone⟩ := SystemInstrs.ballastOff_spec s (core * 4 + quad) 0
    exact ⟨fun hdue => ⟨_, (ballastEnd_eq hb).trans (congrArg Host.Outcome.next (if_pos hdue)), hm, hnone⟩,
      fun hearly => (ballastEnd_eq hb).trans (congrArg Host.Outcome.next (if_neg (Nat.not_le.mpr hearly)))⟩

end Sys2Proof.Proofs.PowerEvents
end

section
/-! PROOF. Requests at the front end, launch starts, block starts and trap entries (R136, R147, R333, R341 to R345, R367, R372, R405): O44. -/

namespace Sys2Proof.Proofs.FrontEnd

open Sys2Proof.Machine Sys2Proof.Safety

/-! ## QUOTE -/

section

variable {s : State} {crew lane : Nat} {r : FrontReq} (hr : s.findReq crew lane 0 = some r)
include hr

theorem quoteRequest_walks {asid va : Nat}
    (hread : s.readAsked (s.feKey (dieOf (coreOf crew)) (State.feCrew crew) (s.crewAsid crew)) r.req = .error (.walk asid va)) :
    exec (.quoteRequest crew lane) s = .next (s.askWalk (dieOf (coreOf crew)) asid va 2 (State.feCrew crew)) := by
  rw [exec_quoteRequest, execQuoteRequest, hr]
  dsimp only
  rw [hread]
  rfl

/-- A QUOTE is answered with a status and a record of it. -/
def refused (u : State) (key : Nat) (r : FrontReq) (st : Nat) : State := (u.feWrite key (leBytes 64 (State.quoteRecord (u.refusedQuote st)))).feAnswer r st

variable {a : Asked} {key : Nat} (hread : s.readAsked (s.feKey (dieOf (coreOf crew)) (State.feCrew crew) (s.crewAsid crew)) r.req = .ok a)
  (hkey : s.feKey (dieOf (coreOf crew)) (State.feCrew crew) (s.crewAsid crew) r.recVa = .ok key)
include hread hkey

theorem quoteRequest_eq : exec (.quoteRequest crew lane) s =
    (let u := s.dropEnds (dieOf (coreOf crew)) (State.feCrew crew)
     match u.requestStatus a with
     | some st => .next (refused u key r st)
     | none =>
       match u.price a (((u.crew crew).queue).getD 0) with
       | .error st => .next (if st = qsNoResources then u.feAnswer r st else refused u key r st)
       | .ok q =>
         let q := { q with qid := BitVec.ofNat 64 u.fr.nextQid, recVa := key }
         let w := { u with fr := { u.fr with nextQid := u.fr.nextQid + 1, quotes := SMap.put u.fr.quotes u.fr.nextQid q } }
         .next ((w.feWrite key (leBytes 64 (State.quoteRecord q))).feAnswer r qsQuoted)) := by
  rw [exec_quoteRequest, execQuoteRequest, hr]
  dsimp only
  rw [hread, hkey] <;> rfl

end

/-! ## ACCEPT and DECLINE -/

section

variable {s : State} {crew lane : Nat} {r : FrontReq}

theorem acceptRequest_refused (hr : s.regenRoutes.findReq crew lane 1 = some r) {st : Nat} (hst : s.regenRoutes.answerStatus r.qid.toNat = some st) :
    exec (.acceptRequest crew lane) s = .next (s.regenRoutes.refuseAnswer r st) := by
  rw [exec_acceptRequest, execAcceptRequest]
  dsimp only
  rw [hr]
  dsimp only
  rw [hst]

theorem acceptRequest_enters (hr : s.regenRoutes.findReq crew lane 1 = some r) (hst : s.regenRoutes.answerStatus r.qid.toNat = none) :
    exec (.acceptRequest crew lane) s = (let u := s.regenRoutes
      .next { u with fr := { u.fr with
        reqs := u.fr.reqs.filter fun o => !decide (o.crew = r.crew ∧ o.op = r.op)
        order := u.fr.order ++ [{ r with time := u.now, req := 0 }] } }) := by
  rw [exec_acceptRequest, execAcceptRequest]
  dsimp only
  rw [hr]
  dsimp only
  rw [hst]

variable (hr : s.findReq crew lane 2 = some r)
include hr

theorem declineRequest_refused {st : Nat} (hst : s.answerStatus r.qid.toNat = some st) : exec (.declineRequest crew lane) s = .next (s.refuseAnswer r st) := by
  rw [exec_declineRequest, execDeclineRequest, hr]
  dsimp only
  rw [hst]

theorem declineRequest_ends (hst : s.answerStatus r.qid.toNat = none) (hwaits : s.acceptWaits r.qid.toNat = false) :
    exec (.declineRequest crew lane) s = .next ((s.endQuote r.qid.toNat qsDeclined).feAnswer r qsDeclined) := by
  rw [exec_declineRequest, execDeclineRequest, hr]
  dsimp only
  rw [hst]
  exact congrArg Host.Outcome.next (if_neg (by rw [hwaits]; exact Bool.false_ne_true))

end

theorem acceptTakesEffect_eq {s : State} {r : FrontReq} {rest : List FrontReq} (h : s.fr.order = r :: rest) : exec .acceptTakesEffect s = .next (s.tryAccept r) := by
  rw [exec_acceptTakesEffect, execAcceptTakesEffect, h]

/-! ## Launches and blocks -/

section

variable {s : State} {d : Nat} {l : Launch} (hl : SMap.find? s.fr.launches d = some l)
include hl

theorem launchStart_eq (hphase : l.phase = 0) (hstart : l.startAt ≤ s.now) (hfrozen : l.frozen = false) :
    let void := decide ((s.quote l.q.qid.toNat).status = qsVoid)
    let dl := if void then 0 else if l.started.isSome then l.deadline else BitVec.ofNat 64 (s.now + l.q.tbound)
    let u := s.setLaunch d { l with phase := 1, started := some (l.started.getD s.now), meteredAt := s.now, deadline := dl }
    exec (.launchStart d) s = .next ((l.q.slots.foldl (fun s e => s.startSlot d e) u).checkLaunch d) := by
  intro void dl u
  rw [exec_launchStart, execLaunchStart, State.startLaunch, hl]
  refine congrArg Host.Outcome.next (if_neg ?_)
  rw [hphase, hfrozen]
  exact not_or.mpr ⟨Classical.not_not.mpr rfl, not_or.mpr ⟨Nat.not_lt.mpr hstart, Bool.false_ne_true⟩⟩

theorem launchStart_early (hearly : s.now < l.startAt) : exec (.launchStart d) s = .next s := by
  rw [exec_launchStart, execLaunchStart, State.startLaunch, hl]
  exact congrArg Host.Outcome.next (if_pos (Or.inr (Or.inl hearly)))

end

section

variable {s : State} {core slot : Nat}

/-- The launches that the slot of a core serves. -/
def serving (s : State) (core slot : Nat) : List Nat :=
  (List.filter (fun p : Nat × Launch => p.2.q.slots.any fun e => decide (e.core = core ∧ e.slot = slot) && s.slotOpen p.1 e) s.fr.launches).map (·.1)

/-- A launch starts its next block in the slot of a core. -/
def startIn (core slot : Nat) (s : State) (d : Nat) : State :=
  match s.slotEnt d core slot with
  | none => s
  | some e => s.startSlot d e

theorem blockStart_eq : exec (.blockStart core slot) s =
    .next (((serving s core slot).findSome? fun d => if (((startIn core slot s d).slotEnt d core slot).map (·.busy)) = some true then some (startIn core slot s d) else none).getD
      ((serving s core slot).foldl (startIn core slot) s)) := by
  rw [exec_blockStart, execBlockStart]
  rfl

theorem blockStart_none (h : serving s core slot = []) : exec (.blockStart core slot) s = .next s := by
  rw [blockStart_eq, h]
  rfl

/-- With one launch to serve, its block is tried either way. -/
theorem blockStart_one {d : Nat} {e : SlotEnt} (h : serving s core slot = [d]) (he : s.slotEnt d core slot = some e) :
    exec (.blockStart core slot) s = .next (s.startSlot d e) := by
  have hstart : startIn core slot s d = s.startSlot d e := by rw [startIn, he]
  rw [blockStart_eq, h]
  refine congrArg Host.Outcome.next ?_
  rw [List.findSome?_cons, List.findSome?_nil, List.foldl_cons, List.foldl_nil, hstart]
  split
  · next u hu =>
    split at hu
    · exact (Option.some.inj hu).symm
    · exact absurd hu (by simp)
  · rfl

end

/-! ## Trap entries -/

section

variable {s : State} {crew lane : Nat}

theorem trapEntry_parked (h : ((s.crew crew).groups (s.codeOf crew)).find? (fun g => hasLane g.lanes lane) = none) :
    exec (.trapEntry crew lane) s = .next (s.takeParked crew lane) := by
  rw [exec_trapEntry, execTrapEntry, h]

theorem trapEntry_group {g : Group} (h : ((s.crew crew).groups (s.codeOf crew)).find? (fun g => hasLane g.lanes lane) = some g) :
    exec (.trapEntry crew lane) s = .next ((s.takeWaiting crew g).getD s) := by
  rw [exec_trapEntry, execTrapEntry, h]

end

/-- Settles O44: each request and each event by its equation above. -/
theorem frontEndServesRequests : Obligations.FrontEndServesRequests := by
  unfold Obligations.FrontEndServesRequests
  intro s crew lane
  refine ⟨?quote, fun r hr => ⟨fun st hst => acceptRequest_refused hr hst, fun hst => ⟨_, acceptRequest_enters hr hst, rfl, rfl, rfl⟩⟩,
    fun r hr => ⟨fun st hst => declineRequest_refused hr hst, declineRequest_ends hr⟩, fun r rest => acceptTakesEffect_eq, fun d l => launchStart_eq, fun d l => launchStart_early,
    fun core slot => ⟨blockStart_none, fun d e => blockStart_one⟩, fun d cause => exec_launchReplay s d cause, fun die asid record => ?_, trapEntry_parked,
    fun g hg => ⟨fun t ht => ?_, fun ht => ?_⟩⟩
  case quote =>
    intro r hr die who at' u
    refine ⟨fun asid va => quoteRequest_walks hr, fun a key hread hkey => ?_⟩
    have e := quoteRequest_eq hr hread hkey
    refine ⟨fun st hst => ?_, fun st hst hprice => ⟨fun hne => ?_, fun heq => ?_⟩, fun q hst hprice => ?_⟩ <;> dsimp only at e <;> rw [hst] at e
    · exact e
    · rw [hprice] at e
      exact e.trans (congrArg Host.Outcome.next (if_neg hne))
    · rw [hprice] at e
      exact e.trans (congrArg Host.Outcome.next (if_pos heq))
    · rw [hprice] at e
      exact e
  · rw [exec_kernelLoad, execKernelLoad]
  · rw [trapEntry_group hg, ht]
    rfl
  · rw [trapEntry_group hg, ht]
    rfl

end Sys2Proof.Proofs.FrontEnd
end

section
/-! PROOF. Descriptors, CQACK, packets, vectors and queue resets (R354, R355, R357, R358, R418 to R422): O45. -/

namespace Sys2Proof.Proofs.HostQueues

open Sys2Proof.Machine Sys2Proof.Safety

section

variable {s : State} {qi : Nat}

/-! ## Descriptors and programs -/

theorem queueDescriptorWrite_refused {value : BitVec 512}
    (h : 4096 ≤ qi ∨ bits value.toNat 238 235 = 0 ∨ bits value.toNat 234 231 = 0 ∨ bits value.toNat 230 229 = 3) : exec (.queueDescriptorWrite qi value) s = .next s := by
  rw [exec_queueDescriptorWrite, execQueueDescriptorWrite]
  exact if_pos h

theorem queueDescriptorWrite_taken {value : BitVec 512} (hq : qi < 4096) (hring : bits value.toNat 238 235 ≠ 0) (hcq : bits value.toNat 234 231 ≠ 0)
    (hstate : bits value.toNat 230 229 ≠ 3) : exec (.queueDescriptorWrite qi value) s =
      (let d := ((s.queue qi).desc &&& ~~~State.queueRw) ||| (value &&& State.queueRw)
       let go := decide (bits value.toNat 230 229 = 1)
       .next (s.setQueue qi { s.queue qi with desc := if go then BitVec.ofNat 512 (setBits d.toNat 230 229 0) else d, loading := go })) := by
  rw [exec_queueDescriptorWrite, execQueueDescriptorWrite]
  exact if_neg (not_or.mpr ⟨Nat.not_le.mpr hq, not_or.mpr ⟨hring, not_or.mpr ⟨hcq, hstate⟩⟩⟩)

theorem queueProgramLoad_eq (hload : (s.queue qi).loading = true) (hflight : (s.queue qi).inFlight = false) (hreset : s.queueResetting qi = false) :
    exec (.queueProgramLoad qi) s =
      (let q := s.queue qi
       let die := State.qDie q
       let who := State.feQueue qi
       let refuse := fun (s : State) st => s.setQueue qi { q with loading := false, desc := BitVec.ofNat 512 (setBits (setBits q.desc.toNat 230 229 0) 211 204 st) }
       match s.readProgram (s.feKey die who (s.qAsid q)) q with
       | .error m => .next (s.feMiss die who m fun s _ => refuse s qsFootprintUnmapped)
       | .ok (.error st) => .next (refuse (s.dropEnds die who) st)
       | .ok (.ok q) => .next ((s.dropEnds die who).setQueue qi { q with loading := false, desc := BitVec.ofNat 512 (setBits q.desc.toNat 230 229 1) })) := by
  rw [exec_queueProgramLoad, execQueueProgramLoad]
  refine (if_neg ?_).trans rfl
  rw [hload, hflight, hreset]
  exact Bool.false_ne_true

end

/-! ## What the host writes to a function -/

section

variable {s : State} {port fn fq : Nat} {value : BitVec 32}

theorem notify_resetting (h : (s.func (port * 33 + fn)).resetting = true) :
    exec (.notify port fn fq value) s = .next (s.setFunc (port * 33 + fn) { s.func (port * 33 + fn) with drop := State.countUp (s.func (port * 33 + fn)).drop }) := by
  rw [exec_notify, execNotify]
  exact if_pos h

section

variable (hopen : s.funcShut (port * 33 + fn) = false)
include hopen

theorem not_shut : ¬s.funcShut (port * 33 + fn) = true := by
  rw [hopen]
  exact Bool.false_ne_true

theorem cqack_none (hq : s.funcQueue (port * 33 + fn) fq = none) : exec (.cqack port fn fq value) s =
    .next (s.setFunc (port * 33 + fn) { s.func (port * 33 + fn) with badNotify := State.countUp (s.func (port * 33 + fn)).badNotify }) := by
  rw [exec_cqack, execCqack]
  refine (if_neg (not_shut hopen)).trans ?_
  rw [hq]
  rfl

theorem cqack_eq {qi : Nat} (hq : s.funcQueue (port * 33 + fn) fq = some qi) : exec (.cqack port fn fq value) s =
    (let d := (s.queue qi).desc.toNat
     let head := bits d 287 272
     let t := s.setQueue qi { s.queue qi with desc := BitVec.ofNat 512 (setBits d 287 272 value.toNat) }
     if 65536 ≤ value.toNat ∨ (bits d 271 256 + 65536 - head) % 65536 < (value.toNat + 65536 - head) % 65536 then
       .next (s.setFunc (port * 33 + fn) { s.func (port * 33 + fn) with badNotify := State.countUp (s.func (port * 33 + fn)).badNotify })
     else .next { t with fr := { t.fr with roomAt := s.now } }) := by
  rw [exec_cqack, execCqack]
  refine (if_neg (not_shut hopen)).trans ?_
  rw [hq]
  rfl

theorem msixVectorUnmask_eq {vec : Nat} (hvec : vec < 256) : exec (.msixVectorUnmask port fn vec) s =
    (let f := s.func (port * 33 + fn)
     let u := s.setFunc (port * 33 + fn) { f with msixMask := f.msixMask &&& ~~~(1#256 <<< vec), pba := if f.msixOn then f.pba &&& ~~~(1#256 <<< vec) else f.pba }
     .next (if f.msixOn ∧ f.pba.getLsbD vec then u.send 1 [port, fn, vec, (SMap.get 0 f.msixTab vec).toNat] else u)) := by
  rw [exec_msixVectorUnmask, execMsixVectorUnmask]
  exact if_neg (not_or.mpr ⟨Nat.not_le.mpr hvec, not_shut hopen⟩)

/-- The name that a write of QRST leaves there. -/
def resetName (f : Func) (value : BitVec 32) : BitVec 32 := (f.qrst &&& 0x40000000#32) ||| (value &&& 0x7F#32)

theorem queueReset_named (h : value.getLsbD 31 = false ∨ (s.func (port * 33 + fn)).qrstBusy ≠ []) :
    exec (.queueReset port fn value) s = .next (s.setFunc (port * 33 + fn) { s.func (port * 33 + fn) with qrst := resetName (s.func (port * 33 + fn)) value }) := by
  rw [exec_queueReset, execQueueReset]
  refine (if_neg (not_shut hopen)).trans (if_pos ?_)
  rcases h with h | h
  · rw [h]
    rfl
  · rw [List.isEmpty_eq_false_iff.mpr h]
    exact Bool.or_true _

variable (hgo : value.getLsbD 31 = true) (hidle : (s.func (port * 33 + fn)).qrstBusy = [])
include hgo hidle

theorem queueReset_goes : exec (.queueReset port fn value) s =
    match s.funcQueue (port * 33 + fn) (bits value.toNat 6 0) with
    | none => .next (s.setFunc (port * 33 + fn) { s.func (port * 33 + fn) with qrst := resetName (s.func (port * 33 + fn)) value })
    | some qi => .next ((s.setFunc (port * 33 + fn) { s.func (port * 33 + fn) with qrst := resetName (s.func (port * 33 + fn)) value &&& 0x7F#32 }).beginQueueReset (port * 33 + fn) qi) := by
  rw [exec_queueReset, execQueueReset]
  refine (if_neg (not_shut hopen)).trans ((if_neg ?_).trans rfl)
  rw [hgo, hidle]
  exact Bool.false_ne_true

end

theorem queueResetDone_ends {qi : Nat} (h : (s.func (port * 33 + fn)).qrstBusy.find? s.resetDone = some qi) :
    exec (.queueResetDone port fn) s = .next (s.endQueueReset (port * 33 + fn) qi) := by
  rw [exec_queueResetDone, execQueueResetDone, h]

theorem queueResetDone_last (hidle : (s.func (port * 33 + fn)).qrstBusy = []) (hres : (s.func (port * 33 + fn)).resetting = true) :
    exec (.queueResetDone port fn) s = .next (s.setFunc (port * 33 + fn) { s.func (port * 33 + fn) with resetting := false }) := by
  rw [exec_queueResetDone, execQueueResetDone]
  dsimp only
  rw [hidle]
  exact congrArg Host.Outcome.next (if_pos (by rw [hres]; rfl))

/-- A function as its reset leaves it: what its BAR holds is as at reset but for NOTIFYDROP (R421). -/
def resetFunc (f : Func) : Func :=
  { f with resetting := true, invcmd := 0, invList := [], qrst := 0, errHead := 0, badNotify := 0, msixOn := false, msixMask := BitVec.allOnes 256, msixTab := [], pba := 0 }

theorem functionLevelReset_bare (hres : (s.func (port * 33 + fn)).resetting = false) (hqueues : (s.func (port * 33 + fn)).queues = []) :
    exec (.functionLevelReset port fn) s = .next (s.setFunc (port * 33 + fn) (resetFunc (s.func (port * 33 + fn)))) := by
  rw [exec_functionLevelReset, execFunctionLevelReset]
  refine (if_neg (by rw [hres]; exact Bool.false_ne_true)).trans ?_
  exact congrArg (fun l : SMap Nat => Host.Outcome.next ((List.map (fun p : Nat × Nat => p.2) l).foldl (fun (s : State) qi => s.beginQueueReset (port * 33 + fn) qi)
    (s.setFunc (port * 33 + fn) (resetFunc (s.func (port * 33 + fn)))))) hqueues

end

/-! ## Packets -/

section

variable {s : State}

theorem packetStart_eq {die core qi k base : Nat} (hcore : 160 ≤ core) (hcore' : core < 192) (hdie : dieOf core = die) (hq : s.rollWindows.chooseQueue die = some qi)
    (hroom : s.rollWindows.queueRoom core (s.rollWindows.queue qi) = some (k, base)) : exec (.packetStart die core) s = .next (s.rollWindows.startPacket core qi k base) := by
  rw [exec_packetStart, execPacketStart]
  refine (if_neg (not_or.mpr ⟨Nat.not_lt.mpr hcore, not_or.mpr ⟨Nat.not_le.mpr hcore', Classical.not_not.mpr hdie⟩⟩)).trans ?_
  rw [hq]
  dsimp only
  rw [hroom]

theorem packetBudgetExhausted_eq {crew qi : Nat} {c : Crew} (hc : SMap.find? s.ex.crews crew = some c) (hq : c.queue = some qi) :
    exec (.packetBudgetExhausted crew) s = .next (if c.issues < 4096 then s else s.killPacket qi 2) := by
  rw [exec_packetBudgetExhausted, execPacketBudgetExhausted, hc]
  dsimp only
  rw [hq]

end

/-- Settles O45: each write and each event by its equation above. -/
theorem queuesAreServed : Obligations.QueuesAreServed := by
  unfold Obligations.QueuesAreServed
  intro s
  refine ⟨fun qi value => ⟨queueDescriptorWrite_refused, fun hq hring hcq hstate => ⟨fun h => ?_, fun h => ?_⟩⟩, fun qi hload hflight hreset => ?load,
    fun port fn fq value => ⟨notify_resetting, fun hopen => ⟨cqack_none hopen, fun qi hq => ⟨fun hacks => ?_, fun hacks => ?_⟩⟩⟩,
    fun die core qi k base => packetStart_eq, fun crew c qi hc hq => ⟨fun h => ?_, fun h => ?_⟩,
    fun port fn vec hvec hopen => ⟨_, msixVectorUnmask_eq hopen hvec, ?msix⟩, fun port fn value => ?reset⟩
  case load =>
    have e := queueProgramLoad_eq hload hflight hreset
    refine ⟨fun asid va hread => ?_, fun st hread => ?_, fun p hread => ?_⟩ <;> dsimp only at e <;> rw [hread] at e <;> exact e
  case msix =>
    split <;> exact ⟨rfl, congrArg Func.msixMask (SMap.get_put_self _ _ _ _), rfl⟩
  case reset =>
    refine ⟨fun hopen => queueReset_named hopen, fun qi hopen hgo hidle hq => ?_, fun hopen hgo hidle hq => ?_, fun qi => queueResetDone_ends, queueResetDone_last,
      fun hres hqueues => ⟨_, functionLevelReset_bare hres hqueues, rfl, ?_⟩⟩
    · rw [queueReset_goes hopen hgo hidle, hq]
      rfl
    · rw [queueReset_goes hopen hgo hidle, hq]
      rfl
    · rw [Translation.func_setFunc]
      exact ⟨rfl, rfl, rfl, rfl, rfl, rfl, rfl⟩
  · refine (queueDescriptorWrite_taken hq hring hcq hstate).trans ?_
    dsimp only
    rw [decide_eq_true h]
    rfl
  · refine (queueDescriptorWrite_taken hq hring hcq hstate).trans ?_
    dsimp only
    rw [decide_eq_false h]
    rfl
  · exact (cqack_eq hopen hq).trans (if_neg (by omega))
  · exact (cqack_eq hopen hq).trans (if_pos (by omega))
  · exact (packetBudgetExhausted_eq hc hq).trans (congrArg Host.Outcome.next (if_neg (Nat.not_lt.mpr h)))
  · exact (packetBudgetExhausted_eq hc hq).trans (congrArg Host.Outcome.next (if_pos h))

end Sys2Proof.Proofs.HostQueues
end

section
/-! PROOF. The rungs of a pre-emption (R377 to R386, R390): O46. -/

namespace Sys2Proof.Proofs.Preemption

open Sys2Proof.Machine Sys2Proof.Safety

/-! ## Requests and their timers -/

section

variable {s : State} {tenant part : Nat}

theorem preemptRequest_eq : exec (.preemptRequest tenant part) s =
    if (s.preemptOf tenant part).isSome then .next s
    else
      let u := { s with fr := { s.fr with preempts := s.fr.preempts ++ [({ tenant := tenant, part := part, since := s.now } : Preempt)] } }
      .next ((u.tenantBlocks tenant part).foldl (fun (s : State) bk =>
        let v := (s.block bk).crews.foldl (fun (s : State) k => s.modCrew k fun (c : Crew) => { c with notice := c.tvec.getLsbD 0 }) s
        (v.modBlock bk fun b => { b with stop := max 1 b.stop }).stepNext bk) u) := by
  rw [exec_preemptRequest, execPreemptRequest]

variable {p : Preempt} (hp : s.preemptOf tenant part = some p)
include hp

theorem preemptWithdraw_eq : exec (.preemptWithdraw tenant part) s =
    (let u := s.dropPreempt tenant part
     .next (((u.tenantBlocks tenant part).foldl (fun (s : State) bk =>
      let v := (s.block bk).crews.foldl (fun (s : State) k => s.modCrew k fun (c : Crew) => { c with notice := false, noticeAt := (0, 0) }) s
      (if (v.block bk).stop < 3 then v.modBlock bk fun b => { b with stop := 0 } else v).stepNext bk) u).resumeAll tenant part)) := by
  rw [exec_preemptWithdraw, execPreemptWithdraw, hp]

theorem graceTimerExpiry_eq : exec (.graceTimerExpiry tenant part) s =
    if p.rung ≠ 1 ∨ s.now < p.since + bits (s.dcb tenant) 43 32 * 10000 then .next s
    else
      let u := s.setPreempt { p with rung := 2 }
      .next ((u.tenantBlocks tenant part).foldl (fun (s : State) bk => if (s.block bk).stop < 2 then s.rungTwo bk else s) u) := by
  rw [exec_graceTimerExpiry, execGraceTimerExpiry, hp]

theorem killTimerExpiry_eq : exec (.killTimerExpiry tenant part) s =
    if 3 ≤ p.rung ∨ s.now < p.since + bits (s.dcb tenant) 31 20 * 100000 then .next s
    else .next ((s.setPreempt { p with rung := 3 }).rungThree tenant part) := by
  rw [exec_killTimerExpiry, execKillTimerExpiry, hp]

end

/-! ## Blocks that stop -/

section

variable {s : State} {core slot bk : Nat}

theorem drainTimerExpiry_eq (hbk : (s.blockAt core slot fun b => decide (b.stop = 2)) = some bk) : exec (.drainTimerExpiry core slot) s =
    (let b := s.block bk
     if s.now < b.stopAt + bits (s.ppcOf (s.blockPart b)) 23 16 * 1000 then .next s else .next ((s.noteStopped b.launch).stopBlock bk 3)) := by
  rw [exec_drainTimerExpiry, execDrainTimerExpiry, hbk]

variable (hbk : (s.blockAt core slot fun b => decide (3 ≤ b.stop) && decide (b.stop ≤ 5)) = some bk)
include hbk

theorem blockStopComplete_unsettled (h : (s.haltBlock bk).settled bk = false) : exec (.blockStopComplete core slot) s = .next (s.haltBlock bk) := by
  rw [exec_blockStopComplete, execBlockStopComplete, hbk]
  exact if_pos (by rw [h]; rfl)

theorem blockStopComplete_settled (h : (s.haltBlock bk).settled bk = true) : exec (.blockStopComplete core slot) s =
    (let b := (s.haltBlock bk).block bk
     let u := (s.haltBlock bk).panStop b.launch core
     .next (if b.stop = 4 then u.dropBlock bk else if b.stop = 5 then u.modBlock bk fun b => { b with stop := 6 } else u.saveBlock bk)) := by
  rw [exec_blockStopComplete, execBlockStopComplete, hbk]
  exact if_neg (by rw [h]; exact Bool.false_ne_true)

end

/-- The images of a core that no slot of its shadow store holds yet. -/
def unshadowed (s : State) (core : Nat) : List Saved := s.fr.saved.filter fun b => decide (b.block.core = core) && b.inShadow.isNone

/-- A saved block once the exchange with a core's shadow slot is done, of launch `d` there (R383). -/
def exchanged (core d : Nat) (b : Saved) : Saved :=
  if b.block.core ≠ core then b
  else if b.inShadow.isNone then { b with inShadow := some 0 }
  else if b.block.launch = d then b else { b with inShadow := some 1 }

theorem exchanged_placed (core d : Nat) (b : Saved) (h : (exchanged core d b).block.core = core) : (exchanged core d b).inShadow.isSome = true := by
  unfold exchanged at h ⊢
  by_cases hcore : b.block.core ≠ core
  · rw [if_pos hcore] at h
    exact absurd h hcore
  rw [if_neg hcore]
  split
  · rfl
  next hnew =>
  split
  · exact Option.isSome_iff_ne_none.mpr fun hn => hnew (Option.isNone_iff_eq_none.mpr hn)
  · rfl

theorem shadowExchangeDone_eq (s : State) (core : Nat) : exec (.shadowExchangeDone core) s = match (unshadowed s core).head? with
    | none => .next s
    | some n => .next { s with fr := { s.fr with saved := s.fr.saved.map (exchanged core n.block.launch) } } := by
  rw [exec_shadowExchangeDone, execShadowExchangeDone] <;> rfl

theorem frozenContextKill_eq {s : State} {d : Nat} {l : Launch} (hl : SMap.find? s.fr.launches d = some l) : exec (.frozenContextKill d) s =
    .next (if l.frozen then (s.setLaunch d { l with failed := true }).killLaunch d none else s) := by
  rw [exec_frozenContextKill, execFrozenContextKill, hl, State.modLaunch, hl]

/-- Settles O46: each rung by its equation above. -/
theorem preemptionClimbsItsRungs : Obligations.PreemptionClimbsItsRungs := by
  unfold Obligations.PreemptionClimbsItsRungs
  intro s tenant part
  refine ⟨fun hnone => preemptRequest_eq.trans (if_neg (by rw [hnone]; exact Bool.false_ne_true)), fun hsome => preemptRequest_eq.trans (if_pos hsome),
    fun p hp => ⟨preemptWithdraw_eq hp, fun hrung hdue => (graceTimerExpiry_eq hp).trans (if_neg ?_), fun hno => (graceTimerExpiry_eq hp).trans (if_pos hno),
      fun hrung hdue => (killTimerExpiry_eq hp).trans (if_neg ?_), fun hno => (killTimerExpiry_eq hp).trans (if_pos hno)⟩,
    exec_tenantResume s tenant part,
    fun core slot => ⟨fun bk hbk => ⟨fun hdue => (drainTimerExpiry_eq hbk).trans (if_neg (Nat.not_lt.mpr hdue)), fun hearly => (drainTimerExpiry_eq hbk).trans (if_pos hearly)⟩,
      fun bk hbk => ⟨blockStopComplete_unsettled hbk, fun h h4 => (blockStopComplete_settled hbk h).trans (congrArg Host.Outcome.next (if_pos h4)),
        fun h h5 => (blockStopComplete_settled hbk h).trans (congrArg Host.Outcome.next ((if_neg (by omega)).trans (if_pos h5))),
        fun h h3 => (blockStopComplete_settled hbk h).trans (congrArg Host.Outcome.next ((if_neg (by omega)).trans (if_neg (by omega))))⟩⟩,
    fun core => ⟨fun hnew => ?_, fun hnone => ?_⟩,
    fun d l hl => ⟨fun hf => (frozenContextKill_eq hl).trans (congrArg Host.Outcome.next (if_pos hf)),
      fun hf => (frozenContextKill_eq hl).trans (congrArg Host.Outcome.next (if_neg (by rw [hf]; exact Bool.false_ne_true)))⟩⟩
  · exact not_or.mpr ⟨Classical.not_not.mpr hrung, Nat.not_lt.mpr hdue⟩
  · exact not_or.mpr ⟨Nat.not_le.mpr hrung, Nat.not_lt.mpr hdue⟩
  · have e := shadowExchangeDone_eq s core
    rw [List.head?_eq_some_head (show unshadowed s core ≠ [] from hnew)] at e
    refine ⟨_, e, rfl, fun b hb hcore => ?_⟩
    obtain ⟨b', -, rfl⟩ := List.mem_map.mp hb
    exact exchanged_placed core _ b' hcore
  · have e := shadowExchangeDone_eq s core
    rw [show unshadowed s core = [] from hnone] at e
    exact e

end Sys2Proof.Proofs.Preemption
end

section
/-! PROOF. Management writes, host-port training and attestation (R149, R150, R387, R392, R413, R424): O47. -/

namespace Sys2Proof.Proofs.Management

open Sys2Proof.Machine Sys2Proof.Safety

section

variable {s : State}

/-! ## DCBs, owner bytes, registers, host ports -/

theorem dcbWrite_eq (idx : Nat) (value : BitVec 128) : exec (.dcbWrite idx value) s =
    (let v := State.dcbCopy value.toNat (s.dcb (bits value.toNat 127 116))
     let u := (s.setDcb idx (State.dcbAfter (s.dcb idx) v)).copyDown
     if s.dcbRefused idx v then .next s
     else if bits v 115 113 ≠ 1 then .next u
     else if u.runningPres (bits v 97 93) ≤ bits v 88 76 then .next u
     else .next ((List.filter (fun l : Nat × Launch => decide (l.2.phase = 1) && bitOf l.2.q.parts.toNat (bits v 97 93)) u.fr.launches).foldl
       (fun (s : State) l => s.breach l.1 0x42 0 255) u)) := by
  rw [exec_dcbWrite, execDcbWrite]

theorem ownerByteWrite_quad {core idx : Nat} (hcore : core < 160) (hidx : idx < 4) (value : BitVec 8) : exec (.ownerByteWrite 0 core idx value) s =
    (let q := core * 4 + idx
     let v := value &&& 0x9F#8
     .next (if (s.unit 0 q).retired ∨ !(decide ((s.quad q).owner ≠ v) && !s.ownerBusy (s.quad q).owner v fun c => decide (c = core)) then s
       else s.setQuad q { s.quad q with owner := v })) := by
  rw [exec_ownerByteWrite, execOwnerByteWrite, State.writeOwner]
  simp only [Nat.not_le.mpr hcore, Nat.not_le.mpr hidx, false_or]
  rfl

theorem managementWrite_root {a : Nat} (ha : a < 4096) (value : BitVec 64) : exec (.managementWrite 0 a 0 value) s =
    .next { s with tr := { s.tr with roots := SMap.set 0 s.tr.roots a value } } := by
  rw [exec_managementWrite, execManagementWrite, State.manage]
  exact congrArg Host.Outcome.next (if_neg (Nat.not_le.mpr ha))

theorem managementWrite_grant {part i : Nat} {value : BitVec 64} (hpart : part < 32) (hi : i < 16)
    (hin : inHbmRange (value.toNat % 2 ^ 32 * 2097152) (value.toNat / 2 ^ 32 * 2097152) = true) : exec (.managementWrite 1 part i value) s =
      .next { s with pl := { s.pl with grants := SMap.set (0, 0) s.pl.grants (part * 16 + i) (value.toNat % 2 ^ 32, value.toNat / 2 ^ 32) } } := by
  rw [exec_managementWrite, execManagementWrite, State.manage]
  refine congrArg Host.Outcome.next (if_neg ?_)
  rw [hin]
  exact not_or.mpr ⟨Nat.not_le.mpr hpart, not_or.mpr ⟨Nat.not_le.mpr hi, Bool.false_ne_true⟩⟩

theorem hostPortTraining_eq {port lanes : Nat} (hport : port < 2) (hlanes : lanes = 16 ∨ lanes = 8 ∨ lanes = 4) (cxl : Bool) :
    exec (.hostPortTraining port cxl lanes) s = .next (s.setHostPort port { mode := if cxl = true ∧ lanes ≠ 4 then 2 else 1, lanes := lanes }) := by
  rw [exec_hostPortTraining, execHostPortTraining]
  refine if_neg ?_
  rw [decide_eq_true hlanes]
  exact not_or.mpr ⟨Nat.not_le.mpr hport, Bool.false_ne_true⟩

/-! ## Attestation -/

/-- An attestation command that asks for a state of the connection answers, or answers ERROR before. -/
theorem answers_early {port need next : Nat} {nums : List Nat} {i : Instr} (hport : port < 2) (h : exec i s = .next (s.spdmAnswer port need next nums))
    (hneed : (s.hostPort port).spdm < need) : exec i s = .next (s.send 5 [port, 0x7F, 4]) := by
  rw [h, State.spdmAnswer]
  exact congrArg Host.Outcome.next ((if_neg (Nat.not_le.mpr hport)).trans (if_pos hneed))

theorem answers {port need next : Nat} {nums : List Nat} {i : Instr} (hport : port < 2) (h : exec i s = .next (s.spdmAnswer port need next nums))
    (hneed : need ≤ (s.hostPort port).spdm) : exec i s = .next ((s.setHostPort port { s.hostPort port with spdm := next }).send 5 (port :: nums)) := by
  rw [h, State.spdmAnswer]
  exact congrArg Host.Outcome.next ((if_neg (Nat.not_le.mpr hport)).trans (if_neg (Nat.not_lt.mpr hneed)))

theorem negotiateAlgorithms_agreed {port asym hash : Nat} (hasym : bitOf asym 8 = true) (hhash : bitOf hash 2 = true) :
    exec (.negotiateAlgorithms port asym hash) s = .next (s.spdmAnswer port 2 3 [0x63, 0x100, 0x4]) := by
  rw [exec_negotiateAlgorithms, execNegotiateAlgorithms]
  exact if_pos ⟨hasym, hhash⟩

theorem negotiateAlgorithms_refused {port asym hash : Nat} (h : bitOf asym 8 = false ∨ bitOf hash 2 = false) :
    exec (.negotiateAlgorithms port asym hash) s = .next (s.spdmAnswer port 2 2 [0x7F, 0x01]) := by
  rw [exec_negotiateAlgorithms, execNegotiateAlgorithms]
  refine if_neg ?_
  rintro ⟨hasym, hhash⟩
  exact h.elim (fun h => Bool.false_ne_true (h.symm.trans hasym)) fun h => Bool.false_ne_true (h.symm.trans hhash)

theorem negotiateAlgorithms_early {port : Nat} (hport : port < 2) (asym hash : Nat) (hneed : (s.hostPort port).spdm < 2) :
    exec (.negotiateAlgorithms port asym hash) s = .next (s.send 5 [port, 0x7F, 4]) := by
  by_cases h : bitOf asym 8 = true ∧ bitOf hash 2 = true
  · exact answers_early hport (negotiateAlgorithms_agreed h.1 h.2) hneed
  · refine answers_early hport (negotiateAlgorithms_refused ?_) hneed
    rw [Decidable.not_and_iff_or_not, Bool.not_eq_true, Bool.not_eq_true] at h
    exact h

theorem getMeasurements_block {port index : Nat} (h0 : 0 < index) (h5 : index ≤ 5) :
    exec (.getMeasurements port index) s = .next (s.spdmAnswer port 3 3 ([0x60, index, s.measurement index] ++ s.signature)) := by
  rw [exec_getMeasurements, execGetMeasurements]
  exact (if_neg (by omega)).trans ((if_neg (by omega)).trans (if_neg (by omega)))

theorem getMeasurements_early {port : Nat} (hport : port < 2) (index : Nat) (hneed : (s.hostPort port).spdm < 3) :
    exec (.getMeasurements port index) s = .next (s.send 5 [port, 0x7F, 4]) := by
  have e := exec_getMeasurements s port index
  unfold execGetMeasurements at e
  split at e
  · exact answers_early hport e hneed
  split at e
  · exact answers_early hport e hneed
  · split at e <;> exact answers_early hport e hneed

end

/-- Settles O47: writes by their equations above, attestation by `answers` and `answers_early`. -/
theorem managementWritesAndAttests : Obligations.ManagementWritesAndAttests := by
  unfold Obligations.ManagementWritesAndAttests
  intro s
  refine ⟨fun idx value => ⟨fun href => (dcbWrite_eq idx value).trans (if_pos href), fun href hfits => ?_, fun href hlvl hless => ?_⟩,
    fun core idx value hcore hidx => ⟨fun hret hne hbusy => ?_, fun hbusy => ?_⟩, fun a value ha => managementWrite_root ha value,
    fun part i value => managementWrite_grant, fun port cxl lanes hport hlanes => hostPortTraining_eq hport hlanes cxl, fun port hport => ?attest⟩
  case attest =>
    refine ⟨answers hport (exec_getVersion s port), answers hport (exec_getCapabilities s port), answers_early hport (exec_getCapabilities s port),
      fun asym hash => ⟨fun hasym hhash => answers hport (negotiateAlgorithms_agreed hasym hhash), fun h => answers hport (negotiateAlgorithms_refused h),
        negotiateAlgorithms_early hport asym hash⟩,
      answers hport (exec_getDigests s port), answers_early hport (exec_getDigests s port), answers hport (exec_getCertificate s port),
      answers_early hport (exec_getCertificate s port), fun nonce => ⟨answers hport (exec_challenge s port nonce), answers_early hport (exec_challenge s port nonce)⟩,
      answers hport (exec_getMeasurements s port 0), fun index h0 h5 => answers hport (getMeasurements_block h0 h5), answers hport (exec_getMeasurements s port 255),
      getMeasurements_early hport⟩
  · refine (dcbWrite_eq idx value).trans ((if_neg (by rw [href]; exact Bool.false_ne_true)).trans ?_)
    by_cases hlvl : bits (State.dcbCopy value.toNat (s.dcb (bits value.toNat 127 116))) 115 113 = 1
    · exact (if_neg (Classical.not_not.mpr hlvl)).trans (if_pos (hfits.resolve_left (Classical.not_not.mpr hlvl)))
    · exact if_pos hlvl
  · exact (dcbWrite_eq idx value).trans ((if_neg (by rw [href]; exact Bool.false_ne_true)).trans ((if_neg (Classical.not_not.mpr hlvl)).trans (if_neg (Nat.not_le.mpr hless))))
  · refine (ownerByteWrite_quad hcore hidx value).trans (congrArg Host.Outcome.next (if_neg ?_))
    rw [hret, hbusy, decide_eq_true hne]
    simp
  · refine (ownerByteWrite_quad hcore hidx value).trans (congrArg Host.Outcome.next (if_pos (Or.inr ?_)))
    rw [hbusy]
    simp

end Sys2Proof.Proofs.Management
end

section
/-! PROOF. Time inputs and resets (R5, R60, R423, R425): O48. -/

namespace Sys2Proof.Proofs.Resets

open Sys2Proof.Machine Sys2Proof.Safety

section

variable {s : State}

/-! ## Time inputs -/

section

variable {sec ns : Nat} (hns : ns < 1000000000) (hsec : sec < 2 ^ 48)
include hns hsec

theorem ptpTimeSync_eq {st : Nat} (hst : st < 3) : exec (.ptpTimeSync sec ns st) s = .next { s with pl := { s.pl with mgmt := if st = 0
    then { s.pl.mgmt with ptpSec := sec, ptpNs := ns, ptpAt := s.now, sync := 0, ptpErr := ((sec * 1000000000 + ns : Nat) : Int) - ((s.ptpNow : Nat) : Int) }
    else { s.pl.mgmt with sync := st } } } := by
  rw [exec_ptpTimeSync, execPtpTimeSync]
  exact if_neg (not_or.mpr ⟨Nat.not_le.mpr hst, not_or.mpr ⟨Nat.not_le.mpr hns, Nat.not_le.mpr hsec⟩⟩)

theorem ptpTimeSync_input : exec (.ptpTimeSync sec ns 0) s = .next { s with pl := { s.pl with mgmt :=
    { s.pl.mgmt with ptpSec := sec, ptpNs := ns, ptpAt := s.now, sync := 0, ptpErr := ((sec * 1000000000 + ns : Nat) : Int) - ((s.ptpNow : Nat) : Int) } } } :=
  ptpTimeSync_eq hns hsec (by decide)

theorem ptpTimeSync_lost {st : Nat} (hst : st = 1 ∨ st = 2) : exec (.ptpTimeSync sec ns st) s = .next { s with pl := { s.pl with mgmt := { s.pl.mgmt with sync := st } } } := by
  have h0 : st ≠ 0 := by omega
  refine (ptpTimeSync_eq hns hsec (by omega)).trans ?_
  rw [if_neg h0]

end

/-! ## Resets -/

theorem coldReset_stops {n : Nat} (hn : s.pl.mgmt.badImage = n) (hbad : n = 1 ∨ n = 2 ∨ n = 6) : exec .coldReset s =
    (let t := s.outside State.reset
     .next { t with now := s.now, pl := { t.pl with mgmt := { t.pl.mgmt with step := n, sramUp := decide (n = 6), logicUp := decide (n = 6) } } }) := by
  rw [exec_coldReset, execColdReset]
  dsimp only
  rw [hn]
  exact if_pos hbad

theorem coldReset_ends (h1 : s.pl.mgmt.badImage ≠ 1) (h2 : s.pl.mgmt.badImage ≠ 2) (h6 : s.pl.mgmt.badImage ≠ 6) :
    exec .coldReset s = .next ((s.outside State.reset).startTime s.ptpNow) := by
  rw [exec_coldReset, execColdReset]
  exact if_neg (not_or.mpr ⟨h1, not_or.mpr ⟨h2, h6⟩⟩)

/-- What a reset takes from the state after reset, and what it leaves of the state before. -/
theorem outside_spec (s t : State) : (s.outside t).ex = t.ex ∧ (s.outside t).tr = t.tr ∧ (s.outside t).coh = t.coh ∧ (s.outside t).fr = t.fr ∧
    (s.outside t).mem.pois = t.mem.pois ∧ (s.outside t).mem.fe = t.mem.fe ∧ (s.outside t).pl.out = s.pl.out := ⟨rfl, rfl, rfl, rfl, rfl, rfl, rfl⟩

theorem out_of_time (s : State) (n : Nat) (m : Mgmt) : ({ s with now := n, pl := { s.pl with mgmt := m } } : State).pl.out = s.pl.out := rfl

/-- The start of module time sets it and the counts from it alone. -/
theorem startTime_spec (s : State) (n : Nat) : (s.startTime n).now = maxTime n ∧ (s.startTime n).ex = s.ex ∧ (s.startTime n).tr = s.tr ∧ (s.startTime n).coh = s.coh ∧
    (s.startTime n).fr = s.fr ∧ (s.startTime n).mem = s.mem ∧ (s.startTime n).pl.out = s.pl.out :=
  ⟨rfl, rfl, rfl, rfl, rfl, rfl, out_of_time s _ _⟩

/-- Of the bytes inside and outside the module those of host and peer memory stand. -/
theorem find?_outside (key : Nat) : (s.outside State.reset).mem.bytes.find? (fun p => decide (p.1 = key)) =
    if 2 ≤ keyTag key ∧ keyTag key ≤ 5 then s.mem.bytes.find? (fun p => decide (p.1 = key)) else none := by
  show (List.filter (fun p : Host.Cell => decide (2 ≤ keyTag p.1) && decide (keyTag p.1 ≤ 5)) s.mem.bytes).find? _ = _
  rw [List.find?_filter]
  split
  · next hkey =>
    congr 1
    funext p
    by_cases hp : p.1 = key
    · simp [hp, hkey]
    · simp [hp]
  · next hkey =>
    refine List.find?_eq_none.mpr fun p _ h => ?_
    simp only [Bool.decide_and, Bool.and_eq_true, decide_eq_true_eq] at h
    obtain ⟨hin, hp⟩ := h
    rw [hp] at hin
    exact hkey hin

theorem warmReset_stops (h : s.pl.mgmt.badImage = 6) : exec .warmReset s = .next { s with pl := { s.pl with hosts := [], mgmt := { s.pl.mgmt with step := 6 } } } := by
  rw [exec_warmReset, execWarmReset]
  exact if_pos h

theorem warmReset_ends (h : s.pl.mgmt.badImage ≠ 6) :
    exec .warmReset s = .next { s.startTime (max s.now s.ptpNow) with pl := { (s.startTime (max s.now s.ptpNow)).pl with hosts := [] } } := by
  rw [exec_warmReset, execWarmReset]
  exact if_neg h

end

/-- Settles O48: time inputs and resets by their equations above, memory by `find?_outside`. -/
theorem resetsLeaveWhatTheySay : Obligations.ResetsLeaveWhatTheySay := by
  unfold Obligations.ResetsLeaveWhatTheySay
  intro s
  obtain ⟨hex, htr, hcoh, hfr, hpois, hfe, hout⟩ := outside_spec s State.reset
  refine ⟨fun sec ns hns hsec => ⟨_, ptpTimeSync_input hns hsec, rfl, rfl, rfl, rfl, rfl, rfl⟩,
    fun sec ns st hns hsec hst => ⟨_, ptpTimeSync_lost hns hsec hst, rfl, rfl, rfl, rfl⟩,
    fun n hn hbad => ⟨_, coldReset_stops hn hbad, hex, hfr, rfl, rfl⟩, fun h1 h2 h6 => ⟨_, coldReset_ends h1 h2 h6, ?_⟩,
    fun h => ⟨_, warmReset_stops h, rfl, rfl, rfl, rfl, rfl⟩, fun h => ⟨_, warmReset_ends h, ?_⟩, ⟨_, exec_powerDown s, hex, hfr, rfl, rfl, rfl⟩⟩
  · obtain ⟨now', ex', tr', coh', fr', mem', out'⟩ := startTime_spec (s.outside State.reset) s.ptpNow
    rw [ex', tr', coh', fr', mem', out']
    exact ⟨hex, htr, hcoh, hfr, hpois, hfe, now', hout, find?_outside⟩
  · obtain ⟨now', ex', -, -, fr', mem', -⟩ := startTime_spec s (max s.now s.ptpNow)
    exact ⟨mem', ex', fr', now', rfl⟩

end Sys2Proof.Proofs.Resets
end

section
/-! PROOF. A step runs what decoding gives at the PC (R142, R205, R236, R330): O56. -/

namespace Sys2Proof.Proofs.Steps

open Sys2Proof.Machine Sys2Proof.Safety

/-! ## One group -/

section

variable {s : State} {k : Nat} {code : List Word} {gs : List Group} {b : Bool} {g : Group}

theorem takeWaiting_none (h : s.waitingTraps k g.lanes = []) : s.takeWaiting k g = none := by
  unfold State.takeWaiting
  rw [h]
  exact ite_self _

/-- The state in which a group fetches: its waits are released and its stores' skids counted. -/
def fetching (s : State) (k : Nat) (g : Group) : State := (s.fetched k g.pc).modCrew k fun c => countSkid (c.release g) g.lanes

section

variable (htraps : s.waitingTraps k g.lanes = []) (hwait : (s.crew k).mustWait code gs g = false) (hyield : b = true ∨ yieldOf (s.crew k) g = 0)
  (hskid : skidHolds (s.crew k) g.lanes = false)
include htraps hwait hyield hskid

/-- A group that nothing holds back gives what it runs. -/
theorem tryGroup_runs {t : State} (hrun : runGroup s k code g = .next t) (hheld : t.held = false) : tryGroup s k code gs b g = some (.next t) := by
  unfold tryGroup
  dsimp only
  rw [takeWaiting_none htraps, htraps, hwait, hskid]
  refine (if_neg ?_).trans ?_
  · rcases hyield with h | h <;> simp [h]
  · rw [hrun]
    exact if_neg (by rw [hheld]; exact Bool.false_ne_true)

end

/-! What a group runs, by what stands at its PC. -/

section

variable {i : Instr} {n : Nat} (hfetch : fetch code g.pc = .ok i n)
include hfetch

theorem runGroup_issues (hin : outOfProfile (fetching s k g) k i = false) : runGroup s k code g =
    match exec i { fetching s k g with cur := some (groupCtx (fetching s k g) k g n), held := false, rep := none } with
    | .next t => (match t.rep with
      | none => .next t
      | some p => runRep t (groupCtx (fetching s k g) k g n) code p)
    | o => o := by
  unfold runGroup
  rw [hfetch]
  refine (if_neg (by rw [show (s.fetched k g.pc).modCrew k (fun c => countSkid (c.release g) g.lanes) = fetching s k g from rfl, hin]; exact Bool.false_ne_true)).trans ?_
  rfl

theorem runGroup_once (hin : outOfProfile (fetching s k g) k i = false) {t : State}
    (hexec : exec i { fetching s k g with cur := some (groupCtx (fetching s k g) k g n), held := false, rep := none } = .next t) (hrep : t.rep = none) :
    runGroup s k code g = .next t := by
  rw [runGroup_issues hfetch hin, hexec]
  dsimp only
  rw [hrep]

theorem runGroup_repeats (hin : outOfProfile (fetching s k g) k i = false) {t : State}
    (hexec : exec i { fetching s k g with cur := some (groupCtx (fetching s k g) k g n), held := false, rep := none } = .next t) {p : RepPlan} (hrep : t.rep = some p) :
    runGroup s k code g = runRep t (groupCtx (fetching s k g) k g n) code p := by
  rw [runGroup_issues hfetch hin, hexec]
  dsimp only
  rw [hrep]

theorem runGroup_outside (hout : outOfProfile (fetching s k g) k i = true) : runGroup s k code g =
    .next (({ fetching s k g with cur := some (groupCtx (fetching s k g) k g n), held := false } : State).raise (groupCtx (fetching s k g) k g n) g.lanes ⟨4, 0x10, g.lanes, 0⟩) := by
  unfold runGroup
  rw [hfetch]
  exact if_pos hout

end

theorem runGroup_bad {d : Nat} (hfetch : fetch code g.pc = .bad d) : runGroup s k code g =
    .next (({ fetching s k g with cur := some (groupCtx (fetching s k g) k g 0), held := false } : State).raise (groupCtx (fetching s k g) k g 0) g.lanes ⟨4, d, g.lanes, 0⟩) := by
  unfold runGroup
  rw [hfetch]
  rfl

/-- The target of a REP runs under the REP's context (R236). -/
theorem runRep_target {t : State} {x : Ctx} {p : RepPlan} {j : Instr} {m : Nat} (hfetch : fetch code x.next = .ok j m) (hin : outOfProfile t x.crew j = false) :
    runRep t x code p = exec (repTarget j p)
      { t with cur := some { x with next := x.next + 4 * m, rep := some (p.i, p.count), fmode := repFmode (t.crew x.crew) x.lanes } } := by
  unfold runRep
  rw [hfetch]
  exact if_neg (by rw [hin]; exact Bool.false_ne_true)

end

/-! ## A module with one crew of one group -/

section

variable {s : State} {k : Nat} {c : Crew} {g : Group} {t : State} (hcrews : s.ex.crews = [(k, c)])
include hcrews

theorem crew_of_only : s.crew k = c := by
  rw [State.crew, hcrews]
  exact if_pos rfl

theorem residents_of_only : s.residents (quadOf k) = [(k, c)] := by
  rw [State.residents, hcrews]
  exact List.filter_cons_of_pos (decide_eq_true rfl)

theorem quadOrder_of_only : quadOrder s = [quadOf k] := by
  rw [quadOrder, hcrews]
  rcases Nat.lt_or_ge (quadOf k) s.rr with h | h
  · simp [h, List.eraseDups_cons, Nat.not_le.mpr h]
  · simp [h, List.eraseDups_cons, Nat.not_lt.mpr h]

section

variable (hmay : mayIssue s c = true) (hgroups : c.groups (s.codeOf k) = [g]) (htry : tryGroup s k (s.codeOf k) [g] false g = some (.next t))
include hmay hgroups htry

theorem readyGroups_of_only : readyGroups s k false = [(g, .next t)] := by
  unfold readyGroups
  dsimp only
  rw [crew_of_only hcrews, hmay, hgroups]
  refine (if_neg Bool.false_ne_true).trans ?_
  rw [show sortBy (groupBefore c) [g] = [g] from rfl, List.filterMap_cons, htry]
  rfl

/-- What the issue of the only group leaves. -/
def onlyIssue (s : State) (k : Nat) (g : Group) (t : State) : State :=
  { (noteIssue t k g [g] (s.takeWaiting k g).isSome).modQuad (quadOf k) fun q => { q with last := slotOf k } with rr := quadOf k + 1 }

theorem issueQuad_of_only (hqueue : c.queue = none) (hheld : t.held = false) : issueQuad s (quadOf k) false = some (.next (onlyIssue s k g t)) := by
  unfold issueQuad
  dsimp only
  rw [residents_of_only hcrews, List.map_singleton, List.map_singleton, readyGroups_of_only hcrews hmay hgroups htry]
  have hready : List.filter (fun p : Nat × List (Group × Out) => !p.2.isEmpty) [(k, [(g, .next t)])] = [(k, [(g, .next t)])] := rfl
  rw [hready, show (sortBy (crewBefore s (quadOf k)) (List.map (fun p : Nat × List (Group × Out) => p.1) [(k, [(g, .next t)])])).head? = some k from rfl]
  dsimp only
  have hfind : List.find? (fun p : Nat × List (Group × Out) => decide (p.1 = k)) [(k, [(g, .next t)])] = some (k, [(g, .next t)]) :=
    List.find?_cons_of_pos (decide_eq_true rfl)
  have hothers : List.filter (fun p : Nat × List (Group × Out) => decide (p.1 ≠ k)) [(k, [(g, .next t)])] = [] :=
    List.filter_cons_of_neg (by simp)
  rw [hfind, hothers, crew_of_only hcrews, hqueue]
  exact (if_neg Bool.false_ne_true).trans (if_neg (by rw [hheld]; exact Bool.false_ne_true))

theorem step_of_only (hevents : s.events = []) (hturn : s.turn = false) (hqueue : c.queue = none) (hheld : t.held = false) :
    step s = .next (tick (onlyIssue s k g t)) := by
  have hissue : issueModule s = some (.next (onlyIssue s k g t)) := by
    rw [issueModule, quadOrder_of_only hcrews, firstOf, issueQuad_of_only hcrews hmay hgroups htry hqueue hheld]
    rfl
  unfold step stepModule
  rw [hevents, hturn, hissue]
  rfl

end

end

/-- Settles O56: a group's issue by `tryGroup_runs`, a step by `step_of_only`. -/
theorem aStepRunsTheDecodedInstruction : Obligations.AStepRunsTheDecodedInstruction := by
  unfold Obligations.AStepRunsTheDecodedInstruction
  refine ⟨?group, fun s k c g t hevents hturn hcrews hmay hqueue hgroups htry hheld => step_of_only hcrews hmay hgroups htry hevents hturn hqueue hheld⟩
  intro s k code gs b g i n c w x u htraps hwait hyield hskid
  refine ⟨fun hfetch hin => ⟨fun t hexec hrep hheld => ?_, fun t p j m hexec hrep hfetch' hin' r hexec' hheld => ?_⟩, fun hfetch hout hheld => ?_, fun d hfetch hheld => ?_⟩
  · exact tryGroup_runs htraps hwait hyield hskid (runGroup_once hfetch hin hexec hrep) hheld
  · exact tryGroup_runs htraps hwait hyield hskid ((runGroup_repeats hfetch hin hexec hrep).trans ((runRep_target hfetch' hin').trans hexec')) hheld
  · exact tryGroup_runs htraps hwait hyield hskid (runGroup_outside hfetch hout) hheld
  · exact tryGroup_runs htraps hwait hyield hskid (runGroup_bad hfetch) hheld

end Sys2Proof.Proofs.Steps
end
